-- ==== Sys2Proof/Word.lean ====
section
/-!
DEFINITION. The word types of the Drador 9400 and their plainest arithmetic (R6 of spec/00_scope.md).
-/

namespace Sys2Proof

/-- One byte. -/
abbrev Byte := BitVec 8

/-- A general register, a virtual address, a count of cycles: 64 bits (R191). -/
abbrev Word := BitVec 64

/-- One 64-byte block of memory, or the data of a vector register (R10, R191); byte k is bits 8k+7..8k. -/
abbrev Block := BitVec 512

/-- The 32-bit tag of a block or of a vector register (R240). -/
abbrev Tag := BitVec 32

/-- A 6-bit field that names a general register (R262). -/
abbrev GReg := BitVec 6

/-- A 5-bit field that names a vector register (R262). -/
abbrev VReg := BitVec 5

/-- Sparse data by key: a list of key and value pairs, keys strictly rising. -/
abbrev Tbl (α : Type) := List (Nat × α)

end Sys2Proof
end

