-- ==== Sys2Proof/Config.lean ====
section
/-!
DEFINITION. What an implementation fixes, the free values, and the enumerations and message types that the
instructions and the state share.
-/

namespace Sys2Proof

/-- The privilege levels (R12). -/
inductive Level where
  | u | s | f
  deriving DecidableEq, Repr

/-- A source field that names a general register, with its mode bit (R192, R263). -/
structure Src where
  reg : GReg
  mode : Bool
  deriving DecidableEq, Repr

/-- A source field that names a vector register, with its mode bit (R192, R262). -/
structure VSrc where
  reg : VReg
  mode : Bool
  deriving DecidableEq, Repr

/-- The causes of a trap (R219). -/
inductive Cause where
  | undef | priv | empty | align | access | typefault | wonce | waitlim | rangelock | promise | lsrefused
  | badfmt | remote | memerr | sliceend | brokenbar | svc | brk | engine | queue | combinator | gang | wswrite
  deriving DecidableEq, Repr

/-- The code of each cause (R219). -/
def Cause.code : Cause → BitVec 8
  | .undef => 0x01 | .priv => 0x02 | .empty => 0x03 | .align => 0x04 | .access => 0x05 | .typefault => 0x06
  | .wonce => 0x07 | .waitlim => 0x08 | .rangelock => 0x09 | .promise => 0x0A | .lsrefused => 0x0B
  | .badfmt => 0x0C | .remote => 0x0D | .memerr => 0x0E | .sliceend => 0x0F | .brokenbar => 0x10
  | .svc => 0x11 | .brk => 0x12 | .engine => 0x14 | .queue => 0x15 | .combinator => 0x16 | .gang => 0x17
  | .wswrite => 0x18

/-- The consistency types of a page (R10). -/
inductive PageType where
  | pv | rc | sc | ws
  deriving DecidableEq, Repr

/-- The CT code of a page type (R10). -/
def PageType.ct : PageType → BitVec 2
  | .pv => 0 | .rc => 1 | .sc => 2 | .ws => 3

/-- The page type that a CT code names (R10). -/
def PageType.ofCt (c : BitVec 2) : PageType :=
  if c = 0 then .pv else if c = 1 then .rc else if c = 2 then .sc else .ws

/-- What a request asks of the home of its block (R149, R166, R170 to R174, R184, R306). ifetch is the fill of an instruction cache line (R131),
walk a read of a page table walker (R139), read and write the accesses of a peer (R27), and touch an access whose data an engine, the Porter or
the host port has moved already (log 2). -/
inductive HomeOp where
  | rds | rdx | upg | wb | merge | amo | red | take | trytake | waitw | put | putx | jcinit | jcdec | jcwait
  | barinit | bararr | barwait | wsWrite | wsLoad | tagWrite | winFill | ifetch | walk | read | write | touch
  deriving DecidableEq, Repr

/-- A request to the home of a block, with all that the home needs to serve it. Fields an operation does not use are
zero. pid names the producer that receives the result (0 for none); ctx is the issuing context of R384; va is the
address that a failure reports. yf tells that its packet travels Y-first (R117), inp is the input link on which it reaches the port, by its place in
the list of R384, seq is the number it left its core with (the model's own, log 2), and tries counts the Bench refusals of a
peer's request (R119). -/
structure Req where
  op : HomeOp
  ctx : Nat
  core : Nat
  owner : Nat
  pa : Nat
  va : Word
  ct : PageType
  size : Nat := 8
  pid : Nat := 0
  fn : BitVec 4 := 0
  c : Word := 0
  x : Word := 0
  mask : BitVec 64 := 0
  data : Block := 0
  tag : Tag := 0
  typed : Bool := false
  keep : Bool := false
  yf : Bool := false
  inp : Nat := 0
  seq : Nat := 0
  tries : Nat := 0
  deriving DecidableEq, Repr

/-- What the home grants with data (R184). -/
inductive Grant where
  | s | e | m | pv
  deriving DecidableEq, Repr

/-- The value that a producer's result carries, or the failure that takes its place (R269, R298). -/
inductive Arrival where
  | word (w : Word)
  | pair (w1 w2 : Word)
  | vec (data : Block) (tag : Tag)
  | failed (cause : Cause) (val : Word) (info : Word)
  deriving DecidableEq, Repr

/-- What a read of a storage array reports (R25, R157): read well, corrected, or not correctable. -/
inductive ReadError where
  | good | corrected | failed
  deriving DecidableEq, Repr

/-- The kinds of on-chip storage (R157). -/
inductive Storage where
  | l1 (core block : Nat)
  | icache (core line : Nat)
  | sliceLine (slice set way : Nat)
  | tlb (core : Nat)
  | tlb2 (cluster : Nat)
  | engineBuffer (cluster engine : Nat)
  | localStore (core block : Nat)
  | windowBits (core w k : Nat)
  deriving DecidableEq, Repr

/-- An access to a channel, as it waits for a service slot (R22, R25): of a data block or its tag block, a read or a write. fill tells that operations at the
slice wait for what it reads (R110), and sweep that it is the write-back of a relocation sweep (R374). -/
structure ChanReq where
  owner : Nat
  pa : Nat
  tagBlock : Bool
  write : Bool
  fill : Bool
  sweep : Bool
  deriving DecidableEq, Repr

/-- What a host access carries (R36 to R38): the function or logical device, and the region. bar is 0, 2 or 4; in MLD mode 2 is the logical device's
CXL.mem range and 4 the management mailbox, and function 16 is the fabric manager (log 43). -/
structure HostAccess where
  owner : Nat
  bar : Nat
  offset : Nat
  size : Nat
  write : Bool
  data : Word
  deriving DecidableEq, Repr

/-- A command record in execution: the function and number of its VCP, the owner that the VCP's shadow entry names (R45), its record number, its 64 bytes, and
whether it stands in the ring (R48, R57). -/
structure Cmd where
  fn : Nat
  owner : Nat
  vcp : Nat
  iseq : Nat
  ring : Bool
  body : Block
  deriving DecidableEq, Repr

/-- A peer request or response as the port carries it (R27): the device at the other end, the port used and the address
space of the job; req.pa is the peer virtual address. landed tells that a response has crossed its port in a slot (R29). -/
structure PeerMsg where
  dev : Nat
  port : Nat
  space : BitVec 16
  req : Req
  withTag : Bool
  landed : Bool := false
  deriving DecidableEq, Repr

/-- A task record: what the Porter or the continuation queue hands to a control context (R84, R355). -/
structure TaskRec where
  node : Option Nat
  launch : Option Nat
  owner : Nat
  space : BitVec 16
  level : Level
  helper : Option Nat
  pc : BitVec 55
  co : Bool
  cidx : Nat
  scope : BitVec 3
  bound : BitVec 3
  g3 : Word
  g4 : Word
  g5 : Word
  g6 : Word
  prio : Nat
  jc : Word
  ls : Nat
  vec : Bool
  acc : List Nat
  gang : List Nat
  qin : Option Nat
  qout : Option Nat
  deriving DecidableEq, Repr

/-- A posted TLB invalidation (R140, R365). -/
structure Inval where
  stage2 : Bool
  owner : Nat
  space : BitVec 16
  page : Nat
  all : Bool
  allSpace : Bool
  deriving DecidableEq, Repr

/-- The page a migration or its hold names (R156). -/
structure PageKey where
  owner : Nat
  space : BitVec 16
  page : Nat
  deriving DecidableEq, Repr

/-- One die's part of an owner record (R59). -/
structure Machine.DieRec where
  setbase : BitVec 11
  pw : BitVec 4
  waymask : BitVec 16
  tagq : BitVec 7
  chctx : BitVec 4
  copyq : BitVec 13
  dieq : BitVec 56
  deriving DecidableEq, Repr

/-- An owner record (R59). -/
structure Machine.OwnerRec where
  en : Bool
  pooled : Bool
  pool : BitVec 2
  preempt : Bool
  nvcp : BitVec 8
  lpframes : BitVec 24
  wsframes : BitVec 16
  seed : Word
  s2base : Nat
  dies : Vector Machine.DieRec 4
  lssave : Nat
  cores : BitVec 1024
  deriving DecidableEq, Repr

/-- A signed item (R34): the SHA-512 digests of the two public keys that it names, whether the Ed25519 and the ML-DSA-65 signature over its bytes verify
against them, its security version (R35), and the SHA-512 digest of its bytes. -/
structure Signed where
  edKey : BitVec 512
  mlKey : BitVec 512
  edOk : Bool
  mlOk : Bool
  version : Nat
  digest : BitVec 512
  deriving DecidableEq, Repr

/-- What the boot process finds (R30, R34, R35, R383): the two firmware images and the device identity, which links and ports fail to train (by the
model's link numbers) and which channels, the destinations that each peer port reaches, the device time loaded, the features offered, and what the signed
device configuration holds: the layout, the pools' slices, and the host port's mode. -/
structure BootOutcome where
  primary : Signed
  secondary : Signed
  identity : Signed
  failedLinks : List Nat
  absentChannels : List Nat
  topology : List (Nat × Nat)
  dtc : Word
  offer : BitVec 128
  layout : List (Nat × Machine.OwnerRec)
  pslices : List (BitVec 32)
  tvecF : BitVec 55
  fotBase : Nat
  mld : Bool
  deriving DecidableEq, Repr

/-- The free values: each stands where the spec leaves a value open, and nothing in the model says what it is. -/
opaque Config.victim : Nat → Nat
/-- The entropy that a RESEED with g0 takes (R124). -/
opaque Config.entropy : Nat → BitVec 64

/-- The two words that the device fills in a task record with SPACE, level and owner, in a form that the spec does not give (R355, log 74). -/
opaque Config.recordTail (space : BitVec 16) (level owner : Nat) : BitVec 128

/-- A result, or a field of one, to which the spec gives no value. -/
opaque Config.unstated : Nat → BitVec 64

end Sys2Proof
end

