-- ==== Sys2Proof/Syntax.lean ====
section
/-!
DEFINITION. The instructions of Ziesque and the steps of the hardware: one constructor for each row of
spec/opcode_table.json. The first part is the 131 steps of the hardware, each with its message or the unit it happens at as arguments;
the second part is the 233 instructions (R265), each with the fields its encoding gives it.
The steps come first because the code generator builds no constructor with a number above 244; decoding, which builds the
instructions, is noncomputable for that reason alone, and the kernel evaluates it.
-/

namespace Sys2Proof

/-- One step of the machine: an instruction of Ziesque, or a step of its hardware. -/
inductive Instr where
  -- The package, its links and its channels (spec/01).
  | dtcTick
  | deviceReset (b : BootOutcome)
  | linkCrcReplay (l : Nat)
  | linkRetrain (l : Nat)
  | linkRetrainEnd (l : Nat) (ok : Bool)
  | powerCapHold (on : Bool)
  | thermalEvent
  | thermalStop
  | channelSlot (j : Nat) (slot : Nat) (err : ReadError)
  | channelRefreshSlot (j : Nat)
  | lp6ReadRepeat (j : Nat) (r : ChanReq) (err : ReadError)
  | wstoreRefresh (die bank : Nat)
  -- The host interface (spec/02).
  | notify (o v : Nat)
  | vcpTakeRecord (o v : Nat)
  | launch (c : Cmd)
  | cmdCopy (c : Cmd)
  | wait (c : Cmd)
  | waitMet (c : Cmd)
  | waitTimeout (c : Cmd)
  | signal (c : Cmd)
  | wsopen (c : Cmd)
  | wsopenComplete (c : Cmd)
  | wsclose (c : Cmd)
  | indirect (c : Cmd)
  | recordComplete (id : Nat)
  | shadowQcbWrite (o v word : Nat) (val : Word)
  | featCommit (o : Nat) (val : Word)
  | functionLevelReset (o : Nat)
  | hostBar2Access (a : HostAccess)
  | registerWrite (fn bar off : Nat) (val : Word)
  -- Partitions and the layout commit (spec/03).
  | layoutCommit
  | layoutDiscard
  | layoutQuiesceDone
  | layoutSweepDone
  | layoutSwap
  | poolSliceEnd (p : Nat)
  | sliceendForceSave (ctx : Nat)
  | poolSwitchDone (p : Nat)
  -- From launch to issue slot (spec/04).
  | launchAge (id : Nat)
  | launchDeadlineExpire (id : Nat)
  | porterSelect (die : Nat)
  | reserveComplete (die : Nat)
  | reserveRollback (die : Nat)
  | launchRetry (die o : Nat)
  | foreignReserveRequest (die coordinator : Nat)
  | commitDone (die : Nat)
  | preemptSavesDone (id : Nat)
  | inboxRecordArrive (core : Nat) (r : TaskRec)
  | compositeInstantiate (node child : Nat)
  | peerLaunch (die : Nat) (owner : Nat) (space : BitVec 16) (level : Level) (cidx : Nat) (g3 g4 g5 g6 : Word)
  | gtqSegmentTake (core o : Nat)
  | diffusionTick
  | diffusionRecordArrive (core : Nat) (r : TaskRec)
  | tileJcNotify (cl : Nat) (pa : Nat)
  | tileSlot (cl : Nat) (o : Nat)
  | tileKStep (cl e : Nat)
  | tileOverrun (cl e : Nat)
  | tileTaskComplete (cl e : Nat)
  | accSlotSave (cl slot : Nat)
  -- Shared structures (spec/05).
  | frameStart (k j : Nat)
  | slotServe (k j slot : Nat)
  | sliceRequestArrive (c owner : Nat) (rs : List Req)
  | sweepStep (c o : Nat)
  | benchBackoffRetry (r : Req)
  -- Peers (spec/01, spec/09, spec/18).
  | peerReadRequest (m : PeerMsg)
  | peerWriteRequest (m : PeerMsg)
  | peerAtomicRequest (m : PeerMsg)
  | peerTagMessage (m : PeerMsg)
  | peerFenceMarker (dev port : Nat)
  | peerMarkerAck (ctx port : Nat)
  | peerResponse (m : PeerMsg) (v : Arrival)
  | remoteFaultReport (ctx : Nat) (dev : Nat) (cause : BitVec 8) (op : BitVec 3) (pva : BitVec 47)
  -- Translation and faults (spec/06).
  | pageWalkRead (cl wid : Nat)
  | faultReply (o k : Nat)
  | invalidationArrive (core : Nat) (inv : Inval)
  | pageMigrationDone (key : PageKey)
  | hostPageRequest (key : PageKey)
  | migrationHoldExpire (key : PageKey)
  -- Coherence, windows and home operations (spec/05 to spec/07, spec/13).
  | homeRds (r : Req)
  | homeRdx (r : Req)
  | homeUpg (r : Req)
  | homeWb (r : Req)
  | homeInvAck (block core : Nat)
  | homeFwdDone (block core : Nat) (clean : Bool)
  | homeAckMiss (block core : Nat)
  | homeAckStale (block core : Nat)
  | l1Data (core block : Nat) (grant : Grant) (data : Block) (tag : Tag)
  | l1Grant (core block : Nat)
  | l1Inv (core block : Nat)
  | l1FwdS (core block req : Nat)
  | l1FwdX (core block req : Nat)
  | l1WbAck (core block : Nat)
  | homeMerge (r : Req)
  | mergeAck (ctx core block : Nat) (wonce : Bool) (va : Word)
  | windowFill (core : Nat) (w b : Nat) (data : Block) (tag : Tag)
  | homeAmo (r : Req)
  | homeRed (r : Req)
  | homeTake (r : Req)
  | homeTrytake (r : Req)
  | homeWaitw (r : Req)
  | homePut (r : Req)
  | homePutx (r : Req)
  | homeJcdec (r : Req)
  | homeJcwait (r : Req)
  | homeBararr (r : Req)
  | homeBarwait (r : Req)
  | homeWsWrite (r : Req)
  | homeWsLoad (r : Req)
  | homeWithdraw (ctx pid : Nat)
  | fenceMarker (ctx rel path : Nat)
  | markerAck (ctx rel : Nat)
  | storageError (e : Storage) (err : ReadError)
  -- Contexts, traps and engines (spec/08, spec/09, spec/11, spec/15).
  | producerArrive (ctx pid : Nat) (v : Arrival)
  | waitlimExpire (ctx : Nat)
  | streamHeadFlit (ctx : Nat) (q : BitVec 3)
  | streamWordArrive (id : Nat) (marker : Bool) (w : Word)
  | gangForward (follower : Nat) (pc npc : Word) (head : BitVec 16) (tail : BitVec 96)
  | preemptRequest (ctx : Nat)
  | forcedSave (ctx : Nat)
  | saveDone (ctx : Nat)
  | saveWriteFault (ctx : Nat)
  | cupboardRetry (core : Nat)
  | contextRestore (rec ctx : Nat)
  | asyncTrap (ctx : Nat)
  | taskAbort (ctx : Nat)
  | copyComplete (die e : Nat) (id : Nat)
  | waittWake (ctx : Nat)
  | instructionLineFill (core : Nat) (line : Nat) (data : Block)
  | homeJcinit (r : Req)
  | homeBarinit (r : Req)
  | homeTagWrite (r : Req)
  -- NOP (R268).
  | nop
  -- Integer operations on two registers (R275, R276).
  | add (d : GReg) (b c : Src)
  | sub (d : GReg) (b c : Src)
  | addw (d : GReg) (b c : Src)
  | subw (d : GReg) (b c : Src)
  | and (d : GReg) (b c : Src)
  | or (d : GReg) (b c : Src)
  | xor (d : GReg) (b c : Src)
  | andn (d : GReg) (b c : Src)
  | shl (d : GReg) (b c : Src)
  | shr (d : GReg) (b c : Src)
  | sar (d : GReg) (b c : Src)
  | rol (d : GReg) (b c : Src)
  | seq (d : GReg) (b c : Src)
  | sne (d : GReg) (b c : Src)
  | slt (d : GReg) (b c : Src)
  | sltu (d : GReg) (b c : Src)
  | min (d : GReg) (b c : Src)
  | max (d : GReg) (b c : Src)
  | minu (d : GReg) (b c : Src)
  | maxu (d : GReg) (b c : Src)
  | mul (d : GReg) (b c : Src)
  | mulh (d : GReg) (b c : Src)
  | mulhu (d : GReg) (b c : Src)
  | mulw (d : GReg) (b c : Src)
  -- Division (R277).
  | div (d : GReg) (b c : Src)
  | divu (d : GReg) (b c : Src)
  | rem (d : GReg) (b c : Src)
  | remu (d : GReg) (b c : Src)
  -- Immediate operations (R278).
  | addi (d : GReg) (b : Src) (imm : BitVec 21)
  | andi (d : GReg) (b : Src) (imm : BitVec 21)
  | ori (d : GReg) (b : Src) (imm : BitVec 21)
  | xori (d : GReg) (b : Src) (imm : BitVec 21)
  | slti (d : GReg) (b : Src) (imm : BitVec 21)
  | sltiu (d : GReg) (b : Src) (imm : BitVec 21)
  | shli (d : GReg) (b : Src) (n : BitVec 6)
  | shri (d : GReg) (b : Src) (n : BitVec 6)
  | sari (d : GReg) (b : Src) (n : BitVec 6)
  | addwi (d : GReg) (b : Src) (imm : BitVec 21)
  -- Constants (R279).
  | li (d : GReg) (imm : BitVec 16)
  | liw (d : GReg) (imm : BitVec 32)
  | lid (d : GReg) (imm : BitVec 64)
  -- Bit operations (R280).
  | clz (d : GReg) (b : Src)
  | ctz (d : GReg) (b : Src)
  | popc (d : GReg) (b : Src)
  | bswap (d : GReg) (b : Src)
  | sextB (d : GReg) (b : Src)
  | sextH (d : GReg) (b : Src)
  | sextW (d : GReg) (b : Src)
  | zextW (d : GReg) (b : Src)
  -- Bit fields (R281); a length field of 0 stands for 64.
  | extu (d : GReg) (b : Src) (pos len : BitVec 6)
  | exts (d : GReg) (b : Src) (pos len : BitVec 6)
  | ins (d : GReg) (b : Src) (pos len : BitVec 6)
  -- Select (R282).
  | sel (d : GReg) (b c e : Src)
  -- Address of a label (R283).
  | lpc (d : GReg) (disp : BitVec 24)
  -- Scalar floating point (R286).
  | fadd (d : GReg) (b c : Src)
  | fsub (d : GReg) (b c : Src)
  | fmul (d : GReg) (b c : Src)
  | fdiv (d : GReg) (b c : Src)
  | fmin (d : GReg) (b c : Src)
  | fmax (d : GReg) (b c : Src)
  | fsqrt (d : GReg) (b : Src)
  | fclass (d : GReg) (b : Src)
  -- Fused operations (R288).
  | ffma (d : GReg) (b c e : Src)
  | ffms (d : GReg) (b c e : Src)
  | fnma (d : GReg) (b c e : Src)
  | fnms (d : GReg) (b c e : Src)
  -- Comparisons and conversions (R289).
  | feq (d : GReg) (b : Src) (c : GReg)
  | flt (d : GReg) (b : Src) (c : GReg)
  | fle (d : GReg) (b : Src) (c : GReg)
  | fcvtWF (d : GReg) (b : Src) (rm : BitVec 2)
  | fcvtFW (d : GReg) (b : Src) (rm : BitVec 2)
  | fcvtBfF (d : GReg) (b : Src) (rm : BitVec 2)
  | fcvtFBf (d : GReg) (b : Src)
  | fcvtHF (d : GReg) (b : Src) (rm : BitVec 2)
  | fcvtFH (d : GReg) (b : Src)
  -- Branches and jumps (R290 to R293).
  | beq (a b : Src) (disp : BitVec 24)
  | bne (a b : Src) (disp : BitVec 24)
  | blt (a b : Src) (disp : BitVec 24)
  | bge (a b : Src) (disp : BitVec 24)
  | bltu (a b : Src) (disp : BitVec 24)
  | bgeu (a b : Src) (disp : BitVec 24)
  | jal (d : GReg) (disp : BitVec 24)
  | jalr (d : GReg) (b : Src) (imm : BitVec 21)
  -- Safe point (R295).
  | safept (glive : BitVec 64) (vlive : BitVec 32)
  -- Loads and stores (R300, R301).
  | ldB (d : GReg) (b : Src) (imm : BitVec 21)
  | ldBu (d : GReg) (b : Src) (imm : BitVec 21)
  | ldH (d : GReg) (b : Src) (imm : BitVec 21)
  | ldHu (d : GReg) (b : Src) (imm : BitVec 21)
  | ldW (d : GReg) (b : Src) (imm : BitVec 21)
  | ldWu (d : GReg) (b : Src) (imm : BitVec 21)
  | ldD (d : GReg) (b : Src) (imm : BitVec 21)
  | stB (a : GReg) (b : Src) (imm : BitVec 21)
  | stH (a : GReg) (b : Src) (imm : BitVec 21)
  | stW (a : GReg) (b : Src) (imm : BitVec 21)
  | stD (a : GReg) (b : Src) (imm : BitVec 21)
  | lda (d : GReg) (b : Src) (scope : BitVec 3) (w : BitVec 2) (imm : BitVec 19)
  | stl (a : GReg) (b : Src) (scope : BitVec 3) (w : BitVec 2) (imm : BitVec 19)
  -- Vector loads and stores (R302).
  | vld (v : VReg) (b : Src) (imm : BitVec 21)
  | vldNt (v : VReg) (b : Src) (imm : BitVec 21)
  | vst (v : VReg) (b : Src) (imm : BitVec 21)
  | vstNt (v : VReg) (b : Src) (imm : BitVec 21)
  | vstKeep (v : VReg) (b : Src) (imm : BitVec 21)
  -- Typed loads and stores and the tag forms (R303 to R306).
  | ldt (v : VReg) (b c m : Src) (ty : BitVec 3) (rm : BitVec 2) (inf : Bool)
  | stt (v : VReg) (b c m : Src) (ty : BitVec 3) (rm : BitVec 2) (inf : Bool) (scale : BitVec 8)
  | ldtTag (d : GReg) (b : Src)
  | sttTag (a : GReg) (b : Src)
  -- Prefetch and cache maintenance (R307, R308).
  | prefL1 (b : Src) (imm : BitVec 21)
  | prefLlc (b : Src) (imm : BitVec 21)
  | prefWin (b : Src) (imm : BitVec 21)
  | cflush (b c : Src) (sc : BitVec 3)
  | cclean (b c : Src) (sc : BitVec 3)
  | cinval (b c : Src) (sc : BitVec 3)
  -- Windows (R309, R310).
  | wmap (d : GReg) (b c e : Src)
  | wunmap (b : Src)
  | wflush (b : Src)
  | wdrop (b : Src)
  | wstat (d : GReg) (b : Src)
  -- Codebook slots (R311).
  | cbld (k : BitVec 3) (b : Src) (imm : BitVec 21)
  | cbst (k : BitVec 3) (b : Src) (imm : BitVec 21)
  -- Atomics (R312); wide is an 8-byte operation.
  | amoAdd (d : GReg) (b c : Src) (wide : Bool) (ord : BitVec 2) (scope : BitVec 3)
  | amoAnd (d : GReg) (b c : Src) (wide : Bool) (ord : BitVec 2) (scope : BitVec 3)
  | amoOr (d : GReg) (b c : Src) (wide : Bool) (ord : BitVec 2) (scope : BitVec 3)
  | amoXor (d : GReg) (b c : Src) (wide : Bool) (ord : BitVec 2) (scope : BitVec 3)
  | amoMin (d : GReg) (b c : Src) (wide : Bool) (ord : BitVec 2) (scope : BitVec 3)
  | amoMax (d : GReg) (b c : Src) (wide : Bool) (ord : BitVec 2) (scope : BitVec 3)
  | amoMinu (d : GReg) (b c : Src) (wide : Bool) (ord : BitVec 2) (scope : BitVec 3)
  | amoMaxu (d : GReg) (b c : Src) (wide : Bool) (ord : BitVec 2) (scope : BitVec 3)
  | amoSwap (d : GReg) (b c : Src) (wide : Bool) (ord : BitVec 2) (scope : BitVec 3)
  | amoCas (d : GReg) (b c e : Src) (wide : Bool) (ord : BitVec 2) (scope : BitVec 3)
  | amoFadd (d : GReg) (b c : Src) (ord : BitVec 2) (scope : BitVec 3)
  | redAdd (b c : Src) (wide rel : Bool) (scope : BitVec 3)
  | redAnd (b c : Src) (wide rel : Bool) (scope : BitVec 3)
  | redOr (b c : Src) (wide rel : Bool) (scope : BitVec 3)
  | redXor (b c : Src) (wide rel : Bool) (scope : BitVec 3)
  | redMin (b c : Src) (wide rel : Bool) (scope : BitVec 3)
  | redMax (b c : Src) (wide rel : Bool) (scope : BitVec 3)
  | redMinu (b c : Src) (wide rel : Bool) (scope : BitVec 3)
  | redMaxu (b c : Src) (wide rel : Bool) (scope : BitVec 3)
  | redFadd (b c : Src) (rel : Bool) (scope : BitVec 3)
  -- Take and put words (R313).
  | take (d : GReg) (b : Src) (imm : BitVec 21)
  | trytake (d : GReg) (b : Src) (imm : BitVec 21)
  | put (a : GReg) (b : Src) (imm : BitVec 21)
  | putx (a : GReg) (b : Src) (imm : BitVec 21)
  | waitw (d : GReg) (b : Src) (imm : BitVec 21)
  -- Fences and range ordering (R314).
  | fence (sc : BitVec 3)
  | acqr (b c : Src) (sc : BitVec 3)
  | relr (b c : Src) (sc : BitVec 3)
  -- Migration (R315).
  | migrate (b : Src)
  | rethome
  -- Join counters and barriers (R316, R317).
  | jcinit (b c : Src)
  | jcdec (b : Src)
  | jcwait (b : Src)
  | barinit (b c : Src)
  | bararr (d : GReg) (b : Src)
  | barwait (b c : Src)
  -- Vector instructions (R319 to R331).
  | vadd (v : VReg) (b c : VSrc) (m : Src) (ty : BitVec 3)
  | vsub (v : VReg) (b c : VSrc) (m : Src) (ty : BitVec 3)
  | vmul (v : VReg) (b c : VSrc) (m : Src) (ty : BitVec 3)
  | vfma (v : VReg) (b c : VSrc) (m : Src) (ty : BitVec 3)
  | vmin (v : VReg) (b c : VSrc) (m : Src) (ty : BitVec 3)
  | vmax (v : VReg) (b c : VSrc) (m : Src) (ty : BitVec 3)
  | vrcp (v : VReg) (b : VSrc) (m : Src) (ty : BitVec 3)
  | vrsqrt (v : VReg) (b : VSrc) (m : Src) (ty : BitVec 3)
  | vexp2 (v : VReg) (b : VSrc) (m : Src) (ty : BitVec 3)
  | vlog2 (v : VReg) (b : VSrc) (m : Src) (ty : BitVec 3)
  | vabs (v : VReg) (b : VSrc) (m : Src) (ty : BitVec 3)
  | vneg (v : VReg) (b : VSrc) (m : Src) (ty : BitVec 3)
  | vcmpEq (d : GReg) (b c : VSrc) (m : Src) (ty : BitVec 3)
  | vcmpNe (d : GReg) (b c : VSrc) (m : Src) (ty : BitVec 3)
  | vcmpLt (d : GReg) (b c : VSrc) (m : Src) (ty : BitVec 3)
  | vcmpLe (d : GReg) (b c : VSrc) (m : Src) (ty : BitVec 3)
  | vsel (v : VReg) (b c : VSrc) (m : Src) (ty : BitVec 3)
  | vand (v : VReg) (b c : VSrc) (m : Src) (ty : BitVec 3)
  | vor (v : VReg) (b c : VSrc) (m : Src) (ty : BitVec 3)
  | vxor (v : VReg) (b c : VSrc) (m : Src) (ty : BitVec 3)
  | vandn (v : VReg) (b c : VSrc) (m : Src) (ty : BitVec 3)
  | vshl (v : VReg) (b c : VSrc) (m : Src) (ty : BitVec 3)
  | vshr (v : VReg) (b c : VSrc) (m : Src) (ty : BitVec 3)
  | vsar (v : VReg) (b c : VSrc) (m : Src) (ty : BitVec 3)
  | vcvt (v : VReg) (b : VSrc) (m : Src) (ty : BitVec 3) (rm : BitVec 2) (part : BitVec 2) (inf : Bool)
  | vsum (d : GReg) (b : VSrc) (m : Src) (ty : BitVec 3)
  | vrmax (d : GReg) (b : VSrc) (m : Src) (ty : BitVec 3)
  | vrmin (d : GReg) (b : VSrc) (m : Src) (ty : BitVec 3)
  | vperm (v : VReg) (b c : VSrc) (m : Src) (ty : BitVec 3)
  | vbcast (v : VReg) (b : Src) (m : Src) (ty : BitVec 3)
  | vins (v : VReg) (b c : Src) (ty : BitVec 3)
  | vextr (d : GReg) (b : VSrc) (c : Src) (ty : BitVec 3)
  | vlut (v : VReg) (b : VSrc) (m : Src) (ty : BitVec 3) (rm : BitVec 2) (part : BitVec 3) (inf : Bool)
  | vdot (d : GReg) (b c : VSrc) (m : Src) (ty : BitVec 3)
  | vtagg (d : GReg) (b : VSrc)
  | vtags (v : VReg) (b : Src)
  | vmov (v : VReg) (b : VSrc) (m : Src) (ty : BitVec 3)
  | vscale (v : VReg) (b : VSrc) (c m : Src) (ty : BitVec 3) (rm : BitVec 2) (step : BitVec 16)
  -- Engines (R336, R346, R350).
  | push (d : GReg) (b : Src)
  | copy (d : GReg) (b c e : Src) (sc : BitVec 3) (tags rq : Bool) (dkind : BitVec 2)
  | waitt (b : Src)
  -- Queues and streams (R351, R352); q names g(56 + q).
  | qbind (q : BitVec 3) (b : Src)
  | qunbind (q : BitVec 3)
  | qstat (d : GReg) (q : BitVec 3)
  | sopen (q : BitVec 3) (b c : Src)
  | sclose (q : BitVec 3)
  -- Contexts (R353, R354).
  | start (b : Src)
  | reap (d : GReg) (b : Src)
  | endTask | yield
  -- Launches and continuations (R356, R357).
  | apply (b : Src) (sc : BitVec 3)
  | post (b c : Src) (sc : BitVec 3)
  | mkfn (b c : Src) (sc : BitVec 3) (x : BitVec 15)
  | mkco (b c : Src) (sc : BitVec 3) (x : BitVec 15)
  | mkseq (b c : Src) (sc : BitVec 3) (x : BitVec 15)
  | mkpar (b c : Src) (sc : BitVec 3) (x : BitVec 15)
  | mkpipe (b c : Src) (sc : BitVec 3) (x : BitVec 15)
  | mkfarm (b c : Src) (sc : BitVec 3) (x : BitVec 15)
  | mkloop (b c : Src) (sc : BitVec 3) (x : BitVec 15)
  -- Coroutines and gangs (R358, R359).
  | cresume (d : GReg) (b c : Src)
  | cyield (d : GReg) (b : Src)
  | gform (b : Src)
  | gleave | gjoin | gend
  -- Randomness and stated interference (R360).
  | rand (d : GReg) (b : Src)
  | reseed (b c : Src)
  | exq (d : GReg) (b c : Src)
  | exh (d : GReg) (b : Src)
  -- System registers (R361).
  | mfs (d : GReg) (num : BitVec 12)
  | mts (num : BitVec 12) (a : GReg)
  -- Traps on request and TLBs (R364, R365).
  | svc (imm : BitVec 16)
  | eret
  | brk (imm : BitVec 16)
  | tlbi1 (b c : Src)
  | tlbi2 (b c : Src)
  | tlbsync
  deriving DecidableEq, Repr

end Sys2Proof
end

