-- ==== Sys2Proof/Machine/State.lean ====
section
/-!
DEFINITION. The state of the Drador 9400: every piece of state that spec/00 to spec/15 name, as plain data, with the
state after reset. Units that many copies of exist (contexts, cores, slices, resources) are tables by number; an absent
entry stands for the unit as it is after reset.
-/

namespace Sys2Proof.Machine

/-- Why the machine stops with a fault. The model raises none: the spec answers every access to an address that does
not exist with a trap (R132 to R134). It stays a closed type, and its one reason is raised by nothing (safe). -/
inductive Fault where
  /-- Raised by nothing. -/
  | none
  deriving DecidableEq, Repr

/-- Why the machine gives no meaning. -/
inductive Refusal where
  /-- The instruction of this mnemonic has no meaning yet: raised only by an arm of exec (safe). -/
  | notModelled (mnemonic : String)
  /-- A read at F of a device register, whose behaviour the spec does not give (R134, R141); raised by loads and fetches at F (safe). -/
  | deviceRegister (pa : Nat)
  deriving DecidableEq, Repr

/-- Why a context is BLOCKED (R188): the waits that the rules name. Those of the second group are not limited by WAITLIM
(R194, R145, R200, R350, R353, R365). -/
inductive Wait where
  | reg (n : Nat)
  | queue (q : Nat)
  | rangeLock (va : Word)
  | copyQueue
  | tileShare
  | applyPlace
  | segment
  | sopen (q : Nat)
  | jc (va : Word)
  | bar (va : Word)
  | gform
  | gjoin (at_ : Word)
  | endTask
  | reseed
  | channelCore (va : Word)
  | benchShare (va : Word)
  | homeProducers
  | fill (va : Word)
  | walk
  | faultReply
  | ringFull
  | release
  | fence
  | putAnswer (va : Word)
  | tlbsync
  | waitt (t : Word)
  | inbox
  | reap (h : Nat)
  | cresume
  | cyield
  deriving DecidableEq, Repr

/-- A context waits for stores to be performed or a release to complete (R178, R314). -/
def Wait.isRelease : Wait → Bool
  | .release | .fence => true
  | _ => false

/-- The states of a context (R188); away is the slot that a migrated context has left and that stays reserved (R180, R315). -/
inductive CtxState where
  | free | live | blocked (w : Wait) | ended | saving | saved | cupboard | away
  deriving DecidableEq, Repr

/-- Where a producer's result goes (R269): a general register or a vector register. A TRYTAKE has two producers (R313). -/
inductive Dest where
  | g (r : Nat)
  | v (r : Nat)
  deriving DecidableEq, Repr

/-- A pending long-latency producer (R269): its number, its destination, the request it waits with at a home (R207),
whether it is an acquire, which holds back later memory instructions (R165, R301, R312), whether that acquire acts on
window blocks as an SC access alone does not (R148, R167), and whether its destination is a place in a queue (R196). -/
structure Producer where
  pid : Nat
  dest : Dest
  home : Option Req
  acquire : Bool
  windows : Bool
  queued : Bool
  deriving DecidableEq, Repr

/-- How a queue register is bound (R195, R351). -/
inductive Binding where
  | sibling (send : Bool) (back : Bool) (k : Nat)
  | streamIn (id : Nat) (depth : Nat)
  | streamOut (id : Nat)
  | results
  deriving DecidableEq, Repr

/-- The role of a context in a vector gang (R201 to R203). -/
structure Gang where
  mask : BitVec 8
  id : Nat
  leader : Bool
  attached : Bool
  deriving DecidableEq, Repr

/-- An instruction in a follower's forwarding buffer (R202). -/
structure Forwarded where
  pc : Word
  npc : Word
  head : BitVec 16
  tail : BitVec 96
  deriving DecidableEq, Repr

/-- A remote fault report (R221). -/
structure Report where
  erf0 : Word
  erf1 : Word
  deriving DecidableEq, Repr

/-- A release in progress (R178): its number, the earlier producers that must end first, the markers not yet acknowledged,
whether it is of die scope or wider, whether it holds later memory instructions of the context (FENCE, RELR), or only those to RC and SC pages
(an SC store, R165), the device whose peer release it is (R179), and the operation that is held until it completes (STL, a releasing AMO or
RED). -/
structure Release where
  id : Nat
  pids : List Nat
  markers : Nat
  wide : Bool
  gate : Bool
  sc : Bool
  peer : Option Nat
  hold : Option Req
  deriving DecidableEq, Repr

/-- A failure that is taken precisely at the context's next release, FENCE or END (R298, R150). -/
structure Pending where
  cause : Cause
  val : Word
  info : Word
  deriving DecidableEq, Repr

/-- An asynchronous trap held for a context (R218): an imprecise MEMERR or a SLICEEND. -/
structure Async where
  memerr : Option Word
  physical : Bool
  sliceend : Option Word
  deriving DecidableEq, Repr

/-- The coroutine side of a context that runs a CO task (R200): its handle, whether it has started, whether it is suspended, and
the ticket of the resumer that waits for it, if one does. -/
structure Co where
  handle : Nat
  started : Bool
  suspended : Bool
  resumer : Option Nat
  deriving DecidableEq, Repr

/-- One hardware context (R187 to R211, R213 to R222). raised is the priority that a TAKE's holder has been raised to (R228), given is a value handed to a CRESUME or CYIELD that waits, and ticket the
number under which a coroutine knows its resumer (R200). mateEnded tells that the sibling's task has ended since this one started (R198). -/
structure Ctx where
  state : CtxState
  since : Word
  lastWait : Option (Wait × Word)
  pc : Word
  npc : Word
  held : Option Instr
  head : BitVec 16
  level : Level
  owner : Nat
  space : BitVec 16
  g : Vector (BitVec 64) 64
  gFull : BitVec 64
  vset : Option Nat
  epc : BitVec 55
  ecause : BitVec 64
  eval : Word
  einfo : Word
  erf0 : Word
  erf1 : Word
  waitlim : Word
  spcount : BitVec 16
  bind : Tbl Binding
  qpend : Tbl (List (Nat × Option Word))
  results : List Word
  producers : List Producer
  markers : Tbl Pending
  reissue : List (Req × Producer)
  unacked : Nat
  paths : List Nat
  releases : List Release
  ws : List Req
  peerBlocks : Tbl (BitVec 512 × BitVec 32)
  owed : Option Pending
  async : Async
  reports : List Report
  lostReports : BitVec 16
  copies : Nat
  tiles : Nat
  saveReq : Bool
  saveMask : Option (BitVec 64 × BitVec 32)
  retryAt : Option Word
  sliceSince : Option Word
  gang : Option Gang
  buffer : List Forwarded
  co : Option Co
  given : Option Word
  ticket : Option Nat
  migratedFrom : Option Nat
  task : Option TaskRec
  endWord : Word
  refusals : Nat
  raised : Option Nat
  yielded : List Nat
  lastIssue : Option Word
  mateEnded : Bool
  deriving DecidableEq, Repr

/-- A register file of zeros. -/
def zeroRegs : Vector (BitVec 64) 64 := Vector.replicate 64 0

/-- A helper context that holds no task (R188); level and owner of a free context are DESIGN CHOICE (log 3). -/
def Ctx.free : Ctx where
  state := .free
  since := 0
  lastWait := none
  pc := 0
  npc := 0
  held := none
  head := 0
  level := .u
  owner := 0
  space := 0
  g := zeroRegs
  gFull := BitVec.allOnes 64
  vset := none
  epc := 0
  ecause := 0
  eval := 0
  einfo := 0
  erf0 := 0
  erf1 := 0
  waitlim := 0x00249F00
  spcount := 0
  bind := []
  qpend := []
  results := []
  producers := []
  markers := []
  reissue := []
  unacked := 0
  paths := []
  releases := []
  ws := []
  peerBlocks := []
  owed := none
  async := ⟨none, false, none⟩
  reports := []
  lostReports := 0
  copies := 0
  tiles := 0
  saveReq := false
  saveMask := none
  retryAt := none
  sliceSince := none
  gang := none
  buffer := []
  co := none
  given := none
  ticket := none
  migratedFrom := none
  task := none
  endWord := 0
  refusals := 0
  raised := none
  yielded := []
  lastIssue := none
  mateEnded := false

/-- The control context of a core (R35 step 6, R187, R353): at F for owner 0 under SPACE 0, its micro-kernel waiting at a
START for a record in the inbox. The micro-kernel's code is not given; its address is DESIGN CHOICE (log 4). -/
def Ctx.control : Ctx := { Ctx.free with state := .blocked .inbox, level := .f, pc := 2 }

/-- The states of an L1 line (R183, R371); pv is a line of a PV page, ro a line of a WS page, of a weight store or of host memory. -/
inductive L1State where
  | pv | ro | m | o | e | s | isD | imD | smG | miA
  deriving DecidableEq, Repr

/-- An access that waits at a transient L1 line (R371): a load with its producer and extension, or a store with its bytes. -/
structure Waiter where
  store : Bool
  ctx : Nat
  pid : Nat
  pa : Nat
  size : Nat
  signed : Bool
  vec : Bool
  mask : BitVec 64
  data : Block
  tag : Tag
  typed : Bool
  deriving DecidableEq, Repr

/-- A line of an L1 data cache (R131, R183, R371). -/
structure L1Line where
  st : L1State
  dirty : Bool
  data : Block
  tag : Tag
  owner : Nat
  wait : List Waiter
  held : List Instr
  snoop : Option Instr
  keep : Bool
  fromM : Bool
  ct : PageType
  deriving DecidableEq, Repr

/-- A combined translation in a TLB (R139, R140): where it came from, what each stage allows and at which level its page entry stands (R137, R143),
the IPA between the stages (R145), the frame ownership entry the walker read (R297), and the stage-2 level-1 entries its walk used. -/
structure TlbEntry where
  owner : Nat
  space : BitVec 16
  global : Bool
  page : Nat
  size : Nat
  pa : Nat
  ap1 : BitVec 2
  ap2 : BitVec 2
  x : Bool
  x2 : Bool
  level1 : Nat
  level2 : Nat
  ipa : Nat
  ct : BitVec 2
  fe : Bool
  dirty : Bool
  fot : BitVec 16
  fotFrame : Option Nat
  s2 : List Nat
  deriving DecidableEq, Repr

/-- One block of a local store window (R148). -/
structure WinBlock where
  v : Bool
  d : BitVec 8
  deriving DecidableEq, Repr

/-- One local store window (R147, R309). -/
structure Window where
  lblk : Nat
  va : Nat
  nblk : Nat
  owner : Nat
  space : BitVec 16
  level : Level
  blocks : Tbl WinBlock
  deriving DecidableEq, Repr

/-- One range-lock entry (R175): the operation it belongs to, its range, and whether it is a destination. -/
structure RangeLock where
  op : Nat
  base : Nat
  len : Nat
  dest : Bool
  deriving DecidableEq, Repr

/-- One vector register set (R191). -/
structure VSet where
  v : Tbl (BitVec 512)
  tag : Tbl (BitVec 32)
  full : BitVec 32
  deriving DecidableEq, Repr

def VSet.reset : VSet := ⟨[], [], BitVec.allOnes 32⟩

/-- The buffer of a stream port at its receiving core, or of a core-local stream (R199): words there and in flight, a closing
marker that has arrived, whether the sender has closed it, whether the receiver's interface has accepted it, and whether the
receiver has let it go. -/
structure Port where
  id : Nat
  sender : Nat
  receiver : Nat
  reg : Nat
  depth : Nat
  words : List Word
  flight : Nat
  marker : Bool
  closed : Bool
  opened : Bool
  discard : Bool
  deriving DecidableEq, Repr

/-- One line of an instruction cache (R131, R254). -/
structure ILine where
  data : Block
  deriving DecidableEq, Repr

/-- One core, compute or channel (R130, R133, R147, R152, R175, R188, R191, R198, R209, R245). -/
structure Core where
  l1 : Tbl L1Line
  icache : Tbl ILine
  l1Fenced : Tbl Nat
  iFenced : Tbl Nat
  tlb : List TlbEntry
  ls : List Host.Cell
  lsTag : Tbl (BitVec 32)
  dead : List Nat
  windows : Tbl Window
  lswin : Tbl (BitVec 64)
  locks : Tbl RangeLock
  books : Tbl (BitVec 256)
  vsets : Tbl VSet
  inbox : List TaskRec
  reaps : List (Nat × Nat)
  conts : List TaskRec
  channels : Tbl (List Word)
  cupboard : Option Nat
  deriving DecidableEq, Repr

/-- A core after reset: nothing cached, nothing bound; local store and vector registers zero (log 3, log 5). -/
def Core.reset : Core where
  l1 := []
  icache := []
  l1Fenced := []
  iFenced := []
  tlb := []
  ls := []
  lsTag := []
  dead := []
  windows := []
  lswin := []
  locks := []
  books := []
  vsets := []
  inbox := []
  reaps := []
  conts := []
  channels := []
  cupboard := none

/-- Who waits for a walk: a context's access, a context's fetch, or an engine (R139, R145). -/
inductive Walker where
  | access (ctx : Nat)
  | fetch (ctx : Nat)
  deriving DecidableEq, Repr

/-- The kinds of a stage-1 fault (R143). -/
inductive FaultKind where
  | notValid | write | exec | priv | malformed
  deriving DecidableEq, Repr

/-- An access as translation sees it (R143 ACC): read, write, execute, atomic. -/
inductive Acc where
  | read | write | exec | atomic
  deriving DecidableEq, Repr

/-- A walk in progress at a cluster (R139): the access, the stage-1 step it has reached (0 the space entry, 1 to 3 the
levels, 4 the page), the stage-2 level being read (1 to 3, or 4 when the stage-1 entry itself is next), the address being
translated, and what has been read so far. -/
structure Walk where
  id : Nat
  core : Nat
  who : Walker
  owner : Nat
  space : BitVec 16
  level : Level
  va : Word
  acc : Acc
  size : Nat
  s1 : Nat
  s2 : Nat
  ipa : Nat
  base : Nat
  leaf : BitVec 64
  leafPa : Nat
  leafSize : Nat
  s2entry : BitVec 64
  s2size : Nat
  used : List Nat
  deriving DecidableEq, Repr

/-- A tile-task record at a cluster's scheduler, or running on an engine (R98, R334 to R342): wjc is the counter it waits for, k
the next K step or, counted on from NK, the next output block; result is set when it stops, dk when its DKIND access fails
(R388), done when it has completed; observed before it is done: its issuer has stopped. -/
structure Tile where
  id : Nat
  ctx : Nat
  core : Nat
  owner : Nat
  space : BitVec 16
  level : Level
  body : Block
  slots : List Nat
  books : Tbl (BitVec 256)
  cb4 : Bool
  wjc : Option Nat
  jcReady : Bool
  engine : Option Nat
  k : Nat
  kidx : Nat
  busy : Nat
  waiting : Bool
  result : Option (BitVec 8)
  dk : Option (BitVec 8)
  done : Bool
  observed : Bool
  fetching : List (Nat × Option Nat)
  deriving DecidableEq, Repr

/-- One cluster (R98, R139, R230, R246, R333): its second-level TLB, walks, tile records, accumulator slots, transient
accumulators and product-table caches with their round-robin pointers; savedAcc names the slots whose values stand in an owner's save area (R230),
by owner and slot. -/
structure Cluster where
  l2tlb : List TlbEntry
  walks : List Walk
  tiles : List Tile
  acc : Tbl (Tbl (BitVec 32))
  tables : Tbl (List (BitVec 256 × BitVec 256))
  tablePtr : Tbl Nat
  savedAcc : List (Nat × Nat)
  deriving DecidableEq, Repr

def Cluster.reset : Cluster := ⟨[], [], [], [], [], [], []⟩

/-- A copy request (R346 to R349): rel is the release that comes before its first read (R347), next the block it has reached,
asked and got a block read from a peer, unacked its writes at a peer, cmd the command record that asked for it (R50); observed before it is done: its issuer
has stopped. -/
structure CopyReq where
  id : Nat
  ctx : Option Nat
  core : Nat
  owner : Nat
  space : BitVec 16
  level : Level
  dst : Word
  src : Word
  blocks : Nat
  scope : BitVec 3
  tags : Bool
  rq : Bool
  dkind : BitVec 2
  dkAddr : Word
  promise : Word
  k : Nat
  next : Nat
  rel : Option Nat
  asked : Bool
  got : Option Arrival
  unacked : Nat
  waiting : Bool
  result : Option (BitVec 8)
  dk : Option (BitVec 8)
  done : Bool
  observed : Bool
  cmd : Option Cmd
  deriving DecidableEq, Repr

/-- The states of a launch (R75). -/
inductive LState where
  | queued | reserve | waiting | commit | dispatched | done
  deriving DecidableEq, Repr

/-- A fault that reached the top of a nest (R223, R226). -/
structure TopFault where
  code : BitVec 8
  level : Nat
  cidx : Nat
  val : Word
  deriving DecidableEq, Repr

/-- A launch (R51, R52, R71 to R75, R102): since is the time from which its wait is counted, and waited what it had waited when it was last placed (R72,
R103); node is the child of a domain-bound composite that it runs (R81, R370). -/
structure Launch where
  id : Nat
  die : Nat
  owner : Nat
  space : BitVec 16
  level : Level
  body : Block
  cmd : Option Cmd
  iseq : Nat
  prio : Nat
  ceil : Nat
  clipped : Bool
  arrival : Word
  since : Word
  waited : Nat
  age : Nat
  state : LState
  node : Option Nat
  root : Option Nat
  tstart : Word
  nremote : Nat
  erf0 : Word
  erf1 : Word
  fault : Option TopFault
  aborted : Bool
  victims : List Nat
  preempted : Bool
  cidx : Nat
  g3 : Word
  g4 : Word
  g5 : Word
  g6 : Word
  peer : Bool
  deriving DecidableEq, Repr

/-- The state of a node of a nest; idle is a FARM instance that waits for its next item (R92). -/
inductive NState where
  | reserved | running | idle | ended
  deriving DecidableEq, Repr

/-- A node of a nest: a callable entry instantiated for a launch (R78 to R84, R89 to R93, R224). -/
structure Node where
  id : Nat
  launch : Nat
  parent : Option Nat
  child : Nat
  level : Nat
  cidx : Nat
  entry : Block
  g3 : Word
  g4 : Word
  g5 : Word
  g6 : Word
  cores : List Nat
  state : NState
  ctx : Option Nat
  next : Nat
  iter : Nat
  retried : List Nat
  result : Word
  fault : Option TopFault
  deriving DecidableEq, Repr

/-- A Porter (R71, R74, R77, R85, R87): the launch in reservation or commit, the task records reserved for it, the foreign
requests it serves, its callable cache and each owner's rotation pointer. -/
structure Porter where
  busy : Option Nat
  commit : Bool
  records : List (Nat × TaskRec)
  inst : List (Nat × Nat)
  cache : Tbl (BitVec 512)
  rotate : Tbl Nat
  foreign : List Nat
  windowHeld : List Nat
  windowOpen : List Nat
  deriving DecidableEq, Repr

def Porter.reset : Porter := ⟨none, false, [], [], [], [], [], [], []⟩

/-- One line of a last-level cache slice (R107, R126); filling tells that its data has not come from the channel yet (R110). -/
structure LlcLine where
  set : Nat
  way : Nat
  block : Nat
  owner : Nat
  gen : Bool
  dirty : Bool
  filling : Bool
  deriving DecidableEq, Repr

/-- An entry of a slice's Bench (R119, R172 to R174, R166). -/
structure BenchEntry where
  word : Nat
  req : Req
  deriving DecidableEq, Repr

/-- A relocation sweep in progress at a slice (R127, R374). -/
structure Sweep where
  owner : Nat
  set : Nat
  way : Nat
  deriving DecidableEq, Repr

/-- One home slice (R107, R119, R127, R158, R228); fills holds the operations that wait for a line to be filled, each with its block (R385), and through the blocks
that have been read for an operation in whose set no way is left (R158). -/
structure Slice where
  lines : List LlcLine
  bench : List BenchEntry
  holders : Tbl Nat
  sweeps : List Sweep
  fenced : List (Nat × Nat)
  watch : List (Nat × Nat)
  fills : List (Nat × Instr)
  through : List Nat
  deriving DecidableEq, Repr

def Slice.reset : Slice := ⟨[], [], [], [], [], [], [], []⟩

/-- The states of a block at its home (R184, R186). -/
inductive HomeState where
  | unc | shd | exc | own | rdxInv | upgGrant | fwd | wbRace
  deriving DecidableEq, Repr

/-- A directory entry (R184, R185, R372). -/
structure Dir where
  st : HomeState
  owner : Nat
  sharers : List Nat
  cur : Option Req
  acks : Nat
  stale : Bool
  waiting : List Req
  deriving DecidableEq, Repr

def Dir.unc : Dir := ⟨.unc, 0, [], none, 0, false, []⟩

/-- A request pending at a resource instance (R114): its owner, the time it became its owner's oldest there (R121), its units in a PEER slot
(R29), the instances of its route that come after this one, by class and number (R117), and the steps that its service lets happen. -/
structure Queued where
  owner : Nat
  at_ : Word
  units : Nat
  path : List (Nat × Nat)
  ev : List Instr
  access : Nat
  deriving DecidableEq, Repr

/-- One instance of a shared resource (R112 to R115): its calendar, its pending requests in arrival order, and the number
of the first slot since boot that is not yet accounted for (the model's own, log 2). -/
structure Resource where
  cal : List Nat
  queue : List Queued
  upto : Nat
  deriving DecidableEq, Repr

def Resource.reset : Resource := ⟨[], [], 0⟩

/-- An entry of an owner's fault ring that is in use (R143 to R145): its index, the page it is about, and whom its reply
releases: contexts, each with the address that it faulted at, and engines by the numbers of their operations. -/
structure RingEntry where
  k : Nat
  page : Nat
  space : BitVec 16
  cluster : Nat
  ctxs : Tbl Word
  engines : List Nat
  deriving DecidableEq, Repr

/-- One owner's registers and streams (R41, R126, R143, R214, R362). -/
structure Owner where
  active : OwnerRec
  staged : OwnerRec
  tvecS : BitVec 55
  ctbase : Word
  ctlen : Word
  gtqbase : Word
  gtqlen : Word
  sptab : Word
  fqbase : Word
  fqFrame : Option Nat
  conctx : Word
  savearea : Word
  stkbase : Word
  stksize : Word
  seed : Word
  oldSeed : Option Word
  gen : Bool
  sweeping : List Nat
  offer : BitVec 128
  accept : BitVec 128
  featState : BitVec 2
  ringNext : Nat
  ring : List RingEntry
  ringWait : List Nat
  sliceStart : Word
  deriving DecidableEq, Repr

def DieRec.zero : DieRec := ⟨0, 1, 0, 0, 0, 0, 0⟩
def OwnerRec.zero : OwnerRec :=
  ⟨false, false, 0, false, 0, 0, 0, 0, 0, Vector.replicate 4 .zero, 0, 0⟩

/-- Owner 0's part of a die in the boot layout as shipped (R383). -/
def DieRec.boot : DieRec := ⟨0, 11, 0x0003, 64, 15, 4096, 0x40404040404040⟩
/-- Owner 0's record in the boot layout as shipped (R383); SEED and S2BASE are not given (log 6). -/
def OwnerRec.boot : OwnerRec :=
  ⟨true, false, 0, false, 64, 0xF00000, 32768, 0, 0, Vector.replicate 4 .boot, 0, BitVec.allOnes 1024⟩

/-- An owner after reset. Offered groups are the eleven of R43. -/
def Owner.reset (r : OwnerRec) : Owner where
  active := r
  staged := r
  tvecS := 0
  ctbase := 0
  ctlen := 0
  gtqbase := 0
  gtqlen := 0
  sptab := 0
  fqbase := 0
  fqFrame := none
  conctx := 0
  savearea := 0
  stkbase := 0
  stksize := 0
  seed := 0
  oldSeed := none
  gen := false
  sweeping := []
  offer := 0x7FF
  accept := 0
  featState := 0
  ringNext := 0
  ring := []
  ringWait := []
  sliceStart := 0

/-- A command record that has been taken and has not completed (R49, R53, R54): a record of an indirect buffer names the INDIRECT it belongs to,
and left counts an INDIRECT's records that have not completed (R57). -/
structure OutCmd where
  id : Nat
  cmd : Cmd
  parent : Option Nat
  left : Nat
  deriving DecidableEq, Repr

/-- An INDIRECT whose buffer is being taken (R57): the next record, how many there are, and the blocks read ahead; with FRESH set none are. -/
structure Indirect where
  id : Nat
  cmd : Cmd
  next : Nat
  count : Nat
  fresh : Bool
  got : List (Option Block)
  deriving DecidableEq, Repr

/-- A completion on its way (R53 to R56): the record, where it came from, whether its record has been written, the launch that is done, and the child of a
domain-bound composite that has ended with it (R370). -/
structure Completion where
  id : Nat
  owner : Nat
  space : BitVec 16
  level : Level
  body : Block
  jc : Word
  craddr : Word
  die : Nat
  vcp : Option (Nat × Nat)
  write : Bool
  written : Bool
  irq : Bool
  out : Option Cmd
  launch : Option Nat
  node : Option (Nat × Option TopFault)
  deriving DecidableEq, Repr

/-- One virtual command processor (R44 to R57): its shadow entry, the device's own copies, whether it has been notified since it was last started (R47), the
records it has taken, the WAIT that holds later ones, and the INDIRECT whose buffer it is taking. After reset its shadow entry is not valid and its words
are 0 (DESIGN CHOICE, log 3). -/
structure Vcp where
  valid : Bool
  w0 : Word
  w1 : Word
  prod : BitVec 32
  cons : BitVec 32
  run : Bool
  tamper : Bool
  halted : Bool
  armed : Bool
  cprod : BitVec 32
  out : List OutCmd
  wait : Option Cmd
  indirect : Option Indirect
  deriving DecidableEq, Repr

def Vcp.reset : Vcp := ⟨false, 0, 0, 0, 0, true, false, false, false, 0, [], none, none⟩

/-- The states of a link (R31, R32). -/
inductive LinkState where
  | up | retraining | fenced
  deriving DecidableEq, Repr

/-- What the device reports to management and firmware (R20, R25, R32, R33, R35, R37, R46, R47, R142, R145, R156, R209). -/
inductive Event where
  | linkFenced (l : Nat)
  | thermal
  | absentChannel (c usable : Nat)
  | badHostAccess (owner off : Nat)
  | halted (o v : Nat)
  | tamper (o v : Nat)
  | ownership (requester owner pa : Nat)
  | poison (frame : Nat)
  | stage2 (ctx ipa : Nat) (msg : List Nat)
  | tagRegion (requester pa : Nat)
  | saveFault (ctx ipa : Nat)
  | recovery
  | remoteMapping (key : PageKey) (device : Bool)
  deriving DecidableEq, Repr

/-- What is fused in the device (R34, R35): the digests of the two public keys, and the security version. -/
structure Fuses where
  edKey : BitVec 512
  mlKey : BitVec 512
  version : Nat
  deriving DecidableEq, Repr

/-- The layout control registers (R61) and the commit in progress (R65). -/
structure Layout where
  lver : BitVec 32
  state : BitVec 3
  err : BitVec 8
  eowner : BitVec 4
  stagelock : Bool
  ltick : Word
  swapAt : Word
  affected : List Nat
  deriving DecidableEq, Repr

/-- A time-shared pool (R60, R68, R70). -/
structure Pool where
  active : BitVec 32
  staged : BitVec 32
  current : Option Nat
  start : Word
  switching : Option Nat
  deriving DecidableEq, Repr

/-- A pool after reset: PSLICE of the boot layout is not given (log 6). -/
def Pool.reset : Pool := ⟨240000, 240000, none, 0, none⟩

/-- A saved context (R205 to R210): the context number its record is kept under, the core it left, the registers its save wrote, whether it stands in
the core's Cupboard, the vector set it held, and the words of its sibling channels. Its other fields, for which the record of R208 gives no
bits, stay in a context table entry of the model's own (log 11). -/
structure Saved where
  num : Nat
  core : Nat
  glive : BitVec 64
  vlive : BitVec 32
  cup : Bool
  vdata : Option VSet
  queues : Tbl (List Word)
  deriving DecidableEq, Repr

/-- A migration lock or hold (R156). -/
structure Migration where
  key : PageKey
  device : Bool
  until_ : Option Word
  entry : Option (Nat × Nat)
  at_ : Word
  deriving DecidableEq, Repr

/-- A peer operation that has been sent and not yet answered (R27, R386). -/
structure PeerOut where
  ctx : Nat
  msg : PeerMsg
  deriving DecidableEq, Repr

/-- The state of the whole device. agenda, later, choice, slots, cur and fresh are the model's own: the steps of the hardware in
flight, those that are tried again in a later cycle, the choices of the order in which they are taken, the cores whose issue slot of this cycle is still to come, the contexts whose wait has been looked at in this cycle
(tried), the
context whose instruction is being executed, and the count of free values used (log 1, log 2). -/
structure State where
  dtc : BitVec 64
  agenda : List Instr
  later : List Instr
  choice : List Nat
  slots : List Nat
  cur : Nat
  fresh : Nat
  nextId : Nat
  ctxs : Tbl Ctx
  cores : Tbl Core
  clusters : Tbl Cluster
  porters : Tbl Porter
  slices : Tbl Slice
  dir : Tbl Dir
  resources : Tbl Resource
  streams : Tbl (BitVec 32)
  mem : List Host.Cell
  tags : Tbl (BitVec 32)
  tagBuf : Tbl (List (Nat × Nat))
  fotBase : Nat
  owners : Tbl Owner
  tvecF : BitVec 55
  bins : Tbl (BitVec 48)
  launches : Tbl Launch
  nodes : Tbl Node
  faults : List (Nat × TopFault)
  copies : List CopyReq
  ports : Tbl Port
  gtq : Tbl (List TaskRec)
  gtqNext : Tbl Nat
  saved : Tbl Saved
  invals : List (Nat × Nat × Inval)
  vcps : Tbl Vcp
  completions : List Completion
  irqs : List (Nat × Nat)
  links : Tbl LinkState
  linkErrors : Tbl Nat
  unitErrors : Tbl Nat
  peermap : Tbl (List Nat)
  peerOut : List PeerOut
  peerIn : Tbl PeerMsg
  peerSent : List (PeerMsg × Arrival)
  peerJobs : List (Nat × Nat)
  deviceIndex : BitVec 9
  tried : List Nat
  boot : Word
  mld : Bool
  powerHold : Bool
  stopped : Bool
  recovery : Bool
  fuses : Fuses
  identity : Option (BitVec 512)
  measurements : List (BitVec 512)
  functions : BitVec 16
  absent : List Nat
  events : List Event
  barSize : Tbl Nat
  hostAnswer : Option Word
  layout : Layout
  pools : Tbl Pool
  poolWindows : Tbl (Tbl Window)
  migrations : List Migration
  backoffs : List (Word × Req)
  deriving DecidableEq, Repr

/-- The machine right after reset (R35): boot has ended with FEAT_OFFER published, owner 0 holds the device, the control
context of every core waits for work (log 4), and nothing is cached, queued or running. Values the spec does not give stand in log 3 to
log 6. -/
def State.reset : State where
  dtc := 0
  agenda := []
  later := []
  choice := []
  slots := []
  cur := 0
  fresh := 0
  nextId := 1
  ctxs := []
  cores := []
  clusters := []
  porters := []
  slices := []
  dir := []
  resources := []
  streams := []
  mem := []
  tags := []
  tagBuf := []
  fotBase := 0
  owners := [(0, Owner.reset OwnerRec.boot)]
  tvecF := 2
  bins := []
  launches := []
  nodes := []
  faults := []
  copies := []
  ports := []
  gtq := []
  gtqNext := []
  saved := []
  invals := []
  vcps := []
  completions := []
  irqs := []
  links := []
  linkErrors := []
  unitErrors := []
  peermap := []
  peerOut := []
  peerIn := []
  peerSent := []
  peerJobs := []
  deviceIndex := 0
  tried := []
  boot := 0
  mld := false
  powerHold := false
  stopped := false
  recovery := false
  fuses := ⟨0, 0, 0⟩
  identity := none
  measurements := []
  functions := 1
  absent := []
  events := []
  barSize := []
  hostAnswer := none
  layout := ⟨1, 0, 0, 0, false, 0, 0, []⟩
  pools := []
  poolWindows := []
  migrations := []
  backoffs := []

end Sys2Proof.Machine
end

