-- ==== Sys2Proof/Machine/Bits.lean ====
section
/-!
DEFINITION. Tables by key, bytes of memory, bit fields and the places of the package's units: the plain functions that
every other file of the machine uses.
-/

namespace Sys2Proof.Machine

/-- The entry of a table at a key. -/
def tget {α : Type} : Tbl α → Nat → Option α
  | [], _ => none
  | (a, v) :: r, k => if a = k then some v else tget r k

/-- The table with an entry set; keys stay strictly rising. -/
def tset {α : Type} : Tbl α → Nat → α → Tbl α
  | [], k, v => [(k, v)]
  | (a, w) :: r, k, v => if k < a then (k, v) :: (a, w) :: r else if k = a then (k, v) :: r else (a, w) :: tset r k v

/-- The table without the entry at a key. -/
def tdel {α : Type} : Tbl α → Nat → Tbl α
  | [], _ => []
  | (a, w) :: r, k => if k = a then r else (a, w) :: tdel r k

/-- A table of tags with an entry set; a tag of zero is not listed. -/
def tagSet (t : Tbl (BitVec 32)) (k : Nat) (v : BitVec 32) : Tbl (BitVec 32) := if v = 0 then tdel t k else tset t k v

/-- The keys of a table strictly rise from a bound. -/
def tsorted {α : Type} : Tbl α → Nat → Bool
  | [], _ => true
  | (a, _) :: r, lo => decide (lo ≤ a) && tsorted r (a + 1)

/-- What an unlisted address of memory reads as (log 5; tags and weight stores by R35 step 5). -/
def unlisted : Byte := 0

/-- The canonical form of a memory: addresses strictly rise, and no entry equals what an unlisted address reads as. -/
def Memory.wf (m : List Host.Cell) : Bool := tsorted m 0 && m.all fun c => c.2 != unlisted

/-- The byte at an address. -/
def mget (m : List Host.Cell) (a : Nat) : Byte := (tget m a).getD unlisted

/-- The memory with a byte written; the canonical form is kept. -/
def mset (m : List Host.Cell) (a : Nat) (b : Byte) : List Host.Cell := if b = unlisted then tdel m a else tset m a b

/-- n bytes from an address as one little-endian number (R6). -/
def readN (m : List Host.Cell) (a : Nat) : Nat → Nat
  | 0 => 0
  | n + 1 => (mget m a).toNat + 256 * readN m (a + 1) n

/-- n bytes written from an address, little-endian (R6). -/
def writeN (m : List Host.Cell) (a : Nat) : Nat → Nat → List Host.Cell
  | 0, _ => m
  | n + 1, v => writeN (mset m a (BitVec.ofNat 8 v)) (a + 1) n (v / 256)

/-- The 64 bytes at a block's address. -/
def readBlock (m : List Host.Cell) (a : Nat) : Block := BitVec.ofNat 512 (readN m a 64)

/-- A block written whole. -/
def writeBlock (m : List Host.Cell) (a : Nat) (d : Block) : List Host.Cell := writeN m a 64 d.toNat

/-- Byte k of a block (R6). -/
def blockByte (d : Block) (k : Nat) : Byte := d.extractLsb' (8 * k) 8

/-- n bytes of a block from an offset, as a number. -/
def blockBytes (d : Block) (off n : Nat) : Nat := d.toNat / 2 ^ (8 * off) % 2 ^ (8 * n)

/-- Word i of a block. -/
def blockWord (d : Block) (i : Nat) : Word := d.extractLsb' (64 * i) 64

/-- The bit mask that a byte mask covers, from byte n - 1 down. -/
def byteMaskBits (mask : BitVec 64) : Nat → Nat
  | 0 => 0
  | n + 1 => byteMaskBits mask n + (if mask.getLsbD n then 255 * 2 ^ (8 * n) else 0)

/-- A block with the bytes of a mask taken from new data. -/
def mergeBytes (old new : Block) (mask : BitVec 64) : Block :=
  let m := BitVec.ofNat 512 (byteMaskBits mask 64)
  (old &&& ~~~m) ||| (new &&& m)

/-- The byte mask of n bytes from an offset of a block. -/
def rangeMask (off n : Nat) : BitVec 64 := BitVec.ofNat 64 ((2 ^ n - 1) * 2 ^ off)

/-- n bytes placed at an offset of an otherwise zero block. -/
def placeBytes (off : Nat) (v : Nat) : Block := BitVec.ofNat 512 (v * 2 ^ (8 * off))

/-- The byte mask of a mask of words (R149). -/
def wordMask (d : BitVec 8) : Nat → BitVec 64
  | 0 => 0
  | n + 1 => wordMask d n ||| (if d.getLsbD n then rangeMask (8 * n) 8 else 0)

/-- Bits hi down to lo of a number (R6). -/
def bits (v hi lo : Nat) : Nat := v / 2 ^ lo % 2 ^ (hi + 1 - lo)

/-- Bits hi down to lo of a 64-bit word, as a number (R6). -/
def wbits (v : Word) (hi lo : Nat) : Nat := bits v.toNat hi lo

/-- A number as a 64-bit word. -/
def w64 (n : Nat) : Word := BitVec.ofNat 64 n

/-- Sign-extends and zero-extends the low n bits of a number to 64 bits (R273). -/
def sext64 (v : Nat) (n : Nat) : Word := (BitVec.ofNat n v).signExtend 64
def zext64 (v : Nat) (n : Nat) : Word := w64 (v % 2 ^ n)

/-- One for a condition that holds, else zero. -/
def flag (b : Bool) : Word := if b then 1 else 0

/-- The number of set bits among the low n bits. -/
def popcount (v : Nat) : Nat → Nat
  | 0 => 0
  | n + 1 => popcount v n + v / 2 ^ n % 2

/-- The place of the j-th set bit of a number, counted from bit 0 with j = 0 first, among n bits from bit i. -/
def nthSet (v : Nat) (j i : Nat) : Nat → Nat
  | 0 => i
  | n + 1 => if v / 2 ^ i % 2 = 1 then (if j = 0 then i else nthSet v (j - 1) (i + 1) n) else nthSet v j (i + 1) n

/-- The list 0 to n - 1. -/
def upTo (n : Nat) : List Nat := List.range n

/-- A list without its first element that meets a condition. -/
def dropFirst {α : Type} (p : α → Bool) : List α → List α
  | [] => []
  | a :: r => if p a then r else a :: dropFirst p r

/-- A list without the element at an index. -/
def dropAt {α : Type} : List α → Nat → List α
  | [], _ => []
  | _ :: r, 0 => r
  | a :: r, n + 1 => a :: dropAt r n

/-- A list with its elements that meet a condition changed. -/
def mapIf {α : Type} (p : α → Bool) (f : α → α) (l : List α) : List α := l.map fun a => if p a then f a else a

/-- An element without repeats. -/
def addNew (l : List Nat) (n : Nat) : List Nat := if l.contains n then l else l ++ [n]

/-- Core of a context (R105, R187). -/
def coreOf (ctx : Nat) : Nat := ctx / 16

/-- A channel core, by its number (R105). -/
def isChannel (core : Nat) : Bool := decide (1024 ≤ core)

/-- The die of a core (R105). -/
def dieOf (core : Nat) : Nat := if core < 1024 then core / 256 else (core - 1024) / 64

/-- The cluster of a compute core, numbered over the package; a channel core has the cluster it stands beside (R95, R389). -/
def clusterOf (core : Nat) : Nat := if core < 1024 then core / 8 else (core - 1024) / 64 * 32 + (core - 1024) % 64 / 2

/-- Package channel and home slice of a physical address (R19, R107). -/
def channelOf (pa : Nat) : Nat := bits pa 19 12 ^^^ bits pa 27 20

/-- The sub-channel instance of a physical address (R19, R23). -/
def subChannelOf (pa : Nat) : Nat := 2 * channelOf pa + bits pa 6 6

/-- The regions of the physical map (R134). -/
inductive Region where
  | lp6 | tagRegion | weight (die : Nat) | device | host | none
  deriving DecidableEq, Repr

/-- The region a physical address lies in (R134). -/
def regionOf (pa : Nat) : Region :=
  if pa < 0xF000000000 then .lp6
  else if pa < 0x10000000000 then .tagRegion
  else if pa < 0x10200000000 then .weight ((pa - 0x10000000000) / 0x80000000)
  else if 0x20000000000 ≤ pa ∧ pa < 0x20100000000 then .device
  else if 0x800000000000 ≤ pa ∧ pa < 0x1000000000000 then .host
  else .none

/-- The frame number of a physical address in the frame ownership table (R141): LP6 frames first, then the weight stores;
none for host memory and device registers. -/
def frameOf (pa : Nat) : Option Nat :=
  match regionOf pa with
  | .lp6 => some (pa / 65536)
  | .weight n => some (15728640 + 32768 * n + (pa - 0x10000000000 - 0x80000000 * n) / 65536)
  | _ => Option.none

end Sys2Proof.Machine
end

