-- ==== Sys2Proof/Machine/Floats.lean ====
section
/-!
DEFINITION. Floating-point arithmetic (R235 to R239, R244, R248 to R250): every operation forms its exact value, as an
integer times a power of two with a mark for what lies below, and rounds once. Lanes and registers hold formats as
natural numbers of the format's width.
-/

namespace Sys2Proof.Machine

/-- A floating format (R235): exponent and fraction bits, bias, and whether it has infinities. -/
structure Fmt where
  e : Nat
  f : Nat
  bias : Nat
  inf : Bool
  deriving DecidableEq, Repr

def fp32 : Fmt := ⟨8, 23, 127, true⟩
def bf16 : Fmt := ⟨8, 7, 127, true⟩
def fp16 : Fmt := ⟨5, 10, 15, true⟩
def e4m3 : Fmt := ⟨4, 3, 7, false⟩
def e5m2 : Fmt := ⟨5, 2, 15, true⟩

/-- Width of a format in bits. -/
def Fmt.width (t : Fmt) : Nat := 1 + t.e + t.f
/-- The canonical NaN (R235, R236): all exponent bits and the top fraction bit, or every bit of E4M3. -/
def Fmt.nan (t : Fmt) : Nat := if t.inf then (2 ^ t.e - 1) * 2 ^ t.f + 2 ^ (t.f - 1) else 2 ^ (t.e + t.f) - 1
/-- Infinity of a sign (R235). -/
def Fmt.infBits (t : Fmt) (neg : Bool) : Nat := (2 ^ t.e - 1) * 2 ^ t.f + (if neg then 2 ^ (t.e + t.f) else 0)
/-- The largest finite value's code (R235). -/
def Fmt.maxBits (t : Fmt) : Nat := if t.inf then (2 ^ t.e - 1) * 2 ^ t.f - 1 else 2 ^ (t.e + t.f) - 2
/-- A code with a sign. -/
def Fmt.signed (t : Fmt) (neg : Bool) (b : Nat) : Nat := b + (if neg then 2 ^ (t.e + t.f) else 0)

/-- A value: NaN, an infinity, or plus or minus m times 2^e, a zero keeping its sign. -/
inductive FVal where
  | nan
  | inf (neg : Bool)
  | num (neg : Bool) (m : Nat) (e : Int)
  deriving DecidableEq, Repr

/-- The value of a code (R235). -/
def Fmt.value (t : Fmt) (b : Nat) : FVal :=
  let neg := b / 2 ^ (t.e + t.f) % 2 = 1
  let x := b / 2 ^ t.f % 2 ^ t.e
  let m := b % 2 ^ t.f
  if t.inf ∧ x = 2 ^ t.e - 1 then (if m = 0 then .inf neg else .nan)
  else if t.inf = false ∧ b % 2 ^ (t.e + t.f) = 2 ^ (t.e + t.f) - 1 then .nan
  else if x = 0 then .num neg m (1 - (t.bias : Int) - t.f)
  else .num neg (2 ^ t.f + m) ((x : Int) - t.bias - t.f)

/-- Number of bits of a natural number. -/
def bitLen (m : Nat) : Nat := if m = 0 then 0 else Nat.log2 m + 1

/-- A rounding step up from a truncated magnitude (R237): rem of 2^d was cut off, and below marks a part lower still. -/
def roundsUp (rm : BitVec 2) (neg odd : Bool) (rem d : Nat) (below : Bool) : Bool :=
  let half := 2 ^ d / 2
  let inexact := rem ≠ 0 ∨ below
  match rm.toNat with
  | 0 => if d = 0 then false else decide (half < rem) || (rem == half && (below || odd))
  | 1 => false
  | 2 => neg && decide inexact
  | _ => !neg && decide inexact

/-- The overflow result of a rounding mode (R237): infinity, or the largest finite value; without infinities the canonical
NaN takes the infinity's place. -/
def Fmt.overflow (t : Fmt) (rm : BitVec 2) (neg : Bool) : Nat :=
  let toInf := rm = 0 ∨ (rm = 2 ∧ neg) ∨ (rm = 3 ∧ neg = false)
  if toInf then (if t.inf then t.infBits neg else t.nan) else t.signed neg t.maxBits

/-- The code of a magnitude m times 2^e (or a little above it when below is set), rounded once (R237). -/
def Fmt.round (t : Fmt) (rm : BitVec 2) (neg : Bool) (m : Nat) (e : Int) (below : Bool) : Nat :=
  if m = 0 ∧ below = false then t.signed neg 0
  else
    let qmin : Int := 1 - (t.bias : Int) - t.f
    let q : Int := max (e + bitLen m - (t.f + 1)) qmin
    let (sig, q) :=
      if q ≤ e ∧ below = false then (m * 2 ^ (e - q).toNat, q)
      else
        let (m, e) := if q ≤ e then (m * 2 ^ ((e - q).toNat + 2), q - 2) else (m, e)
        let d := (q - e).toNat
        let s := m / 2 ^ d
        let s := if roundsUp rm neg (s % 2 == 1) (m % 2 ^ d) d below then s + 1 else s
        if s = 2 ^ (t.f + 1) then (2 ^ t.f, q + 1) else (s, q)
    let code := if sig < 2 ^ t.f then sig else (q - qmin + 1).toNat * 2 ^ t.f + (sig - 2 ^ t.f)
    if t.maxBits < code then t.overflow rm neg else t.signed neg code

/-- A value rounded to a format (R237). -/
def Fmt.ofVal (t : Fmt) (rm : BitVec 2) (v : FVal) : Nat :=
  match v with
  | .nan => t.nan
  | .inf neg => if t.inf then t.infBits neg else t.nan
  | .num neg m e => t.round rm neg m e false

/-- Exact negation. -/
def FVal.neg : FVal → FVal
  | .nan => .nan
  | .inf n => .inf !n
  | .num n m e => .num (!n) m e

/-- The exact sum of two values; an exact zero is +0, but −0 plus −0 is −0 (R236, R286). -/
def FVal.add : FVal → FVal → FVal
  | .nan, _ => .nan
  | _, .nan => .nan
  | .inf a, .inf b => if a = b then .inf a else .nan
  | .inf a, _ => .inf a
  | _, .inf b => .inf b
  | .num n1 m1 e1, .num n2 m2 e2 =>
    let e := min e1 e2
    let x : Int := (if n1 then -1 else 1) * (m1 * 2 ^ (e1 - e).toNat : Nat)
    let y : Int := (if n2 then -1 else 1) * (m2 * 2 ^ (e2 - e).toNat : Nat)
    let z := x + y
    if z = 0 then .num (m1 = 0 ∧ m2 = 0 ∧ n1 ∧ n2) 0 e else .num (z < 0) z.natAbs e

/-- The exact product of two values (R248). -/
def FVal.mul : FVal → FVal → FVal
  | .nan, _ => .nan
  | _, .nan => .nan
  | .inf a, .inf b => .inf (a != b)
  | .inf a, .num n m _ => if m = 0 then .nan else .inf (a != n)
  | .num n m _, .inf b => if m = 0 then .nan else .inf (n != b)
  | .num n1 m1 e1, .num n2 m2 e2 => .num (n1 != n2) (m1 * m2) (e1 + e2)

/-- A value times a power of two (R243). -/
def FVal.scale (v : FVal) (k : Int) : FVal :=
  match v with
  | .num n m e => .num n m (e + k)
  | v => v

/-- The sign of a value's order: −1, 0 or 1 for less, equal or greater; NaN has none. -/
def FVal.cmp (a b : FVal) : Option Int :=
  match a, b with
  | .nan, _ => none
  | _, .nan => none
  | .inf x, .inf y => some (if x = y then 0 else if x then -1 else 1)
  | .inf x, _ => some (if x then -1 else 1)
  | _, .inf y => some (if y then 1 else -1)
  | .num n1 m1 e1, .num n2 m2 e2 =>
    let e := min e1 e2
    let x : Int := (if n1 then -1 else 1) * (m1 * 2 ^ (e1 - e).toNat : Nat)
    let y : Int := (if n2 then -1 else 1) * (m2 * 2 ^ (e2 - e).toNat : Nat)
    some (x - y).sign

/-- Addition, subtraction and multiplication of codes, rounded to nearest even (R237, R286, R321). -/
def Fmt.addB (t : Fmt) (a b : Nat) : Nat := t.ofVal 0 ((t.value a).add (t.value b))
def Fmt.subB (t : Fmt) (a b : Nat) : Nat := t.ofVal 0 ((t.value a).add (t.value b).neg)
def Fmt.mulB (t : Fmt) (a b : Nat) : Nat := t.ofVal 0 ((t.value a).mul (t.value b))

/-- The fused forms, rounded once (R288, R321): a product of 0 and an infinity is NaN whatever the addend is. -/
def Fmt.fmaB (t : Fmt) (a b c : Nat) (negP negC : Bool) : Nat :=
  let p := (t.value a).mul (t.value b)
  let p := if negP then p.neg else p
  let z := if negC then (t.value c).neg else t.value c
  t.ofVal 0 (p.add z)

/-- Division (R286): a nonzero value by zero is an infinity; 0/0 and infinity by infinity are NaN. -/
def Fmt.divB (t : Fmt) (a b : Nat) : Nat :=
  match t.value a, t.value b with
  | .nan, _ => t.nan
  | _, .nan => t.nan
  | .inf _, .inf _ => t.nan
  | .inf x, .num n _ _ => t.infBits (x != n)
  | .num n _ _, .inf y => t.signed (n != y) 0
  | .num n1 m1 e1, .num n2 m2 e2 =>
    if m2 = 0 then (if m1 = 0 then t.nan else t.infBits (n1 != n2))
    else t.round 0 (n1 != n2) (m1 * 2 ^ 64 / m2) (e1 - e2 - 64) (m1 * 2 ^ 64 % m2 != 0)

/-- The integer square root, one bit at a time from bit k - 1. -/
def isqrt (n r : Nat) : Nat → Nat
  | 0 => r
  | k + 1 => let c := r + 2 ^ k; isqrt n (if c * c ≤ n then c else r) k

/-- The square root (R286): of −0 it is −0, of any other negative value NaN. -/
def Fmt.sqrtB (t : Fmt) (a : Nat) : Nat :=
  match t.value a with
  | .nan => t.nan
  | .inf n => if n then t.nan else t.infBits false
  | .num n m e =>
    if m = 0 then t.signed n 0
    else if n then t.nan
    else
      let odd := e % 2 ≠ 0
      let m := (if odd then 2 * m else m) * 2 ^ 64
      let e := (if odd then e - 1 else e) - 64
      let r := isqrt m 0 64
      t.round 0 false r (e / 2) (r * r != m)

/-- One over the square root (R322). -/
def Fmt.rsqrtB (t : Fmt) (a : Nat) : Nat :=
  match t.value a with
  | .nan => t.nan
  | .inf n => if n then t.nan else t.signed false 0
  | .num n m e =>
    if m = 0 then t.infBits n
    else if n then t.nan
    else
      let odd := e % 2 ≠ 0
      let m := if odd then 2 * m else m
      let e := if odd then e - 1 else e
      let big := 2 ^ 160
      let r := isqrt (big / m) 0 82
      t.round 0 false r (-(e / 2) - 80) (r * r * m != big)

/-- One over a value (R322). -/
def Fmt.recipB (t : Fmt) (a : Nat) : Nat := t.divB (t.ofVal 0 (.num false 1 0)) a

/-- The natural logarithm of 2 with 320 fraction bits. -/
def ln2 : Nat := 1480553391661173448385607439722553250922680800745876974795605978609098082859138712941075737848984

/-- The series of e^x in fixed point with 320 fraction bits: the terms from number k on. -/
def expTerms (x term k : Nat) : Nat → Nat
  | 0 => 0
  | n + 1 => let u := term * x / 2 ^ 320 / k; term + expTerms x u (k + 1) n

/-- 2^x (R322). An integer power is exact; any other value of a format is irrational, and 320 bits decide its rounding
(log 8). -/
def Fmt.exp2B (t : Fmt) (a : Nat) : Nat :=
  match t.value a with
  | .nan => t.nan
  | .inf n => if n then t.signed false 0 else t.infBits false
  | .num neg m e =>
    let big := 9 ≤ e + bitLen m
    if m = 0 then t.ofVal 0 (.num false 1 0)
    else if big then (if neg then t.round 0 false 1 (-400) false else t.overflow 0 false)
    else
      let x : Int := if 0 ≤ e then (m * 2 ^ e.toNat : Nat) * 2 ^ 320 else (m * 2 ^ 320 / 2 ^ (-e).toNat : Nat)
      let x := if neg then -x else x
      let n := x / 2 ^ 320
      let f := (x % 2 ^ 320).toNat
      if f = 0 then t.round 0 false 1 n false
      else t.round 0 false (expTerms (f * ln2 / 2 ^ 320) (2 ^ 320) 1 90) (n - 320) true

/-- Fraction bits of log2 by repeated squaring of y, which has 400 fraction bits and lies from 1 to 2. -/
def logBits (y acc : Nat) : Nat → Nat
  | 0 => acc
  | k + 1 =>
    let z := y * y / 2 ^ 400
    if 2 ^ 401 ≤ z then logBits (z / 2) (2 * acc + 1) k else logBits z (2 * acc) k

/-- log2 x (R322). The logarithm of a power of two is exact; any other is irrational, and 160 bits decide its rounding
(log 8). -/
def Fmt.log2B (t : Fmt) (a : Nat) : Nat :=
  match t.value a with
  | .nan => t.nan
  | .inf n => if n then t.nan else t.infBits false
  | .num neg m e =>
    if m = 0 then t.infBits true
    else if neg then t.nan
    else
      let k := Nat.log2 m
      let n : Int := e + k
      if m = 2 ^ k then t.round 0 (n < 0) n.natAbs 0 false
      else
        let f := logBits (m * 2 ^ (400 - k)) 0 160
        if 0 ≤ n then t.round 0 false (n.toNat * 2 ^ 160 + f) (-160) true
        else t.round 0 true (n.natAbs * 2 ^ 160 - f - 1) (-160) true

/-- Minimum and maximum (R238): −0 is below +0, a single NaN loses to the other operand. -/
def Fmt.minmax (t : Fmt) (a b : Nat) (isMax : Bool) : Nat :=
  match t.value a, t.value b with
  | .nan, .nan => t.nan
  | .nan, _ => b
  | _, .nan => a
  | x, y =>
    match x.cmp y with
    | some c =>
      let aLess := c < 0 ∨ (c = 0 ∧ a / 2 ^ (t.e + t.f) % 2 = 1)
      if aLess then (if isMax then b else a) else (if isMax then a else b)
    | none => t.nan

/-- A real rounded to an integer type with lo and hi as its bounds, saturating; NaN gives 0 (R239). -/
def toIntSat (rm : BitVec 2) (lo hi : Int) (v : FVal) : Int :=
  match v with
  | .nan => 0
  | .inf n => if n then lo else hi
  | .num neg m e =>
    let (q, rem, d) := if 0 ≤ e then (m * 2 ^ e.toNat, 0, 0)
      else
        let d := min (-e).toNat (bitLen m + 2)
        if d < (-e).toNat then (0, (if m = 0 then 0 else 1), 2) else (m / 2 ^ d, m % 2 ^ d, d)
    let q := if roundsUp rm neg (q % 2 == 1) rem d false then q + 1 else q
    let x : Int := if neg then -(q : Int) else q
    max lo (min hi x)

/-- The value of an integer (R239, R244). -/
def FVal.ofInt (i : Int) : FVal := .num (i < 0) i.natAbs 0

/-- The element and lane types: integers by width, and floating formats. -/
inductive Elem where
  | int (w : Nat) (signed : Bool)
  | flt (t : Fmt)
  deriving DecidableEq, Repr

def Elem.width : Elem → Nat
  | .int w _ => w
  | .flt t => t.width

/-- The lane type of a TY code (R260). -/
def tyElem (ty : BitVec 3) : Elem :=
  match ty.toNat with
  | 0 => .int 8 true | 1 => .int 16 true | 2 => .int 32 true | 3 => .flt bf16 | 4 => .flt fp16 | 5 => .flt fp32
  | 6 => .flt e4m3 | _ => .flt e5m2
/-- Width of the lanes of a TY (R319). -/
def tyWidth (ty : BitVec 3) : Nat := (tyElem ty).width

/-- The element type of a format code (R241), CB4 and untyped apart. -/
def fmtElem (c : Nat) : Option Elem :=
  match c with
  | 1 => some (.int 8 true) | 2 => some (.int 8 false) | 3 => some (.int 16 true) | 4 => some (.int 32 true)
  | 5 => some (.int 64 true) | 8 => some (.flt fp32) | 9 => some (.flt bf16) | 10 => some (.flt fp16)
  | 11 => some (.flt e4m3) | 12 => some (.flt e5m2) | _ => none

/-- fmt_code of a TY (R304). -/
def fmtCode (ty : BitVec 3) : Nat :=
  match ty.toNat with
  | 0 => 0x01 | 1 => 0x03 | 2 => 0x04 | 3 => 0x09 | 4 => 0x0A | 5 => 0x08 | 6 => 0x0B | _ => 0x0C

/-- A signed integer from w bits. -/
def asInt (w : Nat) (b : Nat) : Int := if 2 ^ (w - 1) ≤ b % 2 ^ w then (b % 2 ^ w : Int) - 2 ^ w else (b % 2 ^ w : Int)
/-- w bits of an integer. -/
def ofInt (w : Nat) (i : Int) : Nat := (i % 2 ^ w).toNat

/-- The value of an element (R244): integers by value, floating codes by format. -/
def Elem.value (t : Elem) (b : Nat) : FVal :=
  match t with
  | .int w s => .ofInt (if s then asInt w b else (b % 2 ^ w : Nat))
  | .flt f => f.value b

/-- |x| exceeds the largest finite value of a format (R244). -/
def Fmt.exceeds (t : Fmt) (v : FVal) : Bool :=
  match v with
  | .nan => false
  | .inf _ => true
  | .num _ m e => (FVal.num false m e).cmp (t.value t.maxBits) == some 1

/-- The sign of a value. -/
def FVal.isNeg : FVal → Bool
  | .nan => false
  | .inf n => n
  | .num n _ _ => n

/-- cvt_out (R244). sat is SAT mode. -/
def cvtOut (v : FVal) (t : Elem) (rm : BitVec 2) (sat : Bool) : Nat :=
  match t with
  | .int w true => ofInt w (toIntSat rm (-(2 ^ (w - 1))) (2 ^ (w - 1) - 1) v)
  | .int w false => ofInt w (toIntSat rm 0 (2 ^ w - 1) v)
  | .flt f =>
    match v with
    | .nan => f.nan
    | v => if f.exceeds v ∧ sat then f.signed v.isNeg f.maxBits else f.ofVal rm v

/-- cvt_in (R244): the element scaled by SCALE, exactly, then converted; integers ignore SCALE (R243). -/
def cvtIn (b : Nat) (src : Elem) (scale : Nat) (t : Elem) (rm : BitVec 2) (sat : Bool) : Nat :=
  match src with
  | .int _ _ => cvtOut (src.value b) t rm sat
  | .flt f => if scale = 255 then cvtOut .nan t rm sat else cvtOut ((f.value b).scale ((scale : Int) - 127)) t rm sat

/-- prod32 (R248), on the values of two elements. -/
def prod32 (x y : FVal) : Nat := fp32.ofVal 0 (x.mul y)

/-- One level of the pairwise tree (R249). -/
def pairLevel (f : Nat → Nat → Nat) : List Nat → List Nat
  | a :: b :: r => f a b :: pairLevel f r
  | l => l

/-- The pairwise tree over a power of two of terms (R249). -/
def treeFold (f : Nat → Nat → Nat) (l : List Nat) : Nat → Nat
  | 0 => l.headD 0
  | n + 1 => match l with
    | [a] => a
    | l => treeFold f (pairLevel f l) n

/-- tree_sum (R249). -/
def treeSum (l : List Nat) : Nat := treeFold fp32.addB l 8

/-- acc_add (R250). -/
def accAdd (acc s sa sb : Nat) : Nat :=
  if sa = 255 ∨ sb = 255 then fp32.nan
  else
    match fp32.value s with
    | .num n m e => fp32.ofVal 0 ((fp32.value acc).add (.num n m (e + ((sa : Int) - 127) + ((sb : Int) - 127))))
    | v => fp32.ofVal 0 ((fp32.value acc).add v)

end Sys2Proof.Machine
end

