-- ==== Sys2Proof/Machine/Mesh.lean ====
section
/-!
DEFINITION. The meshes and the die square: where the units stand (R14, R97, R389), and the LINK instances that a packet passes on its way from
one router to another (R112, R117). Rows count southward, so a packet that leaves by N goes to the next lower row (log 18).
-/

namespace Sys2Proof.Machine

/-- A router: its die, its column and its row (R97, R112). -/
structure Place where
  die : Nat
  x : Nat
  y : Nat
  deriving DecidableEq, Repr

/-- The mesh place of a core on its die (R97, R389): column and row. -/
def meshOf (core : Nat) : Nat × Nat :=
  let c := if core < 1024 then core else
    let s := (core - 1024) % 64
    (core - 1024) / 64 * 256 + 8 * (s / 2) + s % 2
  let k := c % 256 / 8
  let m := c % 8
  (2 * (k % 8) + m % 2, 4 * (k / 8) + m / 2)

/-- The router of a core, of a slice, and of a die's Porter, which stands at core 0 of cluster 20 (R389). -/
def corePlace (core : Nat) : Place := ⟨dieOf core, (meshOf core).1, (meshOf core).2⟩
def slicePlace (c : Nat) : Place := corePlace (1024 + c)
def porterCore (die : Nat) : Nat := 256 * die + 160

/-- The output ports that a packet leaves by along a row or a column (R112), each as its class and instance. -/
def rowHops (die y x u : Nat) : List (Nat × Nat) :=
  if x < u then (upTo (u - x)).map fun i => (2, 1024 * die + 4 * (16 * y + (x + i)))
  else (upTo (x - u)).map fun i => (2, 1024 * die + 4 * (16 * y + (x - i)) + 2)
def columnHops (die x y v : Nat) : List (Nat × Nat) :=
  if y < v then (upTo (v - y)).map fun i => (2, 1024 * die + 4 * (16 * (y + i) + x) + 3)
  else (upTo (y - v)).map fun i => (2, 1024 * die + 4 * (16 * (y - i) + x) + 1)

/-- The die-to-die link that a die's horizontal or vertical crossing uses, its direction as a LINK instance, and the die it leads to (R14, R112). -/
def crossLink (die : Nat) (horizontal : Bool) : Nat := if horizontal then die / 2 else 2 + die % 2
def crossInst (die : Nat) (horizontal : Bool) : Nat :=
  4096 + 2 * crossLink die horizontal + (if horizontal then die % 2 else die / 2)
def crossDie (die : Nat) (horizontal : Bool) : Nat :=
  if horizontal then (if die % 2 = 0 then die + 1 else die - 1) else (if die < 2 then die + 2 else die - 2)

/-- The crossings of the square from one die to another in a dimension order (R117), true for a horizontal one. -/
def crossings (n m : Nat) (yf : Bool) : List Bool :=
  let h := if n % 2 = m % 2 then [] else [true]
  let v := if n / 2 = m / 2 then [] else [false]
  if yf then v ++ h else h ++ v

/-- The links of a list of crossings. -/
def crossed (n : Nat) : List Bool → List Nat
  | [] => []
  | h :: r => crossLink n h :: crossed (crossDie n h) r

/-- The crossings with a fenced link avoided: traffic goes the other way round the square (R32). -/
def detour (fenced : List Nat) (n m : Nat) (yf : Bool) : List Bool :=
  let l := crossings n m yf
  if (crossed n l).any fenced.contains then
    match l with
    | [h] => [!h, h, !h]
    | l => l.reverse
  else l

/-- The route of a packet through a list of crossings to a router of the last die (R117): X-first, it turns into the columns when it has no more
horizontal way to go, and Y-first the other way about. A crossing leaves from the edge of the mesh (log 18). -/
def routeVia (n x y u v : Nat) (yf : Bool) : List Bool → List (Nat × Nat)
  | [] => if yf then columnHops n x y v ++ rowHops n v x u else rowHops n y x u ++ columnHops n u y v
  | true :: r =>
    let y1 := if yf && !r.contains false then v else y
    let e := if n % 2 = 0 then 15 else 0
    columnHops n x y y1 ++ rowHops n y1 x e ++ (2, crossInst n true) :: routeVia (crossDie n true) (15 - e) y1 u v yf r
  | false :: r =>
    let x1 := if !yf && !r.contains true then u else x
    let e := if n < 2 then 15 else 0
    rowHops n y x x1 ++ columnHops n x1 y e ++ (2, crossInst n false) :: routeVia (crossDie n false) x1 (15 - e) u v yf r

/-- The LINK instances of a packet's route (R112, R117). -/
def route (fenced : List Nat) (p q : Place) (yf : Bool) : List (Nat × Nat) :=
  routeVia p.die p.x p.y q.x q.y yf (detour fenced p.die q.die yf)

/-- A packet whose source and destination differ in both dimensions, the square counting as one more of each, has a choice of order (R117). -/
def needsChoice (p q : Place) : Bool :=
  decide ((p.x ≠ q.x ∨ p.die % 2 ≠ q.die % 2) ∧ (p.y ≠ q.y ∨ p.die / 2 ≠ q.die / 2))

/-- The input link on which a packet reaches the last router of its route, by its place in the list local, east, north, west, south (R384). -/
def inputLink (path : List (Nat × Nat)) : Nat :=
  match path.getLast? with
  | none => 0
  | some (_, j) =>
    if j < 4096 then (match j % 4 with | 0 => 3 | 1 => 4 | 2 => 1 | _ => 2)
    else if j < 4100 then (if j % 2 = 0 then 3 else 1)
    else (if j % 2 = 0 then 2 else 4)

end Sys2Proof.Machine
end

