-- ==== Sys2Proof/WellFormed.lean ====
section
/-!
DEFINITION. The checks that an instruction meets beyond the widths of its fields (R261, R265 and the notes of each
instruction's rule).
-/

namespace Sys2Proof

/-- The length a length field stands for (R281): 0 stands for 64. -/
def fieldLen (l : BitVec 6) : Nat := if l.toNat = 0 then 64 else l.toNat

/-- TY lies in a set of type codes, given as one bit for each code (R320). -/
def tyIn (tys : BitVec 8) (ty : BitVec 3) : Bool := tys.getLsbD ty.toNat
def ty0to5 : BitVec 8 := 0x3F
def ty3to5 : BitVec 8 := 0x38
def ty0to2 : BitVec 8 := 0x07
def ty3or5 : BitVec 8 := 0x28
def tyAll : BitVec 8 := 0xFF

/-- The numbers of the system registers (R362). -/
def sysRegListed (num : BitVec 12) : Bool :=
  let n := num.toNat
  n == 0 || n == 1 || (0x10 ≤ n && n ≤ 0x17) || n == 0x20 || n == 0x21 || (0x30 ≤ n && n ≤ 0x39)
    || (0x40 ≤ n && n ≤ 0x43) || n == 0x50

/-- AMO: a relaxed operation names no scope (R312). -/
def amoWf (ord : BitVec 2) (scope : BitVec 3) : Bool := ord != 0 || scope == 0

/-- An instruction is well-formed when it meets its own field notes (R261, R281, R295, R308, R312, R313, R320, R346, R361); a step
of the hardware carries what its sender put into it. -/
def wf (i : Instr) : Bool :=
  match i with
  | .extu _ _ pos len => decide (pos.toNat + fieldLen len ≤ 64)
  | .exts _ _ pos len => decide (pos.toNat + fieldLen len ≤ 64)
  | .ins _ _ pos len => decide (pos.toNat + fieldLen len ≤ 64)
  | .safept g _ => !g.getLsbD 0
  | .cflush _ _ sc => decide (sc.toNat ≤ 4)
  | .cclean _ _ sc => decide (sc.toNat ≤ 4)
  | .cinval _ _ sc => decide (sc.toNat ≤ 4)
  | .amoAdd _ _ _ _ ord scope => amoWf ord scope
  | .amoAnd _ _ _ _ ord scope => amoWf ord scope
  | .amoOr _ _ _ _ ord scope => amoWf ord scope
  | .amoXor _ _ _ _ ord scope => amoWf ord scope
  | .amoMin _ _ _ _ ord scope => amoWf ord scope
  | .amoMax _ _ _ _ ord scope => amoWf ord scope
  | .amoMinu _ _ _ _ ord scope => amoWf ord scope
  | .amoMaxu _ _ _ _ ord scope => amoWf ord scope
  | .amoSwap _ _ _ _ ord scope => amoWf ord scope
  | .amoCas _ _ _ _ _ ord scope => amoWf ord scope
  | .amoFadd _ _ _ ord scope => amoWf ord scope
  | .redAdd _ _ _ rel scope => rel || scope == 0
  | .redAnd _ _ _ rel scope => rel || scope == 0
  | .redOr _ _ _ rel scope => rel || scope == 0
  | .redXor _ _ _ rel scope => rel || scope == 0
  | .redMin _ _ _ rel scope => rel || scope == 0
  | .redMax _ _ _ rel scope => rel || scope == 0
  | .redMinu _ _ _ rel scope => rel || scope == 0
  | .redMaxu _ _ _ rel scope => rel || scope == 0
  | .redFadd _ _ rel scope => rel || scope == 0
  | .trytake d _ _ => d != 0 && d != 63
  | .vadd _ _ _ _ ty => tyIn ty0to5 ty
  | .vsub _ _ _ _ ty => tyIn ty0to5 ty
  | .vmul _ _ _ _ ty => tyIn ty0to5 ty
  | .vfma _ _ _ _ ty => tyIn ty0to5 ty
  | .vmin _ _ _ _ ty => tyIn ty0to5 ty
  | .vmax _ _ _ _ ty => tyIn ty0to5 ty
  | .vrcp _ _ _ ty => tyIn ty3to5 ty
  | .vrsqrt _ _ _ ty => tyIn ty3to5 ty
  | .vexp2 _ _ _ ty => tyIn ty3to5 ty
  | .vlog2 _ _ _ ty => tyIn ty3to5 ty
  | .vabs _ _ _ ty => tyIn ty0to5 ty
  | .vneg _ _ _ ty => tyIn ty0to5 ty
  | .vcmpEq _ _ _ _ ty => tyIn ty0to5 ty
  | .vcmpNe _ _ _ _ ty => tyIn ty0to5 ty
  | .vcmpLt _ _ _ _ ty => tyIn ty0to5 ty
  | .vcmpLe _ _ _ _ ty => tyIn ty0to5 ty
  | .vshl _ _ _ _ ty => tyIn ty0to2 ty
  | .vshr _ _ _ _ ty => tyIn ty0to2 ty
  | .vsar _ _ _ _ ty => tyIn ty0to2 ty
  | .vsum _ _ _ ty => tyIn ty0to5 ty
  | .vrmax _ _ _ ty => tyIn ty0to5 ty
  | .vrmin _ _ _ ty => tyIn ty0to5 ty
  | .vlut _ _ _ ty _ _ _ => tyIn ty3or5 ty
  | .vscale _ _ _ _ ty _ _ => tyIn ty3to5 ty
  | .copy _ _ _ n _ _ _ dk => dk != 3 && (dk == 0 || (n.reg != 0 && n.reg != 63))
  | .mfs _ n => sysRegListed n
  | .mts n _ => sysRegListed n
  | .dtcTick .. | .deviceReset .. | .linkCrcReplay .. | .linkRetrain .. | .linkRetrainEnd .. | .powerCapHold ..
  | .thermalEvent .. | .thermalStop .. | .channelSlot .. | .channelRefreshSlot .. | .lp6ReadRepeat ..
  | .wstoreRefresh .. | .notify .. | .vcpTakeRecord .. | .launch .. | .cmdCopy .. | .wait .. | .waitMet ..
  | .waitTimeout .. | .signal .. | .wsopen .. | .wsopenComplete .. | .wsclose .. | .indirect ..
  | .recordComplete .. | .shadowQcbWrite .. | .featCommit .. | .functionLevelReset .. | .hostBar2Access ..
  | .registerWrite .. | .layoutCommit .. | .layoutDiscard .. | .layoutQuiesceDone .. | .layoutSweepDone ..
  | .layoutSwap .. | .poolSliceEnd .. | .sliceendForceSave .. | .poolSwitchDone .. | .launchAge ..
  | .launchDeadlineExpire .. | .porterSelect .. | .reserveComplete .. | .reserveRollback .. | .launchRetry ..
  | .foreignReserveRequest .. | .commitDone .. | .preemptSavesDone .. | .inboxRecordArrive ..
  | .compositeInstantiate .. | .peerLaunch .. | .gtqSegmentTake .. | .diffusionTick .. | .diffusionRecordArrive ..
  | .tileJcNotify .. | .tileSlot .. | .tileKStep .. | .tileOverrun .. | .tileTaskComplete .. | .accSlotSave ..
  | .frameStart .. | .slotServe .. | .sliceRequestArrive .. | .sweepStep .. | .benchBackoffRetry ..
  | .peerReadRequest .. | .peerWriteRequest .. | .peerAtomicRequest .. | .peerTagMessage .. | .peerFenceMarker ..
  | .peerMarkerAck .. | .peerResponse .. | .remoteFaultReport .. | .pageWalkRead .. | .faultReply ..
  | .invalidationArrive .. | .pageMigrationDone .. | .hostPageRequest .. | .migrationHoldExpire .. | .homeRds ..
  | .homeRdx .. | .homeUpg .. | .homeWb .. | .homeInvAck .. | .homeFwdDone .. | .homeAckMiss .. | .homeAckStale ..
  | .l1Data .. | .l1Grant .. | .l1Inv .. | .l1FwdS .. | .l1FwdX .. | .l1WbAck .. | .homeMerge .. | .mergeAck ..
  | .windowFill .. | .homeAmo .. | .homeRed .. | .homeTake .. | .homeTrytake .. | .homeWaitw .. | .homePut ..
  | .homePutx .. | .homeJcdec .. | .homeJcwait .. | .homeBararr .. | .homeBarwait .. | .homeWsWrite ..
  | .homeWsLoad .. | .homeWithdraw .. | .fenceMarker .. | .markerAck .. | .storageError .. | .producerArrive ..
  | .waitlimExpire .. | .streamHeadFlit .. | .streamWordArrive .. | .gangForward .. | .preemptRequest ..
  | .forcedSave .. | .saveDone .. | .saveWriteFault .. | .cupboardRetry .. | .contextRestore .. | .asyncTrap ..
  | .taskAbort .. | .copyComplete .. | .waittWake .. | .instructionLineFill .. | .homeJcinit .. | .homeBarinit ..
  | .homeTagWrite .. | .nop | .add .. | .sub .. | .addw .. | .subw .. | .and .. | .or .. | .xor .. | .andn ..
  | .shl .. | .shr .. | .sar .. | .rol .. | .seq .. | .sne .. | .slt .. | .sltu .. | .min .. | .max .. | .minu ..
  | .maxu .. | .mul .. | .mulh .. | .mulhu .. | .mulw .. | .div .. | .divu .. | .rem .. | .remu .. | .addi ..
  | .andi .. | .ori .. | .xori .. | .slti .. | .sltiu .. | .shli .. | .shri .. | .sari .. | .addwi .. | .li ..
  | .liw .. | .lid .. | .clz .. | .ctz .. | .popc .. | .bswap .. | .sextB .. | .sextH .. | .sextW .. | .zextW ..
  | .sel .. | .lpc .. | .fadd .. | .fsub .. | .fmul .. | .fdiv .. | .fmin .. | .fmax .. | .fsqrt .. | .fclass ..
  | .ffma .. | .ffms .. | .fnma .. | .fnms .. | .feq .. | .flt .. | .fle .. | .fcvtWF .. | .fcvtFW ..
  | .fcvtBfF .. | .fcvtFBf .. | .fcvtHF .. | .fcvtFH .. | .beq .. | .bne .. | .blt .. | .bge .. | .bltu ..
  | .bgeu .. | .jal .. | .jalr .. | .ldB .. | .ldBu .. | .ldH .. | .ldHu .. | .ldW .. | .ldWu .. | .ldD ..
  | .stB .. | .stH .. | .stW .. | .stD .. | .lda .. | .stl .. | .vld .. | .vldNt .. | .vst .. | .vstNt ..
  | .vstKeep .. | .ldt .. | .stt .. | .ldtTag .. | .sttTag .. | .prefL1 .. | .prefLlc .. | .prefWin .. | .wmap ..
  | .wunmap .. | .wflush .. | .wdrop .. | .wstat .. | .cbld .. | .cbst .. | .take .. | .put .. | .putx ..
  | .waitw .. | .fence .. | .acqr .. | .relr .. | .migrate .. | .rethome | .jcinit .. | .jcdec .. | .jcwait ..
  | .barinit .. | .bararr .. | .barwait .. | .vsel .. | .vand .. | .vor .. | .vxor .. | .vandn .. | .vcvt ..
  | .vperm .. | .vbcast .. | .vins .. | .vextr .. | .vdot .. | .vtagg .. | .vtags .. | .vmov .. | .push ..
  | .waitt .. | .qbind .. | .qunbind .. | .qstat .. | .sopen .. | .sclose .. | .start .. | .reap .. | .endTask
  | .yield | .apply .. | .post .. | .mkfn .. | .mkco .. | .mkseq .. | .mkpar .. | .mkpipe .. | .mkfarm ..
  | .mkloop .. | .cresume .. | .cyield .. | .gform .. | .gleave | .gjoin | .gend | .rand .. | .reseed .. | .exq ..
  | .exh .. | .svc .. | .eret | .brk .. | .tlbi1 .. | .tlbi2 .. | .tlbsync => true

end Sys2Proof
end

