-- ==== Sys2Proof/Decode.lean ====
section
/-!
DEFINITION. The decoder of Ziesque, total on any head and tail, and the encoder, both written from the encoding tables
of spec/11_encoding.md (R255, R260, R265) and the field notes of each instruction.
A tail is given as one little-endian number of up to 96 bits; bits above the tail's own length are zero.
-/

namespace Sys2Proof

noncomputable section

/-- A head and a tail (R255, R260). -/
structure Words where
  head : BitVec 16
  tail : BitVec 96
  deriving DecidableEq, Repr

/-- Tail length in bytes by tail length code (R255); code 7 is reserved and has none. -/
def tailBytes (tlc : BitVec 3) : Nat :=
  match tlc.toNat with
  | 0 => 0 | 1 => 2 | 2 => 4 | 3 => 6 | 4 => 8 | 5 => 12 | 6 => 16 | _ => 0

/-- The tail length code of the head (R255). -/
def headTlc (h : BitVec 16) : BitVec 3 := h.extractLsb' 13 3

/-- The primary opcode of the head (R255). -/
def headOp (h : BitVec 16) : BitVec 7 := h.extractLsb' 6 7

/-- Field A of the head (R255). -/
def headA (h : BitVec 16) : GReg := h.extractLsb' 0 6

/-- A head from its tail length code, opcode and field A (R255). -/
def mkHead (tlc : BitVec 3) (op : BitVec 7) (a : GReg) : BitVec 16 := (tlc ++ op ++ a).setWidth 16

/-- The register field at bit k of a tail, with the mode bit above it (R260). -/
def srcAt (t : BitVec 96) (k : Nat) : Src := ⟨t.extractLsb' k 6, t.getLsbD (k + 6)⟩

/-- A register field with its mode bit above it, as seven bits (R260). -/
def srcBits (s : Src) : BitVec 7 := (BitVec.ofBool s.mode ++ s.reg).setWidth 7

/-- Tail T2R (R260). -/
structure T2R where
  b : Src
  c : Src
  f : BitVec 2
  deriving DecidableEq, Repr

def T2R.ofTail (t : BitVec 96) : T2R := ⟨srcAt t 0, srcAt t 7, t.extractLsb' 14 2⟩
def T2R.toTail (x : T2R) : BitVec 96 := (x.f ++ srcBits x.c ++ srcBits x.b).setWidth 96

/-- Tail T4I (R260). -/
structure T4I where
  b : Src
  f : BitVec 4
  imm : BitVec 21
  deriving DecidableEq, Repr

def T4I.ofTail (t : BitVec 96) : T4I := ⟨srcAt t 0, t.extractLsb' 7 4, t.extractLsb' 11 21⟩
def T4I.toTail (x : T4I) : BitVec 96 := (x.imm ++ x.f ++ srcBits x.b).setWidth 96

/-- Tail T4B (R260). -/
structure T4B where
  b : Src
  ma : Bool
  disp : BitVec 24
  deriving DecidableEq, Repr

def T4B.ofTail (t : BitVec 96) : T4B := ⟨srcAt t 0, t.getLsbD 7, t.extractLsb' 8 24⟩
def T4B.toTail (x : T4B) : BitVec 96 := (x.disp ++ BitVec.ofBool x.ma ++ srcBits x.b).setWidth 96

/-- Tail T4S (R260); z is bit 12. -/
structure T4S where
  b : Src
  scope : BitVec 3
  w : BitVec 2
  z : Bool
  imm : BitVec 19
  deriving DecidableEq, Repr

def T4S.ofTail (t : BitVec 96) : T4S :=
  ⟨srcAt t 0, t.extractLsb' 7 3, t.extractLsb' 10 2, t.getLsbD 12, t.extractLsb' 13 19⟩
def T4S.toTail (x : T4S) : BitVec 96 :=
  (x.imm ++ BitVec.ofBool x.z ++ x.w ++ x.scope ++ srcBits x.b).setWidth 96

/-- Tail T6 (R260); z is bit 31. -/
structure T6 where
  b : Src
  c : Src
  d : Src
  f : BitVec 4
  ty : BitVec 3
  sc : BitVec 3
  z : Bool
  x16 : BitVec 16
  deriving DecidableEq, Repr

def T6.ofTail (t : BitVec 96) : T6 :=
  ⟨srcAt t 0, srcAt t 7, srcAt t 14, t.extractLsb' 21 4, t.extractLsb' 25 3, t.extractLsb' 28 3, t.getLsbD 31,
    t.extractLsb' 32 16⟩
def T6.toTail (x : T6) : BitVec 96 :=
  (x.x16 ++ BitVec.ofBool x.z ++ x.sc ++ x.ty ++ x.f ++ srcBits x.d ++ srcBits x.c ++ srcBits x.b).setWidth 96

/-- The tail length code that the layout of each opcode has (R255, R265); none for a reserved opcode (R266). -/
def opTlc (op : BitVec 7) : Option (BitVec 3) :=
  let n := op.toNat
  if n = 0x00 then some 0
  else if n ≤ 0x07 ∨ n = 0x09 ∨ n = 0x0C ∨ n = 0x10 ∨ n = 0x2C ∨ n = 0x2D ∨ n = 0x3B ∨ (0x44 ≤ n ∧ n ≤ 0x46)
    ∨ n = 0x68 ∨ (0x6A ≤ n ∧ n ≤ 0x6C) ∨ n = 0x70 ∨ n = 0x73 ∨ n = 0x74 ∨ n = 0x78 ∨ n = 0x7D ∨ n = 0x7E then some 1
  else if n = 0x08 ∨ n = 0x0A ∨ n = 0x0D ∨ n = 0x0F ∨ (0x20 ≤ n ∧ n ≤ 0x27) ∨ (0x2F ≤ n ∧ n ≤ 0x35) ∨ n = 0x38
    ∨ n = 0x3C ∨ n = 0x42 ∨ n = 0x7C then some 2
  else if n = 0x0E ∨ n = 0x2E ∨ n = 0x36 ∨ n = 0x37 ∨ n = 0x39 ∨ n = 0x3A ∨ n = 0x40 ∨ n = 0x41 ∨ n = 0x43
    ∨ (0x50 ≤ n ∧ n ≤ 0x61) ∨ n = 0x69 ∨ n = 0x71 ∨ n = 0x72 then some 3
  else if n = 0x0B then some 4
  else if n = 0x28 then some 5
  else none

/-- An instruction when its must-be-zero fields and ranges hold (R261, R266). -/
def only (c : Bool) (i : Instr) : Option Instr := if c then some i else none

/-- A field that is not used, mode bit included, is zero (R261). -/
def Src.none (s : Src) : Bool := s.reg == 0 && !s.mode

/-- The four selectors of a T2R opcode with operands A, B and C (R265). -/
def decAlu (a : GReg) (x : T2R) (f0 f1 f2 f3 : GReg → Src → Src → Instr) : Option Instr :=
  match x.f.toNat with
  | 0 => some (f0 a x.b x.c)
  | 1 => some (f1 a x.b x.c)
  | 2 => some (f2 a x.b x.c)
  | _ => some (f3 a x.b x.c)

/-- The four selectors of a T2R opcode with operands A and B, in which C must be zero (R280). -/
def decUnary (a : GReg) (x : T2R) (f0 f1 f2 f3 : GReg → Src → Instr) : Option Instr :=
  match x.f.toNat with
  | 0 => only x.c.none (f0 a x.b)
  | 1 => only x.c.none (f1 a x.b)
  | 2 => only x.c.none (f2 a x.b)
  | _ => only x.c.none (f3 a x.b)

/-- Opcode 0x08 (R278). -/
def decImm (a : GReg) (x : T4I) : Option Instr :=
  let n : BitVec 6 := x.imm.extractLsb' 0 6
  let sh := x.imm.extractLsb' 6 15 == (0 : BitVec 15)
  match x.f.toNat with
  | 0 => some (.addi a x.b x.imm)
  | 1 => some (.andi a x.b x.imm)
  | 2 => some (.ori a x.b x.imm)
  | 3 => some (.xori a x.b x.imm)
  | 4 => some (.slti a x.b x.imm)
  | 5 => some (.sltiu a x.b x.imm)
  | 6 => only sh (.shli a x.b n)
  | 7 => only sh (.shri a x.b n)
  | 8 => only sh (.sari a x.b n)
  | 9 => some (.addwi a x.b x.imm)
  | _ => none

/-- Opcode 0x0D (R281). -/
def decField (a : GReg) (x : T4I) : Option Instr :=
  let p : BitVec 6 := x.imm.extractLsb' 0 6
  let l : BitVec 6 := x.imm.extractLsb' 6 6
  let ok := x.imm.extractLsb' 12 9 == (0 : BitVec 9) && decide (p.toNat + fieldLen l ≤ 64)
  match x.f.toNat with
  | 0 => only ok (.extu a x.b p l)
  | 1 => only ok (.exts a x.b p l)
  | 2 => only ok (.ins a x.b p l)
  | _ => none

/-- T6 operations on four general registers with TY, SC, X16 and bit 31 zero (R282, R288, R309). -/
def decG4 (a : GReg) (x : T6) (mk : GReg → Src → Src → Src → Instr) : Option Instr :=
  only (x.ty == 0 && x.sc == 0 && x.x16 == 0 && !x.z) (mk a x.b x.c x.d)

/-- Opcode 0x2F (R289). -/
def decFcvt (a : GReg) (x : T4I) : Option Instr :=
  let rm : BitVec 2 := x.imm.extractLsb' 0 2
  let c : GReg := x.imm.extractLsb' 2 6
  let hi := x.imm.extractLsb' 8 13 == (0 : BitVec 13)
  match x.f.toNat with
  | 0 => only (hi && rm == 0) (.feq a x.b c)
  | 1 => only (hi && rm == 0) (.flt a x.b c)
  | 2 => only (hi && rm == 0) (.fle a x.b c)
  | 3 => only (hi && c == 0) (.fcvtWF a x.b rm)
  | 4 => only (hi && c == 0) (.fcvtFW a x.b rm)
  | 5 => only (hi && c == 0) (.fcvtBfF a x.b rm)
  | 6 => only (hi && c == 0 && rm == 0) (.fcvtFBf a x.b)
  | 7 => only (hi && c == 0) (.fcvtHF a x.b rm)
  | 8 => only (hi && c == 0 && rm == 0) (.fcvtFH a x.b)
  | _ => none

/-- Opcode 0x30 (R300). -/
def decLoad (a : GReg) (x : T4I) : Option Instr :=
  match x.f.toNat with
  | 0 => some (.ldB a x.b x.imm)
  | 1 => some (.ldBu a x.b x.imm)
  | 2 => some (.ldH a x.b x.imm)
  | 3 => some (.ldHu a x.b x.imm)
  | 4 => some (.ldW a x.b x.imm)
  | 5 => some (.ldWu a x.b x.imm)
  | 6 => some (.ldD a x.b x.imm)
  | _ => none

/-- Opcode 0x31 (R300). -/
def decStore (a : GReg) (x : T4I) : Option Instr :=
  match x.f.toNat with
  | 0 => some (.stB a x.b x.imm)
  | 1 => some (.stH a x.b x.imm)
  | 2 => some (.stW a x.b x.imm)
  | 3 => some (.stD a x.b x.imm)
  | _ => none

/-- A head field A that names a vector register has bit 5 clear (R262). -/
def vA (a : GReg) : VReg := a.extractLsb' 0 5
def vAok (a : GReg) : Bool := !a.getLsbD 5

/-- A source field that names a vector register (R262). -/
def Src.v (s : Src) : VSrc := ⟨s.reg.extractLsb' 0 5, s.mode⟩
def Src.vok (s : Src) : Bool := !s.reg.getLsbD 5

/-- Opcodes 0x34 and 0x35 (R302). -/
def decVmem (a : GReg) (x : T4I) (store : Bool) : Option Instr :=
  match store, x.f.toNat with
  | false, 0 => only (vAok a) (.vld (vA a) x.b x.imm)
  | false, 1 => only (vAok a) (.vldNt (vA a) x.b x.imm)
  | true, 0 => only (vAok a) (.vst (vA a) x.b x.imm)
  | true, 1 => only (vAok a) (.vstNt (vA a) x.b x.imm)
  | true, 2 => only (vAok a) (.vstKeep (vA a) x.b x.imm)
  | _, _ => none

/-- Opcodes 0x36 and 0x37, with the tag form at X16[9] (R303, R306). -/
def decTyped (a : GReg) (x : T6) (store : Bool) : Option Instr :=
  let scale : BitVec 8 := x.x16.extractLsb' 0 8
  let inf := x.x16.getLsbD 8
  let rm : BitVec 2 := x.sc.extractLsb' 0 2
  let base := x.f == 0 && !x.z && x.x16.extractLsb' 10 6 == (0 : BitVec 6)
  let tagOk := base && x.c.none && x.d.none && x.ty == 0 && x.sc == 0 && !inf && scale == 0
  let typed := base && !x.sc.getLsbD 2 && vAok a
  match x.x16.getLsbD 9, store with
  | true, false => only tagOk (.ldtTag a x.b)
  | true, true => only tagOk (.sttTag a x.b)
  | false, false => only (typed && scale == 0) (.ldt (vA a) x.b x.c x.d x.ty rm inf)
  | false, true => only typed (.stt (vA a) x.b x.c x.d x.ty rm inf scale)

/-- Opcode 0x38 (R307). -/
def decPref (a : GReg) (x : T4I) : Option Instr :=
  match x.f.toNat with
  | 0 => only (a == 0) (.prefL1 x.b x.imm)
  | 1 => only (a == 0) (.prefLlc x.b x.imm)
  | 2 => only (a == 0) (.prefWin x.b x.imm)
  | _ => none

/-- Opcode 0x39 (R308). -/
def decFlush (a : GReg) (x : T6) : Option Instr :=
  let ok := a == 0 && x.d.none && x.ty == 0 && x.x16 == 0 && !x.z && decide (x.sc.toNat ≤ 4)
  match x.f.toNat with
  | 0 => only ok (.cflush x.b x.c x.sc)
  | 1 => only ok (.cclean x.b x.c x.sc)
  | 2 => only ok (.cinval x.b x.c x.sc)
  | _ => none

/-- Opcode 0x3B (R310). -/
def decWin (a : GReg) (x : T2R) : Option Instr :=
  match x.f.toNat with
  | 0 => only (a == 0 && x.c.none) (.wunmap x.b)
  | 1 => only (a == 0 && x.c.none) (.wflush x.b)
  | 2 => only (a == 0 && x.c.none) (.wdrop x.b)
  | _ => only x.c.none (.wstat a x.b)

/-- Opcode 0x3C (R311). -/
def decCb (a : GReg) (x : T4I) : Option Instr :=
  let k : BitVec 3 := a.extractLsb' 0 3
  let ok := a.extractLsb' 3 3 == (0 : BitVec 3)
  match x.f.toNat with
  | 0 => only ok (.cbld k x.b x.imm)
  | 1 => only ok (.cbst k x.b x.imm)
  | _ => none

/-- Opcode 0x40 (R312): X16 is WD, ORD, SCOPE and nine zero bits. -/
def decAmo (a : GReg) (x : T6) : Option Instr :=
  let wide := x.x16.getLsbD 0
  let ord : BitVec 2 := x.x16.extractLsb' 2 2
  let scope : BitVec 3 := x.x16.extractLsb' 4 3
  let ok := x.ty == 0 && x.sc == 0 && !x.z && x.x16.getLsbD 1 && x.x16.extractLsb' 7 9 == (0 : BitVec 9)
    && (ord != 0 || scope == 0)
  match x.f.toNat with
  | 0 => only (ok && x.d.none) (.amoAdd a x.b x.c wide ord scope)
  | 1 => only (ok && x.d.none) (.amoAnd a x.b x.c wide ord scope)
  | 2 => only (ok && x.d.none) (.amoOr a x.b x.c wide ord scope)
  | 3 => only (ok && x.d.none) (.amoXor a x.b x.c wide ord scope)
  | 4 => only (ok && x.d.none) (.amoMin a x.b x.c wide ord scope)
  | 5 => only (ok && x.d.none) (.amoMax a x.b x.c wide ord scope)
  | 6 => only (ok && x.d.none) (.amoMinu a x.b x.c wide ord scope)
  | 7 => only (ok && x.d.none) (.amoMaxu a x.b x.c wide ord scope)
  | 8 => only (ok && x.d.none) (.amoSwap a x.b x.c wide ord scope)
  | 9 => only ok (.amoCas a x.b x.c x.d wide ord scope)
  | 10 => only (ok && x.d.none && !wide) (.amoFadd a x.b x.c ord scope)
  | _ => none

/-- Opcode 0x41 (R312): A and D are zero, and ORD is 0 or 2 (R171). -/
def decRed (a : GReg) (x : T6) : Option Instr :=
  let wide := x.x16.getLsbD 0
  let rel := x.x16.getLsbD 3
  let scope : BitVec 3 := x.x16.extractLsb' 4 3
  let ok := a == 0 && x.d.none && x.ty == 0 && x.sc == 0 && !x.z && x.x16.getLsbD 1 && !x.x16.getLsbD 2
    && x.x16.extractLsb' 7 9 == (0 : BitVec 9) && (rel || scope == 0)
  match x.f.toNat with
  | 0 => only ok (.redAdd x.b x.c wide rel scope)
  | 1 => only ok (.redAnd x.b x.c wide rel scope)
  | 2 => only ok (.redOr x.b x.c wide rel scope)
  | 3 => only ok (.redXor x.b x.c wide rel scope)
  | 4 => only ok (.redMin x.b x.c wide rel scope)
  | 5 => only ok (.redMax x.b x.c wide rel scope)
  | 6 => only ok (.redMinu x.b x.c wide rel scope)
  | 7 => only ok (.redMaxu x.b x.c wide rel scope)
  | 10 => only (ok && !wide) (.redFadd x.b x.c rel scope)
  | _ => none

/-- Opcode 0x42 (R313). -/
def decTake (a : GReg) (x : T4I) : Option Instr :=
  match x.f.toNat with
  | 0 => some (.take a x.b x.imm)
  | 1 => only (a != 0 && a != 63) (.trytake a x.b x.imm)
  | 2 => some (.put a x.b x.imm)
  | 3 => some (.putx a x.b x.imm)
  | 4 => some (.waitw a x.b x.imm)
  | _ => none

/-- Opcode 0x43 (R314). -/
def decFence (a : GReg) (x : T6) : Option Instr :=
  let ok := a == 0 && x.d.none && x.ty == 0 && x.x16 == 0 && !x.z
  match x.f.toNat with
  | 0 => only (ok && x.b.none && x.c.none) (.fence x.sc)
  | 1 => only ok (.acqr x.b x.c x.sc)
  | 2 => only ok (.relr x.b x.c x.sc)
  | _ => none

/-- Opcodes 0x44, 0x45 and 0x46 (R315, R316, R317). -/
def decMigr (a : GReg) (x : T2R) : Option Instr :=
  match x.f.toNat with
  | 0 => only (a == 0 && x.c.none) (.migrate x.b)
  | 1 => only (a == 0 && x.b.none && x.c.none) .rethome
  | _ => none
def decJc (a : GReg) (x : T2R) : Option Instr :=
  match x.f.toNat with
  | 0 => only (a == 0) (.jcinit x.b x.c)
  | 1 => only (a == 0 && x.c.none) (.jcdec x.b)
  | 2 => only (a == 0 && x.c.none) (.jcwait x.b)
  | _ => none
def decBar (a : GReg) (x : T2R) : Option Instr :=
  match x.f.toNat with
  | 0 => only (a == 0) (.barinit x.b x.c)
  | 1 => only x.c.none (.bararr a x.b)
  | 2 => only (a == 0) (.barwait x.b x.c)
  | _ => none

/-- A vector instruction's SC, X16 and bit 31 are zero and its TY lies in the set (R319, R320). -/
def vPlain (x : T6) (tys : BitVec 8) : Bool := x.sc == 0 && x.x16 == 0 && !x.z && tyIn tys x.ty

/-- Forms of R320: vector from two vectors, from one vector, and a general register from vectors. -/
def decVVV (a : GReg) (x : T6) (tys : BitVec 8) (mk : VReg → VSrc → VSrc → Src → BitVec 3 → Instr) : Option Instr :=
  only (vPlain x tys && vAok a && x.b.vok && x.c.vok) (mk (vA a) x.b.v x.c.v x.d x.ty)
def decVV (a : GReg) (x : T6) (tys : BitVec 8) (mk : VReg → VSrc → Src → BitVec 3 → Instr) : Option Instr :=
  only (vPlain x tys && vAok a && x.b.vok && x.c.none) (mk (vA a) x.b.v x.d x.ty)
def decGVV (a : GReg) (x : T6) (tys : BitVec 8) (mk : GReg → VSrc → VSrc → Src → BitVec 3 → Instr) : Option Instr :=
  only (vPlain x tys && x.b.vok && x.c.vok) (mk a x.b.v x.c.v x.d x.ty)
def decGV (a : GReg) (x : T6) (tys : BitVec 8) (mk : GReg → VSrc → Src → BitVec 3 → Instr) : Option Instr :=
  only (vPlain x tys && x.b.vok && x.c.none) (mk a x.b.v x.d x.ty)

/-- Opcode 0x55 (R322). -/
def decV55 (a : GReg) (x : T6) : Option Instr :=
  match x.f.toNat with
  | 0 => decVV a x ty3to5 .vrcp
  | 1 => decVV a x ty3to5 .vrsqrt
  | 2 => decVV a x ty3to5 .vexp2
  | 3 => decVV a x ty3to5 .vlog2
  | 4 => decVV a x ty0to5 .vabs
  | 5 => decVV a x ty0to5 .vneg
  | _ => none

/-- Opcodes 0x56, 0x58, 0x59 and 0x5B (R321, R323, R326). -/
def decV56 (a : GReg) (x : T6) : Option Instr :=
  match x.f.toNat with
  | 0 => decGVV a x ty0to5 .vcmpEq
  | 1 => decGVV a x ty0to5 .vcmpNe
  | 2 => decGVV a x ty0to5 .vcmpLt
  | 3 => decGVV a x ty0to5 .vcmpLe
  | _ => none
def decV58 (a : GReg) (x : T6) : Option Instr :=
  match x.f.toNat with
  | 0 => decVVV a x tyAll .vand
  | 1 => decVVV a x tyAll .vor
  | 2 => decVVV a x tyAll .vxor
  | 3 => decVVV a x tyAll .vandn
  | _ => none
def decV59 (a : GReg) (x : T6) : Option Instr :=
  match x.f.toNat with
  | 0 => decVVV a x ty0to2 .vshl
  | 1 => decVVV a x ty0to2 .vshr
  | 2 => decVVV a x ty0to2 .vsar
  | _ => none
def decV5B (a : GReg) (x : T6) : Option Instr :=
  match x.f.toNat with
  | 0 => decGV a x ty0to5 .vsum
  | 1 => decGV a x ty0to5 .vrmax
  | 2 => decGV a x ty0to5 .vrmin
  | _ => none

/-- Opcode 0x5C (R327). -/
def decV5C (a : GReg) (x : T6) : Option Instr :=
  match x.f.toNat with
  | 0 => decVVV a x tyAll .vperm
  | 1 => only (vPlain x tyAll && vAok a && x.c.none) (.vbcast (vA a) x.b x.d x.ty)
  | 2 => only (vPlain x tyAll && vAok a && x.d.none) (.vins (vA a) x.b x.c x.ty)
  | 3 => only (vPlain x tyAll && x.b.vok && x.d.none) (.vextr a x.b.v x.c x.ty)
  | _ => none

/-- Opcodes 0x5A and 0x5D (R325, R328): SC[1:0] rounding, X16 PART and MODE. -/
def decVcvt (a : GReg) (x : T6) : Option Instr :=
  only (x.f == 0 && !x.sc.getLsbD 2 && !x.z && vAok a && x.b.vok && x.c.none
      && x.x16.extractLsb' 2 6 == (0 : BitVec 6) && x.x16.extractLsb' 9 7 == (0 : BitVec 7))
    (.vcvt (vA a) x.b.v x.d x.ty (x.sc.extractLsb' 0 2) (x.x16.extractLsb' 0 2) (x.x16.getLsbD 8))
def decVlut (a : GReg) (x : T6) : Option Instr :=
  only (x.f == 0 && !x.sc.getLsbD 2 && !x.z && vAok a && x.b.vok && x.c.none && tyIn ty3or5 x.ty
      && x.x16.extractLsb' 3 5 == (0 : BitVec 5) && x.x16.extractLsb' 9 7 == (0 : BitVec 7))
    (.vlut (vA a) x.b.v x.d x.ty (x.sc.extractLsb' 0 2) (x.x16.extractLsb' 0 3) (x.x16.getLsbD 8))

/-- Opcodes 0x5F and 0x61 (R330, R331). -/
def decVtag (a : GReg) (x : T6) : Option Instr :=
  let ok := x.c.none && x.d.none && x.ty == 0 && x.sc == 0 && x.x16 == 0 && !x.z
  match x.f.toNat with
  | 0 => only (ok && x.b.vok) (.vtagg a x.b.v)
  | 1 => only (ok && vAok a) (.vtags (vA a) x.b)
  | _ => none
def decVscale (a : GReg) (x : T6) : Option Instr :=
  only (x.f == 0 && !x.sc.getLsbD 2 && !x.z && vAok a && x.b.vok && tyIn ty3to5 x.ty)
    (.vscale (vA a) x.b.v x.c x.d x.ty (x.sc.extractLsb' 0 2) x.x16)

/-- Opcode 0x69 (R346). -/
def decCopy (a : GReg) (x : T6) : Option Instr :=
  let dk : BitVec 2 := x.x16.extractLsb' 2 2
  only (x.f == 0 && x.ty == 0 && !x.z && x.x16.extractLsb' 4 12 == (0 : BitVec 12) && dk != 3
      && (dk == 0 || (x.d.reg != 0 && x.d.reg != 63)))
    (.copy a x.b x.c x.d x.sc (x.x16.getLsbD 0) (x.x16.getLsbD 1) dk)

/-- A field that must name g56 to g63, as the number of its queue register (R351, R352). -/
def qNum (a : GReg) : BitVec 3 := a.extractLsb' 0 3
def qOk (a : GReg) : Bool := a.extractLsb' 3 3 == (7 : BitVec 3)

/-- Opcodes 0x6B and 0x6C (R351, R352). -/
def decQueue (a : GReg) (x : T2R) : Option Instr :=
  match x.f.toNat with
  | 0 => only (qOk a && x.c.none) (.qbind (qNum a) x.b)
  | 1 => only (qOk a && x.b.none && x.c.none) (.qunbind (qNum a))
  | 2 => only (qOk x.b.reg && !x.b.mode && x.c.none) (.qstat a (qNum x.b.reg))
  | _ => none
def decStream (a : GReg) (x : T2R) : Option Instr :=
  match x.f.toNat with
  | 0 => only (qOk a) (.sopen (qNum a) x.b x.c)
  | 1 => only (qOk a && x.b.none && x.c.none) (.sclose (qNum a))
  | _ => none

/-- Opcode 0x70 (R353). -/
def decCtx (a : GReg) (x : T2R) : Option Instr :=
  match x.f.toNat with
  | 0 => only (a == 0 && x.c.none) (.start x.b)
  | 1 => only x.c.none (.reap a x.b)
  | 2 => only (a == 0 && x.b.none && x.c.none) .endTask
  | _ => only (a == 0 && x.b.none && x.c.none) .yield

/-- Opcodes 0x71 and 0x72 (R356, R357). -/
def decLaunch (a : GReg) (x : T6) : Option Instr :=
  let ok := a == 0 && x.d.none && x.ty == 0 && x.x16 == 0 && !x.z
  match x.f.toNat with
  | 0 => only (ok && x.c.none) (.apply x.b x.sc)
  | 1 => only ok (.post x.b x.c x.sc)
  | _ => none
def decMk (a : GReg) (x : T6) : Option Instr :=
  let ok := a == 0 && x.d.none && x.ty == 0 && !x.z && !x.x16.getLsbD 15
  let y : BitVec 15 := x.x16.extractLsb' 0 15
  match x.f.toNat with
  | 0 => only ok (.mkfn x.b x.c x.sc y)
  | 1 => only ok (.mkco x.b x.c x.sc y)
  | 2 => only ok (.mkseq x.b x.c x.sc y)
  | 3 => only ok (.mkpar x.b x.c x.sc y)
  | 4 => only ok (.mkpipe x.b x.c x.sc y)
  | 5 => only ok (.mkfarm x.b x.c x.sc y)
  | 6 => only ok (.mkloop x.b x.c x.sc y)
  | _ => none

/-- Opcodes 0x73 and 0x74 (R358, R359). -/
def decCo (a : GReg) (x : T2R) : Option Instr :=
  match x.f.toNat with
  | 0 => some (.cresume a x.b x.c)
  | 1 => only x.c.none (.cyield a x.b)
  | _ => none
def decGang (a : GReg) (x : T2R) : Option Instr :=
  match x.f.toNat with
  | 0 => only (a == 0 && x.c.none) (.gform x.b)
  | 1 => only (a == 0 && x.b.none && x.c.none) .gleave
  | 2 => only (a == 0 && x.b.none && x.c.none) .gjoin
  | _ => only (a == 0 && x.b.none && x.c.none) .gend

/-- Opcode 0x78 (R360). -/
def decRand (a : GReg) (x : T2R) : Option Instr :=
  match x.f.toNat with
  | 0 => only x.c.none (.rand a x.b)
  | 1 => only (a == 0) (.reseed x.b x.c)
  | 2 => some (.exq a x.b x.c)
  | _ => only x.c.none (.exh a x.b)

/-- Opcode 0x7C (R361). -/
def decSys (a : GReg) (x : T4I) : Option Instr :=
  let num : BitVec 12 := x.imm.extractLsb' 0 12
  let ok := x.b.none && x.imm.extractLsb' 12 9 == (0 : BitVec 9) && sysRegListed num
  match x.f.toNat with
  | 0 => only ok (.mfs a num)
  | 1 => only ok (.mts num a)
  | _ => none

/-- Opcode 0x7D (R364). -/
def decTrap (a : GReg) (imm : BitVec 16) : Option Instr :=
  match a.toNat with
  | 0 => some (.svc imm)
  | 1 => only (imm == 0) .eret
  | 2 => some (.brk imm)
  | _ => none

/-- Opcode 0x7E (R365). -/
def decTlb (a : GReg) (x : T2R) : Option Instr :=
  match x.f.toNat with
  | 0 => only (a == 0) (.tlbi1 x.b x.c)
  | 1 => only (a == 0) (.tlbi2 x.b x.c)
  | 2 => only (a == 0 && x.b.none && x.c.none) .tlbsync
  | _ => none

/-- Selector 0 alone is a function of the opcode (R265). -/
def f0 (x : T6) (i : Option Instr) : Option Instr := if x.f == 0 then i else none

/-- Opcodes 0x00 to 0x2F (R265). -/
def decodeLow (op : Nat) (a : GReg) (t : BitVec 96) : Option Instr :=
  match op with
  | 0x00 => only (a == 0) .nop
  | 0x01 => decAlu a (.ofTail t) .add .sub .addw .subw
  | 0x02 => decAlu a (.ofTail t) .and .or .xor .andn
  | 0x03 => decAlu a (.ofTail t) .shl .shr .sar .rol
  | 0x04 => decAlu a (.ofTail t) .seq .sne .slt .sltu
  | 0x05 => decAlu a (.ofTail t) .min .max .minu .maxu
  | 0x06 => decAlu a (.ofTail t) .mul .mulh .mulhu .mulw
  | 0x07 => decAlu a (.ofTail t) .div .divu .rem .remu
  | 0x08 => decImm a (.ofTail t)
  | 0x09 => some (.li a (t.extractLsb' 0 16))
  | 0x0A => some (.liw a (t.extractLsb' 0 32))
  | 0x0B => some (.lid a (t.extractLsb' 0 64))
  | 0x0C => decUnary a (.ofTail t) .clz .ctz .popc .bswap
  | 0x0D => decField a (.ofTail t)
  | 0x0E => f0 (.ofTail t) (decG4 a (.ofTail t) .sel)
  | 0x0F => let x := T4B.ofTail t; only (x.b.none && !x.ma) (.lpc a x.disp)
  | 0x10 => decUnary a (.ofTail t) .sextB .sextH .sextW .zextW
  | 0x20 => let x := T4B.ofTail t; some (.beq ⟨a, x.ma⟩ x.b x.disp)
  | 0x21 => let x := T4B.ofTail t; some (.bne ⟨a, x.ma⟩ x.b x.disp)
  | 0x22 => let x := T4B.ofTail t; some (.blt ⟨a, x.ma⟩ x.b x.disp)
  | 0x23 => let x := T4B.ofTail t; some (.bge ⟨a, x.ma⟩ x.b x.disp)
  | 0x24 => let x := T4B.ofTail t; some (.bltu ⟨a, x.ma⟩ x.b x.disp)
  | 0x25 => let x := T4B.ofTail t; some (.bgeu ⟨a, x.ma⟩ x.b x.disp)
  | 0x26 => let x := T4B.ofTail t; only (x.b.none && !x.ma) (.jal a x.disp)
  | 0x27 => let x := T4I.ofTail t; only (x.f == 0) (.jalr a x.b x.imm)
  | 0x28 => only (a == 0 && !t.getLsbD 0) (.safept (t.extractLsb' 0 64) (t.extractLsb' 64 32))
  | 0x2C => decAlu a (.ofTail t) .fadd .fsub .fmul .fdiv
  | 0x2D =>
    let x := T2R.ofTail t
    match x.f.toNat with
    | 0 => some (.fmin a x.b x.c)
    | 1 => some (.fmax a x.b x.c)
    | 2 => only x.c.none (.fsqrt a x.b)
    | _ => only x.c.none (.fclass a x.b)
  | 0x2E =>
    let x := T6.ofTail t
    match x.f.toNat with
    | 0 => decG4 a x .ffma
    | 1 => decG4 a x .ffms
    | 2 => decG4 a x .fnma
    | 3 => decG4 a x .fnms
    | _ => none
  | 0x2F => decFcvt a (.ofTail t)
  | _ => none

/-- Opcodes 0x30 to 0x7F (R265). -/
def decodeHigh (op : Nat) (a : GReg) (t : BitVec 96) : Option Instr :=
  match op with
  | 0x30 => decLoad a (.ofTail t)
  | 0x31 => decStore a (.ofTail t)
  | 0x32 => let x := T4S.ofTail t; only (!x.z) (.lda a x.b x.scope x.w x.imm)
  | 0x33 => let x := T4S.ofTail t; only (!x.z) (.stl a x.b x.scope x.w x.imm)
  | 0x34 => decVmem a (.ofTail t) false
  | 0x35 => decVmem a (.ofTail t) true
  | 0x36 => decTyped a (.ofTail t) false
  | 0x37 => decTyped a (.ofTail t) true
  | 0x38 => decPref a (.ofTail t)
  | 0x39 => decFlush a (.ofTail t)
  | 0x3A => f0 (.ofTail t) (decG4 a (.ofTail t) .wmap)
  | 0x3B => decWin a (.ofTail t)
  | 0x3C => decCb a (.ofTail t)
  | 0x40 => decAmo a (.ofTail t)
  | 0x41 => decRed a (.ofTail t)
  | 0x42 => decTake a (.ofTail t)
  | 0x43 => decFence a (.ofTail t)
  | 0x44 => decMigr a (.ofTail t)
  | 0x45 => decJc a (.ofTail t)
  | 0x46 => decBar a (.ofTail t)
  | 0x50 => f0 (.ofTail t) (decVVV a (.ofTail t) ty0to5 .vadd)
  | 0x51 => f0 (.ofTail t) (decVVV a (.ofTail t) ty0to5 .vsub)
  | 0x52 => f0 (.ofTail t) (decVVV a (.ofTail t) ty0to5 .vmul)
  | 0x53 => f0 (.ofTail t) (decVVV a (.ofTail t) ty0to5 .vfma)
  | 0x54 =>
    let x := T6.ofTail t
    match x.f.toNat with
    | 0 => decVVV a x ty0to5 .vmin
    | 1 => decVVV a x ty0to5 .vmax
    | _ => none
  | 0x55 => decV55 a (.ofTail t)
  | 0x56 => decV56 a (.ofTail t)
  | 0x57 => f0 (.ofTail t) (decVVV a (.ofTail t) tyAll .vsel)
  | 0x58 => decV58 a (.ofTail t)
  | 0x59 => decV59 a (.ofTail t)
  | 0x5A => decVcvt a (.ofTail t)
  | 0x5B => decV5B a (.ofTail t)
  | 0x5C => decV5C a (.ofTail t)
  | 0x5D => decVlut a (.ofTail t)
  | 0x5E => f0 (.ofTail t) (decGVV a (.ofTail t) tyAll .vdot)
  | 0x5F => decVtag a (.ofTail t)
  | 0x60 => f0 (.ofTail t) (decVV a (.ofTail t) tyAll .vmov)
  | 0x61 => decVscale a (.ofTail t)
  | 0x68 => let x := T2R.ofTail t; only (x.f == 0 && x.c.none) (.push a x.b)
  | 0x69 => decCopy a (.ofTail t)
  | 0x6A => let x := T2R.ofTail t; only (a == 0 && x.f == 0 && x.c.none) (.waitt x.b)
  | 0x6B => decQueue a (.ofTail t)
  | 0x6C => decStream a (.ofTail t)
  | 0x70 => decCtx a (.ofTail t)
  | 0x71 => decLaunch a (.ofTail t)
  | 0x72 => decMk a (.ofTail t)
  | 0x73 => decCo a (.ofTail t)
  | 0x74 => decGang a (.ofTail t)
  | 0x78 => decRand a (.ofTail t)
  | 0x7C => decSys a (.ofTail t)
  | 0x7D => decTrap a (t.extractLsb' 0 16)
  | 0x7E => decTlb a (.ofTail t)
  | _ => none

/-- The decoder: the instruction a head and its tail encode, or none, which raises UNDEF at issue (R266). -/
def decode (h : BitVec 16) (t : BitVec 96) : Option Instr :=
  if opTlc (headOp h) = some (headTlc h) then
    if (headOp h).toNat < 0x30 then decodeLow (headOp h).toNat (headA h) t
    else decodeHigh (headOp h).toNat (headA h) t
  else none

/-- The head and tail of a T2R instruction (R260). -/
def w2r (op : BitVec 7) (a : GReg) (b c : Src) (f : BitVec 2) : Option Words :=
  some ⟨mkHead 1 op a, T2R.toTail ⟨b, c, f⟩⟩
/-- The head and tail of a T4I instruction (R260). -/
def w4i (op : BitVec 7) (a : GReg) (b : Src) (f : BitVec 4) (imm : BitVec 21) : Option Words :=
  some ⟨mkHead 2 op a, T4I.toTail ⟨b, f, imm⟩⟩
/-- The head and tail of a T4B instruction (R260). -/
def w4b (op : BitVec 7) (a : Src) (b : Src) (disp : BitVec 24) : Option Words :=
  some ⟨mkHead 2 op a.reg, T4B.toTail ⟨b, a.mode, disp⟩⟩
/-- The head and tail of a T6 instruction (R260). -/
def w6 (op : BitVec 7) (a : GReg) (b c d : Src) (f : BitVec 4) (ty sc : BitVec 3) (x : BitVec 16) : Option Words :=
  some ⟨mkHead 3 op a, T6.toTail ⟨b, c, d, f, ty, sc, false, x⟩⟩

/-- A field that an instruction does not use (R261). -/
def z : Src := ⟨0, false⟩
/-- A vector register as a 6-bit field (R262). -/
def VSrc.g (s : VSrc) : Src := ⟨s.reg.setWidth 6, s.mode⟩
def vg (v : VReg) : GReg := v.setWidth 6
/-- Queue register q as the field that names g(56 + q) (R262). -/
def qg (q : BitVec 3) : GReg := ((7 : BitVec 3) ++ q).setWidth 6
/-- The immediate of EXTU, EXTS and INS (R281). -/
def fieldImm (pos len : BitVec 6) : BitVec 21 := (len ++ pos).setWidth 21
/-- The immediate of opcode 0x2F (R289). -/
def fcvtImm (c : GReg) (rm : BitVec 2) : BitVec 21 := (c ++ rm).setWidth 21
/-- X16 of AMO and RED (R312). -/
def amoX (wide : Bool) (ord : BitVec 2) (scope : BitVec 3) : BitVec 16 :=
  (scope ++ ord ++ (1 : BitVec 1) ++ BitVec.ofBool wide).setWidth 16
/-- X16 of VCVT and VLUT (R320). -/
def cvtX (inf : Bool) (part : BitVec 3) : BitVec 16 := (BitVec.ofBool inf ++ (0 : BitVec 5) ++ part).setWidth 16
/-- SC as a rounding mode (R260). -/
def rmSc (rm : BitVec 2) : BitVec 3 := rm.setWidth 3

/-- ORD of a RED: 0 relaxed, 2 release (R171, R312). -/
def relOrd (rel : Bool) : BitVec 2 := if rel then 2 else 0

/-- The encoder: the head and tail of an instruction of Ziesque, written from R260 and R265; a step of the hardware has
no encoding. -/
def encode (i : Instr) : Option Words :=
  match i with
  | .nop => some ⟨0, 0⟩
  | .add d b c => w2r 0x01 d b c 0
  | .sub d b c => w2r 0x01 d b c 1
  | .addw d b c => w2r 0x01 d b c 2
  | .subw d b c => w2r 0x01 d b c 3
  | .and d b c => w2r 0x02 d b c 0
  | .or d b c => w2r 0x02 d b c 1
  | .xor d b c => w2r 0x02 d b c 2
  | .andn d b c => w2r 0x02 d b c 3
  | .shl d b c => w2r 0x03 d b c 0
  | .shr d b c => w2r 0x03 d b c 1
  | .sar d b c => w2r 0x03 d b c 2
  | .rol d b c => w2r 0x03 d b c 3
  | .seq d b c => w2r 0x04 d b c 0
  | .sne d b c => w2r 0x04 d b c 1
  | .slt d b c => w2r 0x04 d b c 2
  | .sltu d b c => w2r 0x04 d b c 3
  | .min d b c => w2r 0x05 d b c 0
  | .max d b c => w2r 0x05 d b c 1
  | .minu d b c => w2r 0x05 d b c 2
  | .maxu d b c => w2r 0x05 d b c 3
  | .mul d b c => w2r 0x06 d b c 0
  | .mulh d b c => w2r 0x06 d b c 1
  | .mulhu d b c => w2r 0x06 d b c 2
  | .mulw d b c => w2r 0x06 d b c 3
  | .div d b c => w2r 0x07 d b c 0
  | .divu d b c => w2r 0x07 d b c 1
  | .rem d b c => w2r 0x07 d b c 2
  | .remu d b c => w2r 0x07 d b c 3
  | .addi d b i => w4i 0x08 d b 0 i
  | .andi d b i => w4i 0x08 d b 1 i
  | .ori d b i => w4i 0x08 d b 2 i
  | .xori d b i => w4i 0x08 d b 3 i
  | .slti d b i => w4i 0x08 d b 4 i
  | .sltiu d b i => w4i 0x08 d b 5 i
  | .shli d b n => w4i 0x08 d b 6 (n.setWidth 21)
  | .shri d b n => w4i 0x08 d b 7 (n.setWidth 21)
  | .sari d b n => w4i 0x08 d b 8 (n.setWidth 21)
  | .addwi d b i => w4i 0x08 d b 9 i
  | .li d i => some ⟨mkHead 1 0x09 d, i.setWidth 96⟩
  | .liw d i => some ⟨mkHead 2 0x0A d, i.setWidth 96⟩
  | .lid d i => some ⟨mkHead 4 0x0B d, i.setWidth 96⟩
  | .clz d b => w2r 0x0C d b z 0
  | .ctz d b => w2r 0x0C d b z 1
  | .popc d b => w2r 0x0C d b z 2
  | .bswap d b => w2r 0x0C d b z 3
  | .sextB d b => w2r 0x10 d b z 0
  | .sextH d b => w2r 0x10 d b z 1
  | .sextW d b => w2r 0x10 d b z 2
  | .zextW d b => w2r 0x10 d b z 3
  | .extu d b p l => w4i 0x0D d b 0 (fieldImm p l)
  | .exts d b p l => w4i 0x0D d b 1 (fieldImm p l)
  | .ins d b p l => w4i 0x0D d b 2 (fieldImm p l)
  | .sel d b c x => w6 0x0E d b c x 0 0 0 0
  | .lpc d disp => w4b 0x0F ⟨d, false⟩ z disp
  | .fadd d b c => w2r 0x2C d b c 0
  | .fsub d b c => w2r 0x2C d b c 1
  | .fmul d b c => w2r 0x2C d b c 2
  | .fdiv d b c => w2r 0x2C d b c 3
  | .fmin d b c => w2r 0x2D d b c 0
  | .fmax d b c => w2r 0x2D d b c 1
  | .fsqrt d b => w2r 0x2D d b z 2
  | .fclass d b => w2r 0x2D d b z 3
  | .ffma d b c x => w6 0x2E d b c x 0 0 0 0
  | .ffms d b c x => w6 0x2E d b c x 1 0 0 0
  | .fnma d b c x => w6 0x2E d b c x 2 0 0 0
  | .fnms d b c x => w6 0x2E d b c x 3 0 0 0
  | .feq d b c => w4i 0x2F d b 0 (fcvtImm c 0)
  | .flt d b c => w4i 0x2F d b 1 (fcvtImm c 0)
  | .fle d b c => w4i 0x2F d b 2 (fcvtImm c 0)
  | .fcvtWF d b rm => w4i 0x2F d b 3 (fcvtImm 0 rm)
  | .fcvtFW d b rm => w4i 0x2F d b 4 (fcvtImm 0 rm)
  | .fcvtBfF d b rm => w4i 0x2F d b 5 (fcvtImm 0 rm)
  | .fcvtHF d b rm => w4i 0x2F d b 7 (fcvtImm 0 rm)
  | .fcvtFBf d b => w4i 0x2F d b 6 0
  | .fcvtFH d b => w4i 0x2F d b 8 0
  | .beq a b disp => w4b 0x20 a b disp
  | .bne a b disp => w4b 0x21 a b disp
  | .blt a b disp => w4b 0x22 a b disp
  | .bge a b disp => w4b 0x23 a b disp
  | .bltu a b disp => w4b 0x24 a b disp
  | .bgeu a b disp => w4b 0x25 a b disp
  | .jal d disp => w4b 0x26 ⟨d, false⟩ z disp
  | .jalr d b i => w4i 0x27 d b 0 i
  | .safept g v => some ⟨mkHead 5 0x28 0, (v ++ g).setWidth 96⟩
  | .ldB d b i => w4i 0x30 d b 0 i
  | .ldBu d b i => w4i 0x30 d b 1 i
  | .ldH d b i => w4i 0x30 d b 2 i
  | .ldHu d b i => w4i 0x30 d b 3 i
  | .ldW d b i => w4i 0x30 d b 4 i
  | .ldWu d b i => w4i 0x30 d b 5 i
  | .ldD d b i => w4i 0x30 d b 6 i
  | .stB a b i => w4i 0x31 a b 0 i
  | .stH a b i => w4i 0x31 a b 1 i
  | .stW a b i => w4i 0x31 a b 2 i
  | .stD a b i => w4i 0x31 a b 3 i
  | .lda d b sc w i => some ⟨mkHead 2 0x32 d, T4S.toTail ⟨b, sc, w, false, i⟩⟩
  | .stl a b sc w i => some ⟨mkHead 2 0x33 a, T4S.toTail ⟨b, sc, w, false, i⟩⟩
  | .vld v b i => w4i 0x34 (vg v) b 0 i
  | .vldNt v b i => w4i 0x34 (vg v) b 1 i
  | .vst v b i => w4i 0x35 (vg v) b 0 i
  | .vstNt v b i => w4i 0x35 (vg v) b 1 i
  | .vstKeep v b i => w4i 0x35 (vg v) b 2 i
  | .ldt v b c m ty rm inf => w6 0x36 (vg v) b c m 0 ty (rmSc rm) ((BitVec.ofBool inf ++ (0 : BitVec 8)).setWidth 16)
  | .stt v b c m ty rm inf sc => w6 0x37 (vg v) b c m 0 ty (rmSc rm) ((BitVec.ofBool inf ++ sc).setWidth 16)
  | .ldtTag d b => w6 0x36 d b z z 0 0 0 0x200
  | .sttTag a b => w6 0x37 a b z z 0 0 0 0x200
  | .prefL1 b i => w4i 0x38 0 b 0 i
  | .prefLlc b i => w4i 0x38 0 b 1 i
  | .prefWin b i => w4i 0x38 0 b 2 i
  | .cflush b c sc => w6 0x39 0 b c z 0 0 sc 0
  | .cclean b c sc => w6 0x39 0 b c z 1 0 sc 0
  | .cinval b c sc => w6 0x39 0 b c z 2 0 sc 0
  | .wmap d b c x => w6 0x3A d b c x 0 0 0 0
  | .wunmap b => w2r 0x3B 0 b z 0
  | .wflush b => w2r 0x3B 0 b z 1
  | .wdrop b => w2r 0x3B 0 b z 2
  | .wstat d b => w2r 0x3B d b z 3
  | .cbld k b i => w4i 0x3C (k.setWidth 6) b 0 i
  | .cbst k b i => w4i 0x3C (k.setWidth 6) b 1 i
  | .amoAdd d b c w o sc => w6 0x40 d b c z 0 0 0 (amoX w o sc)
  | .amoAnd d b c w o sc => w6 0x40 d b c z 1 0 0 (amoX w o sc)
  | .amoOr d b c w o sc => w6 0x40 d b c z 2 0 0 (amoX w o sc)
  | .amoXor d b c w o sc => w6 0x40 d b c z 3 0 0 (amoX w o sc)
  | .amoMin d b c w o sc => w6 0x40 d b c z 4 0 0 (amoX w o sc)
  | .amoMax d b c w o sc => w6 0x40 d b c z 5 0 0 (amoX w o sc)
  | .amoMinu d b c w o sc => w6 0x40 d b c z 6 0 0 (amoX w o sc)
  | .amoMaxu d b c w o sc => w6 0x40 d b c z 7 0 0 (amoX w o sc)
  | .amoSwap d b c w o sc => w6 0x40 d b c z 8 0 0 (amoX w o sc)
  | .amoCas d b c x w o sc => w6 0x40 d b c x 9 0 0 (amoX w o sc)
  | .amoFadd d b c o sc => w6 0x40 d b c z 10 0 0 (amoX false o sc)
  | .redAdd b c w r sc => w6 0x41 0 b c z 0 0 0 (amoX w (relOrd r) sc)
  | .redAnd b c w r sc => w6 0x41 0 b c z 1 0 0 (amoX w (relOrd r) sc)
  | .redOr b c w r sc => w6 0x41 0 b c z 2 0 0 (amoX w (relOrd r) sc)
  | .redXor b c w r sc => w6 0x41 0 b c z 3 0 0 (amoX w (relOrd r) sc)
  | .redMin b c w r sc => w6 0x41 0 b c z 4 0 0 (amoX w (relOrd r) sc)
  | .redMax b c w r sc => w6 0x41 0 b c z 5 0 0 (amoX w (relOrd r) sc)
  | .redMinu b c w r sc => w6 0x41 0 b c z 6 0 0 (amoX w (relOrd r) sc)
  | .redMaxu b c w r sc => w6 0x41 0 b c z 7 0 0 (amoX w (relOrd r) sc)
  | .redFadd b c r sc => w6 0x41 0 b c z 10 0 0 (amoX false (relOrd r) sc)
  | .take a b i => w4i 0x42 a b 0 i
  | .trytake a b i => w4i 0x42 a b 1 i
  | .put a b i => w4i 0x42 a b 2 i
  | .putx a b i => w4i 0x42 a b 3 i
  | .waitw a b i => w4i 0x42 a b 4 i
  | .fence sc => w6 0x43 0 z z z 0 0 sc 0
  | .acqr b c sc => w6 0x43 0 b c z 1 0 sc 0
  | .relr b c sc => w6 0x43 0 b c z 2 0 sc 0
  | .migrate b => w2r 0x44 0 b z 0
  | .rethome => w2r 0x44 0 z z 1
  | .jcinit b c => w2r 0x45 0 b c 0
  | .jcdec b => w2r 0x45 0 b z 1
  | .jcwait b => w2r 0x45 0 b z 2
  | .barinit b c => w2r 0x46 0 b c 0
  | .bararr d b => w2r 0x46 d b z 1
  | .barwait b c => w2r 0x46 0 b c 2
  | .vadd v b c m ty => w6 0x50 (vg v) b.g c.g m 0 ty 0 0
  | .vsub v b c m ty => w6 0x51 (vg v) b.g c.g m 0 ty 0 0
  | .vmul v b c m ty => w6 0x52 (vg v) b.g c.g m 0 ty 0 0
  | .vfma v b c m ty => w6 0x53 (vg v) b.g c.g m 0 ty 0 0
  | .vmin v b c m ty => w6 0x54 (vg v) b.g c.g m 0 ty 0 0
  | .vmax v b c m ty => w6 0x54 (vg v) b.g c.g m 1 ty 0 0
  | .vrcp v b m ty => w6 0x55 (vg v) b.g z m 0 ty 0 0
  | .vrsqrt v b m ty => w6 0x55 (vg v) b.g z m 1 ty 0 0
  | .vexp2 v b m ty => w6 0x55 (vg v) b.g z m 2 ty 0 0
  | .vlog2 v b m ty => w6 0x55 (vg v) b.g z m 3 ty 0 0
  | .vabs v b m ty => w6 0x55 (vg v) b.g z m 4 ty 0 0
  | .vneg v b m ty => w6 0x55 (vg v) b.g z m 5 ty 0 0
  | .vcmpEq d b c m ty => w6 0x56 d b.g c.g m 0 ty 0 0
  | .vcmpNe d b c m ty => w6 0x56 d b.g c.g m 1 ty 0 0
  | .vcmpLt d b c m ty => w6 0x56 d b.g c.g m 2 ty 0 0
  | .vcmpLe d b c m ty => w6 0x56 d b.g c.g m 3 ty 0 0
  | .vsel v b c m ty => w6 0x57 (vg v) b.g c.g m 0 ty 0 0
  | .vand v b c m ty => w6 0x58 (vg v) b.g c.g m 0 ty 0 0
  | .vor v b c m ty => w6 0x58 (vg v) b.g c.g m 1 ty 0 0
  | .vxor v b c m ty => w6 0x58 (vg v) b.g c.g m 2 ty 0 0
  | .vandn v b c m ty => w6 0x58 (vg v) b.g c.g m 3 ty 0 0
  | .vshl v b c m ty => w6 0x59 (vg v) b.g c.g m 0 ty 0 0
  | .vshr v b c m ty => w6 0x59 (vg v) b.g c.g m 1 ty 0 0
  | .vsar v b c m ty => w6 0x59 (vg v) b.g c.g m 2 ty 0 0
  | .vcvt v b m ty rm p inf => w6 0x5A (vg v) b.g z m 0 ty (rmSc rm) (cvtX inf (p.setWidth 3))
  | .vsum d b m ty => w6 0x5B d b.g z m 0 ty 0 0
  | .vrmax d b m ty => w6 0x5B d b.g z m 1 ty 0 0
  | .vrmin d b m ty => w6 0x5B d b.g z m 2 ty 0 0
  | .vperm v b c m ty => w6 0x5C (vg v) b.g c.g m 0 ty 0 0
  | .vbcast v b m ty => w6 0x5C (vg v) b z m 1 ty 0 0
  | .vins v b c ty => w6 0x5C (vg v) b c z 2 ty 0 0
  | .vextr d b c ty => w6 0x5C d b.g c z 3 ty 0 0
  | .vlut v b m ty rm p inf => w6 0x5D (vg v) b.g z m 0 ty (rmSc rm) (cvtX inf p)
  | .vdot d b c m ty => w6 0x5E d b.g c.g m 0 ty 0 0
  | .vtagg d b => w6 0x5F d b.g z z 0 0 0 0
  | .vtags v b => w6 0x5F (vg v) b z z 1 0 0 0
  | .vmov v b m ty => w6 0x60 (vg v) b.g z m 0 ty 0 0
  | .vscale v b c m ty rm st => w6 0x61 (vg v) b.g c m 0 ty (rmSc rm) st
  | .push d b => w2r 0x68 d b z 0
  | .copy d b c n sc tags rq dk => w6 0x69 d b c n 0 0 sc ((dk ++ BitVec.ofBool rq ++ BitVec.ofBool tags).setWidth 16)
  | .waitt b => w2r 0x6A 0 b z 0
  | .qbind q b => w2r 0x6B (qg q) b z 0
  | .qunbind q => w2r 0x6B (qg q) z z 1
  | .qstat d q => w2r 0x6B d ⟨qg q, false⟩ z 2
  | .sopen q b c => w2r 0x6C (qg q) b c 0
  | .sclose q => w2r 0x6C (qg q) z z 1
  | .start b => w2r 0x70 0 b z 0
  | .reap d b => w2r 0x70 d b z 1
  | .endTask => w2r 0x70 0 z z 2
  | .yield => w2r 0x70 0 z z 3
  | .apply b sc => w6 0x71 0 b z z 0 0 sc 0
  | .post b c sc => w6 0x71 0 b c z 1 0 sc 0
  | .mkfn b c sc x => w6 0x72 0 b c z 0 0 sc (x.setWidth 16)
  | .mkco b c sc x => w6 0x72 0 b c z 1 0 sc (x.setWidth 16)
  | .mkseq b c sc x => w6 0x72 0 b c z 2 0 sc (x.setWidth 16)
  | .mkpar b c sc x => w6 0x72 0 b c z 3 0 sc (x.setWidth 16)
  | .mkpipe b c sc x => w6 0x72 0 b c z 4 0 sc (x.setWidth 16)
  | .mkfarm b c sc x => w6 0x72 0 b c z 5 0 sc (x.setWidth 16)
  | .mkloop b c sc x => w6 0x72 0 b c z 6 0 sc (x.setWidth 16)
  | .cresume d b c => w2r 0x73 d b c 0
  | .cyield d b => w2r 0x73 d b z 1
  | .gform b => w2r 0x74 0 b z 0
  | .gleave => w2r 0x74 0 z z 1
  | .gjoin => w2r 0x74 0 z z 2
  | .gend => w2r 0x74 0 z z 3
  | .rand d b => w2r 0x78 d b z 0
  | .reseed b c => w2r 0x78 0 b c 1
  | .exq d b c => w2r 0x78 d b c 2
  | .exh d b => w2r 0x78 d b z 3
  | .mfs d n => w4i 0x7C d z 0 (n.setWidth 21)
  | .mts n a => w4i 0x7C a z 1 (n.setWidth 21)
  | .svc i => some ⟨mkHead 1 0x7D 0, i.setWidth 96⟩
  | .eret => some ⟨mkHead 1 0x7D 1, 0⟩
  | .brk i => some ⟨mkHead 1 0x7D 2, i.setWidth 96⟩
  | .tlbi1 b c => w2r 0x7E 0 b c 0
  | .tlbi2 b c => w2r 0x7E 0 b c 1
  | .tlbsync => w2r 0x7E 0 z z 2
  | .dtcTick | .deviceReset .. | .linkCrcReplay .. | .linkRetrain .. | .linkRetrainEnd .. | .powerCapHold .. | .thermalEvent
  | .thermalStop | .channelSlot .. | .channelRefreshSlot .. | .lp6ReadRepeat .. | .wstoreRefresh .. | .notify .. | .vcpTakeRecord ..
  | .launch .. | .cmdCopy .. | .wait .. | .waitMet .. | .waitTimeout .. | .signal .. | .wsopen .. | .wsopenComplete .. | .wsclose ..
  | .indirect .. | .recordComplete .. | .shadowQcbWrite .. | .featCommit .. | .functionLevelReset .. | .hostBar2Access ..
  | .registerWrite .. | .layoutCommit | .layoutDiscard | .layoutQuiesceDone | .layoutSweepDone | .layoutSwap | .poolSliceEnd ..
  | .sliceendForceSave .. | .poolSwitchDone .. | .launchAge .. | .launchDeadlineExpire .. | .porterSelect .. | .reserveComplete ..
  | .reserveRollback .. | .launchRetry .. | .foreignReserveRequest .. | .commitDone .. | .preemptSavesDone .. | .inboxRecordArrive ..
  | .compositeInstantiate .. | .peerLaunch .. | .gtqSegmentTake .. | .diffusionTick | .diffusionRecordArrive .. | .tileJcNotify ..
  | .tileSlot .. | .tileKStep .. | .tileOverrun .. | .tileTaskComplete .. | .accSlotSave .. | .frameStart .. | .slotServe ..
  | .sliceRequestArrive .. | .sweepStep .. | .benchBackoffRetry .. | .peerReadRequest .. | .peerWriteRequest .. | .peerAtomicRequest ..
  | .peerTagMessage .. | .peerFenceMarker .. | .peerMarkerAck .. | .peerResponse .. | .remoteFaultReport .. | .pageWalkRead ..
  | .faultReply .. | .invalidationArrive .. | .pageMigrationDone .. | .hostPageRequest .. | .migrationHoldExpire .. | .homeRds ..
  | .homeRdx .. | .homeUpg .. | .homeWb .. | .homeInvAck .. | .homeFwdDone .. | .homeAckMiss .. | .homeAckStale .. | .l1Data ..
  | .l1Grant .. | .l1Inv .. | .l1FwdS .. | .l1FwdX .. | .l1WbAck .. | .homeMerge .. | .mergeAck .. | .windowFill .. | .homeAmo ..
  | .homeRed .. | .homeTake .. | .homeTrytake .. | .homeWaitw .. | .homePut .. | .homePutx .. | .homeJcdec .. | .homeJcwait ..
  | .homeBararr .. | .homeBarwait .. | .homeWsWrite .. | .homeWsLoad .. | .homeWithdraw .. | .fenceMarker .. | .markerAck ..
  | .storageError .. | .producerArrive .. | .waitlimExpire .. | .streamHeadFlit .. | .streamWordArrive .. | .gangForward ..
  | .preemptRequest .. | .forcedSave .. | .saveDone .. | .saveWriteFault .. | .cupboardRetry .. | .contextRestore .. | .asyncTrap ..
  | .taskAbort .. | .copyComplete .. | .waittWake .. | .instructionLineFill .. | .homeJcinit .. | .homeBarinit .. | .homeTagWrite .. => none

/-- The number of bytes in the tail of a head (R255). -/
def headTailBytes (h : BitVec 16) : Nat := tailBytes (headTlc h)

/-- The decoder's reading of an instruction given as spec/opcode_table.json numbers its bits: the head in the high
sixteen of nbits bits and the tail below it; tail bits the table gives no number are zero. -/
def decodeTableWord (nbits w : Nat) : Option Instr :=
  decode (BitVec.ofNat 16 (w >>> (nbits - 16))) (BitVec.ofNat 96 (w % 2 ^ (nbits - 16)))

end

end Sys2Proof
end

