-- ==== Sys2Proof/Machine/Units.lean ====
section
/-!
DEFINITION. The units of the device by number, the data of a block wherever it stands (R183), and the streams and their draws (R104, R105).
-/

namespace Sys2Proof.Machine

/-- A context; an unlisted one is as after reset (R187, R188). -/
def State.ctx (s : State) (n : Nat) : Ctx :=
  (tget s.ctxs n).getD (if n % 16 = 0 then Ctx.control else Ctx.free)
def State.setCtx (s : State) (n : Nat) (c : Ctx) : State := { s with ctxs := tset s.ctxs n c }
def State.modCtx (s : State) (n : Nat) (f : Ctx → Ctx) : State := s.setCtx n (f (s.ctx n))

def State.core (s : State) (n : Nat) : Core := (tget s.cores n).getD Core.reset
def State.setCore (s : State) (n : Nat) (c : Core) : State := { s with cores := tset s.cores n c }
def State.modCore (s : State) (n : Nat) (f : Core → Core) : State := s.setCore n (f (s.core n))

def State.cluster (s : State) (n : Nat) : Cluster := (tget s.clusters n).getD Cluster.reset
def State.modCluster (s : State) (n : Nat) (f : Cluster → Cluster) : State :=
  { s with clusters := tset s.clusters n (f (s.cluster n)) }

def State.porter (s : State) (n : Nat) : Porter := (tget s.porters n).getD Porter.reset
def State.modPorter (s : State) (n : Nat) (f : Porter → Porter) : State :=
  { s with porters := tset s.porters n (f (s.porter n)) }

def State.slice (s : State) (n : Nat) : Slice := (tget s.slices n).getD Slice.reset
def State.modSlice (s : State) (n : Nat) (f : Slice → Slice) : State :=
  { s with slices := tset s.slices n (f (s.slice n)) }

def State.owner (s : State) (n : Nat) : Owner := (tget s.owners n).getD (Owner.reset OwnerRec.zero)
def State.modOwner (s : State) (n : Nat) (f : Owner → Owner) : State :=
  { s with owners := tset s.owners n (f (s.owner n)) }

def State.dirOf (s : State) (block : Nat) : Dir := (tget s.dir block).getD Dir.unc
def State.setDir (s : State) (block : Nat) (d : Dir) : State :=
  { s with dir := if d = Dir.unc then tdel s.dir block else tset s.dir block d }

def State.vcp (s : State) (o v : Nat) : Vcp := (tget s.vcps (64 * o + v)).getD Vcp.reset
def State.modVcp (s : State) (o v : Nat) (f : Vcp → Vcp) : State :=
  { s with vcps := tset s.vcps (64 * o + v) (f (s.vcp o v)) }

def State.pool (s : State) (p : Nat) : Pool := (tget s.pools p).getD Pool.reset
def State.modPool (s : State) (p : Nat) (f : Pool → Pool) : State := { s with pools := tset s.pools p (f (s.pool p)) }

def State.link (s : State) (l : Nat) : LinkState := (tget s.links l).getD .up

/-- The tag of a block of memory; after reset every tag is zero (R35 step 5). -/
def State.tagAt (s : State) (block : Nat) : Tag := (tget s.tags block).getD 0
def State.setTag (s : State) (block : Nat) (t : Tag) : State :=
  { s with tags := tagSet s.tags block t }

/-- Steps of the hardware added behind those in flight (log 2). -/
def State.post (s : State) (l : List Instr) : State := { s with agenda := s.agenda ++ l }
/-- A step of the hardware that is tried again in the next cycle (log 2). -/
def State.postLater (s : State) (l : List Instr) : State := { s with later := s.later ++ l }
/-- Steps of the hardware added ahead of those in flight. -/
def State.postFirst (s : State) (l : List Instr) : State := { s with agenda := l ++ s.agenda }

/-- A layout commit that affects an owner holds its work (R65). -/
def State.layoutHeld (s : State) (o : Nat) : Bool :=
  decide (2 ≤ s.layout.state.toNat ∧ s.layout.state.toNat ≤ 4) && s.layout.affected.contains o

/-- An event for management or firmware. -/
def State.report (s : State) (e : Event) : State := { s with events := s.events ++ [e] }

/-- The L1 line of a block at a core. -/
def State.l1 (s : State) (core block : Nat) : Option L1Line := tget (s.core core).l1 block
def State.setL1 (s : State) (core block : Nat) (l : L1Line) : State :=
  s.modCore core fun c => { c with l1 := tset c.l1 block l }
def State.dropL1 (s : State) (core block : Nat) : State := s.modCore core fun c => { c with l1 := tdel c.l1 block }

/-- A line state in which the L1 holds the block's data (R183, R371). -/
def L1State.holds : L1State → Bool
  | .isD | .imD => false
  | _ => true

/-- Data on its way to a core, in a message in flight. -/
def dataInFlight (l : List Instr) (core block : Nat) : Option (Block × Tag) :=
  match l with
  | [] => none
  | .l1Data c b _ d t :: r => if c = core ∧ b = block then some (d, t) else dataInFlight r core block
  | _ :: r => dataInFlight r core block

/-- The data and tag of a block as a coherent reader sees them (R162, R183): its owner's copy where an owner holds it,
the owner's data on its way, or the home's. -/
def State.coherent (s : State) (pa : Nat) : Block × Tag :=
  let b := pa / 64
  let home := (readBlock s.mem (64 * b), s.tagAt b)
  let d := s.dirOf b
  match d.st with
  | .unc | .shd => home
  | _ =>
    match s.l1 d.owner b with
    | some l => if l.st.holds then (l.data, l.tag) else (dataInFlight s.agenda d.owner b).getD home
    | none => home

/-- A block's data and tag written at the home. -/
def State.writeHome (s : State) (pa : Nat) (d : Block) (t : Tag) : State :=
  { s with mem := writeBlock s.mem (pa / 64 * 64) d }.setTag (pa / 64) t

/-- The home of a block is between stable states, or a message about it is in flight (R185). -/
def State.busy (s : State) (block : Nat) : Bool :=
  let t := match (s.dirOf block).st with
    | .unc | .shd | .exc | .own => false
    | _ => true
  t || s.agenda.any fun i => match i with
    | .l1Data _ b .. => b = block
    | .l1Grant _ b => b = block
    | .homeWb r => r.pa / 64 = block
    | _ => false

/-- A line whose block the home takes away (R183, R371): a stable copy goes, one that waits for its upgrade has no data any more, and one whose
write-back is on its way does not stay. -/
def L1Line.taken (l : L1Line) (snoop : Instr) : Option L1Line :=
  match l.st with
  | .m | .o | .e | .s => none
  | .smG => some { l with st := .imD, dirty := false }
  | .miA => some { l with snoop := some snoop }
  | _ => some l

/-- Every L1 copy of a block recalled or invalidated, an owner's data written back first (R149, R170, R172, R306). Lines
that wait for a grant keep waiting. -/
def State.recall (s : State) (pa : Nat) : State :=
  let b := pa / 64
  let (d, t) := s.coherent pa
  let dir := s.dirOf b
  let s1 := if dir.st = .exc ∨ dir.st = .own then s.writeHome pa d t else s
  let drop (s : State) (c : Nat) : State := match (s.l1 c b).map fun l => l.taken (.l1Inv c b) with
    | some (some l) => s.setL1 c b l
    | some none => s.dropL1 c b
    | none => s
  ((dir.owner :: dir.sharers).foldl drop s1).setDir b { dir with st := .unc, owner := 0, sharers := [], cur := none, acks := 0, stale := false }

/-- The frame ownership entry of a frame, as it stands in memory at FOTBASE + 2f (R141). -/
def State.fotAt (s : State) (f : Nat) : BitVec 16 :=
  let a := s.fotBase + 2 * f
  match (s.dirOf (a / 64)).st with
  | .unc | .shd => BitVec.ofNat 16 (readN s.mem a 2)
  | _ => BitVec.ofNat 16 (blockBytes (s.coherent a).1 (a % 64) 2)

/-- A frame ownership entry written by the device, L1 copies recalled first (R141). -/
def State.setFot (s : State) (f : Nat) (e : BitVec 16) : State :=
  let a := s.fotBase + 2 * f
  let s1 := s.recall a
  { s1 with mem := writeN s1.mem a 2 e.toNat }

/-- GEN32 (R104). -/
def gen32 (s : BitVec 32) : BitVec 32 :=
  let a := s ^^^ (s <<< 13)
  let b := a ^^^ (a >>> 17)
  b ^^^ (b <<< 5)

/-- The classes of streams with their constants (R105). -/
inductive StreamClass where
  | repl | route | spare | backoff | prog | cal
  deriving DecidableEq, Repr

def StreamClass.const : StreamClass → BitVec 32
  | .repl => 0x9E3779B9 | .route => 0x7F4A7C15 | .spare => 0x85EBCA6B
  | .backoff => 0xC2B2AE35 | .prog => 0x27D4EB2F | .cal => 0x165667B1

def StreamClass.num : StreamClass → Nat
  | .repl => 0 | .route => 1 | .spare => 2 | .backoff => 3 | .prog => 4 | .cal => 5

/-- A stream: owner, class, die (0 but for the die-local ROUTE instances) and instance (R105). -/
structure StreamId where
  owner : Nat
  cls : StreamClass
  die : Nat
  inst : Nat
  deriving DecidableEq, Repr

/-- The key of a stream in the table. -/
def StreamId.key (t : StreamId) : Nat := ((t.owner * 6 + t.cls.num) * 4 + t.die) * 2 ^ 32 + t.inst

/-- The starting state s0 of a stream under a SEED (R105). -/
def streamStart (seed : Word) (t : StreamId) : BitVec 32 :=
  let v := seed.extractLsb' 0 32 ^^^ t.cls.const ^^^ BitVec.ofNat 32 (t.inst * 0x01000193)
  if v = 0 then t.cls.const else v

/-- The staged record of an owner as a commit sees it (R59): owner 0 is enabled and has every core that no other enabled owner has. -/
def State.stagedRec (s : State) (o : Nat) : OwnerRec :=
  let r := (s.owner o).staged
  if o = 0 then
    let taken := (upTo 15).foldl (fun (m : BitVec 1024) i =>
      let x := (s.owner (i + 1)).staged
      if x.en then m ||| x.cores else m) 0
    { r with en := true, cores := ~~~taken }
  else r

/-- The record of an owner that is in force at a time (R66): from the swap's time on it is the staged one. -/
def State.recordInForce (s : State) (o : Nat) (t : Nat) : OwnerRec :=
  if s.layout.state = 4 ∧ s.layout.swapAt.toNat ≤ t then s.stagedRec o else (s.owner o).active

/-- The SEED of an owner's streams (R66, R106): an owner that the swap of this cycle enables has its record's. -/
def State.seedOf (s : State) (o : Nat) : Word :=
  if (s.recordInForce o s.dtc.toNat).en && !(s.owner o).active.en then (s.recordInForce o s.dtc.toNat).seed else (s.owner o).seed

/-- The state of a stream; one that has not advanced since its start stands at s0. -/
def State.stream (s : State) (t : StreamId) : BitVec 32 :=
  (tget s.streams t.key).getD (streamStart (s.seedOf t.owner) t)

/-- A stream advanced by one step. -/
def State.advance (s : State) (t : StreamId) : State :=
  { s with streams := tset s.streams t.key (gen32 (s.stream t)) }

/-- draw (R104): the value in the range n, from the state that the step leaves. -/
def drawValue (st : BitVec 32) (n : Nat) : Nat := st.toNat * n / 2 ^ 32
def State.draw (s : State) (t : StreamId) (n : Nat) : Nat × State :=
  (drawValue (gen32 (s.stream t)) n, s.advance t)

/-- order (R104), by structural recursion on the number of items. -/
def State.order {α : Type} (s : State) (t : StreamId) : Nat → List α → List α × State
  | 0, l => (l, s)
  | _, [] => ([], s)
  | _, [a] => ([a], s)
  | n + 1, l =>
    let (x, s1) := s.draw t l.length
    match l[x]? with
    | some a => let (r, s2) := s1.order t n (dropAt l x); (a :: r, s2)
    | none => (l, s1)

/-- Every stream of an owner restarted under its SEED (R106, R126). -/
def State.restartStreams (s : State) (o : Nat) : State :=
  { s with streams := s.streams.filter fun e => e.1 / 2 ^ 32 / 4 / 6 != o }

/-- The quota of an owner in a class on a die (R59, R112). -/
def OwnerRec.quota (r : OwnerRec) (die k : Nat) : Nat :=
  bits ((r.dies.toList.getD die .zero).dieq.toNat) (8 * k + 6) (8 * k)

/-- The die of a resource instance (R112, R113). -/
def instDie (k j : Nat) : Nat :=
  match k with
  | 0 => j / 64
  | 1 => j / 128
  | 2 =>
    if j < 4096 then j / 1024
    else
      let l := (j - 4096) / 2
      let d := (j - 4096) % 2
      let lo := if l = 0 then 0 else if l = 1 then 2 else if l = 2 then 0 else 1
      let hi := if l = 0 then 1 else if l = 1 then 3 else if l = 2 then 2 else 3
      if d = 0 then lo else hi
  | 3 => j / 32
  | 4 => j / 8
  | 5 => j / 64
  | _ => j / 8

/-- A free value taken: the counter it is applied to, and the state with the counter advanced (log 1). -/
def State.freeCount (s : State) : Nat × State := (s.fresh, { s with fresh := s.fresh + 1 })

/-- A fresh number for a producer, a launch, a node, a walk or a copy. -/
def State.newId (s : State) : Nat × State := (s.nextId, { s with nextId := s.nextId + 1 })

end Sys2Proof.Machine
end

