-- ==== Sys2Proof/Machine/Slots.lean ====
section
/-!
DEFINITION. Frames and slots of the shared resources (R22, R23, R29, R112 to R116), the wait counters (R121, R123), and the packets that cross
the meshes in LINK slots (R14, R117).
-/

namespace Sys2Proof.Machine

/-- Slot lengths in cycles (R112). -/
def slotLength (k : Nat) : Nat :=
  match k with
  | 0 => 1 | 1 => 9 | 2 => 1 | 3 => 8 | 4 => 4 | 5 => 5 | _ => 32

/-- The slots of a frame: 64, and the refresh slot that CHANNEL frames have (R23, R112). -/
def frameSlots (k : Nat) : Nat := if k = 1 then 65 else 64

/-- The frame length of a class in cycles (R23, R112). -/
def frameLength (k : Nat) : Nat := frameSlots k * slotLength k

/-- The number of the slot in course at a time, counted from DTC 0, refresh slots among them. -/
def slotNo (k : Nat) (t : Word) : Nat := t.toNat / slotLength k

/-- The first slot of the first frame that starts at or after the boot layout is applied (R106). -/
def State.firstSlot (s : State) (k : Nat) : Nat := (s.boot.toNat + frameLength k - 1) / frameLength k * frameSlots k

/-- The instances of each class (R112). -/
def instances (k : Nat) : Nat :=
  match k with
  | 0 => 256 | 1 => 512 | 2 => 4104 | 3 => 128 | 4 => 32 | 5 => 256 | _ => 32

/-- The key of a resource instance. -/
def resKey (k j : Nat) : Nat := k * 65536 + j
def State.resource (s : State) (k j : Nat) : Resource := (tget s.resources (resKey k j)).getD Resource.reset
def State.modResource (s : State) (k j : Nat) (f : Resource → Resource) : State :=
  { s with resources := tset s.resources (resKey k j) (f (s.resource k j)) }

/-- A weight-store bank is in its refresh window (R116): bank b from 2,400 b cycles on, for 1,200 cycles of each 153,600. -/
def inRefresh (bank : Nat) (t : Nat) : Bool := decide ((t + 153600 - 2400 * bank) % 153600 < 1200)

/-- A slot by its number serves no owner: the refresh slot of a CHANNEL frame, and the slots of a bank in its refresh window (R23, R116). -/
def lostSlot (k j i : Nat) : Bool :=
  (decide (k = 1) && decide (i % 65 = 64)) || (decide (k = 5) && inRefresh (j % 64) (i * slotLength 5))

/-- The wait of a request in slot times (R121): the slots that serve owners, from the first one after the request became oldest to the one that
serves it. A refresh slot or window on the way is no slot time (R23). -/
def waitOf (k j : Nat) (since now : Word) : Nat :=
  let n := slotNo k now - slotNo k since - 1
  if k = 1 ∨ k = 5 then ((upTo n).filter fun d => !lostSlot k j (slotNo k since + 1 + d)).length else n

/-- The bin of a wait in slot times (R123). -/
def binOf (w : Nat) : Nat := if w = 0 then 0 else if 16384 ≤ w then 15 else Nat.log2 w + 1

/-- The key of a wait counter: die, owner, class, bin (R123). -/
def binKey (die o k bin : Nat) : Nat := ((die * 16 + o) * 8 + k) * 16 + bin

/-- A served request counted in its bin, saturating (R123). -/
def State.count (s : State) (die o k w : Nat) : State :=
  let key := binKey die o k (binOf w)
  let v := (tget s.bins key).getD 0
  { s with bins := tset s.bins key (if v = BitVec.allOnes 48 then v else v + 1) }

/-- An exchange of two places of a list. -/
def swapAt (l : List Nat) (i j : Nat) : List Nat := (l.set i (l.getD j 0)).set j (l.getD i 0)

/-- The draws of a calendar, from i down to 1 (R113). -/
def State.shuffle (s : State) (t : StreamId) (l : List Nat) : Nat → List Nat × State
  | 0 => (l, s)
  | i + 1 =>
    let (x, s1) := s.draw t (i + 2)
    s1.shuffle t (swapAt l (i + 1) x) i

/-- The calendar instance number of a class and an instance (R105). -/
def calInst (k j : Nat) : Nat := 0x10000 * (k + 1) + j

/-- The start of a frame, at time t: its calendar is built with exactly 63 draws, of the quotas in force then (R66, R113). -/
def State.buildCalendar (s : State) (k j t : Nat) : State :=
  let n := instDie k j
  let a := (upTo 15).flatMap fun i =>
    let r := s.recordInForce (i + 1) t
    if r.en then List.replicate (r.quota n k) (i + 1) else []
  let a := a ++ List.replicate (64 - a.length) 0
  let (l, s1) := s.shuffle ⟨0, .cal, n, calInst k j⟩ a 63
  s1.modResource k j fun r => { r with cal := l }

/-- An owner has a request pending at the start of a slot: one that did not arrive in the slot itself (R114). -/
def State.pendingAt (s : State) (k j o : Nat) : Bool := (s.resource k j).queue.any fun q => q.owner == o && q.at_ != s.dtc

/-- A slot whose owner has no pending request: the draw that every spare slot makes (R115), and the owner whose request is
served in it, if any. -/
def State.spare (s : State) (k j o : Nat) : Option Nat × State :=
  let (x, s1) := s.draw ⟨o, .spare, instDie k j, calInst k j⟩ 16
  (((upTo 16).map fun i => (x + i) % 16).find? fun p => s1.pendingAt k j p, s1)

/-- The slots from number i on, with nothing pending, accounted for: frame starts and spare draws (R113, R115). -/
def State.idleSlots (s : State) (k j i : Nat) : Nat → State
  | 0 => s
  | n + 1 =>
    let s1 := if i % frameSlots k = 0 then s.buildCalendar k j (i * slotLength k) else s
    let s2 := if lostSlot k j i then s1 else (s1.spare k j ((s1.resource k j).cal.getD (i % frameSlots k) 0)).2
    s2.idleSlots k j (i + 1) n

/-- An instance brought up to the slot in course, before a request joins its queue (log 2). No stream is drawn for a slot before the first frame
after boot (R106). -/
def State.touch (s : State) (k j : Nat) : State :=
  let r := s.resource k j
  let n := slotNo k s.dtc + 1
  if r.queue = [] then
    let i := max r.upto (s.firstSlot k)
    let s1 := s.idleSlots k j i (n - i)
    s1.modResource k j fun r => { r with upto := n }
  else s

/-- A request joins its owner's queue at an instance (R114). -/
def State.enqueue (s : State) (k j : Nat) (q : Queued) : State :=
  (s.touch k j).modResource k j fun r => { r with queue := r.queue ++ [q] }
def State.request (s : State) (k j o : Nat) (ev : List Instr) : State := s.enqueue k j ⟨o, s.dtc, 1, [], ev, 0⟩

/-- A request that adds to the wait counters when it is served: all but the steps of a relocation sweep (R374). -/
def Queued.counted (q : Queued) : Bool :=
  match q.ev with
  | [.sweepStep ..] => false
  | _ => true

/-- The units that one slot of a class carries (R29, R112). -/
def slotUnits (k : Nat) : Nat := if k = 6 then 20 else 1

/-- The requests of a queue that a slot takes, in arrival order, as far as its units reach (R29, R114), and those that stay. -/
def takeUnits (p : Queued → Bool) (n : Nat) : List Queued → List Queued × List Queued
  | [] => ([], [])
  | q :: r =>
    if p q then
      (if q.units ≤ n then let (a, b) := takeUnits p (n - q.units) r; (q :: a, b) else ([], q :: r))
    else let (a, b) := takeUnits p n r; (a, q :: b)

/-- A request that has been served goes on along its route, or its steps happen: those of a packet behind the slots of this cycle, so that the
packets that reach a port in one cycle stand together (R384). -/
def State.served (s : State) (k : Nat) (q : Queued) : State :=
  match q.path with
  | (k', j') :: rest => s.enqueue k' j' { q with at_ := s.dtc, path := rest }
  | [] => if k = 2 then s.post q.ev else s.postFirst q.ev

/-- The request that a step serves or carries, if it carries one. -/
def stepReqs (i : Instr) : List Req :=
  match i with
  | .sliceRequestArrive _ _ rs => rs
  | .homeRds r | .homeRdx r | .homeUpg r | .homeWb r | .homeMerge r | .homeAmo r | .homeRed r | .homeTake r
  | .homeTrytake r | .homeWaitw r | .homePut r | .homePutx r | .homeJcdec r | .homeJcwait r | .homeBararr r
  | .homeBarwait r | .homeWsWrite r | .homeWsLoad r | .homeJcinit r | .homeBarinit r | .homeTagWrite r
  | .benchBackoffRetry r => [r]
  | _ => []

/-- The number of the engine's access that a request is, or 0: it left its core with it (log 2). -/
def accessOf (r : Req) : Nat := if r.op = .touch ∧ r.pid ≠ 0 then r.seq else 0

/-- The engines' accesses that a request in a queue is for: its own, or those that wait at the slice for the block that it brings (R342). -/
def State.accesses (s : State) (j : Nat) (q : Queued) : List Nat :=
  match q.ev with
  | [.lp6ReadRepeat _ r _] => ((s.slice (j / 2)).fills.filter fun e => e.1 == r.pa / 64).flatMap fun e => (stepReqs e.2).map accessOf
  | _ => [q.access]

/-- A slot wait of an access is busy time of the tile tasks that it is for (R342). -/
def State.accrue (s : State) (l : List Nat) (cycles : Nat) : State :=
  if cycles = 0 ∨ l.all (fun a => a == 0) then s
  else
    let task (t : Tile) : Tile := if t.fetching.any fun e => l.contains e.1 then { t with busy := t.busy + cycles } else t
    { s with clusters := s.clusters.map fun e => (e.1, { e.2 with tiles := e.2.tiles.map task }) }

/-- An owner is served in a slot: its oldest request, or in a PEER slot its oldest ones, leave the queue, each wait is counted (R123, R342), a request
behind them becomes oldest now, and their steps happen. -/
def State.serveOwner (s : State) (k j o : Nat) : State :=
  let (out, rest) := takeUnits (fun q => q.owner == o && q.at_ != s.dtc) (slotUnits k) (s.resource k j).queue
  let i := rest.findIdx fun q => q.owner == o
  let rest := match rest[i]? with
    | some q => rest.set i { q with at_ := s.dtc }
    | none => rest
  let s1 := s.modResource k j fun r => { r with queue := rest }
  let w := match out with
    | q :: _ => waitOf k j q.at_ s.dtc
    | [] => 0
  let s2 := (out.zipIdx.filter fun e => e.1.counted).foldl (fun s e => s.count (instDie k j) o k (if e.2 = 0 then w else 0)) s1
  let s2 := s2.accrue (match out with
    | q :: _ => s.accesses j q
    | [] => []) (w * slotLength k)
  out.reverse.foldl (fun s q => s.served k q) s2

/-- The frame that starts in this cycle, if it has not been started yet: before the first of its slots is served (R113). -/
def State.framed (s : State) (k j : Nat) : State :=
  if s.agenda.contains (.frameStart k j) then
    ({ s with agenda := dropFirst (fun i => i == .frameStart k j) s.agenda } : State).buildCalendar k j s.dtc.toNat
  else s

/-- One slot of an instance (R114, R115): its owner's oldest request, or else a spare slot. Before the first frame after boot owner 0 holds every
slot, and none is drawn for (R106). -/
def State.serveSlot (s0 : State) (k j slot : Nat) : State :=
  let s := s0.framed k j
  let r := s.resource k j
  let o := r.cal.getD slot 0
  let s1 := s.modResource k j fun r => { r with upto := slotNo k s.dtc + 1 }
  if s1.pendingAt k j o then s1.serveOwner k j o
  else if r.cal.isEmpty then s1
  else
    match s1.spare k j o with
    | (some p, s2) => s2.serveOwner k j p
    | (none, s2) => s2

/-- The steps of the hardware that are in flight anywhere: due, held for a later cycle, waiting for a slot, or waiting for a line of a slice. -/
def State.pendingSteps (s : State) : List Instr :=
  s.agenda ++ s.later ++ s.resources.flatMap (fun e => e.2.queue.flatMap (·.ev)) ++ s.slices.flatMap (fun e => e.2.fills.map (·.2))

/-- The die-to-die links that are fenced (R32). -/
def State.fencedDieLinks (s : State) : List Nat := (upTo 4).filter fun l => decide (s.link l = .fenced)

/-- A packet of an owner starts on its route (R117), flit by flit, and its steps happen when the last one is there; one that leaves its router by no
port is there in the next cycle (log 2). access is the engine's access that it is a part of, if it is of one (R342). -/
def State.travel (s : State) (o : Nat) (path : List (Nat × Nat)) (flits : Nat) (ev : List Instr) (access : Nat := 0) : State :=
  match path with
  | [] => s.postLater ev
  | (k, j) :: rest =>
    ((upTo (flits - 1)).foldl (fun (s : State) _ => s.enqueue k j ⟨o, s.dtc, 1, rest, [], access⟩) s).enqueue k j ⟨o, s.dtc, 1, rest, ev, access⟩

/-- The flits of a packet: five for one that carries a block (R348), else one (DESIGN CHOICE, log 18). -/
def packetFlits (block : Bool) : Nat := if block then 5 else 1

/-- The dimension order of a packet (R117): drawn from ROUTE at the row where it is injected, if the packet has a choice; true is Y-first. -/
def State.chooseOrder (s : State) (o : Nat) (p q : Place) : Bool × State :=
  if needsChoice p q then
    let (x, s1) := s.draw ⟨o, .route, p.die, p.y⟩ 2
    (x == 1, s1)
  else (false, s)

/-- A packet of an owner from one router to another, with what happens when it arrives (R14, R117). -/
def State.packet (s : State) (o : Nat) (p q : Place) (ev : List Instr) : State :=
  let (yf, s1) := s.chooseOrder o p q
  s1.travel o (route s1.fencedDieLinks p q yf) 1 ev

/-- A response travels its request's path in reverse and makes no draw (R117); yf is the order of the request, from p to q. -/
def State.packetBack (s : State) (o : Nat) (p q : Place) (yf : Bool) (flits : Nat) (ev : List Instr) (access : Nat := 0) : State :=
  s.travel o (route s.fencedDieLinks q p (!yf)) flits ev access

/-- A message of the coherence protocol with its answer: the slots they take, while their effects come at once (log 2, log 18). -/
def State.packetAndBack (s : State) (o : Nat) (p q : Place) : State :=
  let (yf, s1) := s.chooseOrder o p q
  s1.travel o (route s1.fencedDieLinks p q yf ++ route s1.fencedDieLinks q p (!yf)) 1 []

/-- A block that goes to a place, or is asked for and comes back from it: the slots its packets take, while its effect comes at once (R70, R208, log 2). -/
def State.blockTo (s : State) (o : Nat) (p q : Place) : State :=
  let (yf, s1) := s.chooseOrder o p q
  s1.travel o (route s1.fencedDieLinks p q yf) (packetFlits true) []
def State.blockFrom (s : State) (o : Nat) (p q : Place) : State :=
  let (yf, s1) := s.chooseOrder o p q
  (s1.travel o (route s1.fencedDieLinks p q yf) 1 []).packetBack o p q yf (packetFlits true) []

/-- Units that cross a direction of a peer port, 0 outbound and 1 inbound, for an owner, and what happens when they have (R29); the loop back to
the device itself has no port (log 18). -/
def State.peerUnits (s : State) (port d o units : Nat) (ev : List Instr) : State :=
  if port < 16 then s.enqueue 6 (2 * port + d) ⟨o, s.dtc, units, [], ev, 0⟩ else s.post ev

end Sys2Proof.Machine
end

