-- ==== Sys2Proof/Machine/Homes.lean ====
section
/-!
DEFINITION. The home slices: the check of a frame's owner (R141, R142), placement and fills in the last-level cache (R107 to R111, R385), the tag
buffer and the channels' slots (R21, R22, R25), and how a request reaches the port of its slice (R384).
-/

namespace Sys2Proof.Machine

/-- Requests of peers carry a context number from here on, which names their place in State.peerIn (the model's own). -/
def remoteBase : Nat := 2 ^ 20

/-- Requests of copy engines carry a number from here on, which names their copy (the model's own). -/
def engineBase : Nat := 2 ^ 40

/-- The owner whose settings place a block: the frame's owner, or owner 0 for a SHARED frame (R107). -/
def State.placer (s : State) (pa : Nat) : Nat :=
  match frameOf pa with
  | some f => let e := s.fotAt f; if e.getLsbD 4 then 0 else bits e.toNat 3 0
  | none => 0

/-- The frame of an address is SHARED (R111, R141). -/
def State.sharedFrame (s : State) (pa : Nat) : Bool :=
  match frameOf pa with
  | some f => (s.fotAt f).getLsbD 4
  | none => false

/-- An owner's part of a die (R59). -/
def State.dieRec (s : State) (o die : Nat) : DieRec := (s.owner o).active.dies.toList.getD die .zero

/-- The set of a block under a SEED (R107). -/
def llcSet (r : DieRec) (seed : Word) (pa : Nat) : Nat :=
  let x : BitVec 32 := BitVec.ofNat 32 (pa / 64)
  let hi : BitVec 32 := seed.extractLsb' 32 32
  let h := (x ^^^ seed.extractLsb' 0 32) * (hi ||| 1)
  r.setbase.toNat + h.toNat / 2 ^ (32 - r.pw.toNat)

/-- The ways an owner may use in a set of a slice: its WAYMASK without fenced ways (R107, R158). -/
def State.ways (s : State) (c p set : Nat) : Nat :=
  let m := (s.dieRec p (c / 64)).waymask.toNat
  (s.slice c).fenced.foldl (fun m f => if f.1 = set ∧ m / 2 ^ f.2 % 2 = 1 then m - 2 ^ f.2 else m) m

/-- The slice line of a block, if the last-level cache holds it: looked up in the set under the SEED, then under the old
SEED while a sweep runs (R107, R128). -/
def State.llcFind (s : State) (pa : Nat) : Option LlcLine :=
  let c := channelOf pa
  let p := s.placer pa
  let o := s.owner p
  let at_ (seed : Word) := (s.slice c).lines.find? fun l =>
    l.set = llcSet (s.dieRec p (c / 64)) seed pa ∧ l.block = pa / 64 ∧ l.owner = p
  match at_ o.seed with
  | some l => some l
  | none =>
    match o.oldSeed with
    | some sd => if o.sweeping.contains c then at_ sd else none
    | none => none

/-- The victim way of a set for a fill by owner o, drawing from REPL(o, c) only when no way is invalid (R110); none when every way that the
placement owner may use is fenced, as no line may lie outside its WAYMASK (R108, R158). -/
def State.victimWay (s : State) (c o p set : Nat) : Option Nat × State :=
  let m := s.ways c p set
  let used := (s.slice c).lines.filter fun l => l.set = set
  match (upTo 16).find? fun w => m / 2 ^ w % 2 = 1 ∧ !(used.any fun l => l.way = w) with
  | some w => (some w, s)
  | none =>
    if m = 0 then (none, s)
    else
      let (j, s1) := s.draw ⟨o, .repl, 0, c⟩ (popcount m 16)
      (some (nthSet m j 0 16), s1)

/-- The tag block of a data access (R21): held in the channel's tag buffer, or fetched into it within a share of the entries, that of the frame's
owner, or of the owner whose access it is for a SHARED frame (R111); which of the share's entries leaves is a free choice (log 1). The answer is
whether it missed. -/
def State.tagTouch (s : State) (o pa : Nat) : Bool × State :=
  let c := channelOf pa
  let p := if s.sharedFrame pa then o else s.placer pa
  let buf := (tget s.tagBuf c).getD []
  let e := (p, pa / 1024)
  if buf.contains e then (false, s)
  else
    let share := (s.dieRec p (c / 64)).tagq.toNat
    let mine := buf.filter fun x => x.1 == p
    let (k, s1) := s.freeCount
    let buf := if mine.length < share then buf
      else match mine[Config.victim k % mine.length]? with
        | some v => dropFirst (fun x => x == v) buf
        | none => buf
    (true, { s1 with tagBuf := tset s1.tagBuf c (if share = 0 then buf else buf ++ [e]) })

/-- An access to a channel joins its owner's queue at the sub-channel, where CHANNEL_SLOT serves it (R22). -/
def State.channelSlot (s : State) (q : ChanReq) : State :=
  s.request 1 (subChannelOf q.pa) q.owner [.lp6ReadRepeat (subChannelOf q.pa) q .good]

/-- The slot of a tag block that misses in the tag buffer, and whether there is one (R21). The rule names its owner only; it is taken on the sub-channel of
the data block (DESIGN CHOICE, log 72). -/
def State.chargeTag (s : State) (o pa : Nat) (fill : Bool) : Bool × State :=
  match s.tagTouch o pa with
  | (true, s1) => (true, s1.channelSlot ⟨o, pa, true, false, fill, false⟩)
  | (false, s1) => (false, s1)

/-- The slots of an access to a channel: the one of its tag block comes before its data slot (R21, R22). -/
def State.chargeChannel (s : State) (o pa : Nat) (write fill : Bool) : State :=
  (s.chargeTag o pa fill).2.channelSlot ⟨o, pa, false, write, fill, false⟩

/-- A line placed in the last-level cache for owner o (R110, R385): a dirty victim is written back in o's slots; the block's data comes in a slot
of o unless every byte is about to be written, and its tag through the tag buffer; until both are there the line is not filled. The set has a way to use. -/
def State.llcFill (s : State) (o pa : Nat) (whole : Bool) : State :=
  let c := channelOf pa
  let p := s.placer pa
  let ow := s.owner p
  let set := llcSet (s.dieRec p (c / 64)) ow.seed pa
  match s.victimWay c o p set with
  | (none, s1) => s1
  | (some w, s1) =>
    let old := (s1.slice c).lines.find? fun l => l.set = set ∧ l.way = w
    let s2 := match old with
      | some l => if l.dirty then s1.chargeChannel o (64 * l.block) true false else s1
      | none => s1
    let (missed, s3) := if whole then s2.chargeTag o pa true else (true, s2.chargeChannel o pa false true)
    s3.modSlice c fun sl =>
      { sl with lines := (sl.lines.filter fun l => !(l.set = set ∧ l.way = w)) ++ [⟨set, w, pa / 64, p, ow.gen, false, missed⟩] }

/-- Every way of a block's set that its placement owner may use is fenced (R158). -/
def State.noWay (s : State) (pa : Nat) : Bool :=
  let p := s.placer pa
  s.ways (channelOf pa) p (llcSet (s.dieRec p (channelOf pa / 64)) (s.owner p).seed pa) == 0

/-- An access at the home slice of a block that finds its line there, or has it placed (R107 to R111, R385); with no way to use, its channel access
has been made on its way here. Weight-store and host blocks are
never held in a slice; a weight-store access takes a slot of its bank (R112). -/
def State.homeTouch (s : State) (o pa : Nat) (write whole : Bool) : State :=
  match regionOf pa with
  | .lp6 =>
    let s2 := match s.llcFind pa with
      | some _ => s
      | none => if s.noWay pa then s else s.llcFill o pa whole
    if write then
      s2.modSlice (channelOf pa) fun sl =>
        { sl with lines := mapIf (fun l => decide (l.block = pa / 64)) (fun l => { l with dirty := true }) sl.lines }
    else s2
  | .weight n => s.request 5 (64 * n + bits pa 11 6) o []
  | _ => s

/-- An operation waits at its slice for a block (R385). -/
def State.awaitFill (s : State) (pa : Nat) (again : Instr) : State :=
  s.modSlice (channelOf pa) fun sl => { sl with fills := sl.fills ++ [(pa / 64, again)] }

/-- The block that a miss waits for before its fill: with no way invalid, a line of its set whose own data has not come yet, which is no victim before the
operations that wait for it have acted on it (R110, R385). -/
def State.fillBefore (s : State) (pa : Nat) : Option Nat :=
  let c := channelOf pa
  let p := s.placer pa
  let set := llcSet (s.dieRec p (c / 64)) (s.owner p).seed pa
  let m := s.ways c p set
  let mine := (s.slice c).lines.filter fun l => decide (l.set = set ∧ m / 2 ^ l.way % 2 = 1)
  if mine.length = popcount m 16 then (mine.find? fun l => l.filling).map (·.block) else none

/-- An operation at a home goes on when its block's line has its data (R385): until then it waits at the slice, behind those that came before it. In a set with no
way to use, the channel is read or written for each operation, and no line is placed (R158). -/
def State.atLine (s : State) (o pa : Nat) (whole : Bool) (again : Instr) (f : State → State) : State :=
  match regionOf pa with
  | .lp6 =>
    let b := pa / 64
    match s.llcFind pa with
    | some l => if l.filling then s.awaitFill pa again else f s
    | none =>
      if s.noWay pa then
        (if (s.slice (channelOf pa)).through.contains b then
          f (s.modSlice (channelOf pa) fun sl => { sl with through := dropFirst (fun x => x == b) sl.through })
        else if whole then f (s.chargeChannel o pa true false)
        else (s.chargeChannel o pa false true).awaitFill pa again)
      else
        match s.fillBefore pa with
        | some first => s.modSlice (channelOf pa) fun sl => { sl with fills := sl.fills ++ [(first, again)] }
        | none =>
          let s1 := s.llcFill o pa whole
          if ((s1.llcFind pa).map (·.filling)).getD false then s1.awaitFill pa again else f s1
  | _ => f s

/-- A read that operations of a slice wait for has ended (R25, R110): with its data there the line is filled, and without it dropped; the operations that wait
for it go on, in order, or the first of them alone where no line is placed. -/
def State.fillEnd (s : State) (pa : Nat) (ok : Bool) : State :=
  let b := pa / 64
  let c := channelOf pa
  let mine := ((s.slice c).fills.filter fun e => e.1 == b).map (·.2)
  if (s.slice c).lines.any fun l => decide (l.block = b ∧ l.filling = true) then
    (s.modSlice c fun sl =>
      { sl with
        lines := if ok then mapIf (fun l => decide (l.block = b)) (fun l => { l with filling := false }) sl.lines
          else sl.lines.filter fun l => !decide (l.block = b ∧ l.filling = true)
        fills := sl.fills.filter fun e => e.1 != b }).postFirst mine
  else if s.noWay pa then
    let other (i : Instr) : Bool := (stepReqs i).all fun r => r.pa / 64 != b
    let first := (mine.filter fun i => !other i).take 1
    (s.modSlice c fun sl => { sl with
        through := if ok && !first.isEmpty then sl.through ++ [b] else sl.through
        fills := (dropFirst (fun e => e.1 == b && !other e.2) sl.fills).filter fun e => !(e.1 == b && other e.2) }).postFirst
      (first ++ mine.filter other)
  else (s.modSlice c fun sl => { sl with fills := sl.fills.filter fun e => e.1 != b }).postFirst mine

/-- The clean copies of a block that lines of weight-store, host or WS pages keep are dropped (R154, R306). -/
def State.dropClean (s : State) (block : Nat) : State :=
  { s with cores := s.cores.map fun e => (e.1, { e.2 with
      l1 := e.2.l1.filter fun l => !(l.1 == block && decide (l.2.st = .ro)) }) }

/-- A block changed at its home under a function of its data and tag, every L1 copy recalled first (R170, R385). -/
def State.homeUpdate (s : State) (o pa : Nat) (whole : Bool) (f : Block → Tag → Block × Tag) : State :=
  let s1 := (s.homeTouch o pa true whole).recall pa
  let b := pa / 64
  let (d, t) := f (readBlock s1.mem (64 * b)) (s1.tagAt b)
  (s1.writeHome pa d t).dropClean b

/-- A request that carries a block to its home, and one whose answer carries one. -/
def carriesBlock (r : Req) : Bool :=
  match r.op with
  | .wb | .merge | .wsWrite | .write => true
  | .touch => r.keep
  | _ => false
def bringsBlock (r : Req) : Bool :=
  match r.op with
  | .rds | .rdx | .winFill | .ifetch | .read | .wsLoad => true
  | .touch => !r.keep
  | _ => false

/-- A request on its way to the port of its home slice (R117, R384). A peer's request comes from its port, for which the rules give no router: it
is there in the next cycle (log 18). -/
def State.toSlice (s : State) (r : Req) : State :=
  let c := channelOf r.pa
  let arrive (r : Req) : Instr := .sliceRequestArrive c r.owner [r]
  let (seq, s0) := s.newId
  if remoteBase ≤ r.ctx ∧ r.ctx < engineBase then s0.postLater [arrive { r with seq := seq }]
  else
    let (yf, s1) := s0.chooseOrder r.owner (corePlace r.core) (slicePlace c)
    let path := route s1.fencedDieLinks (corePlace r.core) (slicePlace c) yf
    s1.travel r.owner path (packetFlits (carriesBlock r)) [arrive { r with yf := yf, inp := inputLink path, seq := seq }] (accessOf { r with seq := seq })

/-- An access whose data the model moves at once, by a unit that stands at a core's router or at the Porter's (R384, log 2): its request travels to
the port of the slice and takes a slot there, and the line is filled then. unit is the number of the tile task or copy whose access it is, or 0: a
read that fails ends it (R158). -/
def State.unitTouch (s : State) (o core ctx unit pa : Nat) (write whole : Bool) : State :=
  let r : Req := { op := .touch, ctx := ctx, core := core, owner := o, pa := pa, va := w64 pa, ct := .rc, pid := unit, keep := write, typed := whole }
  match regionOf pa with
  | .lp6 => s.toSlice r
  | .weight n =>
    let (seq, s1) := s.newId
    s1.enqueue 5 (64 * n + bits pa 11 6) ⟨o, s.dtc, 1, [], [.homeRds { r with seq := seq }], accessOf { r with seq := seq }⟩
  | _ => s
def State.unitUpdate (s : State) (o core ctx unit pa : Nat) (whole : Bool) (f : Block → Tag → Block × Tag) : State :=
  let s1 := (s.unitTouch o core ctx unit pa true whole).recall pa
  let b := pa / 64
  let (d, t) := f (readBlock s1.mem (64 * b)) (s1.tagAt b)
  (s1.writeHome pa d t).dropClean b
def State.slotTouch (s : State) (o core ctx pa : Nat) (write whole : Bool) : State := s.unitTouch o core ctx 0 pa write whole
def State.slotUpdate (s : State) (o core ctx pa : Nat) (whole : Bool) (f : Block → Tag → Block × Tag) : State := s.unitUpdate o core ctx 0 pa whole f

/-- The outcome of the frame ownership check (R142). -/
inductive FotCheck where
  | ok | memerr | access (owner : Nat) | typefault
  deriving DecidableEq, Repr

/-- The frame ownership check on an entry (R142), rows in table order. -/
def fotCheck (e : BitVec 16) (o : Nat) (write : Bool) (ct : BitVec 2) : FotCheck :=
  if e.getLsbD 8 then .memerr
  else if bits e.toNat 3 0 ≠ o ∧ e.getLsbD 4 = false then .access (bits e.toNat 3 0)
  else if e.getLsbD 4 ∧ write then .access (bits e.toNat 3 0)
  else if BitVec.ofNat 2 (bits e.toNat 6 5) ≠ ct then .typefault
  else .ok

/-- The check of a physical address as its entry stands now; host frames have no entry (R141, R142). -/
def State.fotNow (s : State) (pa o : Nat) (write : Bool) (ct : BitVec 2) : FotCheck :=
  match frameOf pa with
  | some f => fotCheck (s.fotAt f) o write ct
  | none => .ok

/-- A frame marked poisoned after a lasting error (R25, R141, R158). -/
def State.poison (s : State) (pa : Nat) : State :=
  match frameOf pa with
  | some f => (s.setFot f (s.fotAt f ||| 0x100)).report (.poison f)
  | none => s

end Sys2Proof.Machine
end

