-- ==== Sys2Proof/Machine/Translate.lean ====
section
/-!
DEFINITION. Address forms (R132, R133), the page tables and their checks (R135 to R138), one read of a walk and a whole
walk (R139, R366), TLB lookups and invalidation (R139, R140), and the instruction line fetch's address checks (R257).
-/

namespace Sys2Proof.Machine

/-- What a virtual address names before translation (R132, R133). -/
inductive Form where
  | page
  | localView (off : Nat)
  | clusterView (k off : Nat)
  | peer (dev : Nat) (pva : Nat)
  | bad
  deriving DecidableEq, Repr

/-- The form of a virtual address (R132, R133). PEER must be accepted for a peer address, which the caller checks. -/
def formOf (va : Word) : Form :=
  let v := va.toNat
  if v < 2 ^ 55 then
    if v / 2 ^ 48 = 0x7F then
      let r := v % 2 ^ 48
      if r < 0x80000 then .localView r
      else if 0x1000000 ≤ r ∧ r < 0x1400000 then .clusterView ((r - 0x1000000) / 0x80000) (r % 0x80000)
      else .bad
    else .page
  else if v / 2 ^ 57 = 0 ∧ v / 2 ^ 56 = 1 then .peer (v / 2 ^ 47 % 512) (v % 2 ^ 47)
  else .bad

/-- Bits of address inside a page whose entry stands at a level (R135). -/
def levelBits (l : Nat) : Nat := if l ≤ 1 then 42 else if l = 2 then 29 else 16

/-- The index of a level's table in an address (R135). -/
def levelIndex (a l : Nat) : Nat := if l ≤ 1 then a / 2 ^ 42 % 8192 else if l = 2 then a / 2 ^ 29 % 8192 else a / 2 ^ 16 % 8192

/-- FRAME of an entry, as an address (R136). -/
def pteFrame (e : BitVec 64) : Nat := wbits e 47 16 * 65536

/-- Stage-1 read and write permission of an AP code at a level (R137). -/
def ap1Read (ap : BitVec 2) (l : Level) : Bool := if l = .u then ap.getLsbD 0 else true
def ap1Write (ap : BitVec 2) (l : Level) : Bool := if l = .u then ap == 1 else !ap.getLsbD 1
/-- Stage-2 read and write permission of an AP code (R137). -/
def ap2Read (ap : BitVec 2) : Bool := ap.getLsbD 0
def ap2Write (ap : BitVec 2) : Bool := ap == 3

/-- An access that needs write permission (R137). -/
def Acc.writes : Acc → Bool
  | .write | .atomic => true
  | _ => false

/-- The stage-1 fault that an entry's AP and X give an access, if any (R137, R143). -/
def stage1Denies (ap : BitVec 2) (x : Bool) (l : Level) (a : Acc) : Option FaultKind :=
  if ap1Read ap l = false then some .priv
  else if a.writes ∧ ap1Write ap l = false then some .write
  else if a = .exec ∧ x = false then some .exec
  else none

/-- The stage-2 fault that an entry's AP and X give an access, if any (R137). -/
def stage2Denies (ap : BitVec 2) (x : Bool) (a : Acc) : Option FaultKind :=
  if ap2Read ap = false then some .priv
  else if a.writes ∧ ap2Write ap = false then some .write
  else if a = .exec ∧ x = false then some .exec
  else none

/-- A page-table entry that is malformed at its level (R138): reserved bits, T at level 3, alignment, FE without SC; the
place of a next table is judged where it is read. -/
def pteMalformed (e : BitVec 64) (level : Nat) (stage1 : Bool) : Bool :=
  let t := e.getLsbD 1
  wbits e 15 11 != 0 || wbits e 55 48 != 0
    || (t && level == 3)
    || (!t && pteFrame e % 2 ^ levelBits level != 0)
    || (stage1 && !t && e.getLsbD 7 && wbits e 6 5 != 2)

/-- What a walk comes to (R139, R143, R145). -/
inductive Trans where
  | ok (e : TlbEntry)
  | stage1 (k : FaultKind) (level : Nat)
  | stage2 (ipa level : Nat) (k : FaultKind)
  | refused (c : Cause) (pa : Nat)
  deriving DecidableEq, Repr

/-- One step of a walk: it goes on, or it has come to its end. -/
inductive WalkOut where
  | go (w : Walk)
  | fin (t : Trans)
  deriving DecidableEq, Repr

/-- The owner whose tables translate an access: F contexts use owner 0's (R135). -/
def tableOwner (o : Nat) (l : Level) : Nat := if l = .f then 0 else o

/-- A walk at its root: the space entry of SPACE in the table at SPTAB (R135, R139). -/
def State.walkStart (s : State) (id core : Nat) (who : Walker) (o : Nat) (space : BitVec 16) (l : Level) (va : Word)
    (acc : Acc) (size : Nat) : Walk :=
  let t := tableOwner o l
  { id := id, core := core, who := who, owner := t, space := space, level := l, va := va, acc := acc, size := size,
    s1 := 0, s2 := 1, ipa := (s.owner t).sptab.toNat + 8 * space.toNat, base := (s.owner t).active.s2base, leaf := 0,
    leafPa := 0, leafSize := 3, s2entry := 0, s2size := 3, used := [] }

/-- The address of the entry that a walk reads next: a stage-2 entry, or the stage-1 entry that stage 2 has located (R139). -/
def Walk.addr (w : Walk) : Nat := if w.s2 ≤ 3 then w.base + 8 * levelIndex w.ipa w.s2 else w.base

/-- The eight bytes of a table entry, as an ordinary coherent read of the owner (R139). -/
def State.readEntry (s : State) (pa : Nat) : BitVec 64 := BitVec.ofNat 64 (blockBytes (s.coherent pa).1 (pa % 64) 8)

/-- What refuses a walker the frame of a table (R107, R142): its entry, but for the page type, which a table has not. -/
def State.tableRefused (s : State) (o pa : Nat) (write : Bool) : Option Cause :=
  match s.fotNow pa o write 1 with
  | .memerr => some .memerr
  | .access _ => some .access
  | _ => none

/-- The walk goes on to translate an IPA by stage 2, for stage-1 step n. -/
def State.walkTo (s : State) (w : Walk) (n ipa : Nat) : Walk :=
  { w with s1 := n, s2 := 1, ipa := ipa, base := (s.owner w.owner).active.s2base }

/-- The combined translation at the end of a walk (R137, R139), with the frame ownership entry it read (R297). -/
def State.combine (s : State) (w : Walk) (pa : Nat) : TlbEntry :=
  let e1 := w.leaf
  let e2 := w.s2entry
  let sz := max w.leafSize w.s2size
  let b := 2 ^ levelBits sz
  let f := frameOf pa
  { owner := w.owner, space := w.space, global := e1.getLsbD 10, page := w.va.toNat / b, size := sz,
    pa := pa / b * b, ap1 := e1.extractLsb' 2 2, ap2 := e2.extractLsb' 2 2, x := e1.getLsbD 4, x2 := e2.getLsbD 4,
    level1 := w.leafSize, level2 := w.s2size, ipa := w.ipa / b * b, ct := e1.extractLsb' 5 2, fe := e1.getLsbD 7, dirty := e1.getLsbD 9 || w.acc.writes,
    fot := (f.map s.fotAt).getD 0, fotFrame := f, s2 := w.used }

/-- An atomic OR into a page-table entry at its home: the A and D bits (R137). -/
def State.orEntry (s : State) (core o pa : Nat) (bits : Nat) : State :=
  s.slotUpdate o core (16 * core) pa false fun d t => (d ||| placeBytes (pa % 64) bits, t)

/-- The end of a walk that has found its page (R137): A and D are set where they are clear and the access needs them. -/
def State.walkEnd (s : State) (w : Walk) (out : Nat) : WalkOut × State :=
  let need := 0x100 + (if w.acc.writes then 0x200 else 0)
  if wbits w.leaf 8 8 = 1 ∧ (w.acc.writes = false ∨ wbits w.leaf 9 9 = 1) then (.fin (.ok (s.combine w out)), s)
  else
    match s.tableRefused w.owner w.leafPa true with
    | some c => (.fin (.refused c w.leafPa), s)
    | none => let s1 := s.orEntry w.core w.owner w.leafPa need; (.fin (.ok (s1.combine w out)), s1)

/-- A stage-2 entry read (R136 to R138). -/
def State.walkStage2 (s : State) (w : Walk) (e : BitVec 64) : WalkOut × State :=
  let w := { w with used := addNew w.used (w.ipa / 2 ^ 42 % 64) }
  if e.getLsbD 0 = false ∨ (w.s2 = 1 ∧ 64 ≤ levelIndex w.ipa 1) then (.fin (.stage2 w.ipa w.s2 .notValid), s)
  else if pteMalformed e w.s2 false then (.fin (.stage2 w.ipa w.s2 .malformed), s)
  else if e.getLsbD 1 then (.go { w with base := pteFrame e, s2 := w.s2 + 1 }, s)
  else
    match stage2Denies (e.extractLsb' 2 2) (e.getLsbD 4) (if w.s1 = 4 then w.acc else .read) with
    | some k => (.fin (.stage2 w.ipa w.s2 k), s)
    | none =>
      let out := pteFrame e + w.ipa % 2 ^ levelBits w.s2
      let w := { w with s2entry := e, s2size := w.s2 }
      if w.s1 = 4 then s.walkEnd w out
      else if regionOf out ≠ .lp6 then (.fin (.stage1 .malformed (w.s1 - 1)), s)
      else (.go { w with base := out, s2 := 4 }, s)

/-- A stage-1 entry read (R135 to R138). -/
def State.walkStage1 (s : State) (w : Walk) (e : BitVec 64) : WalkOut × State :=
  if e.getLsbD 0 = false then (.fin (.stage1 .notValid w.s1), s)
  else if w.s1 = 0 then (.go (s.walkTo w 1 (pteFrame e + 8 * levelIndex w.va.toNat 1)), s)
  else if pteMalformed e w.s1 true then (.fin (.stage1 .malformed w.s1), s)
  else if e.getLsbD 1 then (.go (s.walkTo w (w.s1 + 1) (pteFrame e + 8 * levelIndex w.va.toNat (w.s1 + 1))), s)
  else
    match stage1Denies (e.extractLsb' 2 2) (e.getLsbD 4) w.level w.acc with
    | some k => (.fin (.stage1 k w.s1), s)
    | none =>
      let w := { w with leaf := e, leafPa := w.base, leafSize := w.s1 }
      (.go (s.walkTo w 4 (pteFrame e + w.va.toNat % 2 ^ levelBits w.s1)), s)

/-- One read of a walk (R139). A table that lies outside LP6 data is malformed (R138), and one in a frame that the owner may not read is refused
(R107). -/
def State.walkStep (s : State) (w : Walk) : WalkOut × State :=
  if w.s2 ≤ 3 ∧ regionOf w.addr ≠ .lp6 then (.fin (.stage2 w.ipa (if w.s2 = 1 then 1 else w.s2 - 1) .malformed), s)
  else
    match s.tableRefused w.owner w.addr false with
    | some c => (.fin (.refused c w.addr), s)
    | none => if w.s2 ≤ 3 then s.walkStage2 w (s.readEntry w.addr) else s.walkStage1 w (s.readEntry w.addr)

/-- A whole walk in one step of the hardware, for an agent that reads the tables itself (R77, R147, R347); a walk reads
at most nineteen entries (R139), each an access of the owner at its home. -/
def State.walkAll (s : State) (w : Walk) : Nat → Trans × State
  | 0 => (.stage1 .malformed 0, s)
  | n + 1 =>
    let s0 := if regionOf w.addr = .lp6 then s.slotTouch w.owner w.core (16 * w.core) w.addr false false else s
    match s0.walkStep w with
    | (.go w', s1) => s1.walkAll w' n
    | (.fin t, s1) => (t, s1)

/-- A TLB entry that translates an address for an owner and SPACE (R139). -/
def TlbEntry.covers (e : TlbEntry) (o : Nat) (space : BitVec 16) (va : Word) : Bool :=
  e.owner == o && (e.global || e.space == space) && va.toNat / 2 ^ levelBits e.size == e.page

/-- The physical address a TLB entry gives (R139). -/
def TlbEntry.out (e : TlbEntry) (va : Word) : Nat := e.pa + va.toNat % 2 ^ levelBits e.size

/-- The set of an entry in the second-level TLB (R139). -/
def TlbEntry.set (e : TlbEntry) : Nat := e.page % 512

/-- A lookup in the core's TLB, then in the cluster's (R139). -/
def State.tlbFind (s : State) (core o : Nat) (space : BitVec 16) (va : Word) : Option TlbEntry :=
  match (s.core core).tlb.find? fun e => e.covers o space va with
  | some e => some e
  | none => (s.cluster (clusterOf core)).l2tlb.find? fun e => e.covers o space va

/-- An entry filled into the core's TLB and the cluster's; which entry a full TLB or set gives up is a free choice (R139,
log 1). -/
def State.tlbFill (s : State) (core : Nat) (e : TlbEntry) : State :=
  let (k, s0) := s.freeCount
  let same (x : TlbEntry) := x.page = e.page ∧ x.size = e.size ∧ x.owner = e.owner ∧ x.space = e.space
  let add (l : List TlbEntry) (cap : Nat) (peers : TlbEntry → Bool) :=
    let l := l.filter fun x => !decide (same x)
    let n := (l.filter peers).length
    let l := if cap ≤ n then
        match (l.filter peers)[Config.victim k % n]? with
        | some v => dropFirst (fun x => decide (x = v)) l
        | none => l
      else l
    l ++ [e]
  let s1 := s0.modCore core fun c => { c with tlb := add c.tlb 64 (fun _ => true) }
  s1.modCluster (clusterOf core) fun c => { c with l2tlb := add c.l2tlb 8 (fun x => x.set == e.set) }

/-- An invalidation covers a table entry that a combined entry's walk read (R140): stage 1 by the level-1 entry of the page
and the SPACE; stage 2 by the level-1 entry of the IPA page. -/
def Inval.covers (i : Inval) (e : TlbEntry) : Bool :=
  e.owner == i.owner &&
  (if i.stage2 then i.all || e.s2.contains (i.page / 2 ^ 26 % 64)
   else (i.allSpace || e.space == i.space || e.global) &&
     (i.all || (e.page * 2 ^ levelBits e.size) / 2 ^ 42 == i.page * 65536 / 2 ^ 42))

/-- An invalidation covers an entry that a walk in flight has read (R140). -/
def Inval.coversWalk (i : Inval) (w : Walk) : Bool :=
  w.owner == i.owner &&
  (if i.stage2 then i.all || w.used.contains (i.page / 2 ^ 26 % 64)
   else (i.allSpace || w.space == i.space) && (i.all || w.va.toNat / 2 ^ 42 == i.page * 65536 / 2 ^ 42))

/-- What a checked access of an agent that does not block comes to (R77, R97 onward): the physical address with its page,
a stage-1 fault, a stage-2 fault, or a trap's cause. -/
inductive Checked where
  | ok (pa : Nat) (e : TlbEntry)
  | stage1 (k : FaultKind) (level : Nat)
  | stage2 (ipa level : Nat) (k : FaultKind)
  | cause (c : Cause) (info : Word)
  deriving DecidableEq, Repr

/-- A management event for an access that the frame ownership check refuses (R142), or for one to the tag region (R20). A write to a SHARED frame
is refused without one. -/
def State.reportAccess (s : State) (pa o : Nat) : State :=
  match frameOf pa with
  | some f => if (s.fotAt f).getLsbD 4 then s else s.report (.ownership o (bits (s.fotAt f).toNat 3 0) pa)
  | none => if regionOf pa = .tagRegion then s.report (.tagRegion o pa) else s

/-- The checks of a physical address (R20, R134, R142): the region that it names, then the frame's entry, as it stands or as the walker read it. -/
def frameCheck (pa : Nat) (ent : BitVec 16) (o : Nat) (write : Bool) (ct : BitVec 2) : Option (Cause × Word) :=
  match regionOf pa with
  | .tagRegion => some (.access, 1)
  | .device | .none => some (.access, 0)
  | .host => none
  | _ =>
    match fotCheck ent o write ct with
    | .ok => none
    | .memerr => some (.memerr, 0)
    | .access _ => some (.access, 1)
    | .typefault => some (.typefault, w64 (bits ent.toNat 6 5))

/-- The permission and frame checks of a translation that is in hand (R137, R142, R143, R297 step 5). now selects the frame's entry as it
stands; otherwise the copy that the walker read. -/
def State.permit (s : State) (e : TlbEntry) (o : Nat) (l : Level) (va : Word) (a : Acc) (now : Bool) : Checked :=
  let pa := e.out va
  match stage1Denies e.ap1 e.x l a with
  | some k => .stage1 k e.level1
  | none =>
    match stage2Denies e.ap2 e.x2 a with
    | some k => .stage2 (e.ipa + va.toNat % 2 ^ levelBits e.size) e.level2 k
    | none =>
      let ent := match frameOf pa with
        | some n => if now = false ∧ e.fotFrame = some n then e.fot else s.fotAt n
        | none => 0
      match frameCheck pa ent o a.writes e.ct with
      | some (c, i) => .cause c i
      | none => .ok pa e

/-- A check's outcome with the event that it raises (R20, R142). -/
def State.checked (s : State) (e : TlbEntry) (o : Nat) (l : Level) (va : Word) (a : Acc) : Checked × State :=
  match s.permit e o l va a true with
  | .cause .access 1 => (.cause .access 1, s.reportAccess (e.out va) o)
  | c => (c, s)

/-- What a whole walk gives an agent that made it, and the entry it leaves in the TLBs. -/
def State.walked (s : State) (core o : Nat) (l : Level) (va : Word) (a : Acc) (t : Trans) : Checked × State :=
  match t with
  | .ok e => (s.tlbFill core e).checked e o l va a
  | .stage1 k n => (.stage1 k n, s)
  | .stage2 i n k => (.stage2 i n k, s)
  | .refused .access pa => (.cause .access 1, s.reportAccess pa o)
  | .refused c _ => (.cause c 0, s)

/-- Translation and checks of an access by an engine, a Porter or a command processor, in one step (R77, R347, R50); the addresses of the local
views are never translated (R133). -/
def State.checkNow (s : State) (core o : Nat) (space : BitVec 16) (l : Level) (va : Word) (a : Acc) : Checked × State :=
  let t := tableOwner o l
  if formOf va ≠ .page then (.cause .access 0, s)
  else
  match s.tlbFind core t space va with
  | some e =>
    if a.writes ∧ e.dirty = false then
      (let (r, s1) := s.walkAll (s.walkStart 0 core (.access 0) o space l va a 8) 20; s1.walked core t l va a r)
    else s.checked e t l va a
  | none => let (r, s1) := s.walkAll (s.walkStart 0 core (.access 0) o space l va a 8) 20; s1.walked core t l va a r

/-- An access to an intermediate physical address of an owner, in a frame that it may use (R37, R208): stage 2 only, and the check of R142; the page's type
is that of its frame. The answer is the physical address, or none for a fault. -/
def State.ipaTarget (s : State) (o ipa : Nat) (write : Bool) : Option Nat × State :=
  let acc := if write then Acc.write else Acc.read
  let w := s.walkStart 0 0 (.access 0) o 0 .s (w64 ipa) acc 8
  let w : Walk := { w with s1 := 4, ipa := ipa, base := (s.owner o).active.s2base, leaf := 0x300, leafSize := 0 }
  match s.walkAll w 20 with
  | (.ok e, s1) =>
    let pa := e.out (w64 ipa)
    match frameOf pa with
    | some f => (if fotCheck (s1.fotAt f) o write ((s1.fotAt f).extractLsb' 5 2) = .ok then some pa else none, s1)
    | none => (none, s1)
  | (_, s1) => (none, s1)

/-- An access of the context engine (R208), to LP6 data. -/
def State.ipaAccess (s : State) (o ipa : Nat) (write : Bool) : Option Nat × State :=
  match s.ipaTarget o ipa write with
  | (some pa, s1) => (if regionOf pa = .lp6 then some pa else none, s1)
  | (none, s1) => (none, s1)

/-- Part of a block written by the context engine of a core, in the owner's CHANNEL and LINK slots (R208). -/
def State.ipaWrite (s : State) (o core ipa : Nat) (d mask : Block) : Option State :=
  match s.ipaAccess o ipa true with
  | (none, _) => none
  | (some pa, s1) =>
    let s2 := ((s1.blockTo o (corePlace core) (slicePlace (channelOf pa))).recall pa |>.dropClean (pa / 64)).chargeChannel o pa true false
    let old := readBlock s2.mem (pa / 64 * 64)
    some { s2 with mem := writeBlock s2.mem (pa / 64 * 64) ((old &&& ~~~mask) ||| (d &&& mask)) }

/-- A block and its tag as the context engine reads them, and the slots that the read takes (R208). -/
def State.ipaRead (s : State) (o ipa : Nat) : Option (Block × Tag) :=
  match s.ipaAccess o ipa false with
  | (none, _) => none
  | (some pa, s1) => some (s1.coherent pa)
def State.ipaCharge (s : State) (o core ipa : Nat) : State :=
  match s.ipaAccess o ipa false with
  | (none, _) => s
  | (some pa, s1) => (s1.blockFrom o (corePlace core) (slicePlace (channelOf pa))).chargeChannel o pa false false

end Sys2Proof.Machine
end

