-- ==== Sys2Proof/Machine/Nest.lean ====
section
/-!
DEFINITION. Callable entries and their checks (R77 to R80), claims and placement (R81 to R84), the behaviour of the
composites when a child ends or faults (R89 to R94, R223 to R226), and the completion of a launch (R53, R56, R94).
Each function is a plain change of the state.
-/

namespace Sys2Proof.Machine

/-- Fields of a callable entry (R78, R79). -/
def eKind (e : Block) : Nat := wbits (blockWord e 0) 3 0
def eDom (e : Block) : Nat := wbits (blockWord e 0) 6 4
def eScope (e : Block) : Nat := wbits (blockWord e 0) 10 8
def eFpol (e : Block) : Nat := wbits (blockWord e 0) 12 11
def eNch (e : Block) : Nat := wbits (blockWord e 0) 18 16
def eGang (e : Block) : Bool := (blockWord e 0).getLsbD 19
def eDepth (e : Block) : Nat := wbits (blockWord e 0) 25 20
def eDevbase (e : Block) : Nat := wbits (blockWord e 0) 40 32
def ePc (e : Block) : BitVec 55 := (blockWord e 1).extractLsb' 0 55
def eLs (e : Block) : Nat := wbits (blockWord e 2) 13 0
def eVec (e : Block) : Bool := (blockWord e 2).getLsbD 14
def eAcc (e : Block) : Nat := if eKind e = 1 then wbits (blockWord e 2) 17 15 else 0
def eStack (e : Block) : Nat := wbits (blockWord e 3) 31 0
def eChild (e : Block) (i : Nat) : Nat := wbits (blockWord e (1 + i / 3)) (20 * (i % 3) + 19) (20 * (i % 3))
def eAoff (e : Block) (i : Nat) : Nat := wbits (blockWord e (3 + i / 4)) (16 * (i % 4) + 15) (16 * (i % 4))
def eNinst (e : Block) : Nat := wbits (blockWord e 2) 15 0
def eItems (e : Block) : Word := blockWord e 3
def eNitems (e : Block) : Nat := wbits (blockWord e 4) 31 0
def eStride (e : Block) : Nat := wbits (blockWord e 4) 47 32
def eMaxit (e : Block) : Nat := wbits (blockWord e 2) 31 0

/-- Bits of a word outside a mask are zero. -/
def onlyBits (w : Word) (mask : Nat) : Bool := w &&& ~~~(w64 mask) == 0

/-- The reserved words and bits of an entry of each kind are zero (R78, R79). -/
def entryReserved (e : Block) : Bool :=
  let w := blockWord e
  let z (i : Nat) := w i == 0
  onlyBits (w 0) 0x1FF03FF1F7F &&
  match eKind e with
  | 1 => onlyBits (w 1) 0x7FFFFFFFFFFFFF && onlyBits (w 2) 0x3FFFF && z 3 && z 4 && z 5 && z 6 && z 7
  | 2 => onlyBits (w 1) 0x7FFFFFFFFFFFFF && onlyBits (w 2) 0x7FFF && onlyBits (w 3) 0xFFFFFFFF && z 4 && z 5 && z 6 && z 7
  | 6 => onlyBits (w 1) 0xFFFFF && onlyBits (w 2) 0xFFFF && onlyBits (w 4) 0xFFFFFFFFFFFF && z 5 && z 6 && z 7
  | 7 => onlyBits (w 1) 0xFFFFFFFFFF && onlyBits (w 2) 0xFFFFFFFF && z 3 && z 4 && z 5 && z 6 && z 7
  | _ => onlyBits (w 1) 0xFFFFFFFFFFFFFFF && onlyBits (w 2) 0xFFFFFFFFFFFFFFF && onlyBits (w 4) 0xFFFFFFFF && z 5 && z 6 && z 7

/-- The scope that contains a domain (R80): context-ctx, core-core, cluster-clu, die-die, device-dev, domain-dom. -/
def domScope (dom : Nat) : Nat := if dom = 5 then 6 else dom

/-- The order of scopes from narrow to wide, peer beside dev (R11). -/
def scopeRank (sc : Nat) : Nat := if sc = 5 then 4 else sc

/-- The conditions of R80 that the entry alone decides. -/
def entryOk (e : Block) : Bool :=
  let k := eKind e
  let dom := eDom e
  let nch := eNch e
  (1 ≤ k && k ≤ 7) && dom ≤ 5 && entryReserved e
    && (if k ≤ 2 then dom == 0 else dom != 0)
    && (scopeRank (domScope dom) ≤ scopeRank (eScope e))
    && (if k = 3 ∨ k = 4 then 1 ≤ nch && nch ≤ 6 else if k = 5 then 2 ≤ nch && nch ≤ 6 else nch == 0)
    && (k == 4 || !eGang e) && (k == 5 || eDepth e == 0) && (dom == 5 || eDevbase e == 0)
    && (dom != 5 || ((k == 4 || k == 6) && !eGang e))
    && (if k ≤ 2 then eLs e ≤ 8192 else true) && (if k = 1 then eAcc e ≤ 4 else true)
    && (if k = 2 then eStack e % 64 == 0 else true)
    && (if k = 6 then 1 ≤ eNinst e && eNinst e ≤ 4096 && eStride e != 0 && eStride e % 8 == 0 else true)
    && (if k = 7 then 1 ≤ eMaxit e else true)

/-- A callable entry as the Porter of a die reads it: from its cache, or as one block at CTBASE + 64 i (R77). -/
def State.callable (s : State) (die o : Nat) (space : BitVec 16) (l : Level) (i : Nat) : Option Block × State :=
  let ow := s.owner o
  if ow.ctlen.toNat ≤ i then (none, s)
  else
    match tget (s.porter die).cache (o * 2 ^ 20 + i) with
    | some b => (some b, s)
    | none =>
      match s.checkNow (porterCore die) o space l (ow.ctbase + w64 (64 * i)) .read with
      | (.ok pa _, s1) =>
        let b := (s1.coherent pa).1
        let s2 := s1.slotTouch o (porterCore die) (16 * porterCore die) pa false false
        let (k, s3) := s2.freeCount
        let add (c : Tbl (BitVec 512)) : Tbl (BitVec 512) :=
          let c := if 256 ≤ c.length then dropAt c (Config.victim k % 256) else c
          tset c (o * 2 ^ 20 + i) b
        (some b, s3.modPorter die fun p => { p with cache := add p.cache })
      | (_, s1) => (none, s1)

/-- Every Porter's cached entries of an owner dropped: all of them, or one index (R77, R357). -/
def State.flushCallable (s : State) (o : Nat) (i : Option Nat) : State :=
  let hit (k : Nat) : Bool := match i with
    | some i => k == o * 2 ^ 20 + i
    | none => k / 2 ^ 20 == o
  { s with porters := s.porters.map fun e => (e.1, { e.2 with cache := e.2.cache.filter fun c => !hit c.1 }) }

/-- The owner that holds a core: the one a pool has switched in, or the one whose CORES names it (R59, R70). -/
def State.coreHeldBy (s : State) (core o : Nat) : Bool :=
  let r := (s.owner o).active
  r.cores.getLsbD core && (!r.pooled || (s.pool r.pool.toNat).current == some o)

/-- A core takes up new work of an owner: it holds the core, and no pool switch has begun (R69, R70). -/
def State.coreOpen (s : State) (core o : Nat) : Bool :=
  let r := (s.owner o).active
  s.coreHeldBy core o && (!r.pooled || (s.pool r.pool.toNat).switching.isNone)

/-- The task records that claim a core: started, in the inbox, or reserved at a Porter (R81, R85); a context that has ended claims nothing
(R354). -/
def State.tasksOn (s : State) (core : Nat) : List (Nat × TaskRec) :=
  let live := (upTo 16).filterMap fun h =>
    let c := s.ctx (16 * core + h)
    if c.state = .free ∨ c.state = .ended ∨ h = 0 then none else c.task.map fun t => (h, t)
  let box := (s.core core).inbox.filterMap fun t => t.helper.map fun h => (h, t)
  let res := s.porters.flatMap fun p => p.2.records.filterMap fun r =>
    if r.1 = core then r.2.helper.map fun h => (h, r.2) else none
  live ++ box ++ res

/-- Local store units claimed on a core; a pre-empted task keeps its claim (R102). -/
def State.lsUsed (s : State) (core : Nat) : Nat :=
  let live := (s.tasksOn core).foldl (fun n t => n + t.2.ls) 0
  s.saved.foldl (fun n e => if e.2.core = core then n + (((s.ctx e.1).task.map (·.ls)).getD 0) else n) live

/-- Accumulator slots of a cluster that tasks claim (R79, R333). -/
def State.accUsed (s : State) (cl : Nat) : List Nat :=
  (upTo 8).flatMap fun m => (s.tasksOn (8 * cl + m)).flatMap fun t => t.2.acc

/-- Cores of an owner on a die, in ascending order (R59, R83). -/
def State.ownedCores (s : State) (o die : Nat) : List Nat :=
  (upTo 256).filterMap fun m => if (s.owner o).active.cores.getLsbD (256 * die + m) then some (256 * die + m) else none

/-- Cores that an instance of a running nest holds for its own use (R81); a pre-empted launch's are given up until it comes back (R102). -/
def State.instanceCores (s : State) : List Nat :=
  s.nodes.flatMap fun e =>
    if e.2.state = .ended ∨ ((tget s.launches e.2.launch).map (·.preempted)) = some true then [] else e.2.cores

/-- The lowest-numbered helper of a core that is free and unclaimed (R83). -/
def State.freeHelper (s : State) (core : Nat) : Option Nat :=
  let used := (s.tasksOn core).map (·.1)
  (upTo 16).find? fun h => h ≠ 0 ∧ (s.ctx (16 * core + h)).state = .free ∧ !(used.contains h)

/-- A core that its owner may use now and on which no task stands (R70, R81); a helper that has not been reaped stands in the way. -/
def State.coreEmpty (s : State) (o core : Nat) : Bool :=
  s.coreOpen core o && (s.tasksOn core).isEmpty && (upTo 16).all fun h => h == 0 || decide ((s.ctx (16 * core + h)).state = .free)

/-- A core has room for an FN or CO claim (R79, R81). -/
def State.fits (s : State) (core : Nat) (e : Block) : Option (Nat × List Nat) :=
  match s.freeHelper core with
  | none => none
  | some h =>
    let vecs := (s.tasksOn core).countP fun t => t.2.vec
    let free := (upTo 16).filter fun a => !(s.accUsed (clusterOf core)).contains a
    if s.lsUsed core + eLs e ≤ 8192 ∧ (eVec e = false ∨ vecs < 8) ∧ eAcc e ≤ free.length then some (h, free.take (eAcc e))
    else none

/-- The values a child receives (R84). -/
structure Given where
  g3 : Word
  g4 : Word
  g5 : Word
  g6 : Word
  deriving DecidableEq, Repr

/-- A child that a level is to have: its number, its callable index and the values given (R82, R84). -/
structure Kid where
  child : Nat
  cidx : Nat
  given : Given
  deriving DecidableEq, Repr

/-- What instantiating a level comes to (R80, R82): done, a claim that cannot be met now, or COMBINATOR with the level and the callable index. -/
inductive Built where
  | ok (s : State) (node : Nat)
  | wait
  | comb (level cidx : Nat)

/-- Numbers in ascending order. -/
def sortNat (l : List Nat) : List Nat := l.mergeSort fun a b => decide (a ≤ b)

/-- The instance a composite may take among the cores given, for each domain, the first in their order (R81, R83): cores on which no task stands and that
no other instance holds. whole tells that a SEQ's or LOOP's child takes all of them. -/
def State.pickInstance (s : State) (o dom : Nat) (cores barred : List Nat) (whole : Bool) : Option (List Nat) :=
  let empty (c : Nat) : Bool := s.coreEmpty o c && !barred.contains c
  if whole then (if cores ≠ [] ∧ cores.all empty then some (sortNat cores) else none)
  else
    match dom with
    | 1 => (cores.find? empty).map fun c => [c]
    | 2 => (cores.foldl (fun (l : List Nat) c => addNew l (c / 8)) []).findSome? fun k =>
        let l := (upTo 8).map fun m => 8 * k + m
        if l.all fun c => cores.contains c && empty c then some l else none
    | 3 => (cores.foldl (fun (l : List Nat) c => addNew l (dieOf c)) []).findSome? fun d =>
        let l := cores.filter fun c => dieOf c = d
        if l.all empty then some (sortNat l) else none
    | 4 => if (upTo 4).all (fun d => cores.any fun c => dieOf c == d) ∧ cores.all empty then some (sortNat cores) else none
    | _ => some []

/-- Children that a level starts at once (R82, R84, R92, R93). -/
def startChildren (n : Node) : List Kid :=
  let e := n.entry
  let kid (i : Nat) : Kid := ⟨i, eChild e i, n.g3 + w64 (64 * eAoff e i), n.g4 - w64 (64 * eAoff e i), w64 i, 0⟩
  match eKind e with
  | 3 => [kid 0]
  | 4 | 5 => (upTo (eNch e)).map kid
  | 6 => (upTo (min (eNinst e) (eNitems e))).map fun j => ⟨j, wbits (blockWord e 1) 19 0, n.g3, n.g4, w64 j, eItems e + w64 (eStride e * j)⟩
  | 7 => [⟨0, wbits (blockWord e 1) 19 0, n.g3, n.g4, 0, 0⟩]
  | _ => []

/-- A later child (R84): SEQ's child i, LOOP's body or predicate of an iteration, or item i of a FARM. -/
def laterChild (n : Node) (i : Nat) : Kid :=
  let e := n.entry
  if eKind e = 7 then ⟨i, if i % 2 = 0 then wbits (blockWord e 1) 19 0 else wbits (blockWord e 1) 39 20, n.g3, n.g4, w64 n.iter, 0⟩
  else if eKind e = 6 then ⟨i, wbits (blockWord e 1) 19 0, n.g3, n.g4, w64 i, eItems e + w64 (eStride e * i)⟩
  else ⟨i, eChild e i, n.g3 + w64 (64 * eAoff e i), n.g4 - w64 (64 * eAoff e i), w64 i, 0⟩

/-- A child whose offset exceeds the parent's g4 cannot be given its block (R84). -/
def offsetFits (n : Node) (i : Nat) : Bool :=
  let k := eKind n.entry
  if k = 3 ∨ k = 4 ∨ k = 5 then decide (64 * eAoff n.entry i ≤ n.g4.toNat) else true

/-- A SEQ's or LOOP's children run one at a time and may take the whole of its instance (R81). -/
def oneAtATime (e : Block) : Bool := eKind e == 3 || eKind e == 7

/-- An entry may stand under a parent (R80, R81): a composite is bound to a narrower domain, but for a SEQ's or LOOP's child. -/
def mayStand (parent : Option Node) (e : Block) : Bool :=
  match parent with
  | none => true
  | some p => eKind e ≤ 2 || eDom e < eDom p.entry || (oneAtATime p.entry && eDom e == eDom p.entry)

/-- The wider of two scopes (R11). -/
def widerScope (a b : Nat) : Nat := if scopeRank a < scopeRank b then b else a

/-- The scope at which a task under a node starts and ends (R84, R89, R92, R93): the widest of its entry's and those of the SEQs, FARMs and LOOPs around
it, whose boundaries are a release and an acquire at their SCOPE (log 75). -/
def State.boundScope (s : State) (parent : Option Node) (sc : Nat) : Nat → Nat
  | 0 => sc
  | fuel + 1 =>
    match parent with
    | none => sc
    | some p =>
      let here := if eKind p.entry = 3 ∨ eKind p.entry = 6 ∨ eKind p.entry = 7 then widerScope sc (eScope p.entry) else sc
      s.boundScope (p.parent.bind (tget s.nodes)) here fuel

/-- The instance of a FARM that runs an item (R92): the one that ran it before where the item is started again (R224). -/
def State.instanceOf (s : State) (parent : Option Node) (child : Nat) : Nat :=
  match parent with
  | none => 0
  | some p =>
    if eKind p.entry ≠ 6 then 0
    else
      match s.nodes.find? fun e => e.2.parent == some p.id && e.2.child == child with
      | some e => e.2.iter
      | none => child % max 1 (eNinst p.entry)

/-- A child of a level, claimed: its node, with its instance where it is a composite, with a task record at the Porter where it is a task (R81, R83, R85).
barred are cores that it may not use. A PIPE's stages take a core each under a domain wider than core (R91). -/
def State.claim (s : State) (die : Nat) (l : Launch) (parent : Option Node) (level : Nat) (k : Kid) (e : Block) (cores barred : List Nat) :
    Option (State × Node) :=
  let (id, s1) := s.newId
  let node : Node :=
    { id := id, launch := l.id, parent := parent.map (·.id), child := k.child, level := level, cidx := k.cidx, entry := e, g3 := k.given.g3,
      g4 := k.given.g4, g5 := k.given.g5, g6 := k.given.g6, cores := [], state := .reserved, ctx := none, next := 0,
      iter := s.instanceOf parent k.child, retried := [], result := 0, fault := none }
  let put (s : State) (n : Node) : State × Node := ({ s with nodes := tset s.nodes n.id n }, n)
  if eKind e ≤ 2 then
    let apart : Bool := (parent.map fun p => eKind p.entry == 5 && decide (1 < eDom p.entry)).getD false
    let may (c : Nat) : Bool := !barred.contains c && s1.coreOpen c l.owner && (!apart || (s1.tasksOn c).isEmpty)
    match (cores.filter may).findSome? fun c => (s1.fits c e).map fun r => (c, r.1, r.2) with
    | none => none
    | some (c, h, acc) =>
      let task : TaskRec :=
        { node := some id, launch := some l.id, owner := l.owner, space := l.space, level := l.level, helper := some h, pc := ePc e,
          co := eKind e = 2, cidx := k.cidx, scope := BitVec.ofNat 3 (eScope e), bound := BitVec.ofNat 3 (s.boundScope parent (eScope e) 9),
          g3 := k.given.g3, g4 := k.given.g4, g5 := k.given.g5, g6 := k.given.g6, prio := l.prio, jc := 0, ls := eLs e, vec := eVec e, acc := acc,
          gang := [], qin := none, qout := none }
      some (put (s1.modPorter die fun p => { p with records := p.records ++ [(c, task)] }) { node with ctx := some (16 * c + h) })
  else if eDom e = 5 then some (put s1 node)
  else
    let whole : Bool := (parent.map fun p => oneAtATime p.entry && eDom p.entry == eDom e).getD false
    (s1.pickInstance l.owner (eDom e) cores barred whole).map fun inst =>
      let n := { node with cores := inst }
      put s1 { n with next := (startChildren n).length }

/-- The claims of a level's immediate children, all of them together, from its instance (R82): the children with their nodes. A child whose entry is not in
order claims nothing; it fails when its turn comes. -/
def State.claimKids (s : State) (die : Nat) (l : Launch) (n : Node) : List Kid → List Nat → List (Kid × Option Node) → Option (State × List (Kid × Option Node))
  | [], _, acc => some (s, acc)
  | k :: rest, cores, acc =>
    match (s.callable die l.owner l.space l.level k.cidx).1 with
    | none => s.claimKids die l n rest cores (acc ++ [(k, none)])
    | some e =>
      if entryOk e = false ∨ mayStand (some n) e = false then s.claimKids die l n rest cores (acc ++ [(k, none)])
      else
        match s.claim die l (some n) (n.level + 1) k e cores [] with
        | none => none
        | some (s1, d) => s1.claimKids die l n rest (cores.filter fun c => !d.cores.contains c) (acc ++ [(k, some d)])

/-- The state as it would be with nothing on the clusters of the cores given: an empty instance (R80). -/
def State.emptied (s : State) (cores : List Nat) : State :=
  let cls := cores.foldl (fun (l : List Nat) c => addNew l (clusterOf c)) []
  let here (c : Nat) : Bool := cls.contains (clusterOf c)
  { s with
    ctxs := s.ctxs.filter fun e => !here (coreOf e.1),
    saved := s.saved.filter fun e => !here e.2.core,
    cores := s.cores.map fun e => if here e.1 then (e.1, { e.2 with inbox := [] }) else e,
    porters := s.porters.map fun e => (e.1, { e.2 with records := e.2.records.filter fun r => !here r.1 }) }

/-- The claims of the children that a level starts at once fit in an empty instance (R80). -/
def State.claimsFit (s : State) (die : Nat) (l : Launch) (n : Node) : Bool :=
  ((s.emptied n.cores).claimKids die l n (startChildren n) n.cores []).isSome

/-- A PIPE's stages, and a LOOP's predicate, are FN (R80). -/
def State.stagesOk (s : State) (die : Nat) (l : Launch) (e : Block) : Bool :=
  let fn (i : Nat) : Bool := match (s.callable die l.owner l.space l.level i).1 with
    | some x => eKind x == 1
    | none => true
  if eKind e = 5 then (upTo (eNch e)).all fun i => fn (eChild e i)
  else if eKind e = 7 then fn (wbits (blockWord e 1) 39 20)
  else true

/-- A task's own conditions (R200, R211): a stack area, and for a coroutine room for its stack and its handle. -/
def State.taskOk (s : State) (n : Node) (o : Nat) : Bool :=
  let size := (s.owner o).stksize.toNat
  decide (size ≠ 0) && (eKind n.entry ≠ 2 || (decide (8 ≤ n.g4.toNat) && decide (eStack n.entry ≤ 65536 * size)))

/-- A claimed node instantiated with everything below it, depth first (R80, R82). fuel bounds the depth: a ninth level raises COMBINATOR. -/
def State.build (s : State) (die : Nat) (l : Launch) (n : Node) : Nat → Built
  | 0 => .comb n.level n.cidx
  | fuel + 1 =>
    if eKind n.entry ≤ 2 then (if s.taskOk n l.owner then .ok s n.id else .comb n.level n.cidx)
    else if s.stagesOk die l n.entry = false then .comb n.level n.cidx
    else if eDom n.entry = 5 then .ok s n.id
    else if s.claimsFit die l n = false then .comb n.level n.cidx
    else
      match s.claimKids die l n (startChildren n) n.cores [] with
      | none => .wait
      | some (s1, kids) =>
        let step (b : Built) (k : Kid × Option Node) : Built :=
          match b with
          | .ok st _ =>
            match k.2 with
            | none => .comb (n.level + 1) k.1.cidx
            | some d =>
              if offsetFits n k.1.child = false then .comb (n.level + 1) k.1.cidx
              else
                match st.build die l d fuel with
                | .ok st' _ => .ok st' n.id
                | b => b
          | b => b
        kids.foldl step (.ok s1 n.id)

/-- A root, or a child of a running composite, instantiated (R80 to R84, R390): its entry is read and checked, its claim taken from the cores given,
and what stands below it follows. -/
def State.instantiate (s : State) (die : Nat) (l : Launch) (parent : Option Node) (k : Kid) (cores barred : List Nat) : Built :=
  let level := (parent.map fun p => p.level + 1).getD 0
  match s.callable die l.owner l.space l.level k.cidx with
  | (none, _) => .comb level k.cidx
  | (some e, s1) =>
    if entryOk e = false ∨ mayStand parent e = false ∨ (parent.any fun p => offsetFits p k.child = false) ∨ 8 ≤ level then .comb level k.cidx
    else
      match s1.claim die l parent level k e cores barred with
      | some (s2, n) => s2.build die l n (8 - level)
      | none =>
        -- what an empty instance could not hold fails at once, where the owner has cores for one (R80)
        match (s1.emptied cores).claim die l parent level k e cores [] with
        | some (s2, n) => match s2.build die l n (8 - level) with
          | .comb a b => .comb a b
          | _ => .wait
        | none => .wait

/-- The page type of a window block as its owner's tables give it (R147). -/
def State.windowType (s : State) (core : Nat) (w : Window) (k : Nat) : Option (BitVec 2) :=
  match s.checkNow core w.owner w.space w.level (w64 (w.va + 64 * k)) .read with
  | (.ok _ e, _) => some e.ct
  | _ => none

/-- An acquire at core scope or wider (R148): the clean words of the window blocks that a choice names become stale, those of PV pages excepted. -/
def State.acquireIn (s : State) (core : Nat) (pick : Window → Nat → Bool) : State :=
  let act (w : Window) : Window := { w with blocks := w.blocks.filterMap fun e =>
    (if pick w e.1 = false ∨ s.windowType core w e.1 = some 0 then some e
     else if e.2.d = 0 then none else some (e.1, { e.2 with v := false })) }
  s.modCore core fun c => { c with windows := c.windows.map fun e => (e.1, act e.2) }

/-- An acquire of a range of addresses (R148, R177, R314). -/
def State.acquireRange (s : State) (core : Nat) (va : Word) (n : Nat) : State :=
  s.acquireIn core fun w k => decide (w.va + 64 * k < va.toNat + n ∧ va.toNat < w.va + 64 * k + 64)

/-- An acquire by a context of a core (R148): a fill that is on its way to the core brings words read before it, and does not make them valid. -/
def State.acquireWindows (s : State) (core : Nat) : State :=
  let late (i : Instr) : Bool := match i with
    | .windowFill c .. => c == core
    | _ => false
  ({ s with agenda := s.agenda.filter fun i => !late i } : State).acquireIn core fun _ _ => true

/-- The sibling of a context in its pair (R198); contexts 0 and 1 have none. -/
def siblingOf (n : Nat) : Option Nat := if n % 16 < 2 then none else some (if n % 2 = 0 then n + 1 else n - 1)

/-- A vector set of a core that no context holds, lowest first (R191). -/
def State.freeVset (s : State) (core : Nat) : Option Nat :=
  let used := (upTo 16).filterMap fun h => (s.ctx (16 * core + h)).vset
  (upTo 8).find? fun k => !used.contains k

/-- The queues of a PIPE stage, which the Porter has opened (R91). -/
def State.stageQueues (s : State) (t : TaskRec) : Tbl Binding :=
  let depth (id : Nat) : Nat := ((tget s.ports id).map (·.depth)).getD 1
  (match t.qin with
    | some id => [(0, Binding.streamIn id (depth id))]
    | none => []) ++ (match t.qout with
    | some id => [(1, Binding.streamOut id)]
    | none => [])

/-- A task starts on a helper context (R84, R211): its registers, its vector set and slots as they are claimed, and an acquire at the scope it is
bound by. A CO task starts suspended (R200). -/
def State.startTask (s : State) (n : Nat) (t : TaskRec) : State :=
  let core := coreOf n
  let o := s.owner t.owner
  let stack := o.stkbase + w64 (65536 * o.stksize.toNat * (n + 1))
  let set := if t.vec then s.freeVset core else none
  let g := ((((zeroRegs.setIfInBounds 2 stack).setIfInBounds 3 t.g3).setIfInBounds 4 t.g4).setIfInBounds 5 t.g5).setIfInBounds 6 t.g6
  let c : Ctx := { Ctx.free with
    unacked := (s.ctx n).unacked, paths := (s.ctx n).paths, releases := (s.ctx n).releases,
    state := if t.co then .blocked .cyield else .live, since := s.dtc, pc := t.pc.setWidth 64, level := t.level, owner := t.owner,
    space := t.space, g := g, vset := set, bind := s.stageQueues t, task := some t,
    co := if t.co then some ⟨n, false, true, none⟩ else none }
  let s0 := match siblingOf n with
    | some m => s.modCtx m fun c => { c with mateEnded := false }
    | none => s
  let s1 := s0.setCtx n c
  let s2 := match set with
    | some k => s1.modCore core fun c => { c with vsets := tset c.vsets k VSet.reset }
    | none => s1
  let s3 := s2.modCluster (clusterOf core) fun k => { k with acc := t.acc.foldl (fun a i => tset a i []) k.acc }
  let s4 : State := { s3 with nodes := match t.node.bind (tget s3.nodes) with
    | some d => tset s3.nodes d.id { d with state := .running, ctx := some n }
    | none => s3.nodes }
  if t.bound = 0 then s4 else s4.acquireWindows core

/-- A completion record's block (R55). -/
def completionBody (kind status nrem : Nat) (clipped : Bool) (tag : Nat) (tstart tend : Word) (f : Option TopFault)
    (erf0 erf1 : Word) (iseq : Nat) : Block :=
  let w0 := kind + 256 * status + 65536 * min nrem 255 + (if clipped then 2 ^ 24 else 0) + 2 ^ 32 * tag
  let w3 := match f with
    | some f => f.code.toNat + 256 * f.level + 65536 * f.cidx
    | none => 0
  let w4 := (f.map fun f => f.val.toNat).getD 0
  BitVec.ofNat 512 (w0 + 2 ^ 64 * (tstart.toNat + 2 ^ 64 * (tend.toNat + 2 ^ 64 * (w3 + 2 ^ 64 * (w4 + 2 ^ 64 *
    (erf0.toNat + 2 ^ 64 * (erf1.toNat + 2 ^ 64 * iseq)))))))

/-- A completion put on its way (R53): RECORD_COMPLETE performs it. -/
def State.complete (s : State) (c : Completion) : State :=
  let (id, s1) := s.newId
  { s1 with completions := s1.completions ++ [{ c with id := id }] }.post [.recordComplete id]

/-- The SPACE of a VCP, from its shadow entry (R45). -/
def State.vcpSpace (s : State) (o v : Nat) : BitVec 16 := ((s.vcp o v).w1).extractLsb' 32 16

/-- The die that holds a VCP's page (R71). -/
def State.vcpDie (s : State) (o v : Nat) : Nat := channelOf ((s.vcp o v).w0.toNat / 65536 * 65536) / 64

/-- A command record other than a LAUNCH completes (R53, R55). A JC or CRADDR that breaks its alignment names no counter, and the record goes to the ring
(log 42). -/
def State.finishCmd (s : State) (c : Cmd) (status : Nat) : State :=
  let h := blockWord c.body 0
  let clipped : Bool := wbits (s.vcp c.fn c.vcp).w1 22 20 < wbits h 18 16
  let aligned (w : Word) (n : Nat) : Word := if w.toNat % n = 0 then w else 0
  s.complete
    { id := 0, owner := c.owner, space := s.vcpSpace c.fn c.vcp, level := .u,
      body := completionBody (wbits h 7 0) status 0 clipped (wbits h 63 32) 0 s.dtc none 0 0 c.iseq,
      jc := aligned (blockWord c.body 4) 8, craddr := aligned (blockWord c.body 5) 64, die := s.vcpDie c.fn c.vcp, vcp := some (c.fn, c.vcp),
      write := h.getLsbD 9 || status != 0, written := false, irq := h.getLsbD 10, out := some c, launch := none, node := none }

/-- A launch completes (R53, R56, R94): STATUS from its fault, its abort, or its remote reports. A peer launch writes no record; the child of
a composite of this device ends with it (R370). -/
def State.finishLaunch (s : State) (l : Launch) (status : Nat) : State :=
  let l := { l with state := .done }
  let s1 := { s with launches := tset s.launches l.id l }
  let h := blockWord l.body 0
  let body := completionBody 1 status l.nremote l.clipped (wbits h 63 32) l.tstart s.dtc l.fault l.erf0 l.erf1 l.iseq
  let c : Completion :=
    { id := 0, owner := l.owner, space := l.space, level := l.level, body := body, jc := blockWord l.body 4,
      craddr := blockWord l.body 5, die := l.die, vcp := l.cmd.map fun c => (c.fn, c.vcp), write := h.getLsbD 9 || status != 0,
      written := false, irq := h.getLsbD 10, out := l.cmd, launch := some l.id, node := none }
  if l.peer then
    match l.node with
    | some d => s1.complete { c with jc := 0, write := false, irq := false, node := some (d, l.fault) }
    | none => { s1 with launches := tdel s1.launches l.id }
  else s1.complete c

/-- A store of a context to an RC or SC page waits at a line of its core's L1 (R165, R371). -/
def State.scStores (s : State) (n : Nat) : Bool :=
  (s.core (coreOf n)).l1.any fun e => (e.2.ct == .rc || e.2.ct == .sc) && e.2.wait.any fun w => w.store && w.ctx == n

/-- A store of a context waits at a line of its core's L1 (R371): it has not been performed at core scope (R159). -/
def State.storesWaiting (s : State) (n : Nat) : Bool :=
  (s.core (coreOf n)).l1.any fun e => e.2.wait.any fun w => w.store && w.ctx == n

/-- Every posted operation of a context has been acknowledged or reported (R56). -/
def State.quiet (s : State) (n : Nat) : Bool :=
  (s.ctx n).unacked == 0 && (s.ctx n).releases.isEmpty && !(s.storesWaiting n)

/-- A launch whose root has ended completes once its tasks have stopped and their posted operations are answered (R56, R94, R225). -/
def State.tryFinish (s : State) (id : Nat) : State :=
  match tget s.launches id with
  | none => s
  | some l =>
    let rootEnded := match l.root.bind (tget s.nodes) with
      | some n => decide (n.state = .ended)
      | none => false
    let out (e : Nat × Ctx) : Bool :=
      (e.2.task.bind (·.launch)) == some id && decide (e.2.state ≠ .free) && (decide (e.2.state ≠ .ended) || !(s.quiet e.1))
    if decide (l.state = .dispatched) && rootEnded && !(s.ctxs.any out) then
      let s1 : State := { s with nodes := s.nodes.filter (fun e => e.2.launch != id) }
      s1.finishLaunch l (if l.fault.isSome then 1 else if l.aborted then 7 else if l.nremote ≠ 0 then 8 else 0)
    else s

/-- A launch joins its owner's queues at the Porter of its die (R71, R72), and the Porter looks for work (R74). -/
def State.addLaunch (s : State) (l : Launch) : State :=
  let (id, s1) := s.newId
  { s1 with launches := tset s1.launches id { l with id := id, arrival := s.dtc, since := s.dtc } }.post [.porterSelect l.die]

/-- A peer launch on this device (R71, R81, R370): it names a callable and gives g3 to g6; it completes through no record. -/
def peerLaunchOf (die owner : Nat) (space : BitVec 16) (level : Level) (prio ceil cidx : Nat) (gv : Given) (node : Option Nat) : Launch where
  id := 0
  die := die
  owner := owner
  space := space
  level := level
  body := 0
  cmd := none
  iseq := 0
  prio := prio
  ceil := ceil
  clipped := false
  arrival := 0
  since := 0
  waited := 0
  age := 0
  state := .queued
  node := node
  root := none
  tstart := 0
  nremote := 0
  erf0 := 0
  erf1 := 0
  fault := none
  aborted := false
  victims := []
  preempted := false
  cidx := cidx
  g3 := gv.g3
  g4 := gv.g4
  g5 := gv.g5
  g6 := gv.g6
  peer := true

/-- A child of a domain-bound composite sent to device (DEVBASE + i) mod 512 (R81, R370): a launch here when that is this device, else a job
whose end that device has to tell. inst is the instance that runs item j of a FARM. -/
def State.peerChild (s : State) (p : Node) (j inst : Nat) : State :=
  match tget s.launches p.launch with
  | none => s
  | some l =>
    let (id, s1) := s.newId
    let k := laterChild p j
    let d : Node :=
      { id := id, launch := p.launch, parent := some p.id, child := j, level := p.level + 1, cidx := k.cidx, entry := 0, g3 := k.given.g3,
        g4 := k.given.g4, g5 := k.given.g5, g6 := k.given.g6, cores := [], state := .running, ctx := none, next := 0, iter := inst, retried := [],
        result := 0, fault := none }
    let s2 : State := { s1 with nodes := tset s1.nodes id d }
    let dev := (eDevbase p.entry + inst) % 512
    if dev = s.deviceIndex.toNat then s2.addLaunch (peerLaunchOf l.die l.owner l.space l.level l.prio l.ceil k.cidx k.given (some id))
    else { s2 with peerJobs := s2.peerJobs ++ [(dev, id)] }

/-- The nodes under a node, by levels. -/
def State.under (s : State) (roots : List Nat) : Nat → List Nat
  | 0 => roots
  | n + 1 =>
    let next := (s.nodes.filter fun (e : Nat × Node) => (e.2.parent.map fun p => roots.contains p).getD false).map (·.1)
    if next.isEmpty then roots else roots ++ s.under next n

/-- The nodes under a composite, itself left out. -/
def State.below (s : State) (id : Nat) : List Nat := (s.under [id] 9).drop 1

/-- Every task under the nodes given is aborted (R225): a started one at its next boundary, one not yet started at once. -/
def State.abortNodes (s : State) (ids : List Nat) : State :=
  let hit (t : TaskRec) : Bool := (t.node.map fun n => ids.contains n).getD false
  let ctxs := s.ctxs.filterMap fun (e : Nat × Ctx) =>
    if e.2.state ≠ .free ∧ e.2.state ≠ .ended ∧ (e.2.task.map hit).getD false then some (Instr.taskAbort e.1) else none
  let s1 : State := { s with
    nodes := s.nodes.map (fun e => if ids.contains e.1 then (e.1, { e.2 with state := .ended }) else e),
    cores := s.cores.map (fun e => (e.1, { e.2 with inbox := e.2.inbox.filter fun t => !hit t })),
    porters := s.porters.map (fun e => (e.1, { e.2 with records := e.2.records.filter fun r => !hit r.2 })) }
  s1.post ctxs

/-- The fault word of a RECORD child (R224). -/
def faultWord (f : TopFault) : Word := w64 (f.code.toNat + 256 * f.level + 65536 * f.cidx + 2 ^ 63)

/-- A word written for the device at a virtual address of an owner, as a coherent store at the home (R200, R224). -/
def State.deviceWrite (s : State) (core o : Nat) (space : BitVec 16) (l : Level) (va : Word) (n v : Nat) : State :=
  match s.checkNow core o space l va .write with
  | (.ok pa _, s1) => s1.slotUpdate o core (16 * core) pa false fun d t => (mergeBytes d (placeBytes (pa % 64) v) (rangeMask (pa % 64) n), t)
  | (_, s1) => s1

/-- A block read for the device at a virtual address of an owner, of which the model uses no word (R96): the slots that it takes. -/
def State.deviceRead (s : State) (core o : Nat) (space : BitVec 16) (l : Level) (va : Word) : State :=
  match s.checkNow core o space l va .read with
  | (.ok pa _, s1) => s1.slotTouch o core (16 * core) pa false false
  | (_, s1) => s1

/-- What a nest does next: a node has ended with a result, or has ended in fault. -/
inductive NestEvent where
  | ended (node : Nat) (result : Word)
  | fault (node : Nat) (f : TopFault)
  deriving DecidableEq, Repr

/-- A node of a nest changed. -/
def State.setNode (s : State) (n : Node) : State := { s with nodes := tset s.nodes n.id n }

/-- The live children of a node. -/
def State.children (s : State) (id : Nat) : List Node :=
  s.nodes.filterMap fun e => if e.2.parent = some id ∧ e.2.state ≠ .ended then some e.2 else none

/-- A FARM instance whose task has ended, with items left (R92): its context stays claimed, and the cycle's end gives it an item. -/
def State.awaitItem (s : State) (n : Node) : State :=
  let s1 := s.setNode { n with state := .idle }
  match n.ctx with
  | some h => s1.modCtx h fun c =>
      if (c.task.bind (·.node)) = some n.id ∧ c.state = .ended then { c with state := .blocked .inbox } else c
  | none => s1

/-- A context that no item is left for stops (R92, R354). -/
def State.retire (s : State) (n : Node) : State :=
  let s1 := s.setNode { n with state := .ended }
  match n.ctx with
  | some h => s1.modCtx h fun c => if (c.task.bind (·.node)) = some n.id ∧ c.state = .blocked .inbox then { c with state := .ended } else c
  | none => s1

/-- A FARM instance goes on with the next unassigned item (R92): on the same context under the same claims where its worker is a task, in the instance where it
is a composite. The instance of a launch that is being pre-empted gives its context up, and the item waits for the launch (R102). -/
def State.nextItem (s : State) (p n : Node) : State :=
  let j := p.next
  let p1 := { p with next := j + 1 }
  let s1 := s.setNode p1
  if eDom p.entry = 5 then (s1.setNode { n with state := .ended }).peerChild p1 j n.iter
  else
    match n.ctx.bind fun h => (s.ctx h).task.map fun t => (h, t) with
    | some (h, t) =>
      if ((tget s.launches n.launch).map (·.preempted)) = some true then (s1.retire n).postLater [.compositeInstantiate p.id j]
      else
        let g := (laterChild p j).given
        let (id, s2) := (s1.setNode { n with state := .ended }).newId
        let d : Node := { n with id := id, child := j, g3 := g.g3, g4 := g.g4, g5 := g.g5, g6 := g.g6, state := .running, result := 0, fault := none }
        (s2.setNode d).startTask h { t with node := some id, g3 := g.g3, g4 := g.g4, g5 := g.g5, g6 := g.g6, qin := none, qout := none }
    | none => (s1.setNode { n with state := .ended }).post [.compositeInstantiate p.id j]

/-- A composite acts on the end or the fault of a child (R89 to R93, R223 to R226). fuel bounds the climb to the root: a nest
has at most eight levels. -/
def State.nest (s : State) (ev : NestEvent) : Nat → State
  | 0 => s
  | fuel + 1 =>
    match ev with
    | .ended id result =>
      match tget s.nodes id with
      | none => s
      | some n =>
        let s1 := s.setNode { n with state := .ended, result := result }
        match n.parent.bind (tget s1.nodes) with
        | none => s1.tryFinish n.launch
        | some p =>
          let e := p.entry
          match eKind e with
          | 3 =>
            if n.child + 1 < eNch e then (s1.setNode { p with next := n.child + 2 }).post [.compositeInstantiate p.id (n.child + 1)]
            else s1.nest (.ended p.id 0) fuel
          | 5 => if n.child + 1 = eNch e then s1.nest (.ended p.id 0) fuel else s1
          | 7 =>
            if n.child % 2 = 0 then s1.post [.compositeInstantiate p.id (n.child + 1)]
            else
              let it := p.iter + 1
              let s2 := s1.setNode { p with iter := it }
              if result = 1 ∨ eMaxit e ≤ it then s2.nest (.ended p.id 0) fuel
              else s2.post [.compositeInstantiate p.id (n.child + 1)]
          | 6 =>
            if p.next < eNitems e then s1.awaitItem { n with result := result }
            else if (s1.children p.id).isEmpty then s1.nest (.ended p.id 0) fuel
            else s1
          | _ => if (s1.children p.id).isEmpty then s1.nest (.ended p.id 0) fuel else s1
    | .fault id f =>
      match tget s.nodes id with
      | none => s
      | some n =>
        if n.state = .ended then s
        else
        let s1 := s.setNode { n with state := .ended, fault := some f }
        match n.parent.bind (tget s1.nodes) with
        | none =>
          match tget s1.launches n.launch with
          | none => s1
          | some l =>
            { s1 with launches := tset s1.launches l.id { l with fault := some (l.fault.getD f) } }.tryFinish l.id
        | some p =>
          if p.state = .ended then s1
          else
            let l := tget s1.launches n.launch
            match eFpol p.entry with
            | 0 =>
              let all := (s1.nodes.filter fun e => e.2.launch = n.launch).map (·.1)
              let s2 := s1.abortNodes all
              match l with
              | some l => { s2 with launches := tset s2.launches l.id { l with fault := some (l.fault.getD f) } }.tryFinish l.id
              | none => s2
            | 2 =>
              if p.retried.contains n.child then (s1.abortNodes (s1.below p.id)).nest (.fault p.id f) fuel
              else (s1.setNode { p with retried := p.retried ++ [n.child] }).post [.compositeInstantiate p.id n.child]
            | 3 =>
              if n.g4.toNat < 8 then (s1.abortNodes (s1.below p.id)).nest (.fault p.id f) fuel
              else
                match l with
                | some l => (s1.deviceWrite (256 * l.die) l.owner l.space l.level n.g3 8 (faultWord f).toNat).nest (.ended id 0) fuel
                | none => s1
            | _ => (s1.abortNodes (s1.below p.id)).nest (.fault p.id f) fuel

/-- The fuel of a climb: eight levels, each at most two events (R80). -/
def nestFuel : Nat := 20

/-- A task fault goes to the nearest enclosing composite, or to the issuer (R223): the composites take the faults of a cycle at its end (R226). -/
def State.nestFault (s : State) (t : TaskRec) (code : BitVec 8) (val : Word) : State :=
  match t.node.bind (tget s.nodes) with
  | some n => { s with faults := s.faults ++ [(n.id, ⟨code, n.level, n.cidx, val⟩)] }
  | none => s

/-- The faults that arrived in a cycle reach their composites, in ascending child number (R226). -/
def State.faultStep (s : State) : State :=
  let child (e : Nat × TopFault) : Nat := ((tget s.nodes e.1).map (·.child)).getD 0
  let l := s.faults.mergeSort fun a b => decide (child a ≤ child b)
  l.foldl (fun s e => s.nest (.fault e.1 e.2) nestFuel) { s with faults := [] }

/-- The FARM instances that ended in a cycle take their items in ascending instance order (R92). -/
def State.farmStep (s : State) : State :=
  let idle := s.nodes.filterMap fun e => if e.2.state = .idle then some e.2 else none
  let l := idle.mergeSort fun a b => decide (a.iter ≤ b.iter)
  l.foldl (fun s n =>
    match n.parent.bind (tget s.nodes) with
    | none => s.retire n
    | some p =>
      if p.state = .ended then s.retire n
      else if p.next < eNitems p.entry then s.nextItem p n
      else
        let s1 := s.retire n
        if (s1.children p.id).isEmpty then s1.nest (.ended p.id 0) nestFuel else s1) s

/-- A continuation's fault is handled as if its parent had FPOL RECORD (R356, R224): its fault word at its g3. -/
def State.contFault (s : State) (t : TaskRec) (core : Nat) (code : BitVec 8) : State :=
  if t.g4.toNat < 8 then s
  else s.deviceWrite core t.owner t.space t.level t.g3 8 (faultWord ⟨code, 0, t.cidx, 0⟩).toNat

end Sys2Proof.Machine
end

