-- ==== Sys2Proof/Machine/Ops.lean ====
section
/-!
DEFINITION. The shared operations: how an instruction's effect runs, taking a trap and returning from one (R217), a task
fault (R223), reading and writing registers under their full bits and queue bindings (R191 to R196), blocking (R188,
R194), and the checks made at issue (R267).
-/

namespace Sys2Proof.Machine

/-- Why an effect ends before its last line: the state stands as it is (a trap was taken, or the context is blocked), or
the machine gives no meaning. -/
inductive Stop where
  | done
  | device (pa : Nat)
  deriving DecidableEq, Repr

/-- An instruction's effect: it changes the state, and may end early (R272). -/
abbrev Ex := EStateM Stop State

/-- The outcome of an effect. -/
def runEx (m : Ex Unit) (s : State) : Host.Outcome State Fault Refusal :=
  match m s with
  | .ok _ t => .next t
  | .error .done t => .next t
  | .error (.device pa) _ => .refused (.deviceRegister pa)

/-- The effect ends here with the state as it stands. -/
def stop {α : Type} : Ex α := throw .done

/-- The context whose instruction is being executed. -/
def me : Ex Ctx := do let s ← get; pure (s.ctx s.cur)
def modMe (f : Ctx → Ctx) : Ex Unit := modify fun (s : State) => s.modCtx s.cur f

/-- A context that goes on is LIVE; one whose record is being written stays SAVING (R188). -/
def CtxState.awake (st : CtxState) : CtxState := if st = .saving then .saving else .live

/-- The instruction is done: the context continues at the next instruction (R256, R273). -/
def Ctx.goOn (c : Ctx) (pc : Word) : Ctx := { c with pc := pc, held := none, lastWait := none, state := c.state.awake, peerBlocks := [] }
def advance : Ex Unit := modMe fun c => c.goOn c.npc
def State.advanceCtx (s : State) (n : Nat) : State := s.modCtx n fun c => c.goOn c.npc

/-- The number of a level in ECAUSE.PLEV and CTXID (R215, R362). -/
def levelNum : Level → Nat
  | .u => 0 | .s => 1 | .f => 2

/-- The attached members of a gang other than one context (R201, R204). -/
def State.gangOthers (s : State) (n : Nat) (g : Gang) : List Nat :=
  (upTo 8).filterMap fun k =>
    let m := 16 * (clusterOf (coreOf n) * 8 + k) + n % 16
    let joined : Bool := match (s.ctx m).gang with
      | some h => h.id == g.id && h.attached
      | none => false
    if m != n && g.mask.getLsbD k && joined then some m else none

/-- A member leaves the formed gang (R203, R204), or one that waits at a GFORM (number 0) leaves the wait: a follower detaches; a leader hands leadership to the attached member on
the lowest-numbered core. -/
def State.detach (s : State) (n : Nat) : State :=
  match (s.ctx n).gang with
  | none => s
  | some g =>
    let s1 := s.modCtx n fun c =>
      { c with gang := if g.id = 0 then none else some { g with leader := false, attached := false }, buffer := [] }
    if g.leader then
      match s.gangOthers n g with
      | m :: _ => s1.modCtx m fun c => { c with gang := c.gang.map fun h => { h with leader := true } }
      | [] => s1
    else s1

/-- What a context that stops holds is released: its vector set, its queue state, its claims (R198, R354). -/
def Ctx.stopTask (c : Ctx) (endWord : Word) : Ctx :=
  { c with state := .ended, endWord := endWord, vset := none, producers := [], markers := [], reissue := [], held := none,
           bind := [], qpend := [], results := [], gang := none, buffer := [], co := none, given := none, ticket := none,
           saveReq := false, saveMask := none, retryAt := none, sliceSince := none, lastWait := none }

/-- The key of a pair's channel: pair, direction and number (R198). -/
def channelKey (ctx : Nat) (back : Bool) (k : Nat) : Nat := (ctx % 16 / 2) * 8 + (if back then 4 else 0) + k

/-- A pair's channels are emptied when either context ends, and its sibling's later words are discarded (R198). -/
def State.clearChannels (s : State) (n : Nat) : State :=
  let s1 := match siblingOf n with
    | some m => s.modCtx m fun c => { c with mateEnded := true }
    | none => s
  s1.modCore (coreOf n) fun c => { c with channels := c.channels.filter fun e => e.1 / 8 != n % 16 / 2 }

/-- Requests at a home that a context waits with are withdrawn from every Bench (R207, R225). -/
def State.dropBench (s : State) (n : Nat) : State :=
  let pids := (s.ctx n).producers.map (·.pid)
  let stays (r : Req) : Bool := r.ctx != n && !(r.pid != 0 && pids.contains r.pid)
  { s with
    slices := s.slices.map fun e => (e.1, { e.2 with bench := e.2.bench.filter fun b => stays b.req })
    backoffs := s.backoffs.filter fun e => stays e.2 }

/-- A join counter decremented by the device at its home (R53, R355); id is the completion that waits for it, or 0. -/
def State.decrementFor (s : State) (core o : Nat) (space : BitVec 16) (l : Level) (va : Word) (id : Nat) : State :=
  if va = 0 then s
  else
    match s.checkNow core o space l va .write with
    | (.ok pa e, s1) =>
      if e.ct = 2 ∧ regionOf pa = .lp6 ∧ pa % 8 = 0 then
        s1.toSlice { op := .jcdec, ctx := 16 * core, core := core, owner := o, pa := pa, va := va, ct := .sc, x := w64 id }
      else s1
    | (_, s1) => s1

/-- A value handed to a context that waits at a CRESUME or CYIELD, wherever the context is (R200): it wakes with it. -/
def Ctx.give (c : Ctx) (v : Word) : Ctx :=
  { c with given := some v, state := match c.state with
    | .blocked .cresume | .blocked .cyield => .live
    | st => st }
def State.giveIf (s : State) (p : Ctx → Bool) (v : Word) : State :=
  { s with ctxs := s.ctxs.map fun e => if p e.2 then (e.1, e.2.give v) else e }

/-- The closing marker of a PIPE stage goes behind every word of its output (R91, R354). -/
def State.closeStage (s : State) (n : Nat) : State :=
  match ((s.ctx n).task.bind (·.qout)).bind (tget s.ports) with
  | some p => if p.closed then s else ({ s with ports := tset s.ports p.id { p with closed := true } } : State).post [.streamWordArrive p.id true 0]
  | none => s

/-- Stream ends of a context that stops (R91, R352): words for it are discarded; a stage's output is closed. -/
def State.dropStreams (s : State) (n : Nat) : State :=
  let mine (b : Nat × Binding) : Option Nat := match b.2 with
    | .streamIn id _ => some id
    | _ => none
  let ins := (s.ctx n).bind.filterMap mine
  ({ s with ports := s.ports.map fun e => if ins.contains e.1 then (e.1, { e.2 with discard := true, words := [] }) else e } : State).closeStage n

/-- An owner has freed a context, or what a task of it claimed (R75, R103): its waiting launches are tried again, and those that were pre-empted may come back. -/
def State.freed (s : State) (o : Nat) : State :=
  let of (f : Launch → Option Instr) : List Instr := s.launches.filterMap fun e => if e.2.owner = o then f e.2 else none
  s.post (of (fun l => if l.preempted && decide (l.state = .queued) then some (.porterSelect l.die) else none)
    ++ of (fun l => if l.state = .waiting then some (.launchRetry l.die o) else none))

/-- The engine work of a context whose task stops (R223, R225): finished records go, and what still runs is marked observed before it is done, so that no
later task of the context waits for it or hears of it (log 79). -/
def State.leaveEngines (s : State) (n : Nat) : State :=
  { s with
    copies := mapIf (fun q : CopyReq => q.ctx == some n) (fun q => { q with observed := true }) (s.copies.filter fun q => !(q.ctx == some n && q.done)),
    clusters := s.clusters.map fun e => (e.1, { e.2 with
      tiles := mapIf (fun t : Tile => t.ctx == n) (fun t => { t with observed := true }) (e.2.tiles.filter fun t => !(t.ctx == n && t.done)) }) }

/-- A context stops (R354, R223): its WS writes leave (R225), its channels, waits and streams end, its engines' records go, and its coroutine hands its
g3 to a resumer that waits (R200). A migrated context's completion returns to its own slot (R315). -/
def State.stopAt (s : State) (n : Nat) (endWord : Word) : State :=
  let c := s.ctx n
  let s0 := c.ws.foldl (fun s r => s.toSlice r) (s.modCtx n fun c => { c with ws := [], unacked := c.unacked + c.ws.length })
  let s1 := (((s0.detach n).clearChannels n).dropBench n).dropStreams n
  let s2 := match c.co.bind (·.resumer) with
    | some k => s1.giveIf (fun x => x.ticket == some k) (c.g.toList.getD 3 0)
    | none => s1
  let s3 := s2.leaveEngines n
  let stopped := (s3.ctx n).stopTask endWord
  let s4 := match c.migratedFrom with
    | some o => (s3.setCtx o { stopped with migratedFrom := none }).setCtx n Ctx.free
    | none => s3.setCtx n stopped
  s4.freed c.owner

/-- The task of a context has ended (R354, R94, R355): its nest goes on, or its continuation's counter is decremented. -/
def State.endTask (s : State) (n : Nat) : State :=
  let c := s.ctx n
  let s1 := s.stopAt n 0
  match c.task with
  | none => s1
  | some t =>
    match t.node with
    | some d => s1.nest (.ended d (c.g.toList.getD 3 0)) nestFuel
    | none => s1.decrementFor (coreOf n) t.owner t.space t.level t.jc 0

/-- A task fault (R223): the task stops at once and counts as ended in fault, and its fault goes to the nest. -/
def State.taskFault (s : State) (n : Nat) (code : BitVec 8) (val : Word) : State :=
  let c := s.ctx n
  let s1 := s.stopAt n (code.setWidth 64)
  match c.task with
  | none => s1
  | some t =>
    match t.node with
    | some _ => s1.nestFault t code val
    | none => (s1.contFault t (coreOf n) code).decrementFor (coreOf n) t.owner t.space t.level t.jc 0

/-- ECAUSE as a trap entry writes it (R215, R217). -/
def ecauseOf (code : BitVec 8) (l : Level) (imprecise : Bool) : Word :=
  w64 (code.toNat + 256 * levelNum l + 1024 + (if imprecise then 4096 else 0))

/-- Taking a trap (R217): at F the handler at TVEC_F; with a handler active or none set a task fault; otherwise entry to S
at TVEC_S. A gang member first detaches (R204). epc is pc_of_trap (R216). -/
def State.takeTrap (s : State) (n : Nat) (epc : Word) (cause : Cause) (val info : Word) (imprecise : Bool) : State :=
  let s := s.detach n
  let c := s.ctx n
  let entry (c : Ctx) (pc : Word) : Ctx :=
    { c with epc := epc.setWidth 55, pc := pc, held := none, lastWait := none, state := c.state.awake, refusals := 0,
             peerBlocks := [] }
  if c.level = .f then
    s.modCtx n fun c => { entry c (s.tvecF.setWidth 64) with ecause := (c.ecause &&& ~~~(0xFF : Word)) ||| cause.code.setWidth 64 }
  else if c.ecause.getLsbD 10 ∨ (s.owner c.owner).tvecS = 0 then s.taskFault n cause.code val
  else
    let vec := ((s.owner c.owner).tvecS.setWidth 64 : Word)
    s.modCtx n fun c =>
      { entry c vec with eval := val, einfo := info, ecause := ecauseOf cause.code c.level imprecise, level := .s }

/-- The registers a producer fills (R269). -/
def Dest.regs : Dest → List Nat
  | .g r => [r]
  | .v r => [64 + r]

/-- A register that waits for its producer again: empty, with nothing of its own (R269). -/
def State.emptyAgain (s : State) (n r : Nat) : State :=
  let s1 := s.modCtx n fun c => { c with markers := tdel c.markers r }
  if r = 0 then s1
  else if r < 64 then s1.modCtx n fun c => { c with gFull := c.gFull &&& ~~~(BitVec.ofNat 64 (2 ^ r)) }
  else
    match (s1.ctx n).vset with
    | none => s1
    | some k => s1.modCore (coreOf n) fun c =>
        let v := (tget c.vsets k).getD VSet.reset
        { c with vsets := tset c.vsets k { v with full := v.full &&& ~~~(BitVec.ofNat 32 (2 ^ (r - 64))) } }

/-- The kept reissue records of a context are issued again, in order (R207, R368): each is a pending producer again. -/
def State.reissueAll (s : State) (n : Nat) : State :=
  let c := s.ctx n
  let again (s : State) (e : Req × Producer) : State :=
    let s1 := if e.2.queued then s else e.2.dest.regs.foldl (fun s r => s.emptyAgain n r) s
    (s1.modCtx n fun c => { c with producers := c.producers ++ [e.2] }).toSlice
      { e.1 with ctx := n, core := coreOf n }
  c.reissue.foldl again (s.modCtx n fun c => { c with reissue := [] })

/-- min_U_S of the level held in PLEV (R213, R217). -/
def returnLevel (ecause : Word) : Level := if wbits ecause 9 8 = 1 then .s else .u

/-- A return from a trap (R217): with RAISE set the trap goes to the nest; otherwise the level and the pc are restored and
ACTIVE is cleared. At F the level stays F when PLEV holds F (R213). -/
def State.doEret (s : State) (n : Nat) : State :=
  let c := s.ctx n
  if c.ecause.getLsbD 11 then s.taskFault n (c.ecause.extractLsb' 0 8) c.eval
  else
    let l := if c.level = .f then (if wbits c.ecause 9 8 = 0 then Level.u else if wbits c.ecause 9 8 = 1 then .s else .f)
      else returnLevel c.ecause
    (s.modCtx n fun c => { c with level := l, pc := c.epc.setWidth 64, ecause := c.ecause &&& ~~~(0x400 : Word),
                                  held := none, lastWait := none, state := .live }).reissueAll n

/-- A precise trap of the instruction being executed: EPC names it (R216). -/
def trap {α : Type} (cause : Cause) (val info : Word) : Ex α := do
  let c ← me
  modify fun (s : State) => s.takeTrap s.cur c.pc cause val info false
  stop

/-- The context is BLOCKED on a wait and holds its instruction (R188, R267); a wait that goes on keeps its first cycle. -/
def Ctx.block (c : Ctx) (w : Wait) (now : Word) : Ctx :=
  let t := match c.lastWait with
    | some (w', t) => if w' = w then t else now
    | none => now
  { c with state := .blocked w, since := t, lastWait := some (w, t) }
def blockOn {α : Type} (w : Wait) : Ex α := do
  modify fun (s : State) => s.modCtx s.cur fun c => c.block w s.dtc
  stop

/-- Contexts whose wait meets a condition become ready to try again (R188). -/
def State.wakeIf (s : State) (p : Nat → Wait → Bool) : State :=
  { s with ctxs := s.ctxs.map fun e => match e.2.state with
      | .blocked w => if p e.1 w then (e.1, { e.2 with state := .live }) else e
      | _ => e }
def State.wake (s : State) (n : Nat) : State := s.wakeIf fun m _ => m == n

/-- The feature groups (R43). -/
inductive Group where
  | base | vec | matrix | cb4 | comb | gang | peer | migr | stat | win | wstore
  deriving DecidableEq, Repr
def Group.bit : Group → Nat
  | .base => 0 | .vec => 1 | .matrix => 2 | .cb4 => 3 | .comb => 4 | .gang => 5 | .peer => 6 | .migr => 7
  | .stat => 8 | .win => 9 | .wstore => 10

/-- A group that the owner's driver has accepted (R42, R43); contexts at F run Fraven's own code and are not checked (log 7). -/
def State.accepted (s : State) (c : Ctx) (g : Group) : Bool :=
  c.level == .f || ((s.owner c.owner).featState == 1 && (s.owner c.owner).accept.getLsbD g.bit)

/-- UNDEF with the head, for a group not accepted (R266); an instruction that has waited has passed it and resumes at
step 4 (R267). -/
def undef {α : Type} : Ex α := do let c ← me; trap .undef (c.head.setWidth 64) 0
def needGroup (g : Group) : Ex Unit := do
  let s ← get
  let c ← me
  if c.lastWait.isSome || s.accepted c g then pure () else undef

/-- UNDEF for a vector instruction without a vector set or on a channel core (R191, R266). -/
def needVector : Ex Unit := do
  let s ← get
  let c ← me
  if c.vset.isSome && !isChannel (coreOf s.cur) then pure () else undef

/-- PRIV with the head (R267 step 3). -/
def priv {α : Type} : Ex α := do let c ← me; trap .priv (c.head.setWidth 64) 0
def needLevel (ok : Level → Bool) : Ex Unit := do let c ← me; if ok c.level then pure () else priv

/-- An operand as the issue checks see it: a source with its mode, or a destination. Vector registers are 64 to 95 (R192). -/
inductive Opnd where
  | src (r : Nat) (mode : Bool)
  | dst (r : Nat)
  deriving DecidableEq, Repr

def src (x : Src) : Opnd := .src x.reg.toNat x.mode
def vsrc (x : VSrc) : Opnd := .src (64 + x.reg.toNat) x.mode
/-- A source without a mode bit of its own reads as mode 0 (R192, R263). -/
def src0 (r : GReg) : Opnd := .src r.toNat false
def vsrc0 (r : VReg) : Opnd := .src (64 + r.toNat) false
def dst (r : GReg) : Opnd := .dst r.toNat
def vdst (r : VReg) : Opnd := .dst (64 + r.toNat)

/-- The binding of a register of a context (R195). -/
def Ctx.bound (c : Ctx) (r : Nat) : Option Binding := if 56 ≤ r ∧ r < 64 then tget c.bind (r - 56) else none

/-- The full bit of a register (R191): g0 is always full. -/
def State.isFull (s : State) (c : Ctx) (r : Nat) : Bool :=
  if r = 0 then true
  else if r < 64 then c.gFull.getLsbD r
  else ((c.vset.bind fun k => tget (s.core (coreOf s.cur)).vsets k).getD VSet.reset).full.getLsbD (r - 64)

/-- Words waiting in the queue that a receiving register is bound to (R195, R351). -/
def State.queueWords (s : State) (n : Nat) (b : Binding) : List Word :=
  match b with
  | .sibling false back k => (tget (s.core (coreOf n)).channels (channelKey n back k)).getD []
  | .streamIn id _ => ((tget s.ports id).map (·.words)).getD []
  | .results => (s.ctx n).results
  | _ => []

/-- The depth of the queue a register is bound to (R195, R199). -/
def State.queueDepth (s : State) (b : Binding) : Nat :=
  match b with
  | .sibling .. => 8
  | .streamIn _ d => d
  | .streamOut id => ((tget s.ports id).map (·.depth)).getD 64
  | .results => 16

/-- Words and reserved places that count against a sending queue (R196). -/
def State.queueLoad (s : State) (n q : Nat) (b : Binding) : Nat :=
  let pend := ((tget (s.ctx n).qpend q).map List.length).getD 0
  match b with
  | .sibling true back k => pend + ((tget (s.core (coreOf n)).channels (channelKey n back k)).getD []).length
  | .streamOut id => pend + ((tget s.ports id).map fun p => p.words.length + p.flight).getD 0
  | _ => pend

/-- A register in a PIPE stage's role: q0 of a stage whose input the Porter opened (R91). -/
def Ctx.pipeIn (c : Ctx) (q : Nat) : Bool := q == 0 && ((c.task.map fun t => t.qin.isSome).getD false)

/-- What a source that is read comes to: it can be read, it is empty, or it is the end of a PIPE stage. -/
inductive Ready where
  | yes | empty | queueTrap | stageEnd
  deriving DecidableEq, Repr

/-- The state of a source register (R192, R196, R197, R91). -/
def State.sourceReady (s : State) (r : Nat) : Ready :=
  let c := s.ctx s.cur
  match c.bound r with
  | none => if s.isFull c r then .yes else .empty
  | some b =>
    match b with
    | .sibling true _ _ | .streamOut _ => .queueTrap
    | .streamIn id _ =>
      if (s.queueWords s.cur b).isEmpty then
        if ((tget s.ports id).map (·.marker)).getD false then (if c.pipeIn (r - 56) then .stageEnd else .queueTrap) else .empty
      else .yes
    | _ => if (s.queueWords s.cur b).isEmpty then .empty else .yes

/-- A fault marker on a register (R298). -/
def Ctx.marker (c : Ctx) (r : Nat) : Option Pending := tget c.markers r

/-- Ends a PIPE stage at the reading instruction (R91): the read acts as END there. -/
def endStage : Ex Unit := do
  modMe fun c => { c with held := some .endTask }
  stop

/-- The completion word at the head of the engine result queue, if the register is bound to it and the word carries a
fault (R340, R351). -/
def State.faultedWord (s : State) (r : Nat) : Option Word :=
  match (s.ctx s.cur).bound r with
  | some .results =>
    match (s.ctx s.cur).results with
    | w :: _ => if wbits w 39 32 = 0 then none else some w
    | [] => none
  | _ => none

/-- How a tile task has ended: 0, or the engine cause of R341; the DKIND access's failure counts when nothing failed before
(R388). -/
def Tile.cause (t : Tile) : BitVec 8 := if t.result.getD 0 = 0 then t.dk.getD 0 else t.result.getD 0
/-- A tile task's completion word (R340). -/
def Tile.word (t : Tile) : Word :=
  let dk : Bool := t.result.getD 0 == 0 && t.dk.isSome
  w64 ((blockWord t.body 5).toNat / 2 ^ 32 + 2 ^ 32 * t.cause.toNat
    + (if dk then 2 ^ 41 else if t.cause = 0 then 0 else 2 ^ 48 * (t.kidx % 65536)))
/-- How a copy has ended (R349, R388). -/
def CopyReq.cause (c : CopyReq) : BitVec 8 := if c.result.getD 0 = 0 then c.dk.getD 0 else c.result.getD 0
/-- A copy's completion word (R349). -/
def CopyReq.word (c : CopyReq) : Word :=
  let dk : Bool := c.result.getD 0 == 0 && c.dk.isSome
  w64 (c.k % 2 ^ 32 + 2 ^ 32 * c.cause.toNat + 2 ^ 40
    + (if dk then 2 ^ 41 else if c.cause = 0 then 0 else 2 ^ 48 * (c.next % 65536)))

/-- EINFO of ENGINE for a completion word (R219). -/
def engineInfo (w : Word) : Word := w64 (wbits w 39 32 + (if w.getLsbD 40 then 256 else 0))

/-- A copy's or tile task's fault has been observed by its completion word (R350, R344). -/
def State.observe (s : State) (n : Nat) (w : Word) : State :=
  { s with
    copies := mapIf (fun (c : CopyReq) => c.ctx == some n && c.done && c.word == w) (fun c => { c with observed := true }) s.copies,
    clusters := s.clusters.map fun e => (e.1, { e.2 with
      tiles := mapIf (fun (t : Tile) => t.ctx == n && t.done && t.word == w) (fun t => { t with observed := true }) e.2.tiles }) }

/-- Blocks or traps on one source (R192, R197, R263, R298, R340), in field order. A faulted completion word is consumed by
the read that raises ENGINE. -/
def checkSource (r : Nat) (mode : Bool) : Ex Unit := do
  let s ← get
  let c ← me
  match c.marker r with
  | some p =>
    modMe fun c => { c with markers := tdel c.markers r }
    trap p.cause p.val p.info
  | none =>
    match s.sourceReady r with
    | .yes =>
      match s.faultedWord r with
      | some w =>
        modMe fun c => { c with results := c.results.drop 1 }
        modify fun (s : State) => s.observe s.cur w
        trap .engine w (engineInfo w)
      | none => pure ()
    | .queueTrap => trap .queue (w64 r) 0
    | .stageEnd => endStage
    | .empty => if mode then trap .empty (w64 r) 0 else blockOn (if (c.bound r).isSome then .queue r else .reg r)

/-- A producer of the context is pending on a register (R193). -/
def Ctx.pendingOn (c : Ctx) (r : Nat) : Bool := c.producers.any fun p => !p.queued && p.dest.regs.contains r

/-- A push through this binding raises QUEUE: a receiving end, or a stream whose route is closed (R197). -/
def State.pushClosed (s : State) (b : Binding) : Bool :=
  match b with
  | .streamOut id => ((tget s.ports id).map (·.closed)).getD true
  | .sibling true _ _ => false
  | _ => true

/-- One destination: a pending producer blocks (R193), a push to a receiving end or a closed stream raises QUEUE (R197), and
a full queue blocks (R196). -/
def checkDest (r : Nat) : Ex Unit := do
  let s ← get
  let c ← me
  if r = 0 then pure ()
  else
    match c.bound r with
    | none => if c.pendingOn r then blockOn (.reg r) else pure ()
    | some b =>
      if s.pushClosed b then trap .queue (w64 r) 0
      else if s.queueDepth b ≤ s.queueLoad s.cur (r - 56) b then blockOn (.queue r)
      else pure ()

/-- The reading checks of an instruction (R267 step 4): sources in field order, then destinations. -/
def checkOpnds : List Opnd → Ex Unit
  | [] => pure ()
  | .src r m :: rest => do checkSource r m; checkOpnds rest
  | .dst r :: rest => do checkDest r; checkOpnds rest

/-- The head word of a queue removed (R196). A pop from a stream of another core acquires at the scope of its port, die (R352); one from a sibling's channel or a
core-local stream acquires at core scope, where the pusher's writes are seen anyway. -/
def State.popQueue (s : State) (n : Nat) (b : Binding) : State :=
  match b with
  | .sibling false back k =>
    let key := channelKey n back k
    let s1 := s.modCore (coreOf n) fun c => { c with channels := tset c.channels key (((tget c.channels key).getD []).drop 1) }
    s1.wakeIf fun m w => m / 2 == n / 2 && (match w with | .queue _ => true | _ => false)
  | .streamIn id _ =>
    let s1 := { s with ports := (tget s.ports id).elim s.ports fun p => tset s.ports id { p with words := p.words.drop 1 } }
    let s2 := s1.wakeIf fun m w => ((tget s1.ports id).map fun p => p.sender == m).getD false && (match w with | .queue _ => true | _ => false)
    if ((tget s1.ports id).map fun p => coreOf p.sender == coreOf n).getD true then s2 else s2.acquireWindows (coreOf n)
  | .results => s.modCtx n fun c => { c with results := c.results.drop 1 }
  | _ => s

/-- The value of a general register, or the head word of the queue it is bound to (R191, R196). -/
def State.gValue (s : State) (r : Nat) : Word :=
  let c := s.ctx s.cur
  match c.bound r with
  | none => if r = 0 then 0 else c.g.toList.getD r 0
  | some b => (s.queueWords s.cur b).headD 0

/-- The general registers that sources name, each once (R196). -/
def sourceRegs (ops : List Opnd) : List Nat :=
  ops.foldl (fun l o => match o with | .src r _ => if r < 64 then addNew l r else l | _ => l) []

/-- One word popped from each queue register named as a source, however often it is named (R196). -/
def State.popAll (s : State) (ops : List Opnd) : State :=
  (sourceRegs ops).foldl (fun s r => match (s.ctx s.cur).bound r with
    | some b => s.popQueue s.cur b
    | none => s) s
def pop (ops : List Opnd) : Ex Unit := modify fun (s : State) => s.popAll ops

/-- The values of general sources as they stand, after the checks on every operand; nothing is popped yet, since a trap of
the instruction's own checks leaves its state unchanged (R216, R267, R271). -/
def peekAll (ops : List Opnd) : Ex (List Word) := do
  checkOpnds ops
  let s ← get
  pure (ops.map fun o => match o with
    | .src r _ => if r < 64 then s.gValue r else 0
    | .dst _ => 0)
def pk1 (b : Opnd) (ds : List Opnd) : Ex Word := do
  let l ← peekAll (b :: ds)
  pure (l.getD 0 0)
def pk2 (b c : Opnd) (ds : List Opnd) : Ex (Word × Word) := do
  let l ← peekAll (b :: c :: ds)
  pure (l.getD 0 0, l.getD 1 0)
def pk3 (b c d : Opnd) (ds : List Opnd) : Ex (Word × Word × Word) := do
  let l ← peekAll (b :: c :: d :: ds)
  pure (l.getD 0 0, l.getD 1 0, l.getD 2 0)

/-- The values of general sources, read and popped together at issue, for an instruction with no checks of its own (R271). -/
def rd1 (b : Opnd) (ds : List Opnd) : Ex Word := do
  let x ← pk1 b ds
  pop (b :: ds)
  pure x
def rd2 (b c : Opnd) (ds : List Opnd) : Ex (Word × Word) := do
  let x ← pk2 b c ds
  pop (b :: c :: ds)
  pure x
def rd3 (b c d : Opnd) (ds : List Opnd) : Ex (Word × Word × Word) := do
  let x ← pk3 b c d ds
  pop (b :: c :: d :: ds)
  pure x

/-- A vector set of a core (R191). -/
def Core.vset (c : Core) (k : Nat) : VSet := (tget c.vsets k).getD VSet.reset

/-- The data and tag of a vector register of the current context (R191). -/
def State.vData (s : State) (r : Nat) : BitVec 512 :=
  (((s.ctx s.cur).vset.bind fun k => tget ((s.core (coreOf s.cur)).vset k).v r)).getD 0
def State.vTag (s : State) (r : Nat) : Tag :=
  (((s.ctx s.cur).vset.bind fun k => tget ((s.core (coreOf s.cur)).vset k).tag r)).getD 0

/-- A vector register written with its tag, and full (R191, R319). -/
def State.setV (s : State) (n r : Nat) (d : BitVec 512) (t : Tag) : State :=
  match (s.ctx n).vset with
  | none => s
  | some k => (s.modCtx n fun c => { c with markers := tdel c.markers (64 + r) }).modCore (coreOf n) fun c =>
      let v := c.vset k
      { c with vsets := tset c.vsets k { v := tset v.v r d, tag := tset v.tag r t, full := v.full ||| BitVec.ofNat 32 (2 ^ r) } }

/-- A general register written and full; a write to g0 is discarded (R191). -/
def Ctx.setG (c : Ctx) (r : Nat) (v : Word) : Ctx :=
  if r = 0 then c
  else { c with g := c.g.setIfInBounds r v, gFull := c.gFull ||| BitVec.ofNat 64 (2 ^ r), markers := tdel c.markers r }

/-- A register marked empty (R192, R269); what it held, a fault marker included, is gone. -/
def State.markEmpty (s : State) (n r : Nat) : State := s.emptyAgain n r

/-- One word pushed to the queue a register is bound to (R196, R198, R199). -/
def State.pushQueue (s : State) (n : Nat) (b : Binding) (v : Word) : State :=
  match b with
  | .sibling true back k =>
    match siblingOf n with
    | none => s
    | some m =>
      if (s.ctx n).mateEnded = true ∨ (s.ctx m).state = .ended then s
      else
        let key := channelKey n back k
        let s1 := s.modCore (coreOf n) fun c => { c with channels := tset c.channels key (((tget c.channels key).getD []) ++ [v]) }
        s1.wakeIf fun j w => j == m && (match w with | .queue _ => true | _ => false)
  | .streamOut id =>
    let s1 := { s with ports := (tget s.ports id).elim s.ports fun p => tset s.ports id { p with flight := p.flight + 1 } }
    s1.post [.streamWordArrive id false v]
  | _ => s

/-- Words of a queue whose turn has come are pushed in program order, up to the first place still reserved (R196). -/
def State.flushQueue (s : State) (n q : Nat) : Nat → State
  | 0 => s
  | k + 1 =>
    match tget (s.ctx n).qpend q, tget (s.ctx n).bind q with
    | some ((_, some v) :: rest), some b =>
      ((s.modCtx n fun c => { c with qpend := if rest.isEmpty then tdel c.qpend q else tset c.qpend q rest }).pushQueue n b v).flushQueue n q k
    | _, _ => s

/-- The state after a write to a register by the current context, whose destination check has passed: g0 discards it, a bound register
pushes it, in its turn (R191, R196). -/
def State.wrote (s : State) (r : GReg) (v : Word) : State :=
  match (s.ctx s.cur).bound r.toNat with
  | none => s.modCtx s.cur fun c => c.setG r.toNat v
  | some b =>
    let q := r.toNat - 56
    if (tget (s.ctx s.cur).qpend q).isSome then
      s.modCtx s.cur fun c => { c with qpend := tset c.qpend q (((tget c.qpend q).getD []) ++ [(0, some v)]) }
    else s.pushQueue s.cur b v
def wr (r : GReg) (v : Word) : Ex Unit := modify fun (s : State) => s.wrote r v

/-- A vector register written by the current context (R191). -/
def wrV (r : VReg) (d : BitVec 512) (t : Tag) : Ex Unit := modify fun (s : State) => s.setV s.cur r.toNat d t

/-- The number of a destination register: vector registers are 64 to 95 (R192). -/
def Dest.num : Dest → Nat
  | .g r => r
  | .v r => 64 + r

/-- A long-latency producer begins, its destination check passed (R269, R196): it takes the next number, and its destination is marked
empty, or a place in its queue is reserved. -/
def State.began (s : State) (d : Dest) (home : Option Req) (acq : Bool) : State :=
  let id := s.nextId
  let s1 := s.newId.2
  match (s1.ctx s1.cur).bound d.num with
  | some _ => s1.modCtx s1.cur fun c => { c with
      qpend := tset c.qpend (d.num - 56) (((tget c.qpend (d.num - 56)).getD []) ++ [(id, none)]),
      producers := c.producers ++ [⟨id, d, home, acq, acq, true⟩] }
  | none => (d.regs.foldl (fun (s : State) (r : Nat) => s.markEmpty s.cur r) s1).modCtx s1.cur fun c =>
      { c with producers := c.producers ++ [⟨id, d, home, acq, acq, false⟩] }
/-- The answer is the producer's number. -/
def produce (d : Dest) (home : Option Req) (acq : Bool) : Ex Nat := do
  let s ← get
  set (s.began d home acq)
  pure s.nextId

/-- The latency of a producer is timing: its result is put on its way at once (log 2). -/
def arriveLater (pid : Nat) (v : Arrival) : Ex Unit := modify fun (s : State) => s.post [.producerArrive s.cur pid v]

end Sys2Proof.Machine
end

