-- ==== Sys2Proof/Machine/Coherence.lean ====
section
/-!
DEFINITION. The L1 caches and the directory (R131, R183 to R186, R371, R372, R375): requests to a home, the messages
between home and L1, and what an L1 does when a line settles. Each function is a plain change of the state.
-/

namespace Sys2Proof.Machine

/-- The home's step for a request (R149, R166, R170 to R174, R184, R306). -/
def homeEvent (r : Req) : Instr :=
  match r.op with
  | .rds | .winFill => if r.ct = .ws then .homeWsLoad r else .homeRds r
  | .ifetch | .read | .touch => .homeRds r
  | .walk => .pageWalkRead (clusterOf r.core) r.pid
  | .rdx => .homeRdx r
  | .upg => .homeUpg r
  | .wb | .write => .homeWb r
  | .merge => .homeMerge r
  | .amo => .homeAmo r
  | .red => .homeRed r
  | .take => .homeTake r
  | .trytake => .homeTrytake r
  | .waitw => .homeWaitw r
  | .put => .homePut r
  | .putx => .homePutx r
  | .jcinit => .homeJcinit r
  | .jcdec => .homeJcdec r
  | .jcwait => .homeJcwait r
  | .barinit => .homeBarinit r
  | .bararr => .homeBararr r
  | .barwait => .homeBarwait r
  | .wsWrite => .homeWsWrite r
  | .wsLoad => .homeWsLoad r
  | .tagWrite => .homeTagWrite r

/-- Operations for which the home needs the right to write the frame (R142). -/
def opWrites (op : HomeOp) : Bool :=
  match op with
  | .rds | .winFill | .ifetch | .read | .touch | .walk | .waitw | .jcwait | .barwait | .wsLoad => false
  | _ => true

/-- Operations that write every byte of their block (R385). -/
def wholeBlock (r : Req) : Bool :=
  match r.op with
  | .wb | .wsWrite => true
  | .merge => r.mask == BitVec.allOnes 64 || r.ct == .ws
  | .write => r.mask == BitVec.allOnes 64
  | .touch => r.typed
  | _ => false

/-- A request leaves its core for its home: for the port of its slice (R117, R384), or, for a block that no slice homes, for its store directly
(R154, R155). -/
def State.depart (s : State) (r : Req) : State :=
  match regionOf r.pa with
  | .lp6 => s.toSlice r
  | _ => s.post [homeEvent r]

/-- The path of a request in a context's path set (R178): its home slice and the dimension order of its packet. -/
def slicePath (c : Nat) (yf : Bool) : Nat := c + (if yf then 256 else 0)

/-- The die-to-die link directions that a request crosses (R178), by their places 0 to 7 among the LINK instances from 4,096 on. -/
def State.linksOf (s : State) (r : Req) : List Nat :=
  (route s.fencedDieLinks (corePlace r.core) (slicePlace (channelOf r.pa)) r.yf).filterMap fun h => if 4096 ≤ h.2 then some (h.2 - 4096) else none

/-- The path of a die-to-die link direction in a context's path set (R178). -/
def linkPath (i : Nat) : Nat := 512 + i

/-- A request sent by a context: its slice with its packet's dimension order, and the link directions that it crosses, join the context's path set
(R178). The order is the one that its packet draws. -/
def State.send (s : State) (r : Req) : State :=
  let c := channelOf r.pa
  let yf := (s.chooseOrder r.owner (corePlace r.core) (slicePlace c)).1
  (s.depart r).modCtx r.ctx fun k => { k with
    paths := ((s.linksOf { r with yf := yf }).map linkPath).foldl addNew (addNew k.paths (slicePath c yf)) }

/-- What a home sends back to the unit that asked (R117): on the reverse of the request's route, or, where no slice homes the block or a peer
asked, at once. -/
def State.respond (s : State) (r : Req) (ev : List Instr) : State :=
  match regionOf r.pa with
  | .lp6 => if remoteBase ≤ r.ctx then s.post ev else s.packetBack r.owner (corePlace r.core) (slicePlace (channelOf r.pa)) r.yf (packetFlits (bringsBlock r)) ev (accessOf r)
  | _ => s.post ev

/-- A home that cannot serve a request now: it waits in arrival order at a block between stable states (R185), and behind a
message in flight otherwise. -/
def State.defer (s : State) (r : Req) : State :=
  let b := r.pa / 64
  let d := s.dirOf b
  match d.st with
  | .unc | .shd | .exc | .own => s.post [homeEvent r]
  | _ => s.setDir b { d with waiting := d.waiting ++ [r] }

/-- The extension of a loaded value (R300). -/
def extendTo (v size : Nat) (signed : Bool) : Word := if signed then sext64 v (8 * size) else zext64 v (8 * size)

/-- What a load of a block's data receives. -/
def loadValue (d : Block) (t : Tag) (pa size : Nat) (signed vec : Bool) : Arrival :=
  if vec then .vec d t else .word (extendTo (blockBytes d (pa % 64) size) size signed)

/-- The tag that a typed store leaves: FMT and SCALE from the store, W and FE unchanged (R240, R305). -/
def typedTag (old new : Tag) : Tag := (old &&& ~~~(0xFF7F : Tag)) ||| (new &&& 0xFF7F)

/-- A waiting store performed on a line (R159, R371), with its tag as one unit when it is typed (R242). -/
def Waiter.apply (w : Waiter) (l : L1Line) : L1Line :=
  { l with data := mergeBytes l.data w.data w.mask, dirty := true, tag := if w.typed then typedTag l.tag w.tag else l.tag }

/-- The accesses that wait at a line, in order, as far as the line's state lets them (R371): loads need S, E, O, M; a store
needs M, makes an E line M, and asks for the upgrade of an S or O line. PV lines serve both (R163). -/
def settleLine (l : L1Line) : List Waiter → L1Line × List Instr × Bool
  | [] => ({ l with wait := [] }, [], false)
  | w :: r =>
    if w.store then
      match l.st with
      | .pv | .m =>
        let (l', ev, up) := settleLine (w.apply l) r
        (l', ev, up)
      | .e =>
        let (l', ev, up) := settleLine (w.apply { l with st := .m }) r
        (l', ev, up)
      | .s | .o => ({ l with st := .smG, wait := w :: r }, [], true)
      | _ => ({ l with wait := w :: r }, [], false)
    else
      match l.st with
      | .pv | .ro | .m | .o | .e | .s =>
        let (l', ev, up) := settleLine l r
        (l', .producerArrive w.ctx w.pid (loadValue l.data l.tag w.pa w.size w.signed w.vec) :: ev, up)
      | _ => ({ l with wait := w :: r }, [], false)

/-- A request that an L1 sends on behalf of its lines (R184, R384). -/
def lineReq (op : HomeOp) (core b : Nat) (l : L1Line) : Req :=
  { op := op, ctx := 16 * core, core := core, owner := l.owner, pa := 64 * b, va := w64 (64 * b), ct := l.ct }

/-- A line whose state has become stable: its waiting accesses proceed, then snoops held for it are answered (R371). A
context whose stores have been performed may complete a release. -/
def State.settle (s : State) (core block : Nat) : State :=
  match s.l1 core block with
  | none => s
  | some l =>
    let (l', ev, up) := settleLine l l.wait
    let quiet := l'.wait.isEmpty
    let s1 := s.setL1 core block { l' with held := if quiet then [] else l'.held }
    let s2 := s1.post (ev ++ (if quiet then l'.held else []))
    let s2 := if up then s2.depart (lineReq .upg core block l') else s2
    s2.wakeIf fun m w => coreOf m == core && (w.isRelease || (match w with | .fill _ => true | _ => false))

/-- A write-back of a line that leaves or is cleaned (R183, R371): the line stands in MI_A until WB_ACK. counted tells that
the context's count of unacknowledged stores includes it (R178, R308). -/
def State.writeBack (s : State) (ctx core block : Nat) (l : L1Line) (keep counted : Bool) : State :=
  let r : Req := { lineReq .wb core block l with ctx := ctx, data := l.data, tag := l.tag, keep := keep, pid := if counted then 1 else 0 }
  let s1 := s.setL1 core block { l with st := .miA, keep := keep, fromM := decide (l.st = .m), snoop := none }
  s1.depart r

/-- A PV line's data on its way to its home (R163), and that of an RC line of the host window (R155); the home's tag stands. counted as for a
write-back. -/
def State.pvWrite (s : State) (ctx core block : Nat) (l : L1Line) (counted : Bool) : State :=
  s.depart { lineReq .write core block l with ctx := ctx, data := l.data, mask := BitVec.allOnes 64, pid := if counted then 1 else 0 }

/-- The set of a block in an L1 (R130). -/
def l1Set (block : Nat) : Nat := block % 128

/-- A place for a line in its set: with eight lines held, one stable line leaves (R130, R183). Which one the pseudo-LRU state
gives up is a free choice (log 1). -/
def State.makeRoom (s : State) (core block : Nat) : State :=
  let stable (e : Nat × L1Line) : Bool := l1Set e.1 == l1Set block && (match e.2.st with
    | .isD | .imD | .smG | .miA => false
    | _ => true)
  let peers := (s.core core).l1.filter fun e => l1Set e.1 == l1Set block
  if peers.length < 8 - (tget (s.core core).l1Fenced (l1Set block)).getD 0 then s
  else
    let cand := peers.filter stable
    let (k, s1) := s.freeCount
    match cand[Config.victim k % cand.length]? with
    | none => s1
    | some (b, l) =>
      match l.st with
      | .m | .o => s1.writeBack (16 * core) core b l false false
      | .pv => (if l.dirty then s1.pvWrite (16 * core) core b l false else s1).dropL1 core b
      | _ => s1.dropL1 core b

/-- A new line that waits for its first data (R371). -/
def newLine (st : L1State) (owner : Nat) (ct : PageType) (w : List Waiter) : L1Line :=
  { st := st, dirty := false, data := 0, tag := 0, owner := owner, wait := w, held := [], snoop := none, keep := false, fromM := false, ct := ct }

/-- A line with no directory state: one of a PV page, or of the host window (R155, R163). -/
def privateLine (pa : Nat) (ct : PageType) : Bool := ct == .pv || decide (regionOf pa = .host)

/-- A load or store of a block through an L1 (R163, R164, R165, R371): a hit is served at once; a miss waits at a transient
line. r.op is RDS for a load and RDX for a store. -/
def State.l1Access (s : State) (r : Req) (w : Waiter) : State :=
  let b := r.pa / 64
  match s.l1 r.core b with
  | some l => (s.setL1 r.core b { l with wait := l.wait ++ [w] }).settle r.core b
  | none =>
    let own := privateLine r.pa r.ct
    let st := if own ∨ w.store = false then L1State.isD else .imD
    let op := if own then HomeOp.rds else r.op
    ((s.makeRoom r.core b).setL1 r.core b (newLine st r.owner r.ct [w])).send { r with op := op }

/-- The place of the marker of a block read whose instruction waits for it (the model's own): no register has this number. -/
def blockMarker : Nat := 200

/-- An engine's operation, by its number, ends with a cause unless it has ended (R158, R343, R348), and so does every tile task that the access, seq, is for
(R338). -/
def State.failEngine (s : State) (id seq : Nat) (code : BitVec 8) : State :=
  let hit (t : Tile) : Bool := t.id == id || t.fetching.any fun e => e.1 == seq
  let tile (t : Tile) : Tile := if hit t ∧ t.result.isNone then { t with result := some code } else t
  let copy (c : CopyReq) : CopyReq := if c.id = id ∧ c.result.isNone then { c with result := some code } else c
  let s1 : State := { s with
    clusters := s.clusters.map fun e => (e.1, { e.2 with tiles := e.2.tiles.map tile })
    copies := s.copies.map copy }
  s1.post ((s.copies.filter fun c => c.id == id && c.result.isNone).map (fun c => Instr.copyComplete (dieOf c.core) (c.core % 8) c.id)
    ++ s.clusters.flatMap fun e => (e.2.tiles.filter fun t => hit t && t.result.isNone).filterMap fun t => t.engine.map fun g => .tileTaskComplete e.1 g)

/-- A failure found at a fill or at the home (R298): a fault marker for an operation with a destination; otherwise the
cause is owed at the context's next release, FENCE or END. An engine's operation ends with it (R158). -/
def State.failReq (s : State) (r : Req) (cause : Cause) : State :=
  let info : Word := w64 (2 ^ 63)
  if r.op = .touch then (if r.pid = 0 then s else s.failEngine r.pid r.seq cause.code)
  else if engineBase ≤ r.ctx then s
  else if remoteBase ≤ r.ctx then s.post [.producerArrive r.ctx r.pid (.failed cause r.va 0)]
  else if r.op = .winFill ∧ r.pid = 0 then
    (if (s.ctx r.ctx).state = .blocked (.fill r.va) then
      (s.modCtx r.ctx fun c => { c with markers := tset c.markers blockMarker ⟨cause, r.va, info⟩ }).wakeIf fun m _ => m == r.ctx
     else s)
  else if r.pid ≠ 0 ∧ r.op ≠ .wb ∧ r.op ≠ .write then s.respond r [.producerArrive r.ctx r.pid (.failed cause r.va info)]
  else s.modCtx r.ctx fun c => { c with owed := some (c.owed.getD ⟨cause, r.va, info⟩) }

/-- The release conditions of a context may have changed: each unacknowledged store that ends is counted off (R178). -/
def State.ackStore (s : State) (n : Nat) : State :=
  if remoteBase ≤ n then s.post [.producerArrive n 0 (.word 0)]
  else (s.modCtx n fun c => { c with unacked := c.unacked - 1 }).wakeIf fun m w => m == n && w.isRelease

/-- Every access that waits at a line fails with a cause (R298); the line is dropped. -/
def State.failLine (s : State) (core block : Nat) (cause : Cause) : State :=
  match s.l1 core block with
  | none => s
  | some l =>
    let fail (s : State) (w : Waiter) : State :=
      s.failReq { lineReq (if w.store then .rdx else .rds) core block l with ctx := w.ctx, pa := w.pa, va := w64 w.pa, pid := w.pid } cause
    (l.wait.foldl fail (s.dropL1 core block)).wakeIf fun m w => coreOf m == core && w.isRelease

/-- The home's check of the frame at a fill (R142, R298). A read of a page table has no page type of its own, and an access whose data the model has
moved passed its checks before (log 2): both can find only that the frame is poisoned, a table also that it is another owner's (R107). -/
def State.fillCheck (s : State) (r : Req) (write : Bool) : Option Cause :=
  match s.fotNow r.pa r.owner write r.ct.ct with
  | .ok => none
  | .memerr => some .memerr
  | .access _ => if r.op = .touch then none else some .access
  | .typefault => if r.op = .touch ∨ r.op = .walk then none else some .typefault

/-- An operation at its home (R107, R385): an access that the frame's entry refuses fails before any lookup, and another goes on with its line. -/
def State.homeOp (s : State) (r : Req) (f : State → State) : State :=
  if (s.fillCheck r (opWrites r.op)).isSome ∧ r.op ≠ .wb then f s else s.atLine r.owner r.pa (wholeBlock r) (homeEvent r) f

/-- A block's stable state entered; requests that waited for it are served again, in order (R185). -/
def State.stabilise (s : State) (b : Nat) (st : HomeState) (owner : Nat) (sharers : List Nat) : State :=
  let d := s.dirOf b
  (s.setDir b { st := st, owner := owner, sharers := sharers, cur := none, acks := 0, stale := false, waiting := [] }).postFirst
    (d.waiting.map homeEvent)

/-- Data sent by the home to the core that asked (R184): it comes at once, and its packet takes its slots (log 18). -/
def State.sendData (s : State) (r : Req) (g : Grant) : State :=
  let b := r.pa / 64
  (s.post [.l1Data r.core b g (readBlock s.mem (64 * b)) (s.tagAt b)]).respond r []

/-- A snoop sent by the home for a request, with its packet and that of its answer (R117, R184). -/
def State.snoop (s : State) (r : Req) (core : Nat) (i : Instr) : State :=
  (s.post [i]).packetAndBack r.owner (slicePlace (channelOf r.pa)) (corePlace core)

/-- The last acknowledgement of an invalidation has arrived: the requester is granted the block (R184). -/
def State.finishInv (s : State) (b : Nat) : State :=
  let d := s.dirOf b
  match d.cur with
  | none => s
  | some r =>
    let s1 := if d.st = .upgGrant then (s.post [.l1Grant r.core b]).respond r [] else s.sendData r .m
    s1.stabilise b .exc r.core []

/-- One acknowledgement of a snoop counted (R184). -/
def State.countAck (s : State) (b core : Nat) : State :=
  let d := s.dirOf b
  let s1 := s.setDir b { d with acks := d.acks - 1, sharers := d.sharers.filter fun c => c != core }
  if d.acks ≤ 1 then s1.finishInv b else s1

/-- A home that invalidates holders before it grants (R184). -/
def State.invalidate (s : State) (b : Nat) (st : HomeState) (r : Req) (targets : List Nat) (fwd : Option Nat) : State :=
  let d := s.dirOf b
  let n := targets.length + (if fwd.isSome then 1 else 0)
  let s1 := s.setDir b { d with st := st, cur := some r, acks := n }
  if n = 0 then s1.finishInv b
  else
    let s2 := targets.foldl (fun s c => s.snoop r c (.l1Inv c b)) s1
    match fwd with
    | some o => s2.snoop r o (.l1FwdX o b r.core)
    | none => s2

/-- A snoop forwarded to the owner of a block (R184). -/
def State.forward (s : State) (b : Nat) (r : Req) (i : Instr) : State :=
  let d := s.dirOf b
  (s.setDir b { d with st := .fwd, cur := some r }).snoop r d.owner i

/-- A window fetch at the home (R148): it fills its block only while the window still binds it. -/
def State.windowFetch (s : State) (r : Req) (dat : Block) (tag : Tag) : State :=
  let w := r.c.toNat
  let k := r.x.toNat
  let win := tget (s.core r.core).windows w
  let d := ((win.bind fun w => tget w.blocks k).map (·.d)).getD 0
  let off := 64 * ((win.map (·.lblk)).getD 0 + k)
  let mine := BitVec.ofNat 512 (readN (s.core r.core).ls off 64)
  let merged := mergeBytes dat mine (wordMask d 8)
  let arrive := if r.pid = 0 then [] else
    [Instr.producerArrive r.ctx r.pid (loadValue merged tag r.pa r.size r.typed r.keep)]
  let bound : Bool := match win with
    | some x => (match (s.checkNow r.core x.owner x.space x.level (w64 (x.va + 64 * k)) .read).1 with
      | .ok pa _ => pa / 64 == r.pa / 64
      | _ => false)
    | none => false
  (s.postFirst (if bound then .windowFill r.core w k dat tag :: arrive else arrive)).respond r []

/-- RDS at the home (R184). A PV page has no directory state (R163). An owner that asks again has dropped its line silently,
and is served from the home's data (R183). -/
def State.rdsHome (s : State) (r : Req) : State :=
  let b := r.pa / 64
  match s.fillCheck r false with
  | some c => if r.op = .winFill then s.failReq r c else s.failLine r.core b c
  | none =>
    let s1 := s.homeTouch r.owner r.pa false false
    let (dat, tag) := s1.coherent r.pa
    if r.op = .winFill then s1.windowFetch r dat tag
    else if r.ct = .pv then (s1.post [.l1Data r.core b .pv dat tag]).respond r []
    else
      match regionOf r.pa with
      | .lp6 =>
        let d := s1.dirOf b
        match d.st with
        | .unc => (s1.setDir b { d with st := .exc, owner := r.core }).sendData r .e
        | .shd => (s1.setDir b { d with sharers := addNew d.sharers r.core }).sendData r .s
        | .exc => if d.owner = r.core then s1.sendData r .e else s1.forward b r (.l1FwdS d.owner b r.core)
        | .own => s1.forward b r (.l1FwdS d.owner b r.core)
        | _ => s1.defer r
      | _ => s1.post [.l1Data r.core b .pv dat tag]

/-- Reads at the home that are no RDS: the fill of an instruction cache line (R131), which fails by letting the fetch find the poisoned frame; a
peer's read (R27); and an access whose data the model has moved already (log 2). -/
def State.readHome (s : State) (r : Req) : State :=
  match s.fillCheck r (opWrites r.op) with
  | some c =>
    if r.op = .ifetch then s.wakeIf fun m w => coreOf m == r.core && (match w with
      | .fill _ => true
      | _ => false)
    else s.failReq r c
  | none =>
    let s1 := if r.op = .touch ∧ regionOf r.pa ≠ .lp6 then s else s.homeTouch r.owner r.pa (r.op == .touch && r.keep) (wholeBlock r)
    match r.op with
    | .ifetch => s1.respond r [.instructionLineFill r.core (r.pa / 64) (s1.coherent r.pa).1]
    | .read => let (d, t) := s1.coherent r.pa; s1.respond r [.producerArrive r.ctx r.pid (loadValue d t r.pa r.size r.typed r.keep)]
    | _ => s1.respond r []

/-- RDX at the home (R184). -/
def State.rdxHome (s : State) (r : Req) : State :=
  let b := r.pa / 64
  match s.fillCheck r true with
  | some c => s.failLine r.core b c
  | none =>
    let s1 := s.homeTouch r.owner r.pa true false
    let d := s1.dirOf b
    match d.st with
    | .unc => (s1.setDir b { d with st := .exc, owner := r.core }).sendData r .m
    | .shd => s1.invalidate b .rdxInv r (d.sharers.filter fun c => c != r.core) none
    | .exc => if d.owner = r.core then s1.sendData r .m else s1.forward b r (.l1FwdX d.owner b r.core)
    | .own => s1.invalidate b .rdxInv r (d.sharers.filter fun c => c != r.core) (some d.owner)
    | _ => s1.defer r

/-- UPG at the home (R184): from a core that holds no copy it is treated as RDX. -/
def State.upgHome (s : State) (r : Req) : State :=
  let b := r.pa / 64
  let d := s.dirOf b
  match d.st with
  | .shd =>
    if d.sharers.contains r.core then s.invalidate b .upgGrant r (d.sharers.filter fun c => c != r.core) none
    else s.rdxHome { r with op := .rdx }
  | .own =>
    if d.sharers.contains r.core ∨ d.owner = r.core then
      s.invalidate b .upgGrant r ((addNew d.sharers d.owner).filter fun c => c != r.core) none
    else s.rdxHome { r with op := .rdx }
  | .unc | .exc => s.rdxHome { r with op := .rdx }
  | _ => s.defer r

/-- The requester of a forwarded snoop is served from the home's data (R186, R372). -/
def State.serveCur (s : State) (b : Nat) : State :=
  match (s.dirOf b).cur with
  | some r => s.sendData r (if r.op = .rds then .s else .m)
  | none => s

/-- The stable state after a forwarded snoop whose requester the home served (R186, R372). -/
def State.afterRace (s : State) (b : Nat) (keepOwner : Bool) : State :=
  let d := s.dirOf b
  match d.cur with
  | some r =>
    if r.op = .rds then
      s.stabilise b .shd 0 (addNew (if keepOwner then addNew d.sharers d.owner else d.sharers.filter fun c => c != d.owner) r.core)
    else s.stabilise b .exc r.core []
  | none => s

/-- One of the two messages by which an owner in MI_A leaves a block that is being invalidated, its WB and its ACK_STALE: the home has the
owner's data, and its acknowledgement, when both have come (R184, R186, R371). -/
def State.staleHalf (s : State) (b core : Nat) : State :=
  let d := s.dirOf b
  if d.stale then s.countAck b core else s.setDir b { d with stale := true }

/-- WB at the home (R184, R186, R372). A WB from a core that owns the block no longer changes nothing but is acknowledged. -/
def State.wbHome (s : State) (r : Req) : State :=
  let b := r.pa / 64
  let d := s.dirOf b
  let o := r.core
  let s0 := if r.pid = 0 then s else s.ackStore r.ctx
  let ack (s : State) : State := (s.post [.l1WbAck o b]).respond r []
  let put (s : State) : State := (s.homeTouch r.owner r.pa true true).writeHome r.pa r.data r.tag
  let others := d.sharers.filter fun c => c != o
  if d.owner ≠ o then ack s0
  else
    match d.st with
    | .exc => ack (if r.keep then put s0 else (put s0).stabilise b .unc 0 [])
    | .own =>
      let sh := if r.keep then addNew d.sharers o else others
      ack ((put s0).stabilise b (if sh.isEmpty then .unc else .shd) 0 sh)
    | .fwd =>
      let s1 := (ack (put s0)).serveCur b
      let keepO := r.keep && (match d.cur with
        | some q => q.op == .rds
        | none => false)
      let d1 := { s1.dirOf b with sharers := if keepO then addNew d.sharers o else others }
      let s2 := s1.setDir b d1
      if d.stale then s2.afterRace b keepO else s2.setDir b { d1 with st := .wbRace, stale := keepO }
    | .rdxInv => (ack (put s0)).staleHalf b o
    | .unc | .shd => ack s0
    | _ => s0.defer { r with pid := 0 }

/-- A block written at its home by a request that carries the bytes: the write-back of a private line (R155, R163), or a peer's store, with its tag
as one unit when it is typed (R27, R387). It waits its turn at a block between stable states (R185). -/
def State.writeOp (s : State) (r : Req) : State :=
  if s.busy (r.pa / 64) then s.defer r
  else
    let done (s : State) : State := if r.pid = 0 ∧ r.ctx < remoteBase then s else s.ackStore r.ctx
    match s.fillCheck r true with
    | some c =>
      if remoteBase ≤ r.ctx then s.failReq r c else done (if r.pid = 0 then s else s.failReq r c)
    | none =>
      let s1 := s.homeUpdate r.owner r.pa (wholeBlock r) fun d t => (mergeBytes d r.data r.mask, if r.typed then typedTag t r.tag else t)
      (done s1).respond r []

/-- An answer to a snoop (R184, R372): an invalidation's acknowledgement. -/
def State.invAck (s : State) (b core : Nat) : State :=
  match (s.dirOf b).st with
  | .rdxInv | .upgGrant => s.countAck b core
  | _ => s

/-- FWD_DONE (R371, R372). -/
def State.fwdDone (s : State) (b core : Nat) (clean : Bool) : State :=
  let d := s.dirOf b
  match d.st, d.cur with
  | .fwd, some r =>
    if r.op = .rds then
      if clean then s.stabilise b .shd 0 (addNew (addNew d.sharers core) r.core)
      else s.stabilise b .own core (addNew d.sharers r.core)
    else s.stabilise b .exc r.core []
  | .rdxInv, _ => s.countAck b core
  | _, _ => s

/-- ACK_MISS (R183, R372): the home serves the requester from its own data. -/
def State.ackMiss (s : State) (b core : Nat) : State :=
  let d := s.dirOf b
  match d.st with
  | .fwd => (s.serveCur b).afterRace b false
  | .wbRace => s.afterRace b d.stale
  | .rdxInv | .upgGrant => s.countAck b core
  | _ => s

/-- ACK_STALE (R186, R372). A home that collects acknowledgements also waits for the WB of an owner whose data it needs (R184, R186). -/
def State.ackStale (s : State) (b core : Nat) : State :=
  let d := s.dirOf b
  match d.st with
  | .fwd => s.setDir b { d with stale := true }
  | .wbRace => s.afterRace b d.stale
  | .rdxInv => if d.owner = core then s.staleHalf b core else s.countAck b core
  | .upgGrant => s.countAck b core
  | _ => s

/-- Data arriving at an L1 (R371): the line takes the state the home granted, and its accesses proceed. A weight-store line is read-only (R154). -/
def State.dataArrive (s : State) (core b : Nat) (g : Grant) (data : Block) (tag : Tag) : State :=
  let st : L1State := match g with
    | .s => .s | .e => .e | .m => .m
    | .pv => match regionOf (64 * b) with
      | .weight _ => .ro
      | _ => .pv
  match s.l1 core b with
  | none => s
  | some l =>
    match l.st with
    | .isD | .imD => (s.setL1 core b { l with st := st, data := data, tag := tag, dirty := false }).settle core b
    | _ => s

/-- GRANT arriving at an L1 in SM_G (R371). -/
def State.grantArrive (s : State) (core b : Nat) : State :=
  match s.l1 core b with
  | none => s
  | some l => if l.st = .smG then (s.setL1 core b { l with st := .m }).settle core b else s

/-- INV arriving at an L1 (R183, R371). -/
def State.invArrive (s : State) (core b : Nat) : State :=
  match s.l1 core b with
  | none => s.post [.homeAckMiss b core]
  | some l =>
    match l.st with
    | .isD | .imD => s.post [.homeInvAck b core]
    | .smG => (s.setL1 core b { l with st := .imD, dirty := false }).post [.homeInvAck b core]
    | .miA => (s.setL1 core b { l with snoop := some (.l1Inv core b) }).post [.homeAckStale b core]
    | .pv | .ro => s.post [.homeAckMiss b core]
    | _ => (s.dropL1 core b).post [.homeInvAck b core]

/-- A core's own request for a block has been served, and its answer is on the way: a snoop then waits for it (R371). Before that, a snoop for a line
that waits for its first data finds no copy, an E line having been dropped (R183). -/
def State.answering (s : State) (core b : Nat) : Bool :=
  (dataInFlight s.agenda core b).isSome || s.agenda.any fun i => match i with
    | .l1Grant c k => c == core && k == b
    | _ => false

/-- The data of an owner on its way to the core that asked for it, and FWD_DONE to the home (R371); the data's packet is one of its own (log 18). -/
def State.handOver (s : State) (core b req : Nat) (l : L1Line) (g : Grant) (clean : Bool) : State :=
  ((s.post [.l1Data req b g l.data l.tag, .homeFwdDone b core clean]).chooseOrder l.owner (corePlace core) (corePlace req)).2

/-- FWD_S arriving at an L1 (R184, R371). -/
def State.fwdSArrive (s : State) (core b req : Nat) : State :=
  match s.l1 core b with
  | none => s.post [.homeAckMiss b core]
  | some l =>
    let snoop := Instr.l1FwdS core b req
    let hold : State := s.setL1 core b { l with held := l.held ++ [snoop] }
    let answer (st : L1State) (clean : Bool) : State := (s.setL1 core b { l with st := st }).handOver core b req l .s clean
    match l.st with
    | .m => answer .o false
    | .o => answer .o false
    | .e => answer .s true
    | .isD | .imD => if s.answering core b then hold else s.post [.homeAckMiss b core]
    | .smG => if l.dirty ∧ s.answering core b = false then answer .smG false else hold
    | .miA => (s.setL1 core b { l with snoop := some snoop }).post [.homeAckStale b core]
    | _ => s.post [.homeAckMiss b core]

/-- FWD_X arriving at an L1 (R184, R371). Where other holders are being invalidated too, the data goes to the requester
with the home's grant. -/
def State.fwdXArrive (s : State) (core b req : Nat) : State :=
  match s.l1 core b with
  | none => s.post [.homeAckMiss b core]
  | some l =>
    let snoop := Instr.l1FwdX core b req
    let hold : State := s.setL1 core b { l with held := l.held ++ [snoop] }
    let answer (s : State) (clean : Bool) : State :=
      if (s.dirOf b).st = .rdxInv then (s.writeHome (64 * b) l.data l.tag).post [.homeFwdDone b core clean]
      else s.handOver core b req l .m clean
    match l.st with
    | .m | .o => answer (s.dropL1 core b) false
    | .e => answer (s.dropL1 core b) true
    | .isD | .imD => if s.answering core b then hold else s.post [.homeAckMiss b core]
    | .smG => if l.dirty ∧ s.answering core b = false then answer (s.setL1 core b { l with st := .imD, dirty := false }) false else hold
    | .miA => (s.setL1 core b { l with snoop := some snoop }).post [.homeAckStale b core]
    | _ => s.post [.homeAckMiss b core]

/-- WB_ACK arriving at an L1 in MI_A (R371). Accesses that came meanwhile ask for the block again. -/
def State.wbAckArrive (s : State) (core b : Nat) : State :=
  match s.l1 core b with
  | none => s
  | some l =>
    if l.st ≠ .miA then s
    else
      let again (w : Waiter) (r : List Waiter) : State :=
        let st := if w.store then L1State.imD else .isD
        (s.setL1 core b (newLine st l.owner l.ct (w :: r))).depart
          { lineReq (if w.store then .rdx else .rds) core b l with ctx := w.ctx, va := w64 w.pa }
      let gone := match l.wait with
        | w :: r => again w r
        | [] => s.dropL1 core b
      let stay (st : L1State) : State := (s.setL1 core b { l with st := st, dirty := false, snoop := none, keep := false }).settle core b
      if l.keep = false then gone
      else
        match l.snoop with
        | some (.l1FwdS ..) => stay .s
        | some _ => gone
        | none => stay (if l.fromM then .e else .s)

end Sys2Proof.Machine
end

