-- ==== Sys2Proof/Machine/Ports.lean ====
section
/-!
DEFINITION. The peer ports (R26 to R29, R178): the port that a packet takes, and what a context sends to a peer.
-/

namespace Sys2Proof.Machine

/-- The path of a peer port toward a device in a context's path set (R178, R179). -/
def peerPath (dev port : Nat) : Nat := 1024 + 64 * dev + port

/-- The ports of a destination's list on a die (R28): the group of device d on die n stands at key 1,024n + d, and list g of
die n at key 4,096 + 16n + g (the model's own keys). -/
def State.peerPorts (s : State) (die dev : Nat) : Nat × List Nat :=
  match tget s.peermap (1024 * die + dev) with
  | some (g :: _) => (g, (tget s.peermap (4096 + 16 * die + g)).getD [])
  | _ => (0, [])

/-- The port a packet takes (R28): the only one, or one drawn from ROUTE; none for an unreachable peer (R32). -/
def State.peerPort (s : State) (core o dev : Nat) : Option Nat × State :=
  if dev = s.deviceIndex.toNat then (some 63, s)
  else
    let n := dieOf core
    let (g, l) := s.peerPorts n dev
    match l with
    | [] => (none, s)
    | [p] => (some p, s)
    | l =>
      let (j, s1) := s.draw ⟨o, .route, n, 16 + g⟩ l.length
      (l[j]?, s1)

/-- The message of a peer operation (R27, R387). -/
def peerEvents (m : PeerMsg) : List Instr :=
  match m.req.op with
  | .rds => [.peerReadRequest m]
  | .rdx | .tagWrite => if m.withTag then [.peerWriteRequest m, .peerTagMessage m] else [.peerWriteRequest m]
  | _ => [.peerAtomicRequest m]

/-- OP of a report (R221). -/
def peerOpCode (op : HomeOp) : Nat :=
  match op with
  | .rdx | .tagWrite => 0
  | .red => 1
  | .rds => 3
  | _ => 2

/-- The units of a peer message (R29): one, and with a tag one more (R387). -/
def unitsOf (m : PeerMsg) : Nat := if m.withTag then 2 else 1

/-- A peer operation sent by a context (R27): it is counted when it is posted (R178), and its units cross the port; a read takes one, its answer the
rest (R387). The answer is false for an unreachable peer (R32). -/
def State.peerSend (s : State) (r : Req) (dev : Nat) (withTag : Bool) : Bool × State :=
  match s.peerPort r.core r.owner dev with
  | (none, s1) => (false, s1)
  | (some p, s1) =>
    let m : PeerMsg := { dev := dev, port := p, space := (s.ctx r.ctx).space, req := r, withTag := withTag }
    let s2 : State := { s1 with peerOut := s1.peerOut ++ [⟨r.ctx, m⟩] }
    let s3 := (s2.modCtx r.ctx fun c => { c with paths := addNew c.paths (peerPath dev p) }).peerUnits p 0 r.owner (if r.op = .rds then 1 else unitsOf m) []
    (true, if dev = s.deviceIndex.toNat then s3.post (peerEvents m) else s3)

/-- A posted operation to a peer leaves its core (R27, R178); toward an unreachable peer it ends as a report (R32). -/
def State.peerPost (s : State) (r : Req) (dev : Nat) (withTag : Bool) : State :=
  match (s.modCtx r.ctx fun c => { c with unacked := c.unacked + 1 }).peerSend r dev withTag with
  | (true, s1) => s1
  | (false, s1) => s1.post [.remoteFaultReport r.ctx dev Cause.remote.code (BitVec.ofNat 3 (peerOpCode r.op)) (BitVec.ofNat 47 r.pa)]

/-- An operation of a context that a peer answers leaves its core (R27, R386): an unreachable peer answers REMOTE (R32). -/
def State.peerAsk (s : State) (r : Req) (dev : Nat) : State :=
  match s.peerSend r dev r.keep with
  | (true, s1) => s1
  | (false, s1) => s1.post [.producerArrive r.ctx r.pid (.failed .remote r.va 0)]

end Sys2Proof.Machine
end

