-- ==== Sys2Proof/Machine/HomeOps.lean ====
section
/-!
DEFINITION. What the homes do with atomics, words, counters, barriers, merges, WS blocks and tags (R148 to R150, R166, R170
to R174, R240, R306, R312 to R317, R369), the Bench (R119, R228), releases and markers (R178), and the arrival of a
producer's result (R269, R298). Each function is a plain change of the state.
-/

namespace Sys2Proof.Machine

/-- Scopes from die outward send markers (R178). -/
def wideScope (sc : BitVec 3) : Bool := decide (3 ≤ sc.toNat)

/-- The requests on their way to a home, or waiting there for a slot, for a line, or at a block for their turn. -/
def State.requests (s : State) : List Req := s.pendingSteps.flatMap stepReqs ++ s.dir.flatMap fun e => e.2.waiting

/-- A request of a context is still on its way to a home, or waits there for its turn. -/
def State.outstanding (s : State) (n : Nat) (path : Option Nat) : Bool :=
  let hit (r : Req) : Bool := r.ctx == n && (match path with
    | some p => slicePath (channelOf r.pa) r.yf == p || (s.linksOf r).any fun i => linkPath i == p
    | none => true)
  s.requests.any hit

/-- A merge of a core's window blocks has not been acknowledged yet, whichever context sent it (R148). -/
def State.windowMerging (s : State) (core : Nat) (ws : Bool) : Bool :=
  (s.requests.any fun r => r.op == .merge && r.keep && r.core == core && (!ws || r.ct == .ws))
    || s.pendingSteps.any fun i => match i with
      | .mergeAck _ c .. => c == core
      | _ => false

/-- A posted operation of a context to a peer is not answered yet (R178, R179): to one device, or to any. -/
def State.peerPosted (s : State) (n : Nat) (dev : Option Nat) : Bool :=
  s.peerOut.any fun e => e.ctx == n && (match dev with
    | some d => e.msg.dev == d
    | none => true) && (match e.msg.req.op with
    | .rdx | .tagWrite | .red => true
    | _ => false)

/-- The first release of a context is complete: its stores and its core's merges are acknowledged, and its markers (R148, R178); a peer release
orders only the stores to its device (R179). -/
def State.releaseDone (s : State) (n : Nat) (r : Release) : Bool :=
  let c := s.ctx n
  match r.peer with
  | some d => r.markers == 0 && !(s.peerPosted n (some d))
  | none =>
    c.unacked == 0 && r.markers == 0 && !(s.storesWaiting n) && !(s.windowMerging (coreOf n) false)
      && r.pids.all fun p => !(c.producers.any fun q => q.pid == p)

/-- Bytes written into a core's local store, with the dirty words of a window block marked (R148): r.c is the offset. A typed
store writes the block's tag (R299). -/
def State.localWrite (s : State) (core off : Nat) (data : Block) (mask : BitVec 64) (tag : Option Tag) : State :=
  s.modCore core fun c =>
    let b := off / 64
    let old := BitVec.ofNat 512 (readN c.ls (64 * b) 64)
    let words := BitVec.ofNat 8 ((upTo 8).foldl (fun n i => if mask.toNat / 2 ^ (8 * i) % 256 = 0 then n else n + 2 ^ i) 0)
    let dirty (w : Window) : Window :=
      if w.lblk ≤ b ∧ b < w.lblk + w.nblk then
        let wb := (tget w.blocks (b - w.lblk)).getD ⟨false, 0⟩
        { w with blocks := tset w.blocks (b - w.lblk) { wb with d := wb.d ||| words } }
      else w
    { c with
      ls := writeN c.ls (64 * b) 64 (mergeBytes old data mask).toNat,
      lsTag := match tag with
        | some t => tagSet c.lsTag b (typedTag ((tget c.lsTag b).getD 0) t)
        | none => c.lsTag,
      windows := c.windows.map fun e => (e.1, dirty e.2) }

/-- A window block filled (R148): the words that are not dirty, and the tag, come into local store. -/
def State.fillWindow (s : State) (core w k : Nat) (data : Block) (tag : Tag) : State :=
  match tget (s.core core).windows w with
  | none => s
  | some win =>
    let wb := (tget win.blocks k).getD ⟨false, 0⟩
    let off := 64 * (win.lblk + k)
    let s1 := s.modCore core fun c =>
      let mine := BitVec.ofNat 512 (readN c.ls off 64)
      { c with
        ls := writeN c.ls off 64 (mergeBytes data mine (wordMask wb.d 8)).toNat,
        lsTag := tagSet c.lsTag (win.lblk + k) tag,
        windows := tset c.windows w { win with blocks := tset win.blocks k { wb with v := true } } }
    s1.wakeIf fun m x => clusterOf (coreOf m) == clusterOf core && (match x with
      | .fill _ => true
      | _ => false)

/-- The window that holds a local store offset of a core, with the block's place in it (R147). -/
def Core.windowAt (c : Core) (off : Nat) : Option (Nat × Nat) :=
  (c.windows.find? fun e => decide (64 * e.2.lblk ≤ off ∧ off < 64 * (e.2.lblk + e.2.nblk))).map fun e => (e.1, off / 64 - e.2.lblk)

/-- The words of a block that a byte mask covers in part (R148). -/
def partWords (m : BitVec 64) : BitVec 8 :=
  BitVec.ofNat 8 ((upTo 8).foldl (fun n i =>
    let b := m.toNat / 2 ^ (8 * i) % 256
    if b = 0 ∨ b = 255 then n else n + 2 ^ i) 0)

/-- A store merges into the context's write of a WS block (R166). -/
def mergeWs (l : List Req) (r : Req) : List Req :=
  match l with
  | [] => [r]
  | q :: rest =>
    if q.pa / 64 = r.pa / 64 then
      { q with data := mergeBytes q.data r.data r.mask, mask := q.mask ||| r.mask, typed := q.typed || r.typed,
               tag := if r.typed then r.tag else q.tag } :: rest
    else q :: mergeWs rest r

/-- A window block that a held store finds without the rest of a word it writes in part is fetched first (R148); words of a WS block count as zero
(R150). -/
def State.fetchHeld (s : State) (r : Req) : State :=
  match (s.core r.core).windowAt r.c.toNat with
  | none => s
  | some (w, k) =>
    match tget (s.core r.core).windows w with
    | none => s
    | some win =>
      let b := (tget win.blocks k).getD ⟨false, 0⟩
      let lack := partWords r.mask &&& ~~~b.d
      if b.v ∨ lack = 0 then s
      else
        match s.checkNow r.core win.owner win.space win.level (w64 (win.va + 64 * k)) .read with
        | (.ok pa e, s1) =>
          if e.ct = 3 then s1.localWrite r.core r.c.toNat 0 (wordMask lack 8) none
          else
            let s2 := s1.slotTouch r.owner r.core r.ctx pa false false
            let (d, t) := s2.coherent pa
            s2.fillWindow r.core w k d t
        | (.cause c i, s1) => s1.modCtx r.ctx fun x => { x with owed := some (x.owed.getD ⟨c, r.va, i⟩) }
        | (_, s1) => s1.modCtx r.ctx fun x => { x with owed := some (x.owed.getD ⟨.access, r.va, 0⟩) }

/-- A store of an STL that has left its core and is not performed yet (R182): a later LDA of the context waits for it, and after one to an SC page
every later access to RC and SC pages (R165). -/
def State.followStore (s : State) (n : Nat) (sc : Bool) : State :=
  if s.storesWaiting n then
    let (id, s1) := s.newId
    s1.modCtx n fun c => { c with releases := c.releases ++ [⟨id, [], 0, false, sc, sc, none, none⟩] }
  else s

/-- An operation that was held for a release leaves the core (R178, R301, R312). A held store to local store has op winFill
and its offset in c; one to a WS block joins the context's merged writes (R166); one to a peer leaves by its port (R27). -/
def State.performHeld (s : State) (r : Req) : State :=
  match formOf r.va with
  | .peer dev _ => if r.op = .rdx ∨ r.op = .red ∨ r.op = .tagWrite then s.peerPost r dev r.typed else s.peerAsk r dev
  | _ =>
  match r.op with
  | .winFill => (s.fetchHeld r).localWrite r.core r.c.toNat r.data r.mask (if r.typed then some r.tag else none)
  | .wsWrite => s.modCtx r.ctx fun c => { c with ws := mergeWs c.ws r }
  | .red | .tagWrite | .merge => (s.modCtx r.ctx fun c => { c with unacked := c.unacked + 1 }).send r
  | .rdx =>
    (s.l1Access r
      { store := true, ctx := r.ctx, pid := 0, pa := r.pa, size := r.size, signed := false, vec := false, mask := r.mask,
        data := r.data, tag := r.tag, typed := r.typed }).followStore r.ctx (r.ct == .sc)
  | _ => s.send r

/-- The paths that a complete release takes out of the context's path set (R178): all of them, or for a peer release those toward its device (R179). -/
def Release.clears (r : Release) (path : Nat) : Bool :=
  match r.peer with
  | some d => decide (1024 ≤ path ∧ (path - 1024) / 64 = d)
  | none => true

/-- Releases complete in the order in which they began (R178). -/
def State.releaseCheck (s : State) (n : Nat) : Nat → State
  | 0 => s
  | k + 1 =>
    match (s.ctx n).releases with
    | [] => s
    | r :: rest =>
      if s.releaseDone n r then
        let s1 := s.modCtx n fun c => { c with releases := rest, paths := if r.wide then c.paths.filter (fun p => !(r.clears p)) else c.paths }
        let s2 := match r.hold with
          | some q => s1.performHeld q
          | none => s1
        (s2.wakeIf fun m w => m == n && w.isRelease).releaseCheck n k
      else s

/-- The contexts of a core whose stores may have been performed. -/
def State.releaseCore (s : State) (core : Nat) : State :=
  (upTo 16).foldl (fun s h => if (s.ctx (16 * core + h)).releases = [] then s else s.releaseCheck (16 * core + h) 8) s

/-- The lines of RC host pages that a core has written go through the host port at a release of sys scope, and stay (R155). -/
def State.writeHostLines (s : State) (core : Nat) : State :=
  ((s.core core).l1.filter fun e => decide (e.2.st = .pv) && e.2.dirty && e.2.ct == .rc).foldl (fun s e =>
    (s.pvWrite (16 * core) core e.1 e.2 false).setL1 core e.1 { e.2 with dirty := false }) s

/-- A marker sent down a path of a context (R178): behind the context's packets, in the dimension order of the path, to the slice; or toward a
peer, by its port, or over a die-to-die link. A port that has been fenced meanwhile keeps its path, and the marker ends there as R32 says
(DESIGN CHOICE, log 73). -/
def State.sendMarker (s : State) (n rel path : Nat) : State :=
  if path < 512 then
    s.travel (s.ctx n).owner (route s.fencedDieLinks (corePlace (coreOf n)) (slicePlace (path % 256)) (decide (256 ≤ path)))
      1 [.fenceMarker n rel path]
  else if path < 1024 then s.travel (s.ctx n).owner [(2, 4096 + (path - 512))] 1 [.fenceMarker n rel path]
  else s.post [.fenceMarker n rel path]

/-- A release begun (R178): one marker goes down each path that it covers, and it is complete once its conditions hold. -/
def State.beginRelease (s : State) (n : Nat) (r : Release) (marks : List Nat) : State :=
  (marks.foldl (fun s p => s.sendMarker n r.id p) (s.modCtx n fun c => { c with
    releases := c.releases ++ [{ r with markers := marks.length }] })).releaseCheck n 8

/-- A release of a context at a scope (R178): its WS blocks are written (R166), markers go down its paths, and the
operation, if any, is held until the release completes. Window merges have been sent before. -/
def State.startRelease (s : State) (n : Nat) (scope : BitVec 3) (gate : Bool) (hold : Option Req) : State :=
  let c := s.ctx n
  let s0 := if scope = 7 then s.writeHostLines (coreOf n) else s
  let s1 := s0.modCtx n fun c => { c with ws := [], unacked := c.unacked + c.ws.length }
  let s2 := c.ws.foldl (fun s r => s.send r) s1
  if scope = 0 then
    (match hold with
    | some q => s2.performHeld q
    | none => s2)
  else
    let (id, s3) := s2.newId
    let wide := wideScope scope
    let own := (hold.map (·.pid)).getD 0
    s3.beginRelease n ⟨id, (c.producers.map (·.pid)).filter (fun p => p != own), 0, wide, gate, false, none, hold⟩
      (if wide then (s3.ctx n).paths else [])

/-- STL.peer (R179): a release toward one device, down the ports that the context has used toward it; the store that it precedes leaves once it is
complete. -/
def State.startPeerRelease (s : State) (n dev : Nat) (hold : Req) : State :=
  let (id, s1) := s.newId
  let r : Release := ⟨id, [], 0, true, false, false, some dev, some hold⟩
  s1.beginRelease n r ((s1.ctx n).paths.filter r.clears)

/-- A marker at the endpoint of its path (R178): it is acknowledged once every earlier request of the context there has been
performed. -/
def State.markerArrive (s : State) (n rel path : Nat) : State :=
  if s.outstanding n (some path) then s.postLater [.fenceMarker n rel path]
  else if path < 512 then s.packetBack (s.ctx n).owner (corePlace (coreOf n)) (slicePlace (path % 256)) (decide (256 ≤ path)) 1 [.markerAck n rel]
  else s.travel (s.ctx n).owner [(2, 4096 + Nat.xor (path - 512) 1)] 1 [.markerAck n rel]

/-- The acknowledgement of a marker (R178). -/
def State.markerAcked (s : State) (n rel : Nat) : State :=
  (s.modCtx n fun c => { c with releases := mapIf (fun r => r.id == rel) (fun r => { r with markers := r.markers - 1 }) c.releases }).releaseCheck n 8

/-- An unacknowledged store of a context has ended (R178). -/
def State.storeDone (s : State) (n : Nat) : State :=
  if engineBase ≤ n then s else if remoteBase ≤ n then s.ackStore n else (s.ackStore n).releaseCheck n 8

/-- The word of an address in its block's tag: its full bit (R240). -/
def fullBit (pa : Nat) : Nat := 24 + pa / 8 % 8
def isFullWord (t : Tag) (pa : Nat) : Bool := t.getLsbD (fullBit pa)
def setFullWord (t : Tag) (pa : Nat) (b : Bool) : Tag :=
  let m : Tag := BitVec.ofNat 32 (2 ^ fullBit pa)
  if b then t ||| m else t &&& ~~~m

/-- The 8-byte word at a home, every L1 copy recalled. -/
def State.homeWord (s : State) (pa : Nat) : Word := BitVec.ofNat 64 (readN s.mem pa 8)

/-- The Bench entries of a slice for one word, in arrival order (R173). -/
def State.benchAt (s : State) (pa : Nat) : List BenchEntry := (s.slice (channelOf pa)).bench.filter fun b => b.word == pa

/-- Entries of the Bench removed. -/
def State.dropEntries (s : State) (pa : Nat) (p : BenchEntry → Bool) : State :=
  s.modSlice (channelOf pa) fun sl => { sl with bench := sl.bench.filter fun b => !p b }

/-- The consecutive refusals of a waiting unit (R119): a context counts them, and a peer's request carries its own count. -/
def State.refusalsOf (s : State) (r : Req) : Nat := if r.ctx < remoteBase then (s.ctx r.ctx).refusals else r.tries
def State.setRefusals (s : State) (r : Req) (n : Nat) : State :=
  if r.ctx < remoteBase then s.modCtx r.ctx fun c => { c with refusals := n } else s

/-- A wait that its instruction makes again when it is executed again: on a counter or a barrier (R173, R174), or for a block that the instruction reads
(R166). -/
def repeatedWait (r : Req) : Bool := r.op == .jcwait || r.op == .barwait || (r.op == .wsLoad && r.typed && r.keep)

/-- A wait whose instruction has ended with a trap, or is to be executed again, while the request was on its way: it has left its queue (R173). -/
def State.givenUp (s : State) (r : Req) : Bool :=
  repeatedWait r && decide (r.ctx < remoteBase) && !((s.ctx r.ctx).producers.any fun p => p.pid == r.pid)

/-- A wait joins the Bench, or is refused beyond the owner's share: the context tries again after 64 × (1 + a draw of BACKOFF) cycles (R119). -/
def State.benchJoin (s : State) (r : Req) : State :=
  let sl := s.slice (channelOf r.pa)
  let share := 64 * (s.owner r.owner).active.quota (channelOf r.pa / 64) 0
  if s.givenUp r then s
  else if (sl.bench.filter fun b => b.req.owner == r.owner).length < share then
    (s.setRefusals r 0).modSlice (channelOf r.pa) fun sl => { sl with bench := sl.bench ++ [⟨r.pa, r⟩] }
  else
    let a := s.refusalsOf r + 1
    let (x, s1) := (s.setRefusals r a).draw ⟨r.owner, .backoff, 0, r.ctx⟩ (2 ^ min a 6)
    { s1 with backoffs := s1.backoffs ++ [(s.dtc + w64 (64 * (1 + x)), { r with tries := a })] }

/-- A retry after a Bench refusal (R119): a new request to the slice. -/
def State.benchRetry (s : State) (r : Req) : State :=
  ({ s with backoffs := s.backoffs.filter fun e => !(e.2 == r && decide (e.1 ≤ s.dtc)) } : State).depart r

/-- The result of an operation on its way to its context. -/
def State.answer (s : State) (r : Req) (v : Arrival) : State := s.respond r [.producerArrive r.ctx r.pid v]

/-- The holder of a word set or cleared (R228). -/
def State.setHolder (s : State) (pa : Nat) (h : Option Nat) : State :=
  s.modSlice (channelOf pa) fun sl => { sl with holders := match h with
    | some n => tset sl.holders pa n
    | none => tdel sl.holders pa }

/-- A join counter at zero, or a barrier whose phase has changed or that is broken, ends the waits on it (R174, R317). -/
def State.checkCounters (s : State) (pa : Nat) : State :=
  let w := s.homeWord pa
  let ends (b : BenchEntry) : Option Arrival :=
    match b.req.op with
    | .jcwait => if w = 0 then some (.word 0) else none
    | .barwait =>
      if w.getLsbD 63 then some (.failed .brokenbar b.req.va 0)
      else if wbits w 62 48 ≠ wbits b.req.c 14 0 then some (.word w) else none
    | _ => none
  let done := (s.benchAt pa).filter fun b => (ends b).isSome
  let s1 := s.dropEntries pa fun b => b.word == pa && (ends b).isSome
  done.foldl (fun s b => match ends b with
    | some v => s.answer b.req v
    | none => s) s1

/-- The counters and barriers of a block that a write may have changed. -/
def State.checkBlock (s : State) (pa : Nat) : State :=
  ((s.slice (channelOf pa)).bench.filter fun b => b.word / 64 == pa / 64).foldl (fun s b => s.checkCounters b.word) s

/-- Readers that wait for W of a block are served once it is set (R166, R150). -/
def State.serveReaders (s : State) (pa : Nat) : State :=
  let hit (b : BenchEntry) : Bool := b.word / 64 == pa / 64 && (b.req.op == .wsLoad || b.req.op == .winFill)
  let l := (s.slice (channelOf pa)).bench.filter hit
  let s1 := (s.dropEntries pa hit).wakeIf fun _ w => match w with
    | .benchShare _ => true
    | _ => false
  s1.postFirst (l.map fun b => .homeWsLoad b.req)

/-- A value put into a word with its waiters served (R172): the WAITWs ahead of the first TAKE, and that TAKE, receive it. -/
def State.putWord (s : State) (o pa : Nat) (v : Word) : State :=
  let q := (s.benchAt pa).filter fun b => b.req.op == .take || b.req.op == .waitw
  let ahead := q.takeWhile fun b => b.req.op == .waitw
  let taker := (q.dropWhile fun b => b.req.op == .waitw).head?
  let served := ahead ++ taker.toList
  let s1 := s.homeUpdate o pa false fun d t =>
    (mergeBytes d (placeBytes (pa % 64) v.toNat) (rangeMask (pa % 64) 8), setFullWord t pa taker.isNone)
  let s2 := s1.dropEntries pa fun b => served.contains b
  let s3 := served.foldl (fun s b => s.answer b.req (.word v)) s2
  (s3.setHolder pa (taker.map fun b => b.req.ctx)).checkCounters pa

/-- A word of a fault ring whose reply has been put (R144): the device takes it. -/
def State.ringReply (s : State) (pa : Nat) : State :=
  let hits := s.owners.filterMap fun e => match e.2.fqFrame with
    | some f => if f ≤ pa ∧ pa < f + 16384 ∧ pa % 64 = 56 ∧ e.2.ring.any (fun r => r.k % 256 = (pa - f) / 64) then
        some (Instr.faultReply e.1 ((pa - f) / 64)) else none
    | none => none
  s.post hits

/-- The base priority of a context's work (R72): its launch's, or its own as a continuation. -/
def State.basePriority (s : State) (c : Ctx) : Option Nat :=
  c.task.map fun t => ((t.launch.bind (tget s.launches)).map (·.prio)).getD t.prio

/-- The holder of a word is not running (R228): within its owner's pre-emption it is restored at once on its own core, at the waiter's priority, a waiter on that
core making room. -/
def State.raiseHolder (s : State) (r : Req) : State :=
  match tget (s.slice (channelOf r.pa)).holders r.pa with
  | none => s
  | some h =>
    match s.saved.find? fun e => e.2.num == h with
    | none => s
    | some (k, sv) =>
      let o := (s.ctx k).owner
      if s.coreOpen sv.core o = false ∨ s.layoutHeld o then s
      else
        let prio := max ((s.ctx k).raised.getD 0) ((s.basePriority (s.ctx r.ctx)).getD 0)
        let s := s.modCtx k fun c => { c with raised := some prio }
        match s.freeHelper sv.core with
        | some m => s.post [.contextRestore k (16 * sv.core + m)]
        | none => if coreOf r.ctx = sv.core then s.post [.forcedSave r.ctx, .contextRestore k r.ctx] else s.postLater [.contextRestore k (16 * sv.core)]

/-- TAKE, TRYTAKE and WAITW at the home (R172). -/
def State.takeHome (s : State) (r : Req) : State :=
  if s.busy (r.pa / 64) then s.defer r
  else
    match s.fillCheck r (r.op != .waitw) with
    | some c => s.failReq r c
    | none =>
      let s1 := (s.homeTouch r.owner r.pa true false).recall r.pa
      let t := s1.tagAt (r.pa / 64)
      if isFullWord t r.pa then
        let v := s1.homeWord r.pa
        let s2 := if r.op = .waitw then s1 else (s1.setTag (r.pa / 64) (setFullWord t r.pa false)).setHolder r.pa (some r.ctx)
        s2.answer r (if r.op = .trytake then .pair v 1 else .word v)
      else if r.op = .trytake then s1.answer r (.pair 0 0)
      else (if r.op = .take then s1.raiseHolder r else s1).benchJoin r

/-- The holder of a word gives its raised priority back at its own PUT or PUTX (R228). -/
def State.lowerHolder (s : State) (pa ctx : Nat) : State :=
  if tget (s.slice (channelOf pa)).holders pa = some ctx then s.modCtx ctx fun c => { c with raised := none } else s

/-- PUT and PUTX at the home (R172): a full word refuses a PUT. The issuing context waits for the answer (R313). -/
def State.putHome (s : State) (r : Req) : State :=
  if s.busy (r.pa / 64) then s.defer r
  else
    match s.fillCheck r true with
    | some c => (s.modCtx r.ctx fun c' => { c' with owed := some (c'.owed.getD ⟨c, r.va, w64 (2 ^ 63)⟩) }).answer r (.word 0)
    | none =>
      let t := (s.coherent r.pa).2
      if r.op = .put ∧ isFullWord t r.pa then s.answer r (.failed .typefault r.va 2)
      else (((s.lowerHolder r.pa r.ctx).putWord r.owner r.pa r.x).answer r (.word 0)).ringReply r.pa

/-- The function of an AMO or RED at a width of n bytes (R312); none leaves the word unchanged. -/
def amoFn (fn : BitVec 4) (n : Nat) (old c x : Nat) : Option Nat :=
  let m := 2 ^ (8 * n)
  let c := c % m
  let sgn (v : Nat) : Int := asInt (8 * n) v
  match fn.toNat with
  | 0 => some ((old + c) % m)
  | 1 => some (old &&& c)
  | 2 => some (old ||| c)
  | 3 => some (old ^^^ c)
  | 4 => some (if sgn old ≤ sgn c then old else c)
  | 5 => some (if sgn c ≤ sgn old then old else c)
  | 6 => some (min old c)
  | 7 => some (max old c)
  | 8 => some c
  | 9 => if old = x % m then some c else none
  | _ => some (fp32.addB old c)

/-- AMO and RED at the atomic unit (R170, R171, R312, R369). -/
def State.amoHome (s : State) (r : Req) : State :=
  if s.busy (r.pa / 64) then s.defer r
  else
    match s.fillCheck r true with
    | some c => if r.op = .red then (s.failReq r c).storeDone r.ctx else s.failReq r c
    | none =>
      let old := blockBytes (s.coherent r.pa).1 (r.pa % 64) r.size
      let s1 := s.homeUpdate r.owner r.pa false fun d t => match amoFn r.fn r.size old r.c.toNat r.x.toNat with
        | some v => (mergeBytes d (placeBytes (r.pa % 64) v) (rangeMask (r.pa % 64) r.size), t)
        | none => (d, t)
      let s2 := s1.checkBlock r.pa
      if r.op = .red then s2.storeDone r.ctx else s2.answer r (.word (w64 old))

/-- A word stored at the home (R316, R317). -/
def State.storeWord (s : State) (r : Req) (v : Word) : State :=
  (s.homeUpdate r.owner r.pa false fun d t =>
    (mergeBytes d (placeBytes (r.pa % 64) v.toNat) (rangeMask (r.pa % 64) 8), t)).checkCounters r.pa

/-- The tile schedulers that hold a record naming a counter are told that it reads zero (R98). -/
def State.notifyZero (s : State) (pa : Nat) (v : Word) : State :=
  if v = 0 then s.post (((s.slice (channelOf pa)).watch.filter fun w => w.1 == pa).map fun w => .tileJcNotify w.2 pa) else s

/-- A counter or barrier operation that has been performed: a peer's context waits for the answer (R386), and one of this device's does not. -/
def State.performed (s : State) (r : Req) : State := if r.pid = 0 then s else s.answer r (.word 0)

/-- BARINIT's word (R317), and JCINIT and BARINIT at the home (R316, R317). -/
def barInit (n : Word) : Word := w64 (wbits n 23 0 + (if wbits n 23 0 = 0 then 2 ^ 63 else 0))
def State.initHome (s : State) (r : Req) : State :=
  if s.busy (r.pa / 64) then s.defer r
  else
    match s.fillCheck r true with
    | some c => s.failReq r c
    | none => (if r.op = .barinit then s.storeWord r (barInit r.x) else (s.storeWord r r.x).notifyZero r.pa r.x).performed r

/-- JCDEC at the home (R316): a counter at 0 stays 0. A tile task may wait for the counter (R98). -/
def State.jcdecHome (s : State) (r : Req) : State :=
  if s.busy (r.pa / 64) then s.defer r
  else
    match s.fillCheck r true with
    | some c => s.failReq r c
    | none =>
      let v := BitVec.ofNat 64 (blockBytes (s.coherent r.pa).1 (r.pa % 64) 8)
      let v' := if v = 0 then 0 else v - 1
      ((s.storeWord r v').notifyZero r.pa v').performed r

/-- JCWAIT at the home (R174, R316). -/
def State.jcwaitHome (s : State) (r : Req) : State :=
  if s.busy (r.pa / 64) then s.defer r
  else
    match s.fillCheck r false with
    | some c => s.failReq r c
    | none =>
      let s1 := s.homeTouch r.owner r.pa false false
      let v := blockBytes (s1.coherent r.pa).1 (r.pa % 64) 8
      if v = 0 then s1.answer r (.word 0) else s1.benchJoin r

/-- A barrier's word after an arrival (R317). -/
def barArrive (w : Word) : Word :=
  let n := wbits w 23 0
  let arr := (wbits w 47 24 + 1) % 2 ^ 24
  let ph := wbits w 62 48
  if arr = n then w64 (n + 2 ^ 48 * ((ph + 1) % 2 ^ 15)) else w64 (n + 2 ^ 24 * arr + 2 ^ 48 * ph)

/-- BARARR at the home (R317). An engine's arrival (R349) has no producer, and breaks the barrier in place of arriving where its operation has faulted: x
is 1 (R229). -/
def State.bararrHome (s : State) (r : Req) : State :=
  if s.busy (r.pa / 64) then s.defer r
  else
    match s.fillCheck r true with
    | some c => s.failReq r c
    | none =>
      let w := BitVec.ofNat 64 (blockBytes (s.coherent r.pa).1 (r.pa % 64) 8)
      if r.x = 1 then s.storeWord r (w ||| w64 (2 ^ 63))
      else if w.getLsbD 63 then (if r.pid = 0 then s else s.answer r (.failed .brokenbar r.va 0))
      else
        let s1 := s.storeWord r (barArrive w)
        if r.pid = 0 then s1 else s1.answer r (.word (w64 (wbits w 62 48)))

/-- BARWAIT at the home (R317). -/
def State.barwaitHome (s : State) (r : Req) : State :=
  if s.busy (r.pa / 64) then s.defer r
  else
    match s.fillCheck r false with
    | some c => s.failReq r c
    | none =>
      let s1 := s.homeTouch r.owner r.pa false false
      let w := BitVec.ofNat 64 (blockBytes (s1.coherent r.pa).1 (r.pa % 64) 8)
      if w.getLsbD 63 then s1.answer r (.failed .brokenbar r.va 0)
      else if wbits w 62 48 ≠ wbits r.c 14 0 then s1.answer r (.word w)
      else s1.benchJoin r

/-- A window merge at the home (R149): only the masked words are written, and the home's tag stands, but for W of a WS
page, which is written once (R150). -/
def State.mergeHome (s : State) (r : Req) : State :=
  if s.busy (r.pa / 64) then s.defer r
  else
    match s.fillCheck r true with
    | some c => (s.failReq { r with pid := 0 } c).respond r [.mergeAck r.ctx r.core (r.pa / 64) false r.va]
    | none =>
      let t := (s.coherent r.pa).2
      if r.ct = .ws ∧ t.getLsbD 7 then s.respond r [.mergeAck r.ctx r.core (r.pa / 64) true r.va]
      else
        let whole := r.mask == BitVec.allOnes 64 || r.ct == .ws
        let s1 := s.homeUpdate r.owner r.pa whole fun d t =>
          if r.ct = .ws then (mergeBytes 0 r.data r.mask, t ||| 0x80)
          else (mergeBytes d r.data r.mask, if r.typed then typedTag t r.tag else t)
        (if r.ct = .ws then s1.serveReaders r.pa else s1.checkBlock r.pa).respond r [.mergeAck r.ctx r.core (r.pa / 64) false r.va]

/-- The acknowledgement of a merge or of a store written at the home (R149, R178): with WONCE it is owed precisely at the
context's next release (R150). -/
def State.mergeAcked (s : State) (n : Nat) (wonce : Bool) (va : Word) : State :=
  let s1 := if remoteBase ≤ n then s else if wonce then s.modCtx n fun c => { c with owed := some (c.owed.getD ⟨.wonce, va, 0⟩) } else s
  s1.storeDone n

/-- The write of a WS block (R166): merged bytes, zero elsewhere, W set, FMT and SCALE of the last typed store. -/
def State.wsWriteHome (s : State) (r : Req) : State :=
  if s.busy (r.pa / 64) then s.defer r
  else
    match s.fillCheck r true with
    | some c => (s.failReq { r with pid := 0 } c).storeDone r.ctx
    | none =>
      if (s.tagAt (r.pa / 64)).getLsbD 7 then (if remoteBase ≤ r.ctx then s.failReq r .wonce else s.mergeAcked r.ctx true r.va)
      else
        let s1 := s.homeUpdate r.owner r.pa true fun _ t =>
          (mergeBytes 0 r.data r.mask, (if r.typed then typedTag t r.tag else t) ||| 0x80)
        (s1.serveReaders r.pa).storeDone r.ctx

/-- A load of a WS block, or a window fetch of one, at the home (R150, R166): it waits in the Bench until W is set. The block
may then stay in the L1. A prefetch, which has no producer, waits for nothing (R307). -/
def State.wsLoadHome (s : State) (r : Req) : State :=
  match s.fillCheck r false with
  | some c => s.failReq r c
  | none =>
    let b := r.pa / 64
    if (s.tagAt b).getLsbD 7 = false then (if r.op = .wsLoad ∧ r.pid = 0 then s.respond r [] else s.benchJoin r)
    else
      let s1 := s.homeTouch r.owner r.pa false false
      if r.op = .winFill then s1.rdsHome { r with ct := .ws }
      else
        let d := readBlock s1.mem (64 * b)
        let s2 := (s1.makeRoom r.core b).setL1 r.core b { newLine .ro r.owner r.ct [] with data := d, tag := s1.tagAt b }
        if r.pid = 0 then s2.respond r [] else s2.answer r (loadValue d (s1.tagAt b) r.pa r.size r.typed r.keep)

/-- A tag written at the home (R306): L1 copies go first; a full bit that is set serves the word's waiters as a PUTX of the
word's value would, and W that is set serves readers. -/
def State.tagWriteHome (s : State) (r : Req) : State :=
  if s.busy (r.pa / 64) then s.defer r
  else
    match s.fillCheck r true with
    | some c => (s.failReq r c).storeDone r.ctx
    | none =>
      let b := r.pa / 64
      let old := (s.coherent r.pa).2
      let new := r.tag &&& 0xFF00FFFF
      let s1 := s.homeUpdate r.owner r.pa false fun d _ => (d, new)
      let s2 := (upTo 8).foldl (fun s i =>
        let pa := 64 * b + 8 * i
        if isFullWord new pa ∧ isFullWord old pa = false then s.putWord r.owner pa (s.homeWord pa) else s) s1
      let s3 := if new.getLsbD 7 then s2.serveReaders r.pa else s2
      s3.storeDone r.ctx

/-- The context that a result reaches: the one that asked, or the one it has moved to (R180). -/
def State.receiver (s : State) (n pid : Nat) : Nat :=
  if (s.ctx n).producers.any fun p => p.pid == pid then n
  else
    match s.ctxs.find? fun e => e.2.producers.any fun p => p.pid == pid with
    | some e => e.1
    | none => n

/-- Operations whose issuing context waits for the home's answer (R316, R317, R313, R386). -/
def waitsAtHome : HomeOp → Bool
  | .jcwait | .barwait | .bararr | .put | .putx | .jcinit | .jcdec | .barinit => true
  | _ => false

/-- A tile task or copy whose record names a counter or a barrier (R316, R317, R343, R349). -/
def Tile.names (t : Tile) (addr : Word) : Bool :=
  blockWord t.body 6 == addr || (wbits (blockWord t.body 7) 1 0 != 0 && (blockWord t.body 7 &&& ~~~(7 : Word)) == addr)
def CopyReq.names (c : CopyReq) (addr : Word) : Bool := c.dkind != 0 && c.dkAddr == addr

/-- A tile task or copy of the context whose record names a counter, that ended in fault and has not been observed (R316,
R317): its completion word. -/
def State.unobserved (s : State) (n : Nat) (addr : Word) : Option Word :=
  let tile := s.clusters.findSome? fun e => e.2.tiles.find? fun t => t.ctx == n && t.done && !t.observed && t.cause != 0 && t.names addr
  let copy := s.copies.find? fun c => c.ctx == some n && c.done && !c.observed && c.cause != 0 && c.names addr
  match tile, copy with
  | some t, _ => some t.word
  | none, some c => some c.word
  | none, none => none

/-- Two contexts lie within a scope (R160); from dev on every context of the device does. -/
def inScope (sc : BitVec 3) (n m : Nat) : Bool :=
  match sc.toNat with
  | 0 => n == m
  | 1 => coreOf n == coreOf m
  | 2 => clusterOf (coreOf n) == clusterOf (coreOf m)
  | 3 => dieOf (coreOf n) == dieOf (coreOf m)
  | _ => true

/-- The destination range of a tile task (R339), and the scope at which it ends (R176). -/
def Tile.dest (t : Tile) : Word × Nat :=
  (blockWord t.body 3, 63 * wbits (blockWord t.body 5) 31 0 + 8 * tyWidth ((blockWord t.body 0).extractLsb' 8 3))
def Tile.scope (t : Tile) : BitVec 3 := (blockWord t.body 0).extractLsb' 24 3

/-- A context has observed the completions that a counter or barrier stands for: an acquire of their destination ranges (R177). -/
def State.acquireNamed (s : State) (n : Nat) (addr : Word) : State :=
  let tiles := s.clusters.flatMap fun e => e.2.tiles.filter fun t => t.done && (blockWord t.body 0).getLsbD 1 && t.names addr && inScope t.scope t.ctx n
  let copies := s.copies.filter fun c => c.done && c.names addr && inScope c.scope (c.ctx.getD n) n
  let ranges : List (Word × Nat) := tiles.map (fun t => t.dest) ++ copies.map (fun c => (c.dst, 64 * c.blocks))
  ranges.foldl (fun s d => s.acquireRange (coreOf n) d.1 d.2) s

/-- A result delivered to its destination (R269, R196): a register is filled, or the reserved place of a queue. -/
def State.deliver (s : State) (n : Nat) (p : Producer) (v : Arrival) : State :=
  let put (s : State) (r : Nat) (w : Word) : State :=
    if p.queued then
      (s.modCtx n fun c => { c with qpend := match tget c.qpend (r - 56) with
        | some l => tset c.qpend (r - 56) (mapIf (fun e => e.1 == p.pid) (fun e => (e.1, some w)) l)
        | none => c.qpend }).flushQueue n (r - 56) 64
    else s.modCtx n fun c => c.setG r w
  let mark (s : State) (r0 : Nat) (c : Cause) (val info : Word) : State :=
    let blk : Bool := match p.home with
      | some q => q.keep && q.typed && q.op == .rds
      | none => false
    let r := if r0 = 0 ∧ blk then blockMarker else r0
    s.modCtx n fun x => { x with
      markers := if r = 0 then x.markers else tset x.markers r ⟨c, val, info⟩,
      owed := if r = 0 then some (x.owed.getD ⟨c, val, info⟩) else x.owed,
      qpend := if p.queued then (match tget x.qpend (r - 56) with
        | some l => tset x.qpend (r - 56) (l.filter fun e => e.1 != p.pid)
        | none => x.qpend) else x.qpend }
  match v, p.dest with
  | .word w, .g r => put s r w
  | .vec d t, .v r => s.setV n r d t
  | .vec d t, .g r =>
    if r = 0 then s.modCtx n fun c => { c with peerBlocks := match p.home with
      | some q => if q.typed then tset c.peerBlocks (q.va.toNat / 64) (d, t) else c.peerBlocks
      | none => c.peerBlocks }
    else put s r (t.setWidth 64)
  | .failed c val info, d => d.regs.foldl (fun s r => mark s r c val info) s
  | _, _ => s

/-- The general sources of an instruction whose context waits with it for the home's answer. -/
def heldSources (i : Instr) : List Opnd :=
  match i with
  | .jcwait b | .jcdec b | .bararr _ b => [src b]
  | .barwait b c | .jcinit b c | .barinit b c => [src b, src c]
  | .put a b _ | .putx a b _ => [src0 a, src b]
  | _ => []

/-- The queue sources of a held instruction popped, now that it completes (R196, R267). -/
def State.popHeld (s : State) (n : Nat) : State :=
  match (s.ctx n).held with
  | some i => { ({ s with cur := n }.popAll (heldSources i)) with cur := s.cur }
  | none => s

/-- A producer's result arrives (R269): its register fills, waiters are woken, and an acquire takes effect (R161, R301). The
answer to an operation that its context waits with ends that wait: the context goes on, or takes the cause precisely
(R298, R316, R317, R386). -/
def State.arriveLocal (s : State) (n0 pid : Nat) (v : Arrival) : State :=
  let n := s.receiver n0 pid
  match (s.ctx n).producers.find? fun p => p.pid == pid with
  | none => s
  | some p =>
    let s1 := s.modCtx n fun c => { c with producers := c.producers.filter fun q => q.pid != pid }
    let s2 := if p.acquire && p.windows then s1.acquireWindows (coreOf n) else s1
    let wakes (s : State) : State := (s.wakeIf fun m w => m == n && (match w with
      | .reg _ | .queue _ | .release | .fence | .homeProducers => true
      | _ => false)).releaseCheck n 8
    match p.home with
    | some r =>
      if waitsAtHome r.op then
        match v with
        | .failed c val info =>
          let restore (s : State) : State := match r.op, c with
            | .bararr, .brokenbar =>
              (match p.dest with
              | .g q => s.modCtx n fun x =>
                  if p.queued then { x with qpend := match tget x.qpend (q - 56) with
                    | some l => tset x.qpend (q - 56) (l.filter fun e => e.1 != p.pid)
                    | none => x.qpend }
                  else { x with gFull := x.gFull ||| BitVec.ofNat 64 (2 ^ q) }
              | _ => s)
            | _, _ => s
          if r.op = .bararr ∧ c ≠ .brokenbar then wakes (((s2.deliver n p v).popHeld n).advanceCtx n)
          else (restore s2).takeTrap n (s2.ctx n).pc c val info false
        | v =>
          let s4 := if r.op = .bararr then s2.deliver n p v else s2
          match if r.op = .jcwait ∨ r.op = .barwait then s4.unobserved n r.va else none with
          | some w =>
            (s4.observe n w).takeTrap n (s4.ctx n).pc .engine w (engineInfo w) false
          | none => wakes (((if r.op = .jcwait ∨ r.op = .barwait then s4.acquireNamed n r.va else s4).popHeld n).advanceCtx n)
      else wakes (s2.deliver n p v)
    | none => wakes (s2.deliver n p v)

/-- The answer to a peer's request (R27, R386): it goes back to the device that sent it, a block with its tag as two units (R29, R387); to the device
itself it loops back (R132). -/
def State.peerReply (s : State) (k : Nat) (v : Arrival) : State :=
  match tget s.peerIn k with
  | none => s
  | some m =>
    let s1 := { s with peerIn := tdel s.peerIn k }
    if m.dev = s.deviceIndex.toNat then s1.post [.peerResponse m v]
    else ({ s1 with peerSent := s1.peerSent ++ [(m, v)] } : State).peerUnits m.port 0 m.req.owner (match v with
      | .vec .. => 2
      | _ => 1) []

/-- The producer is a TRYTAKE's first, whose second has the next number (R313). -/
def State.isPair (s : State) (n pid : Nat) : Bool :=
  (s.ctx (s.receiver n pid)).producers.any fun p => p.pid == pid && (match p.home with
    | some r => r.op == .trytake
    | none => false)

/-- PRODUCER_ARRIVE (R269): a result for a context of the device, or an answer for a peer. The two results of a TRYTAKE arrive
A first (R313). -/
def State.arrive (s : State) (n pid : Nat) (v : Arrival) : State :=
  if remoteBase ≤ n then s.peerReply (n - remoteBase) v
  else if s.isPair n pid then
    match v with
    | .pair a b => (s.arriveLocal n pid (.word a)).arriveLocal n (pid + 1) (.word b)
    | v => (s.arriveLocal n pid v).arriveLocal n (pid + 1) v
  else s.arriveLocal n pid v

/-- The request of a producer that waits in a Bench, or for its next attempt to join one (R119). -/
def State.benchWait (s : State) (pid : Nat) : Option Req :=
  match s.slices.findSome? fun e => (e.2.bench.find? fun b => b.req.pid == pid).map fun b => b.req with
  | some r => some r
  | none => (s.backoffs.find? fun e => e.2.pid == pid).map (·.2)

/-- A withdrawal of a producer that waits at a home (R207, R368): the home answers with the withdrawal, unless it has already
sent the value; a request still on its way is withdrawn once it is there. The withdrawn producer leaves a reissue record, and is no
longer pending. -/
def State.withdraw (s : State) (n pid : Nat) : State :=
  let hit (b : BenchEntry) : Bool := b.req.pid == pid
  match s.benchWait pid with
  | none => if s.outstanding n none ∧ (s.ctx n).producers.any (fun p => p.pid == pid) then s.postLater [.homeWithdraw n pid] else s
  | some r =>
    let s1 : State := { s with
      slices := s.slices.map fun e => (e.1, { e.2 with bench := e.2.bench.filter fun b => !hit b })
      backoffs := s.backoffs.filter fun e => e.2.pid != pid }
    s1.modCtx n fun c => { c with
      reissue := c.reissue ++ (c.producers.filter fun p => p.pid == pid).map (fun p => (r, p)),
      producers := c.producers.filter fun p => p.pid != pid }

end Sys2Proof.Machine
end

