-- ==== Sys2Proof/Machine/Flags.lean ====
section
/-!
DEFINITION. Conditions. The hardware keeps no flags: a condition is 0 or 1 in a general register, or decides a branch
(R276, R286, R287, R289, R290).
-/

namespace Sys2Proof.Machine

/-- The conditions on two words (R276, R290). -/
def condEq (a b : Word) : Bool := a == b
def condNe (a b : Word) : Bool := a != b
def condLt (a b : Word) : Bool := BitVec.slt a b
def condGe (a b : Word) : Bool := !BitVec.slt a b
def condLtu (a b : Word) : Bool := BitVec.ult a b
def condGeu (a b : Word) : Bool := !BitVec.ult a b

/-- FP32 in the low half of a register (R285). -/
def f32 (w : Word) : Nat := w.toNat % 2 ^ 32

/-- The comparisons of FP32 values; false when either is NaN (R238, R289). -/
def fpEq (a b : Nat) : Bool := ((fp32.value a).cmp (fp32.value b)) == some 0
def fpLt (a b : Nat) : Bool := ((fp32.value a).cmp (fp32.value b)) == some (-1)
def fpLe (a b : Nat) : Bool := match (fp32.value a).cmp (fp32.value b) with
  | some c => decide (c ≤ 0)
  | none => false

/-- The class mask of an FP32 value (R287). -/
def classMask (x : Nat) : Nat :=
  let neg := x / 2 ^ 31 % 2 = 1
  let e := x / 2 ^ 23 % 256
  let f := x % 2 ^ 23
  if e = 255 then
    (if f = 0 then (if neg then 2 ^ 0 else 2 ^ 7) else if f / 2 ^ 22 % 2 = 0 then 2 ^ 8 else 2 ^ 9)
  else if e = 0 then
    (if f = 0 then (if neg then 2 ^ 3 else 2 ^ 4) else if neg then 2 ^ 2 else 2 ^ 5)
  else if neg then 2 ^ 1 else 2 ^ 6

end Sys2Proof.Machine
end

