-- ==== Sys2Proof/Machine/Operands.lean ====
section
/-!
DEFINITION. What operands stand for (R261, R276 to R283): immediates, effective addresses, and the results of the integer
and scalar floating operations on the values read.
-/

namespace Sys2Proof.Machine

/-- A signed immediate (R261). -/
def simm {n : Nat} (i : BitVec n) : Word := i.signExtend 64

/-- The effective address of a base register with an immediate (R300). -/
def effAddr {n : Nat} (b : Word) (i : BitVec n) : Word := b + simm i

/-- The target of a relative transfer, and the value of LPC (R258, R283). -/
def relTarget (pc : Word) (disp : BitVec 24) : Word := pc + 2 * simm disp

/-- Sign-extends the low half of a word (R276). -/
def sextW (w : Word) : Word := (w.extractLsb' 0 32).signExtend 64

/-- The shift count of a word (R276). -/
def shiftN (b : Word) : Nat := b.toNat % 64

/-- The results of the operations on two registers (R276). -/
def rolR (a b : Word) : Word := let n := shiftN b; if n = 0 then a else (a <<< n) ||| (a >>> (64 - n))
def minR (a b : Word) : Word := if BitVec.sle a b then a else b
def maxR (a b : Word) : Word := if BitVec.sle b a then a else b
def minuR (a b : Word) : Word := if BitVec.ule a b then a else b
def maxuR (a b : Word) : Word := if BitVec.ule b a then a else b
def mulhR (a b : Word) : Word := BitVec.ofInt 64 (a.toInt * b.toInt / 2 ^ 64)
def mulhuR (a b : Word) : Word := w64 (a.toNat * b.toNat / 2 ^ 64)

/-- Signed division (R277): rounded toward zero; the remainder takes the dividend's sign. -/
def divR (a b : Word) : Word :=
  if b = 0 then BitVec.allOnes 64
  else
    let q : Int := a.toInt.natAbs / b.toInt.natAbs
    BitVec.ofInt 64 (if (a.toInt < 0) ≠ (b.toInt < 0) then -q else q)
def remR (a b : Word) : Word :=
  if b = 0 then a
  else
    let q : Int := a.toInt.natAbs / b.toInt.natAbs
    let q := if (a.toInt < 0) ≠ (b.toInt < 0) then -q else q
    BitVec.ofInt 64 (a.toInt - q * b.toInt)
/-- Unsigned division (R277). -/
def divuR (a b : Word) : Word := if b = 0 then BitVec.allOnes 64 else w64 (a.toNat / b.toNat)
def remuR (a b : Word) : Word := if b = 0 then a else w64 (a.toNat % b.toNat)

/-- The bit counts (R280). -/
def clzR (a : Word) : Word := w64 (if a = 0 then 64 else 63 - Nat.log2 a.toNat)
def ctzCount (v : Nat) : Nat → Nat
  | 0 => 0
  | n + 1 => if v % 2 = 1 then 0 else 1 + ctzCount (v / 2) n
def ctzR (a : Word) : Word := w64 (ctzCount a.toNat 64)
def popcR (a : Word) : Word := w64 (popcount a.toNat 64)
/-- The low n bytes of a number in reverse order (R280). -/
def swapBytes (v acc : Nat) : Nat → Nat
  | 0 => acc
  | n + 1 => swapBytes (v / 256) (acc * 256 + v % 256) n
def bswapR (a : Word) : Word := w64 (swapBytes a.toNat 0 8)

/-- Bit fields (R281). -/
def extuR (b : Word) (p l : Nat) : Word := zext64 (b.toNat / 2 ^ p) l
def extsR (b : Word) (p l : Nat) : Word := sext64 (b.toNat / 2 ^ p) l
def insR (old b : Word) (p l : Nat) : Word :=
  let m := w64 (2 ^ l - 1)
  (old &&& ~~~(m <<< p)) ||| ((b &&& m) <<< p)

/-- A floating result, zero-extended (R285). -/
def fres (v : Nat) : Word := w64 v

/-- FCVT (R289): F to W is sign-extended, W to F rounds an integer, the rest change the format. -/
def cvtWF (rm : BitVec 2) (x : Word) : Word :=
  BitVec.ofInt 64 (toIntSat rm (-(2 ^ 31)) (2 ^ 31 - 1) (fp32.value (f32 x)))
def cvtFW (rm : BitVec 2) (x : Word) : Word := fres (fp32.ofVal rm (.ofInt (asInt 32 (f32 x))))
def cvtFmt (src dst : Fmt) (rm : BitVec 2) (x : Word) : Word := fres (dst.ofVal rm (src.value (x.toNat % 2 ^ src.width)))

end Sys2Proof.Machine
end

