-- ==== Sys2Proof/Machine/Access.lean ====
section
/-!
DEFINITION. Walks and stage-1 faults (R139, R143 to R146, R156, R231), and the checks of an access in order up to its target
(R297, R299).
-/

namespace Sys2Proof.Machine

/-- KIND of a fault message (R143). -/
def FaultKind.num : FaultKind → Nat
  | .notValid => 1 | .write => 2 | .exec => 3 | .priv => 4 | .malformed => 5
/-- ACC of a fault message (R143). -/
def Acc.num : Acc → Nat
  | .read => 0 | .write => 1 | .exec => 2 | .atomic => 3

/-- A fault as its message tells it (R143); unit is the number of the tile task or copy whose access it is, or 0. -/
structure Fault1 where
  ctx : Nat
  core : Nat
  owner : Nat
  space : BitVec 16
  kind : FaultKind
  level : Nat
  va : Word
  acc : Acc
  size : Nat
  win : Bool
  unit : Nat
  deriving DecidableEq, Repr

/-- What posting a fault comes to (R143, R145): no ring, or the Concierge itself; waiting for a reply; waiting for a free
entry. -/
inductive Posted where
  | noRing
  | waits (s : State)
  | full (s : State)

/-- The Concierge of an owner (R146). -/
def State.isConcierge (s : State) (o n : Nat) : Bool :=
  let c := (s.owner o).conctx
  c.getLsbD 16 && wbits c 15 0 == n

/-- Words 0 to 7 of a message (R143). -/
def faultBody (f : Fault1) (now : Word) : List Nat :=
  [f.kind.num + 2 ^ 8 * f.level + 2 ^ 16 * f.space.toNat + 2 ^ 32 * f.ctx, f.va.toNat, now.toNat,
    f.acc.num + 4 * Nat.log2 f.size + (if f.win then 32 else 0) + (if f.unit = 0 then 0 else 64), 0, 0, 0]

/-- A stage-1 fault posted (R143, R145): merged with an outstanding message on its page, SPACE and cluster; words 1 to 6
written, then word 0 put as a PUT would. An entry that is still in use is not written again: its turn is waited for. -/
def State.postFault (s : State) (f : Fault1) : Posted :=
  let ow := s.owner f.owner
  let cl := clusterOf f.core
  let page := f.va.toNat / 65536
  match ow.fqFrame with
  | none => .noRing
  | some frame =>
    if ow.fqbase = 0 ∨ (s.isConcierge f.owner f.ctx ∧ f.unit = 0) then .noRing
    else
      let same (r : RingEntry) : Bool := r.page == page && r.space == f.space && r.cluster == cl
      let join (r : RingEntry) : RingEntry := { r with
        ctxs := if f.unit = 0 then tset r.ctxs f.ctx f.va else r.ctxs, engines := if f.unit = 0 then r.engines else addNew r.engines f.unit }
      if ow.ring.any same then .waits (s.modOwner f.owner fun o => { o with ring := mapIf same join o.ring })
      else if 256 ≤ ow.ring.length ∨ ow.ring.any (fun r => decide (r.k % 256 = ow.ringNext % 256 ∧ r.k < 2 ^ 24)) then .full s
      else
        let k := ow.ringNext
        let a := frame + 64 * (k % 256)
        let body := faultBody f s.dtc
        let put (s : State) (i : Nat) : State :=
          s.slotUpdate f.owner f.core f.ctx a false fun d t =>
            (mergeBytes d (placeBytes (8 * i) (body.getD i 0)) (rangeMask (8 * i) 8), t)
        let s1 := (upTo 6).foldl (fun s i => put s (i + 1)) s
        let s2 := (s1.slotTouch f.owner f.core f.ctx a true false).putWord f.owner a (w64 (body.getD 0 0))
        .waits (s2.modOwner f.owner fun o => { o with
          ringNext := k + 1,
          ring := o.ring ++ [⟨k, page, f.space, cl, if f.unit = 0 then [(f.ctx, f.va)] else [], if f.unit = 0 then [] else [f.unit]⟩] })

/-- A context blocked on a wait, whatever it was doing (R188). -/
def State.blockCtx (s : State) (n : Nat) (w : Wait) : State := s.modCtx n fun c => c.block w s.dtc

/-- A context's stage-1 fault (R143, R145): it waits for the reply or for a free entry, or takes ACCESS precisely. -/
def State.ctxFault (s : State) (f : Fault1) : State :=
  match s.postFault f with
  | .noRing => s.takeTrap f.ctx (s.ctx f.ctx).pc .access f.va 0 false
  | .waits s1 => s1.blockCtx f.ctx .faultReply
  | .full s1 => s1.blockCtx f.ctx .ringFull

/-- A context's stage-2 fault (R145): it goes to firmware in the format of R143, and the context blocks. -/
def State.stage2Fault (s : State) (f : Fault1) (ipa : Nat) : State :=
  (s.report (.stage2 f.ctx ipa (faultBody f s.dtc))).blockCtx f.ctx .faultReply

/-- The next read of a walk as a request (R139, R384): it goes to the slice of the entry, on behalf of the core. A table outside LP6 data is read
nowhere (R138). -/
def walkReq (w : Walk) : Req :=
  { op := .walk, ctx := 16 * w.core, core := w.core, owner := w.owner, pa := w.addr, va := w.va, ct := .rc, pid := w.id }
def State.walkAsk (s : State) (w : Walk) : State :=
  if regionOf w.addr = .lp6 then s.toSlice (walkReq w) else s.post [.pageWalkRead (clusterOf w.core) w.id]

/-- A walk begun at a cluster (R139): with all 32 walkers busy the context waits for one. -/
def State.startWalk (s : State) (n : Nat) (who : Walker) (va : Word) (acc : Acc) (size : Nat) : State :=
  let core := coreOf n
  let cl := clusterOf core
  if 32 ≤ (s.cluster cl).walks.length ∨ (s.cluster cl).walks.any (fun w => w.who == who) then s
  else
    let (id, s1) := s.newId
    let c := s.ctx n
    let w := s1.walkStart id core who c.owner c.space c.level va acc size
    (s1.modCluster cl fun k => { k with walks := k.walks ++ [w] }).walkAsk w

/-- A walk's read has come to its place in the slice: the walk goes on, ends or faults (R139). -/
def State.walkServe (s : State) (cl wid : Nat) : State :=
  match (s.cluster cl).walks.find? fun w => w.id == wid with
  | none => s
  | some w =>
    let drop (s : State) : State :=
      (s.modCluster cl fun k => { k with walks := k.walks.filter fun x => x.id != wid }).wakeIf fun m x =>
        clusterOf (coreOf m) == cl && x == .walk
    let n := match w.who with | .access n => n | .fetch n => n
    let trap (s : State) (c : Cause) (info : Word) : State := s.takeTrap n (s.ctx n).pc c w.va info false
    match s.walkStep w with
    | (.go w', s1) => (s1.modCluster cl fun k => { k with walks := mapIf (fun x => x.id == wid) (fun _ => w') k.walks }).walkAsk w'
    | (.fin (.ok e), s1) => drop (s1.tlbFill w.core e)
    | (.fin (.stage1 k l), s1) =>
      (drop s1).ctxFault ⟨n, w.core, w.owner, w.space, k, l, w.va, w.acc, w.size, false, 0⟩
    | (.fin (.stage2 ipa l k), s1) =>
      (drop s1).stage2Fault ⟨n, w.core, w.owner, w.space, k, l, w.va, w.acc, w.size, false, 0⟩ ipa
    | (.fin (.refused .access pa), s1) => trap ((drop s1).reportAccess pa w.owner) .access 1
    | (.fin (.refused c _), s1) => trap (drop s1) c 0

/-- PAGE_WALK_READ (R139): the entry is read at its slice, once its line has its data. A read of a block between stable states waits for it. -/
def State.walkRead (s : State) (cl wid : Nat) : State :=
  match (s.cluster cl).walks.find? fun w => w.id == wid with
  | none => s
  | some w =>
    let r := walkReq w
    if regionOf w.addr ≠ .lp6 ∨ (s.tableRefused w.owner w.addr false).isSome then s.walkServe cl wid
    else if s.busy (w.addr / 64) then s.defer r
    else s.atLine w.owner w.addr false (homeEvent r) fun s => (s.respond r []).walkServe cl wid

/-- An engine's wait for a reply ends (R144, R145, R367, R388): on RETRY it makes its access again, otherwise its operation ends
with the cause; the access of a task or copy that has done its work is its DKIND action. -/
def Tile.reply (t : Tile) (result : Option (BitVec 8)) : Tile :=
  match result with
  | none => { t with waiting := false }
  | some c => if t.result.isSome then { t with waiting := false, dk := some c } else { t with waiting := false, result := some c }
def CopyReq.reply (t : CopyReq) (result : Option (BitVec 8)) : CopyReq :=
  match result with
  | none => { t with waiting := false }
  | some c => if t.result.isSome then { t with waiting := false, dk := some c } else { t with waiting := false, result := some c }
def Tile.wakes (cl : Nat) (t : Tile) (result : Option (BitVec 8)) : Option Instr :=
  match t.waiting, t.engine with
  | true, some e => some (if t.result.isNone ∧ result.isNone then .tileKStep cl e else .tileTaskComplete cl e)
  | _, _ => none
def State.engineReply (s : State) (units : List Nat) (result : Option (BitVec 8)) : State :=
  let waits (t : Tile) : Bool := t.waiting && units.contains t.id
  let evs := s.clusters.flatMap fun e => (e.2.tiles.filter waits).filterMap fun t => t.wakes e.1 result
  let s1 : State := { s with clusters := s.clusters.map fun e => (e.1, { e.2 with tiles := mapIf waits (fun t => t.reply result) e.2.tiles }) }
  let mine (c : CopyReq) : Bool := c.waiting && units.contains c.id
  let fin := (s.copies.filter fun c => mine c && (c.result.isSome || result.isSome)).map fun c => Instr.copyComplete (dieOf c.core) (c.core % 8) c.id
  { s1 with copies := mapIf mine (fun c => c.reply result) s1.copies }.post (evs ++ fin)

/-- The number under which firmware knows an engine's operation (the model's own, log 9). -/
def engineNumber (id : Nat) : Nat := 2 ^ 20 + id

/-- The lock and hold of a page's migration (R156): the slice of the page, which both sides meet at. -/
def migrationSlice (k : PageKey) : Nat := k.page % 256 ^^^ (k.page / 16 % 256)

/-- The contexts and engines that a ring entry holds are released to try again (R144). -/
def State.retryEntry (s : State) (e : RingEntry) : State :=
  let s1 := s.wakeIf fun m w => (tget e.ctxs m).isSome && w == .faultReply
  s1.engineReply e.engines none

/-- Ring entries that a device migration of a page holds are released: the walk restarts (R156). -/
def State.releaseHeld (s : State) (key : PageKey) : State :=
  let held (e : RingEntry) : Bool := 65536 * 256 ≤ e.k && e.page == key.page && e.space == key.space
  let l := (s.owner key.owner).ring.filter held
  let s1 := s.modOwner key.owner fun o => { o with ring := o.ring.filter fun e => !held e }
  l.foldl (fun s e => s.retryEntry e) s1

/-- The frame that a page has in device memory is pinned (R141, R156). -/
def State.pinned (s : State) (key : PageKey) : Bool :=
  match s.checkNow 0 key.owner key.space .s (w64 (65536 * key.page)) .read with
  | (.ok pa _, _) => (match frameOf pa with
    | some f => (s.fotAt f).getLsbD 7
    | none => false)
  | _ => false

/-- A request of the device or the host to move a page (R156): the first takes the lock; of two in one cycle the draw decides;
for 48,000 cycles after a migration, and for a PIN frame, the request is resolved by a remote mapping. The loser is named to firmware, which writes the mapping (a
device loser's through the host window, a host loser's through BAR 2): the spec gives no address of it (log 77). The answer is whether the lock was taken. -/
def State.migrationLock (s : State) (key : PageKey) (device : Bool) (entry : Option (Nat × Nat)) : Bool × State :=
  let m : Migration := ⟨key, device, none, entry, s.dtc⟩
  let lost (s : State) (device : Bool) : State := s.report (.remoteMapping key device)
  if s.pinned key then (false, lost s device)
  else
    match s.migrations.find? fun m => m.key == key with
    | none => (true, { s with migrations := s.migrations ++ [m] })
    | some old =>
      if old.until_.isSome ∨ old.at_ ≠ s.dtc ∨ old.device = device then (false, lost s device)
      else
        let c := migrationSlice key
        let (x, s1) := s.draw ⟨0, .cal, c / 64, 0x81000 + c⟩ 2
        if (x = 0) = (device = true) then
          let s2 := lost (if old.device then s1.releaseHeld key else s1) old.device
          (true, { s2 with migrations := mapIf (fun q : Migration => q.key == key) (fun _ => m) s2.migrations })
        else (false, lost s1 device)

/-- FAULT_REPLY (R144): the device takes word 7 of an entry, which frees it, and acts on REPLY. Firmware's own ring is owner
number 16 and its entries are context numbers, or the numbers of engines' operations: firmware has resolved a stage-2 fault (R145, log 9). -/
def State.takeReply (s : State) (o k : Nat) : State :=
  if o = 16 then
    if 2 ^ 20 ≤ k then s.engineReply [k - 2 ^ 20] none else s.wakeIf fun m w => m == k && w == .faultReply
  else
    match (s.owner o).fqFrame, (s.owner o).ring.find? fun e => e.k % 256 == k with
    | some frame, some e =>
      let a := frame + 64 * k + 56
      let (d, t) := s.coherent a
      if isFullWord t a = false then s
      else
        let reply := blockBytes d 56 8 % 4
        let s1 := s.slotUpdate o (8 * e.cluster) (128 * e.cluster) a false fun d t => (d, setFullWord t a false)
        let s2 := (s1.modOwner o fun ow => { ow with ring := ow.ring.filter fun x => x.k != e.k }).wakeIf fun m w =>
          w == .ringFull && tableOwner (s1.ctx m).owner (s1.ctx m).level == o
        let trapAll (c : Cause) : State :=
          let s3 := e.ctxs.foldl (fun s x =>
            if (s.ctx x.1).state = .blocked .faultReply then s.takeTrap x.1 (s.ctx x.1).pc c x.2 0 false else s) s2
          s3.engineReply e.engines (some c.code)
        match reply with
        | 1 => trapAll .access
        | 2 => trapAll .typefault
        | 3 =>
          let key : PageKey := ⟨o, e.space, e.page⟩
          match s2.migrationLock key true (some (o, k)) with
          | (true, s3) => s3.modOwner o fun ow => { ow with ring := ow.ring ++ [{ e with k := e.k + 65536 * 256 }] }
          | (false, s3) => s3.retryEntry e
        | _ => s2.retryEntry e
    | _, _ => s

/-- PAGE_MIGRATION_DONE (R156): the walk restarts, and the page is held for 48,000 cycles. -/
def State.migrationDone (s : State) (key : PageKey) : State :=
  match s.migrations.find? fun m => m.key == key && m.until_.isNone with
  | none => s
  | some m =>
    let hold (x : Migration) : Migration := { x with until_ := some (s.dtc + 48000) }
    let s1 : State := { s with migrations := mapIf (fun x : Migration => x.key == key) hold s.migrations }
    if m.device then s1.releaseHeld key else s1

/-- HOST_PAGE_REQUEST (R156): the host asks for a page; the loser of the lock is resolved by a remote mapping. -/
def State.hostRequest (s : State) (key : PageKey) : State := (s.migrationLock key false none).2

/-- MIGRATION_HOLD_EXPIRE (R156). -/
def State.holdExpire (s : State) (key : PageKey) : State :=
  { s with migrations := s.migrations.filter fun m => !(m.key == key && (match m.until_ with
      | some t => decide (t ≤ s.dtc)
      | none => false)) }

/-- An access of an owner from a core is still on its way, or waits at a line of the core (R140). -/
def State.accessesOut (s : State) (core o : Nat) : Bool :=
  s.requests.any (fun r => r.core == core && r.owner == o)
    || (s.core core).l1.any fun e => e.2.owner == o && !e.2.wait.isEmpty

/-- INVALIDATION_ARRIVE (R140, R231): a TLB and its cluster apply one invalidation; a walk in flight that it covers restarts
from its root. It is acknowledged once the owner's accesses from there have been performed. -/
def State.invalidateTlb (s : State) (core : Nat) (i : Inval) : State :=
  let keep (e : TlbEntry) : Bool := !(Inval.covers i e)
  let restart (w : Walk) : Walk := if Inval.coversWalk i w then s.walkStart w.id w.core w.who w.owner w.space w.level w.va w.acc w.size else w
  let s1 := s.modCore core fun c => { c with tlb := c.tlb.filter keep }
  let s2 := s1.modCluster (clusterOf core) fun k => { k with l2tlb := k.l2tlb.filter keep, walks := k.walks.map restart }
  if s2.accessesOut core i.owner then s2.postLater [.invalidationArrive core i]
  else
    let s3 : State := { s2 with invals := s2.invals.filter fun e => !(e.2.1 == core && e.2.2 == i) }
    s3.wakeIf fun _ w => w == .tlbsync

/-- The target of an access (R299). -/
inductive Target where
  | mem (pa : Nat) (e : TlbEntry)
  | store (core off : Nat)
  | win (core w k off : Nat)
  | peer (dev pva : Nat)
  deriving DecidableEq, Repr

/-- An offset of a core's local store as a target (R299). -/
def State.localTarget (s : State) (core off : Nat) : Target :=
  match (s.core core).windowAt off with
  | some (w, k) => .win core w k off
  | none => .store core off

/-- An export window covers an access from outside the core (R152, R153). -/
def exportOk (w : BitVec 64) (off n : Nat) (write eng : Bool) : Bool :=
  let base := wbits w 12 0
  let last := min 8192 (base + wbits w 29 16)
  decide (64 * base ≤ off ∧ off + n ≤ 64 * last) && (if write then w.getLsbD 33 else w.getLsbD 32)
    && (if eng then w.getLsbD 35 else w.getLsbD 34)
def State.exported (s : State) (core off n : Nat) (write eng : Bool) : Bool :=
  (upTo 4).any fun i => exportOk ((tget (s.core core).lswin i).getD 0) off n write eng

/-- A local store block that raises MEMERR (R158). -/
def State.deadBlock (s : State) (core off : Nat) : Bool := (s.core core).dead.contains (off / 64)

/-- The range lock an access conflicts with (R175): a store to a source or destination range, a load from a destination. -/
def Core.lockHit (c : Core) (va : Word) (n : Nat) (write : Bool) : Option Nat :=
  (c.locks.find? fun e => decide (va.toNat < e.2.base + e.2.len ∧ e.2.base < va.toNat + n) && (write || e.2.dest)).map (·.1)

/-- A producer that may wait at a home (R207). -/
def Producer.atHome (p : Producer) : Bool := match p.home with
  | some r => r.op == .take || r.op == .waitw || r.op == .wsLoad || r.op == .winFill
  | none => false

/-- What an instruction waits for that comes behind earlier producers of its context: the register of one that may wait at a home, so that the wait is
limited and can be saved as that of a reader is (R194, R207; DESIGN CHOICE, log 78), and else their answers. -/
def Ctx.behind (c : Ctx) (hold : Producer → Bool) : Wait :=
  match c.producers.find? fun p => hold p && p.atHome with
  | some p => (match p.dest with
    | .g r => if p.queued then .queue r else .reg r
    | .v r => .reg (64 + r))
  | none => .release

/-- Later memory instructions of a context wait: for an acquire that has not ended, a FENCE or a RELR in progress (R178, R301, R314). -/
def Ctx.gated (c : Ctx) : Bool := c.producers.any (fun p => p.acquire && p.windows) || c.releases.any fun r => r.gate && !r.sc
def gate : Ex Unit := do
  let c ← me
  if c.gated then blockOn (c.behind fun p => p.acquire && p.windows) else pure ()

/-- Later accesses of a context to RC and SC pages wait for an SC access that is still on its way or not performed (R165); it orders no others
(R163, R167). -/
def State.scGated (s : State) (n : Nat) : Bool :=
  let c := s.ctx n
  c.producers.any (fun p => p.acquire && !p.windows) || c.releases.any (fun r => r.gate && r.sc)
    || s.requests.any fun r => r.ctx == n && r.ct == .sc && r.op != .winFill

/-- An access of the current context to a page of a type waits for its earlier SC accesses, if they order it (R165). -/
def typeGate (ct : PageType) : Ex Unit := do
  let s ← get
  if (ct = .rc ∨ ct = .sc) ∧ s.scGated s.cur then blockOn ((s.ctx s.cur).behind fun p => p.acquire && !p.windows) else pure ()

/-- A fault of the instruction being executed, under the owner and SPACE that its address is translated in (R143, R297). -/
def State.faultOf (s : State) (o : Nat) (space : BitVec 16) (k : FaultKind) (level : Nat) (va : Word) (acc : Acc) (size : Nat) (win : Bool) : Fault1 :=
  ⟨s.cur, coreOf s.cur, o, space, k, level, va, acc, size, win, 0⟩
def stage1Fault {α : Type} (o : Nat) (space : BitVec 16) (k : FaultKind) (level : Nat) (va : Word) (acc : Acc) (size : Nat) (win : Bool) : Ex α := do
  modify fun (s : State) => s.ctxFault (s.faultOf o space k level va acc size win)
  stop
def stage2Stop {α : Type} (o : Nat) (space : BitVec 16) (k : FaultKind) (ipa level : Nat) (va : Word) (acc : Acc) (size : Nat) (win : Bool) : Ex α := do
  modify fun (s : State) => s.stage2Fault (s.faultOf o space k level va acc size win) ipa
  stop

/-- A cause that the checks of an address give is taken, behind the event that it raises (R20, R142). -/
def refuse {α : Type} (c : Cause) (va info : Word) (pa o : Nat) : Ex α := do
  if c = .access ∧ info = 1 then modify fun (s : State) => s.reportAccess pa o
  trap c va info

/-- Translation and permission of an access of the current context (R297 steps 4 and 5): it waits for a walk on a miss. A store to a device register raises ACCESS
at every level: the registers that the rules place there, those of the layout, are written by the host alone (R58); what a read at F gives, no rule says (R134,
log 17). -/
def translate (va : Word) (acc : Acc) (size : Nat) : Ex (Nat × TlbEntry) := do
  let s ← get
  let c ← me
  let o := tableOwner c.owner c.level
  let walk : Ex (Nat × TlbEntry) := do
    modify fun (s : State) => s.startWalk s.cur (if acc = .exec then .fetch s.cur else .access s.cur) va acc size
    blockOn .walk
  match s.tlbFind (coreOf s.cur) o c.space va with
  | none => walk
  | some e =>
    if acc.writes ∧ e.dirty = false then walk
    else
      match s.permit e o c.level va acc false with
      | .ok pa e => pure (pa, e)
      | .stage1 k l => stage1Fault o c.space k l va acc size false
      | .stage2 ipa l k => stage2Stop o c.space k ipa l va acc size false
      | .cause ca i =>
        if regionOf (e.out va) = .device ∧ c.level = .f ∧ acc.writes = false then throw (.device (e.out va)) else refuse ca va i (e.out va) o

/-- A local store access waits while the context holds a store to the same block for a release (R181, R301). -/
def State.heldLocal (s : State) (n core off : Nat) : Bool :=
  (s.ctx n).releases.any fun r => match r.hold with
    | some q => q.op == .winFill && q.core == core && q.c.toNat / 64 == off / 64
    | none => false
def localAccess (core off : Nat) : Ex Target := do
  let s ← get
  if s.heldLocal s.cur core off then blockOn .release else pure (s.localTarget core off)

/-- The checks of R297 in order, up to the target (R299). -/
def resolve (va : Word) (size align : Nat) (acc : Acc) : Ex Target := do
  let s ← get
  let c ← me
  let core := coreOf s.cur
  let form := formOf va
  let here ← match form with
    | .bad => trap .access va 0
    | .peer .. => if s.accepted c .peer then pure form else trap .access va 0
    | .clusterView .. => if isChannel core then trap .access va 0 else pure form
    | f => pure f
  if va.toNat % align ≠ 0 then trap .align va 0
  match (s.core core).lockHit va size acc.writes with
  | some i => trap .rangelock va (w64 i)
  | none => pure ()
  match here with
  | .page => do
    let (pa, e) ← translate va acc size
    pure (.mem pa e)
  | .localView off =>
    if s.deadBlock core off then trap .memerr va 0 else localAccess core off
  | .clusterView k off =>
    let m := core / 8 * 8 + k
    if m = core then (if s.deadBlock core off then trap .memerr va 0 else localAccess core off)
    else if s.coreHeldBy m c.owner = false then trap .access va 0
    else if s.exported m off size acc.writes false = false then trap .lsrefused va 0
    else if s.deadBlock m off then trap .memerr va 0
    else localAccess m off
  | .peer d p => pure (.peer d p)
  | .bad => trap .access va 0

/-- The page type of a target in memory, with the rules of the weight store and of host memory (R154, R155). -/
def pageType (pa : Nat) (e : TlbEntry) (va : Word) : Ex PageType := do
  let ct := PageType.ofCt e.ct
  match regionOf pa with
  | .weight _ => if ct = .rc ∨ ct = .pv then pure ct else trap .typefault va (e.ct.setWidth 64)
  | .host => if ct = .rc ∨ ct = .pv then pure ct else trap .typefault va (e.ct.setWidth 64)
  | _ => pure ct

end Sys2Proof.Machine
end

