-- ==== Sys2Proof/Machine/Peers.lean ====
section
/-!
DEFINITION. Peer operations (R26 to R32, R56, R178, R179, R220 to R222, R386, R387): what a context sends, what this device
does with a peer's request, and what an answer or a report does. A peer that is the device itself loops back (R132).
-/

namespace Sys2Proof.Machine

/-- A remote report for a context (R220 to R222): the operation no longer counts; a context that has ended passes it to its
launch (R56). -/
def State.remoteReport (s : State) (n dev : Nat) (cause : BitVec 8) (op : Nat) (pva : Nat) : State :=
  let e0 := w64 (cause.toNat + 2 ^ 8 * op + 2 ^ 16 * dev + 2 ^ 32 * (s.dtc.toNat % 2 ^ 32))
  let e1 := w64 (pva % 2 ^ 47)
  let c := s.ctx n
  let s1 :=
    if c.state = .ended ∨ c.state = .free then
      match (c.task.bind fun t => t.launch).bind (tget s.launches) with
      | some l =>
        let l1 := { l with nremote := l.nremote + 1, erf0 := if l.nremote = 0 then e0 else l.erf0, erf1 := if l.nremote = 0 then e1 else l.erf1 }
        { s with launches := tset s.launches l.id l1 }
      | none => s
    else if c.reports.length < 8 then s.modCtx n fun c => { c with reports := c.reports ++ [⟨e0, e1⟩] }
    else s.modCtx n fun c => { c with lostReports := c.lostReports + 1 }
  if op < 2 then s1.storeDone n else s1

/-- An answer for a copy engine (R347): the block that it asked for, or one of its writes done; a failure ends the copy. -/
def State.copyAnswer (s : State) (id : Nat) (read : Bool) (v : Arrival) : State :=
  let step (c : CopyReq) : CopyReq :=
    let fail : CopyReq := match v with
      | .failed k _ _ => { c with result := some (if c.result.getD 0 = 0 then k.code else c.result.getD 0) }
      | _ => c
    if read then { fail with got := some v } else { fail with unacked := c.unacked - 1 }
  let fin := (s.copies.filter fun c => c.id == id && (match v with
    | .failed .. => c.result.isNone
    | _ => false)).map fun c => Instr.copyComplete (dieOf c.core) (c.core % 8) c.id
  { s with copies := mapIf (fun c : CopyReq => c.id == id) step s.copies }.post fin

/-- An answer of a peer to an operation in flight (R27, R32, R220, R386): a value reaches its producer; a completion ends a posted operation; a failure of a posted
operation is a report. -/
def State.peerAnswer (s : State) (m : PeerMsg) (v : Arrival) : State :=
  let mine (e : PeerOut) : Bool := e.msg == { m with landed := false }
  let s1 : State := { s with peerOut := dropFirst mine s.peerOut }
  if s.peerOut.any mine = false then s
  else if engineBase ≤ m.req.ctx then s1.copyAnswer (m.req.ctx - engineBase) (m.req.op == .rds) v
  else match m.req.op with
  | .rdx | .tagWrite | .red =>
    match v with
    | .failed c _ _ => s1.remoteReport m.req.ctx m.dev c.code (peerOpCode m.req.op) m.req.pa
    | _ => s1.storeDone m.req.ctx
  | _ =>
    match v with
    | .failed c _ _ => s1.arrive m.req.ctx m.req.pid (.failed c m.req.va 0)
    | v => s1.arrive m.req.ctx m.req.pid v

/-- A message that a peer port takes in (R29): it joins the inbound direction of its port and acts once a slot has carried it. -/
def State.portArrive (s : State) (m : PeerMsg) (units : Nat) (again : PeerMsg → Instr) (f : State → State) : State :=
  if m.landed ∨ 16 ≤ m.port then f s else s.peerUnits m.port 1 m.req.owner units [again { m with landed := true }]

/-- PEER_RESPONSE: the answer takes one unit, and a block with its tag two (R29, R387). -/
def State.peerResponse (s : State) (m : PeerMsg) (v : Arrival) : State :=
  s.portArrive m (match v with
    | .vec .. => 2
    | _ => 1) (fun m => .peerResponse m v) fun s => s.peerAnswer m v

/-- Translation of a peer virtual address here (R132), under the job's owner and SPACE; the message window at the top of
the peer address space is not reached by accesses (R27). -/
def State.peerTranslate (s : State) (m : PeerMsg) (a : Acc) : Checked × State :=
  if 2 ^ 47 - 65536 ≤ m.req.pa then (.cause .access 0, s)
  else s.checkNow (m.port % 16 / 4 * 256) m.req.owner m.space .u (w64 m.req.pa) a

/-- The cause that a check which fails at a peer reports (R220, R386). -/
def checkedCause (c : Checked) : Cause :=
  match c with
  | .cause c _ => c
  | _ => .access

/-- A peer's request taken in: its place in State.peerIn stands for its context here. -/
def State.peerTake (s : State) (m : PeerMsg) : Nat × State :=
  let (k, s1) := s.newId
  (k, { s1 with peerIn := tset s1.peerIn k m })

/-- The request that a peer's message becomes at the home of its block (R27): it comes from the port, and its place in State.peerIn stands for its
context. -/
def peerReq (m : PeerMsg) (k pa : Nat) (e : TlbEntry) : Req :=
  { m.req with pa := pa, ctx := remoteBase + k, ct := PageType.ofCt e.ct, core := m.port % 16 / 4 * 256 }

/-- PEER_READ_REQUEST (R27, R387): the data, or the block with its tag; a WS block waits for W (R166). -/
def State.peerRead (s : State) (m : PeerMsg) : State :=
  let (k, s0) := s.peerTake m
  match s0.peerTranslate m .read with
  | (.ok pa e, s1) => s1.depart { peerReq m k pa e with op := if e.ct = 3 then .wsLoad else .read, pid := 1 }
  | (c, s1) => s1.peerReply k (.failed (checkedCause c) m.req.va 0)

/-- A peer's write applied at the home of its block, with its tag as one unit when it has one (R27, R387). -/
def State.peerWriteNow (s : State) (m : PeerMsg) : State :=
  let (k, s0) := s.peerTake m
  match s0.peerTranslate m .write with
  | (.ok pa e, s1) =>
    let r := { peerReq m k pa e with pid := 0 }
    match regionOf pa with
    | .weight _ => s1.peerReply k (.failed .wswrite m.req.va 0)
    | _ => s1.depart (if m.req.op = .tagWrite then r else { r with op := if e.ct = 3 then .wsWrite else .write })
  | (c, s1) => s1.peerReply k (.failed (checkedCause c) m.req.va 0)

/-- PEER_WRITE_REQUEST: a partial write; one that has a tag is applied with its tag message, in whose slot it comes (R387). -/
def State.peerWrite (s : State) (m : PeerMsg) : State := if m.withTag then s else s.peerWriteNow m

/-- The take and put operations (R172). -/
def takesWord (op : HomeOp) : Bool :=
  match op with
  | .take | .trytake | .waitw | .put | .putx => true
  | _ => false

/-- PEER_ATOMIC_REQUEST (R27, R386, R369): performed at the home here, which answers. -/
def State.peerAtomic (s : State) (m : PeerMsg) : State :=
  let (k, s0) := s.peerTake m
  match s0.peerTranslate m .atomic with
  | (.ok pa e, s1) =>
    let r := { peerReq m k pa e with pid := if m.req.op = .red then 0 else 1 }
    let bad : Option Cause :=
      match regionOf pa with
      | .weight _ => some (if m.req.op = .amo ∨ m.req.op = .red then .wswrite else .typefault)
      | .host => some .typefault
      | _ =>
        if m.req.op = .amo ∨ m.req.op = .red then (if e.ct = 3 then some .typefault else none)
        else if e.ct ≠ 2 ∨ (takesWord m.req.op ∧ e.fe = false) then some .typefault
        else none
    match bad with
    | some c => s1.peerReply k (.failed c m.req.va 0)
    | none => s1.depart r
  | (c, s1) => s1.peerReply k (.failed (checkedCause c) m.req.va 0)

/-- PEER_FENCE_MARKER (R27, R178): a peer's marker is acknowledged once its earlier requests here have been performed. Its message names no owner:
its units are owner 0's (log 18). -/
def State.peerMarker (s : State) (dev port : Nat) : State :=
  if s.peerIn.any fun e => e.2.dev == dev && e.2.port == port then s.postLater [.peerFenceMarker dev port]
  else
    let r : Req := { op := .wb, ctx := 0, core := 0, owner := 0, pa := 0, va := 0, ct := .rc }
    { (s.peerUnits port 1 0 1 []).peerUnits port 0 0 1 [] with peerSent := s.peerSent ++ [(⟨dev, port, 0, r, false, true⟩, .word 0)] }

/-- A marker on its way to a peer (R27): a message of the device's own, kept with the requests in flight. -/
def markerMsg (n rel dev port owner : Nat) : PeerMsg :=
  ⟨dev, port, 0, { op := .wb, ctx := n, core := coreOf n, owner := owner, pa := 0, va := 0, ct := .rc, pid := rel }, false, false⟩

/-- PEER_MARKER_ACK (R178, R179): the context's oldest marker down that port is acknowledged, once a slot has carried the message (R29). -/
def State.peerMarkerAcked (s : State) (n port : Nat) : State :=
  match s.peerOut.find? fun e => e.ctx == n && e.msg.port == port && e.msg.req.op == .wb with
  | some e => ({ s with peerOut := dropFirst (fun x => x == e) s.peerOut } : State).peerUnits port 1 e.msg.req.owner 1 [.markerAck n e.msg.req.pid]
  | none => s

/-- A request in flight on a port that is fenced ends (R32): a marker with a report and its acknowledgement no longer awaited. -/
def State.peerLost (s : State) (m : PeerMsg) : State :=
  if m.req.op = .wb then
    let s1 : State := { s with peerOut := dropFirst (fun e => e.msg == m) s.peerOut }
    ((s1.modCtx m.req.ctx fun c => { c with unacked := c.unacked + 1 }).remoteReport m.req.ctx m.dev Cause.remote.code 0 0).markerAcked m.req.ctx m.req.pid
  else s.peerAnswer m (.failed .remote m.req.va 0)

/-- A fence marker at the end of its path (R178): on the device at the slice or the link; toward a peer it leaves by its port, and the
peer acknowledges it; on a port that is fenced it ends (R32, log 73). A marker to the device itself is acknowledged when nothing of the context is
on its way there. -/
def State.marker (s : State) (n rel path : Nat) : State :=
  if path < 1024 then s.markerArrive n rel path
  else
    let dev := (path - 1024) / 64
    let port := (path - 1024) % 64
    if dev = s.deviceIndex.toNat then
      (if s.peerOut.any fun e => e.ctx == n && e.msg.dev == dev then s.postLater [.fenceMarker n rel path]
       else s.post [.markerAck n rel])
    else
      let m := markerMsg n rel dev port (s.ctx n).owner
      let s1 : State := { s with peerOut := s.peerOut ++ [⟨n, m⟩] }
      if s.link (4 + port) = .fenced then s1.peerLost m else s1.peerUnits port 0 m.req.owner 1 []

/-- A peer port fenced (R32): it leaves every list, and each request in flight on it fails with REMOTE. -/
def State.fencePort (s : State) (p : Nat) : State :=
  let s1 : State := { s with peermap := s.peermap.map fun e => (e.1, if e.1 < 4096 then e.2 else e.2.filter fun q => q != p) }
  (s1.peerOut.filter fun e => e.msg.port == p).foldl (fun s e => s.peerLost e.msg) s1

/-- REMOTE_FAULT_REPORT (R29, R220): the message crosses the port of the operation that it ends. -/
def State.reportArrive (s : State) (n dev : Nat) (cause : BitVec 8) (op pva : Nat) : State :=
  let hit (e : PeerOut) : Bool := e.ctx == n && e.msg.dev == dev && peerOpCode e.msg.req.op == op && e.msg.req.pa == pva
  let s1 := match s.peerOut.find? hit with
    | some e => ({ s with peerOut := dropFirst (fun x => x == e) s.peerOut } : State).peerUnits e.msg.port 1 e.msg.req.owner 1 []
    | none => s
  s1.remoteReport n dev cause op pva

end Sys2Proof.Machine
end

