-- ==== Sys2Proof/Machine/HomeEvents.lean ====
section
/-!
DEFINITION. The steps of homes, caches, walkers and peers, and storage errors (R25, R27, R139 to R158, R166 to R186, R298,
R306, R369 to R372, R384 to R387): one definition for each step.
-/

namespace Sys2Proof.Machine

/-- RDS, RDX, UPG and WB at the home (R184, R186), once the block's line has its data (R385). An RDS step serves every read, and a WB step every
write of a block's bytes (R27, R131, R163); one that was counted may complete a release (R178). -/
def execHomeRds (r : Req) (s : State) : Host.Outcome State Fault Refusal :=
  .next (s.homeOp r fun s => if r.op = .rds ∨ r.op = .winFill then s.rdsHome r else s.readHome r)
def execHomeRdx (r : Req) (s : State) : Host.Outcome State Fault Refusal := .next (s.homeOp r fun s => s.rdxHome r)
def execHomeUpg (r : Req) (s : State) : Host.Outcome State Fault Refusal := .next (s.homeOp r fun s => s.upgHome r)
def execHomeWb (r : Req) (s : State) : Host.Outcome State Fault Refusal :=
  .next (s.homeOp r fun s =>
    let s1 := if r.op = .write then (s.writeOp r).checkBlock r.pa else s.wbHome r
    if r.pid = 0 ∨ remoteBase ≤ r.ctx then s1 else s1.releaseCheck r.ctx 8)

/-- Answers to snoops at the home (R184, R186, R372). -/
def execHomeInvAck (block core : Nat) (s : State) : Host.Outcome State Fault Refusal := .next (s.invAck block core)
def execHomeFwdDone (block core : Nat) (clean : Bool) (s : State) : Host.Outcome State Fault Refusal := .next (s.fwdDone block core clean)
def execHomeAckMiss (block core : Nat) (s : State) : Host.Outcome State Fault Refusal := .next (s.ackMiss block core)
def execHomeAckStale (block core : Nat) (s : State) : Host.Outcome State Fault Refusal := .next (s.ackStale block core)

/-- Messages to an L1 (R371); stores that they let perform may complete releases (R178). -/
def execL1Data (core block : Nat) (grant : Grant) (data : Block) (tag : Tag) (s : State) : Host.Outcome State Fault Refusal :=
  .next ((s.dataArrive core block grant data tag).releaseCore core)
def execL1Grant (core block : Nat) (s : State) : Host.Outcome State Fault Refusal := .next ((s.grantArrive core block).releaseCore core)
def execL1Inv (core block : Nat) (s : State) : Host.Outcome State Fault Refusal := .next (s.invArrive core block)
def execL1FwdS (core block req : Nat) (s : State) : Host.Outcome State Fault Refusal := .next (s.fwdSArrive core block req)
def execL1FwdX (core block req : Nat) (s : State) : Host.Outcome State Fault Refusal := .next (s.fwdXArrive core block req)
def execL1WbAck (core block : Nat) (s : State) : Host.Outcome State Fault Refusal := .next ((s.wbAckArrive core block).releaseCore core)

/-- Merges (R149, R150). A block whose merge found W set becomes INVALID. -/
def execHomeMerge (r : Req) (s : State) : Host.Outcome State Fault Refusal := .next (s.homeOp r fun s => s.mergeHome r)
def State.dropWonce (s : State) (core : Nat) (va : Word) : State :=
  let act (w : Window) : Window :=
    if w.va ≤ va.toNat ∧ va.toNat < w.va + 64 * w.nblk then { w with blocks := tdel w.blocks ((va.toNat - w.va) / 64) } else w
  s.modCore core fun k => { k with windows := k.windows.map fun e => (e.1, act e.2) }
def execMergeAck (ctx core _block : Nat) (wonce : Bool) (va : Word) (s : State) : Host.Outcome State Fault Refusal :=
  .next (((if wonce ∧ ctx < remoteBase then s.dropWonce core va else s).mergeAcked ctx wonce va).releaseCore core)

/-- A window block filled (R148, R151). -/
def execWindowFill (core w b : Nat) (data : Block) (tag : Tag) (s : State) : Host.Outcome State Fault Refusal :=
  .next (s.fillWindow core w b data tag)

/-- Operations performed at the home (R170 to R174, R312, R313, R316, R317, R369). -/
def execHomeAmo (r : Req) (s : State) : Host.Outcome State Fault Refusal := .next (s.homeOp r fun s => s.amoHome r)
def execHomeRed (r : Req) (s : State) : Host.Outcome State Fault Refusal := .next (s.homeOp r fun s => s.amoHome { r with op := .red })
def execHomeTake (r : Req) (s : State) : Host.Outcome State Fault Refusal := .next (s.homeOp r fun s => s.takeHome r)
def execHomeTrytake (r : Req) (s : State) : Host.Outcome State Fault Refusal := .next (s.homeOp r fun s => s.takeHome { r with op := .trytake })
def execHomeWaitw (r : Req) (s : State) : Host.Outcome State Fault Refusal := .next (s.homeOp r fun s => s.takeHome { r with op := .waitw })
def execHomePut (r : Req) (s : State) : Host.Outcome State Fault Refusal := .next (s.homeOp r fun s => s.putHome r)
def execHomePutx (r : Req) (s : State) : Host.Outcome State Fault Refusal := .next (s.homeOp r fun s => s.putHome { r with op := .putx })
def execHomeJcinit (r : Req) (s : State) : Host.Outcome State Fault Refusal := .next (s.homeOp r fun s => s.initHome r)
def execHomeBarinit (r : Req) (s : State) : Host.Outcome State Fault Refusal := .next (s.homeOp r fun s => s.initHome { r with op := .barinit })
def execHomeJcdec (r : Req) (s : State) : Host.Outcome State Fault Refusal := .next (s.homeOp r fun s => s.jcdecHome r)
def execHomeJcwait (r : Req) (s : State) : Host.Outcome State Fault Refusal := .next (s.homeOp r fun s => s.jcwaitHome r)
def execHomeBararr (r : Req) (s : State) : Host.Outcome State Fault Refusal := .next (s.homeOp r fun s => s.bararrHome r)
def execHomeBarwait (r : Req) (s : State) : Host.Outcome State Fault Refusal := .next (s.homeOp r fun s => s.barwaitHome r)

/-- WS blocks and tags at the home (R166, R306). -/
def execHomeWsWrite (r : Req) (s : State) : Host.Outcome State Fault Refusal := .next (s.homeOp r fun s => s.wsWriteHome r)
def execHomeWsLoad (r : Req) (s : State) : Host.Outcome State Fault Refusal := .next (s.homeOp r fun s => s.wsLoadHome r)
def execHomeTagWrite (r : Req) (s : State) : Host.Outcome State Fault Refusal := .next (s.homeOp r fun s => s.tagWriteHome r)

/-- A withdrawal (R207, R368) and the Bench's retry (R119). -/
def execHomeWithdraw (ctx pid : Nat) (s : State) : Host.Outcome State Fault Refusal := .next (s.withdraw ctx pid)
def execBenchBackoffRetry (r : Req) (s : State) : Host.Outcome State Fault Refusal := .next (s.benchRetry r)

/-- Fence markers (R178). -/
def execFenceMarker (ctx rel path : Nat) (s : State) : Host.Outcome State Fault Refusal := .next (s.marker ctx rel path)
def execMarkerAck (ctx rel : Nat) (s : State) : Host.Outcome State Fault Refusal := .next (s.markerAcked ctx rel)

/-- A producer's result (R269). -/
def execProducerArrive (ctx pid : Nat) (v : Arrival) (s : State) : Host.Outcome State Fault Refusal := .next (s.arrive ctx pid v)

/-- Walks, replies, invalidations and migrations (R139, R140, R144, R156). -/
def execPageWalkRead (cl wid : Nat) (s : State) : Host.Outcome State Fault Refusal := .next (s.walkRead cl wid)
def execFaultReply (o k : Nat) (s : State) : Host.Outcome State Fault Refusal := .next (s.takeReply o k)
def execInvalidationArrive (core : Nat) (inv : Inval) (s : State) : Host.Outcome State Fault Refusal := .next (s.invalidateTlb core inv)
def execPageMigrationDone (key : PageKey) (s : State) : Host.Outcome State Fault Refusal := .next (s.migrationDone key)
def execHostPageRequest (key : PageKey) (s : State) : Host.Outcome State Fault Refusal := .next (s.hostRequest key)
def execMigrationHoldExpire (key : PageKey) (s : State) : Host.Outcome State Fault Refusal := .next (s.holdExpire key)

/-- Peers (R27, R29, R32, R178, R220 to R222, R386, R387): a message acts once a slot of its port has carried it. -/
def execPeerReadRequest (m : PeerMsg) (s : State) : Host.Outcome State Fault Refusal := .next (s.portArrive m 1 .peerReadRequest fun s => s.peerRead m)
def execPeerWriteRequest (m : PeerMsg) (s : State) : Host.Outcome State Fault Refusal :=
  .next (if m.withTag then s.peerWrite m else s.portArrive m 1 .peerWriteRequest fun s => s.peerWrite m)
def execPeerAtomicRequest (m : PeerMsg) (s : State) : Host.Outcome State Fault Refusal := .next (s.portArrive m 1 .peerAtomicRequest fun s => s.peerAtomic m)
def execPeerTagMessage (m : PeerMsg) (s : State) : Host.Outcome State Fault Refusal := .next (s.portArrive m 2 .peerTagMessage fun s => s.peerWriteNow m)
def execPeerFenceMarker (dev port : Nat) (s : State) : Host.Outcome State Fault Refusal := .next (s.peerMarker dev port)
def execPeerMarkerAck (ctx port : Nat) (s : State) : Host.Outcome State Fault Refusal := .next (s.peerMarkerAcked ctx port)
def execPeerResponse (m : PeerMsg) (v : Arrival) (s : State) : Host.Outcome State Fault Refusal := .next (s.peerResponse m v)
def execRemoteFaultReport (ctx dev : Nat) (cause : BitVec 8) (op : BitVec 3) (pva : BitVec 47) (s : State) :
    Host.Outcome State Fault Refusal :=
  .next (s.reportArrive ctx dev cause op.toNat pva.toNat)

/-- The error counter of a unit (R158): cores first, then slices, then clusters. -/
def unitOf (e : Storage) : Nat :=
  match e with
  | .l1 c _ | .icache c _ | .tlb c | .localStore c _ | .windowBits c .. => c
  | .sliceLine c .. => 2048 + c
  | .tlb2 cl | .engineBuffer cl _ => 4096 + cl
def State.countError (s : State) (u : Nat) : State :=
  { s with unitErrors := tset s.unitErrors u ((tget s.unitErrors u).getD 0 + 1) }

/-- One more way of a set fenced. -/
def fenceWay (t : Tbl Nat) (set : Nat) : Tbl Nat := tset t set ((tget t set).getD 0 + 1)

/-- A line that holds the only copy of its data (R183). -/
def lineDirty (l : L1Line) : Bool :=
  match l.st with
  | .m | .o | .miA => true
  | .pv => l.dirty
  | _ => false

/-- An L1 line whose dirty data is lost (R158, R159): the frame is poisoned, the home no longer expects the data, and the
accesses that wait for it take MEMERR. -/
def State.loseLine (s : State) (core b : Nat) : State :=
  let s1 := (s.poison (64 * b)).failLine core b .memerr
  let d := s1.dirOf b
  if d.owner = core ∧ (d.st = .exc ∨ d.st = .own) then s1.setDir b { d with st := if d.sharers.isEmpty then .unc else .shd, owner := 0 }
  else s1

/-- The dirty words of a window block are lost (R158): its frame is poisoned. -/
def State.loseWindow (s : State) (core : Nat) (win : Window) (k : Nat) : State :=
  match (tget win.blocks k).map (·.d), s.checkNow core win.owner win.space win.level (w64 (win.va + 64 * k)) .read with
  | some d, (.ok pa _, s2) => if d = 0 then s2 else s2.poison pa
  | _, (_, s2) => s2

/-- An error in on-chip storage (R157, R158): one that the second reading mends is counted, and one that it does not is lasting. An engine's buffers
hold nothing but blocks that it fetches again. -/
def State.storageErr (s : State) (e : Storage) (err : ReadError) : State :=
  match err with
  | .good => s
  | err =>
    let lasting := decide (err = .failed)
    let s := if lasting then s else s.countError (unitOf e)
    match e with
    | .l1 core b =>
      match s.l1 core b with
      | none => s
      | some l =>
        let s1 := if lineDirty l then (if lasting then s.loseLine core b else s)
          else (match l.st with
            | .e | .s | .ro | .pv => s.dropL1 core b
            | _ => s)
        if lasting then s1.modCore core fun k => { k with l1Fenced := fenceWay k.l1Fenced (l1Set b) } else s1
    | .icache core line =>
      s.modCore core fun k => { k with
        icache := tdel k.icache line, iFenced := if lasting then fenceWay k.iFenced (line % 256) else k.iFenced }
    | .sliceLine c set way =>
      let line := (s.slice c).lines.find? fun l => l.set = set ∧ l.way = way
      let dirty := (line.map (·.dirty)).getD false
      let s1 := if lasting && dirty then (match line with
        | some l => s.poison (64 * l.block)
        | none => s) else s
      if lasting || !dirty then
        s1.modSlice c fun sl => { sl with
          lines := sl.lines.filter fun l => !decide (l.set = set ∧ l.way = way)
          fenced := if lasting then sl.fenced ++ [(set, way)] else sl.fenced }
      else s1
    | .tlb core => s.modCore core fun k => { k with tlb := [] }
    | .tlb2 cl => s.modCluster cl fun k => { k with l2tlb := [] }
    | .engineBuffer .. => s
    | .localStore core b =>
      if lasting = false then s
      else
        let s1 := s.modCore core fun k => { k with dead := addNew k.dead b }
        match (s.core core).windowAt (64 * b) with
        | some (w, k) => match tget (s.core core).windows w with
          | some win => s1.loseWindow core win k
          | none => s1
        | none => s1
    | .windowBits core w k =>
      match tget (s.core core).windows w with
      | none => s
      | some win =>
        if lasting = false then s
        else (s.modCore core fun c => { c with windows := tset c.windows w { win with blocks := tdel win.blocks k } }).loseWindow core win k
def execStorageError (e : Storage) (err : ReadError) (s : State) : Host.Outcome State Fault Refusal := .next (s.storageErr e err)

end Sys2Proof.Machine
end

