-- ==== Sys2Proof/Machine/MemOps.lean ====
section
/-!
DEFINITION. Loads and stores (R297 to R302): shared operations over the target of an access, and the instructions.
-/

namespace Sys2Proof.Machine

/-- A request of the current context for a physical address. -/
def mkReq (op : HomeOp) (ct : PageType) (pa : Nat) (va : Word) (size : Nat) : Ex Req := do
  let s ← get
  let c ← me
  pure { op := op, ctx := s.cur, core := coreOf s.cur, owner := c.owner, pa := pa, va := va, ct := ct, size := size }

/-- Something of a context that writes a block is held for a release (R301, R312). -/
def State.heldBlock (s : State) (n pa : Nat) : Bool :=
  (s.ctx n).releases.any fun r => match r.hold with
    | some q => q.op != .winFill && q.pa / 64 == pa / 64
    | none => false

/-- Something of a context that writes a block is still held or on its way (R181): a later access of it waits. -/
def State.sameBlock (s : State) (n pa : Nat) : Bool :=
  let writes (r : Req) : Bool := r.ctx == n && r.pa / 64 == pa / 64 && (opWrites r.op || r.op == .waitw) && r.op != .rdx && r.op != .upg
  s.heldBlock n pa || s.requests.any writes

/-- A context's merged writes to a WS block leave for the home ahead of its own later access to the block (R166, R181). -/
def State.flushWs (s : State) (n pa : Nat) : State :=
  let l := (s.ctx n).ws.filter fun r => r.pa / 64 == pa / 64
  if l.isEmpty then s
  else
    let s1 := s.modCtx n fun c => { c with ws := c.ws.filter (fun r => r.pa / 64 != pa / 64), unacked := c.unacked + l.length }
    l.foldl (fun s r => s.send r) s1

/-- An access to a block waits for the context's own earlier writes to it (R181). -/
def ordered (pa : Nat) : Ex Unit := do
  modify fun (s : State) => s.flushWs s.cur pa
  let s ← get
  if s.sameBlock s.cur pa then blockOn .release else pure ()

/-- A request for an access to an RC or SC page, one through a window apart (R165, R167). -/
def ordersSc (r : Req) : Bool :=
  (r.ct == .rc || r.ct == .sc) && r.op != .winFill && r.op != .ifetch && r.op != .touch && !(r.op == .merge && r.keep)

/-- An access of the current context to a page of a type follows its earlier SC accesses; and one to an SC page its earlier accesses to RC and SC
pages: it waits until their values are fixed and their stores performed (R165). -/
def scWait (ct : PageType) : Ex Unit := do
  typeGate ct
  if ct = .sc then
    let s ← get
    if s.scStores s.cur || (s.requests.any fun r => r.ctx == s.cur && ordersSc r)
        || (s.ctx s.cur).producers.any (fun p => (p.home.map ordersSc).getD false) then
      blockOn ((s.ctx s.cur).behind fun p => (p.home.map ordersSc).getD false)
    else pure ()
  else pure ()

/-- After an SC store, later accesses to RC and SC pages wait until it is performed (R165). -/
def scGate (ct : PageType) : Ex Unit := do
  if ct = .sc then modify fun (s : State) => s.followStore s.cur true
  else pure ()

/-- The page type of a peer address, where the page is this device's own (R132, R165). At another device the page's type is that device's state: the
access acts there as its home says, and orders here as on an RC page (log 65). -/
def State.peerPage (s : State) (dev pva : Nat) : PageType :=
  let c := s.ctx s.cur
  if dev = s.deviceIndex.toNat then
    match (s.checkNow (coreOf s.cur) c.owner c.space .u (w64 pva) .read).1 with
    | .ok _ e => PageType.ofCt e.ct
    | _ => .rc
  else .rc

/-- An access to a peer that an SC page homes there orders at dom (R165): it also follows the context's posted stores to peers. -/
def peerScWait (ct : PageType) : Ex Unit := do
  scWait ct
  let s ← get
  if ct = .sc ∧ s.peerPosted s.cur none then blockOn .release else pure ()

/-- Producers of a context that wait at a home (R207). -/
def homeWaiting (c : Ctx) : Nat := c.producers.countP fun p => match p.home with
  | some r => (match r.op with
    | .take | .waitw | .wsLoad => true
    | _ => false)
  | none => false

/-- A 17th producer that waits at a home does not issue (R207). -/
def homeLimit : Ex Unit := do
  let c ← me
  if 16 ≤ homeWaiting c then blockOn .homeProducers else pure ()

/-- Translation of a window block for a fill or a write-back (R147, R150, R154, R155): an SC page raises TYPEFAULT, and a fault's message
says WIN and names the window's SPACE (R143). -/
def windowPage (w : Window) (k : Nat) (va : Word) (acc : Acc) : Ex (Nat × TlbEntry) := do
  let s ← get
  let vva := w64 (w.va + 64 * k)
  let o := tableOwner w.owner w.level
  let (r, s1) := s.checkNow (coreOf s.cur) w.owner w.space w.level vva acc
  set s1
  match r with
  | .ok pa e => do
    if e.ct = 2 then trap .typefault va 2
    let _ ← pageType pa e va
    pure (pa, e)
  | .stage1 kd l => stage1Fault o w.space kd l vva acc 64 true
  | .stage2 ipa l kd => stage2Stop o w.space kd ipa l vva acc 64 true
  | .cause c i => trap c vva i

/-- A long-latency memory operation of the current context begins (R269). An acquire (own) holds back later memory instructions (R301), and an
access to an SC page (sc) those to RC and SC pages (R165); the latter alone does not act on windows (R167). -/
def State.beganLoad (s : State) (d : Dest) (r : Req) (own sc : Bool) : State :=
  let s1 := s.began d (some r) (own || sc)
  if own || sc then s1.modCtx s1.cur fun c => { c with
    producers := mapIf (fun p : Producer => p.pid == s.nextId) (fun p => { p with windows := own }) c.producers }
  else s1

/-- The sources are popped first, and the context goes on. -/
def beginLoad (dst : Dest) (r : Req) (own sc : Bool) (fin : Ex Unit) : Ex Nat := do
  fin
  let s ← get
  set (s.beganLoad dst r own sc)
  advance
  pure s.nextId

/-- The block of a core's local store (R133, R299). -/
def State.lsBlock (s : State) (core off : Nat) : Block × Tag :=
  (BitVec.ofNat 512 (readN (s.core core).ls (off / 64 * 64) 64), (tget (s.core core).lsTag (off / 64)).getD 0)

/-- The words of a window block that an access touches. -/
def touched (off size : Nat) : BitVec 8 :=
  if size = 64 then 0xFF else BitVec.ofNat 8 ((2 ^ ((size + 7) / 8) - 1) * 2 ^ (off % 64 / 8))

/-- The state of a window block (R148). -/
def State.winBlock (s : State) (core w k : Nat) : WinBlock :=
  match tget (s.core core).windows w with
  | some win => (tget win.blocks k).getD ⟨false, 0⟩
  | none => ⟨false, 0⟩

/-- A load of a block or of part of one (R299, R300, R302). The flags say whether it is sign-extended, a whole vector, not to be
allocated in the L1, and an acquire. -/
def loadTo (dst : Dest) (va : Word) (size : Nat) (signed vec nt acq : Bool) (fin : Ex Unit) : Ex Unit := do
  gate
  let t ← resolve va size size .read
  match t with
  | .mem pa e =>
    let ct ← pageType pa e va
    scWait ct
    ordered pa
    let sc := ct == .sc
    let r0 ← mkReq (if ct = .ws then .wsLoad else .rds) ct pa va size
    let r := { r0 with typed := signed, keep := vec }
    let s ← get
    let core := coreOf s.cur
    let line := s.l1 core (pa / 64)
    match ct, line with
    | .ws, some l => do
      let pid ← beginLoad dst r acq sc fin
      arriveLater pid (loadValue l.data l.tag pa size signed vec)
    | .ws, none => do
      homeLimit
      let pid ← beginLoad dst r acq sc fin
      modify fun (s : State) => s.send { r with pid := pid }
    | _, line => do
      let pid ← beginLoad dst r acq sc fin
      if nt && line.isNone then modify fun (s : State) => s.send { r with op := .read, pid := pid }
      else
        modify fun (s : State) => s.l1Access { r with pid := pid }
          { store := false, ctx := s.cur, pid := pid, pa := pa, size := size, signed := signed, vec := vec, mask := 0, data := 0, tag := 0, typed := false }
  | .store core off =>
    let r ← mkReq .rds .pv 0 va size
    let s ← get
    let (d, tg) := s.lsBlock core off
    let pid ← beginLoad dst r acq false fin
    arriveLater pid (loadValue d tg off size signed vec)
  | .win core w k off =>
    let s ← get
    let b := s.winBlock core w k
    let need := touched off size
    if b.v || b.d &&& need == need then
      let r ← mkReq .rds .pv 0 va size
      let (d, tg) := s.lsBlock core off
      let pid ← beginLoad dst r acq false fin
      arriveLater pid (loadValue d tg off size signed vec)
    else
      match tget (s.core core).windows w with
      | none => pure ()
      | some win => do
        let (pa, e) ← windowPage win k va .read
        let ct := PageType.ofCt e.ct
        if ct = .ws then homeLimit
        let r0 ← mkReq .winFill ct (pa + off % 64) va size
        let r := { r0 with core := core, c := w64 w, x := w64 k, typed := signed, keep := vec }
        let pid ← beginLoad dst r acq false fin
        modify fun (s : State) => s.send { r with pid := pid }
  | .peer dev pva =>
    let ct := (← get).peerPage dev pva
    peerScWait ct
    let r0 ← mkReq .rds ct pva va size
    let r := { r0 with typed := signed, keep := vec }
    let pid ← beginLoad dst r acq (ct == .sc) fin
    modify fun (s : State) => s.peerAsk { r with pid := pid } dev

/-- What a store writes: its bytes placed in a block, their mask, and the tag of a typed store. -/
structure Stored where
  data : Block
  mask : BitVec 64
  tag : Option Tag
  deriving DecidableEq, Repr

/-- The ways a store may end up in the caches (R302). -/
inductive StoreKind where
  | plain | nt | keep
  deriving DecidableEq, Repr

/-- The bytes of a store of n bytes at an address. -/
def storedBytes (va : Word) (n : Nat) (v : Word) : Stored :=
  ⟨placeBytes (va.toNat % 64) (v.toNat % 2 ^ (8 * n)), rangeMask (va.toNat % 64) n, none⟩

/-- The dirty words of a window block on their way to their home (R149); the block is CLEAN or INVALID (R148). A block of local store that is lost
has no words to merge: its frame is poisoned, and the context takes an imprecise MEMERR (R158, R219). -/
def State.sendMerge (s : State) (core wi k : Nat) (b : WinBlock) (off : Nat) (r : Req) : State :=
  let s1 := s.modCore core fun c => { c with windows := match tget c.windows wi with
    | some x => tset c.windows wi { x with blocks := if b.v then tset x.blocks k ⟨true, 0⟩ else tdel x.blocks k }
    | none => c.windows }
  if s.deadBlock core off then
    (s1.poison r.pa).modCtx r.ctx fun c => { c with async := { c.async with memerr := some r.va, physical := false } }
  else
    (s1.modCtx r.ctx fun c => { c with unacked := c.unacked + 1 }).send
      { r with core := core, data := (s.lsBlock core off).1, mask := wordMask b.d 8, keep := true }

/-- The dirty words of a window's blocks are merged (R148), those of PV pages by WFLUSH and WUNMAP only. Blocks whose
translation faults hold the instruction back. -/
def flushBlocks (core wi : Nat) (w : Window) (pv : Bool) : List (Nat × WinBlock) → Ex Unit
  | [] => pure ()
  | (k, b) :: rest => do
    if b.d ≠ 0 then
      let va := w64 (w.va + 64 * k)
      let (pa, e) ← windowPage w k va .write
      let ct := PageType.ofCt e.ct
      if ct ≠ .pv ∨ pv then
        match regionOf pa with
        | .weight _ => trap .wswrite va 0
        | _ => pure ()
        let r ← mkReq .merge ct pa va 64
        modify fun (s : State) => s.sendMerge core wi k b (64 * (w.lblk + k)) r
    flushBlocks core wi w pv rest

/-- Windows of the core flushed (R148). -/
def flushWindows (ws : Tbl Window) : Ex Unit :=
  match ws with
  | [] => pure ()
  | (i, w) :: rest => do
    let s ← get
    flushBlocks (coreOf s.cur) i w false w.blocks
    flushWindows rest

/-- A failure that is owed at a release, FENCE or END is taken precisely at it (R150, R298). -/
def takeOwed : Ex Unit := do
  let c ← me
  match c.owed with
  | some p =>
    modMe fun c => { c with owed := none }
    trap p.cause p.val p.info
  | none => pure ()

/-- The window side of a release (R148, R150): dirty words are merged; the write of a WS window block is waited for, and its
WONCE is taken precisely at the release. -/
def releaseWindows (scope : BitVec 3) : Ex Unit := do
  if scope ≠ 0 then
    let s ← get
    flushWindows (s.core (coreOf s.cur)).windows
    let s ← get
    if s.windowMerging (coreOf s.cur) true then blockOn .release
    takeOwed

/-- A release of the current context at a scope (R178), with the operation that is held for it. -/
def release (scope : BitVec 3) (gated : Bool) (hold : Option Req) : Ex Unit := do
  releaseWindows scope
  modify fun (s : State) => s.startRelease s.cur scope gated hold

/-- A block of a WS page that another context has written, or whose write is on its way, takes no further store (R166): the first write of a block
sets W. -/
def State.writtenOnce (s : State) (n pa : Nat) : Bool :=
  let mine (r : Req) : Bool := r.pa / 64 == pa / 64
  (s.tagAt (pa / 64)).getLsbD 7 || (s.ctxs.any fun e => e.1 != n && e.2.ws.any mine) || s.requests.any fun r => r.op == .wsWrite && mine r

/-- A window fill that its instruction waits for is asked for once (R148). -/
def State.askFill (s : State) (r : Req) : State :=
  let same (q : Req) : Bool := q.op == .winFill && q.ctx == r.ctx && q.pid == 0 && q.pa / 64 == r.pa / 64
  if s.requests.any same || ((s.slice (channelOf r.pa)).bench.any fun b => same b.req) || s.backoffs.any (fun e => same e.2) then s else s.send r

/-- VST.KEEP writes a line through to its home (R302): the line that it needs first, with the right to write it, and a clean copy that stays. -/
def State.keepReady (s : State) (core pa : Nat) : Bool :=
  match s.l1 core (pa / 64) with
  | some l => (l.st == .m || l.st == .e || l.st == .pv) && l.wait.isEmpty
  | none => false
def State.keepAsk (s : State) (core : Nat) (r : Req) : State :=
  let b := r.pa / 64
  match s.l1 core b with
  | none =>
    let own := privateLine r.pa r.ct
    ((s.makeRoom core b).setL1 core b (newLine (if own then .isD else .imD) r.owner r.ct [])).send (if own then { r with op := .rds } else r)
  | some l => if l.st = .s ∨ l.st = .o then (s.setL1 core b { l with st := .smG }).send { r with op := .upg } else s
def State.keepWrite (s : State) (n core b : Nat) : State :=
  match s.l1 core b with
  | some l =>
    let counted := s.modCtx n fun c => { c with unacked := c.unacked + 1 }
    if l.st = .m then counted.writeBack n core b l true true
    else if l.st = .pv then (counted.pvWrite n core b l true).setL1 core b { l with dirty := false }
    else s
  | none => s

/-- After a store to an SC page of a peer, later accesses to RC and SC pages wait until the peer has performed it (R165). -/
def State.followPeer (s : State) (n : Nat) : State :=
  if s.peerPosted n none then
    let (id, s1) := s.newId
    s1.modCtx n fun c => { c with releases := c.releases ++ [⟨id, [], 0, false, true, true, none, none⟩] }
  else s

/-- A store (R299, R300, R302). A VST.NT to a block of a PV page takes the place of the line that its L1 holds, whose changed tag goes with it. rel is the scope of a releasing store; its value is performed only once the release completes
(R301). -/
def storeTo (va : Word) (size : Nat) (st : Stored) (kind : StoreKind) (rel : Option (BitVec 3)) (fin : Ex Unit) : Ex Unit := do
  gate
  if rel.isSome then takeOwed
  let t ← resolve va size size .write
  let typed := st.tag.isSome
  let tag := st.tag.getD 0
  match t with
  | .mem pa e =>
    match regionOf pa with
    | .weight _ => trap .wswrite va 0
    | _ => pure ()
    let ct ← pageType pa e va
    scWait ct
    let s ← get
    let core := coreOf s.cur
    match ct with
    | .ws =>
      if s.heldBlock s.cur pa then blockOn .release
      if s.writtenOnce s.cur pa then trap .wonce (w64 (va.toNat / 64 * 64)) 0
      let r0 ← mkReq .wsWrite ct (pa / 64 * 64) (w64 (va.toNat / 64 * 64)) 64
      let r := { r0 with data := st.data, mask := st.mask, typed := typed, tag := tag }
      match rel with
      | some sc => release sc false (some r)
      | none => modMe fun c => { c with ws := mergeWs c.ws r }
      fin
      advance
    | ct =>
      ordered pa
      let r0 ← mkReq .rdx ct pa va size
      let r := { r0 with data := st.data, mask := st.mask, typed := typed, tag := tag }
      match rel with
      | some sc => do
        release sc (ct == .sc) (some r)
        fin
        advance
      | none =>
        match kind with
        | .nt => do
          let own := if ct = .pv then s.l1 core (pa / 64) else none
          if own.any (fun l => l.st != .pv && l.st != .ro) then blockOn .release
          fin
          modify fun (s : State) =>
            let s1 := if ct = .pv then s.dropL1 core (pa / 64) else s
            (s1.modCtx s.cur fun c => { c with unacked := c.unacked + 1 }).send
              (match own with
              | some l => if l.dirty then { r with op := .merge, typed := true, tag := l.tag } else { r with op := .merge }
              | none => { r with op := .merge })
          advance
          scGate ct
        | k =>
          if k = .keep ∧ s.keepReady core pa = false then
            modify fun (s : State) => s.keepAsk core r
            blockOn .release
          fin
          modify fun (s : State) =>
            let w : Waiter := ⟨true, s.cur, 0, pa, size, false, false, st.mask, st.data, tag, typed⟩
            let s1 := s.l1Access r w
            if k = .keep then s1.keepWrite s.cur core (pa / 64) else s1
          advance
          scGate ct
  | .store core off =>
    let r0 ← mkReq .winFill .pv 0 va size
    let r := { r0 with core := core, c := w64 off, data := st.data, mask := st.mask, typed := typed, tag := tag }
    match rel with
    | some sc => release sc false (some r)
    | none => modify fun (s : State) => s.localWrite core off st.data st.mask st.tag
    fin
    advance
  | .win core w k off =>
    let s ← get
    let b := s.winBlock core w k
    match tget (s.core core).windows w with
    | none => pure ()
    | some win =>
      let ty := s.windowType core win k
      let lack := partWords st.mask &&& ~~~b.d
      if b.v = false ∧ lack ≠ 0 then
        if ty = some 3 then
          modify fun (s : State) => s.localWrite core off 0 (wordMask lack 8) none
        else
          let (pa, e) ← windowPage win k va .read
          let r0 ← mkReq .winFill (PageType.ofCt e.ct) pa va 64
          match (← me).marker blockMarker with
          | some p => do
            modMe fun c => { c with markers := tdel c.markers blockMarker, owed := some (c.owed.getD p) }
            fin
            advance
            stop
          | none => pure ()
          modify fun (s : State) => s.askFill { r0 with core := core, c := w64 w, x := w64 k }
          blockOn (.fill va)
      let r0 ← mkReq .winFill .pv 0 va size
      let r := { r0 with core := core, c := w64 off, data := st.data, mask := st.mask, typed := typed, tag := tag }
      match rel with
      | some sc => release sc false (some r)
      | none => modify fun (s : State) => s.localWrite core off st.data st.mask st.tag
      fin
      advance
  | .peer dev pva =>
    if dev = (← get).deviceIndex.toNat ∧ 2 ^ 47 - 65536 ≤ pva then trap .access va 0
    let ct := (← get).peerPage dev pva
    peerScWait ct
    let r0 ← mkReq .rdx ct pva va size
    let r := { r0 with data := st.data, mask := st.mask, typed := typed, tag := tag }
    match rel with
    | some 5 => modify fun (s : State) => s.startPeerRelease s.cur dev r
    | some sc => release sc false (some r)
    | none => modify fun (s : State) => s.performHeld r
    fin
    advance
    if ct = .sc then modify fun (s : State) => s.followPeer s.cur

/-- A load (R300). -/
def load (d : GReg) (b : Src) (imm : BitVec 21) (size : Nat) (signed : Bool) : Ex Unit := do
  needGroup .base
  let x ← pk1 (src b) [dst d]
  loadTo (.g d.toNat) (effAddr x imm) size signed false false false (pop [src b])

/-- A store (R300): A is read first, in mode 0. -/
def store (a : GReg) (b : Src) (imm : BitVec 21) (size : Nat) : Ex Unit := do
  needGroup .base
  let (v, x) ← pk2 (src0 a) (src b) []
  let va := effAddr x imm
  storeTo va size (storedBytes va size v) .plain none (pop [src0 a, src b])

/-- LD.B, LD.BU, LD.H, LD.HU, LD.W, LD.WU and LD.D (R300). -/
def execLdB (d : GReg) (b : Src) (imm : BitVec 21) (s : State) : Host.Outcome State Fault Refusal := runEx (load d b imm 1 true) s
def execLdBu (d : GReg) (b : Src) (imm : BitVec 21) (s : State) : Host.Outcome State Fault Refusal := runEx (load d b imm 1 false) s
def execLdH (d : GReg) (b : Src) (imm : BitVec 21) (s : State) : Host.Outcome State Fault Refusal := runEx (load d b imm 2 true) s
def execLdHu (d : GReg) (b : Src) (imm : BitVec 21) (s : State) : Host.Outcome State Fault Refusal := runEx (load d b imm 2 false) s
def execLdW (d : GReg) (b : Src) (imm : BitVec 21) (s : State) : Host.Outcome State Fault Refusal := runEx (load d b imm 4 true) s
def execLdWu (d : GReg) (b : Src) (imm : BitVec 21) (s : State) : Host.Outcome State Fault Refusal := runEx (load d b imm 4 false) s
def execLdD (d : GReg) (b : Src) (imm : BitVec 21) (s : State) : Host.Outcome State Fault Refusal := runEx (load d b imm 8 false) s

/-- ST.B, ST.H, ST.W and ST.D (R300). -/
def execStB (a : GReg) (b : Src) (imm : BitVec 21) (s : State) : Host.Outcome State Fault Refusal := runEx (store a b imm 1) s
def execStH (a : GReg) (b : Src) (imm : BitVec 21) (s : State) : Host.Outcome State Fault Refusal := runEx (store a b imm 2) s
def execStW (a : GReg) (b : Src) (imm : BitVec 21) (s : State) : Host.Outcome State Fault Refusal := runEx (store a b imm 4) s
def execStD (a : GReg) (b : Src) (imm : BitVec 21) (s : State) : Host.Outcome State Fault Refusal := runEx (store a b imm 8) s

/-- PEER is needed for the scopes peer and dom (R43). -/
def needScope (sc : BitVec 3) : Ex Unit := if sc = 5 ∨ sc = 6 then needGroup .peer else pure ()

/-- An acquire load follows the stores of the context's earlier STLs (R182): one still held, or on its way to its place. -/
def stlWait : Ex Unit := do
  let c ← me
  let store (r : Release) : Bool := match r.hold with
    | some q => q.op == .rdx || q.op == .winFill || q.op == .wsWrite
    | none => !r.gate || r.sc
  if c.releases.any store then blockOn .release else pure ()

/-- LDA (R301): an acquire at its scope; at ctx it orders only within the context. -/
def execLda (d : GReg) (b : Src) (scope : BitVec 3) (w : BitVec 2) (imm : BitVec 19) (s : State) : Host.Outcome State Fault Refusal :=
  runEx (do
    needGroup .base
    needScope scope
    let x ← pk1 (src b) [dst d]
    if scope ≠ 0 then stlWait
    loadTo (.g d.toNat) (effAddr x imm) (2 ^ w.toNat) false false false (scope != 0) (pop [src b])) s

/-- STL (R301): its store is held until the release completes. -/
def execStl (a : GReg) (b : Src) (scope : BitVec 3) (w : BitVec 2) (imm : BitVec 19) (s : State) : Host.Outcome State Fault Refusal :=
  runEx (do
    needGroup .base
    needScope scope
    let (v, x) ← pk2 (src0 a) (src b) []
    let va := effAddr x imm
    storeTo va (2 ^ w.toNat) (storedBytes va (2 ^ w.toNat) v) .plain (some scope) (pop [src0 a, src b])) s

/-- VLD and VLD.NT (R302): the block and its tag, read together. -/
def vload (v : VReg) (b : Src) (imm : BitVec 21) (nt : Bool) : Ex Unit := do
  needGroup .vec
  needVector
  let x ← pk1 (src b) [vdst v]
  loadTo (.v v.toNat) (effAddr x imm) 64 false true nt false (pop [src b])
def execVld (v : VReg) (b : Src) (imm : BitVec 21) (s : State) : Host.Outcome State Fault Refusal := runEx (vload v b imm false) s
def execVldNt (v : VReg) (b : Src) (imm : BitVec 21) (s : State) : Host.Outcome State Fault Refusal := runEx (vload v b imm true) s

/-- VST, VST.NT and VST.KEEP (R302): the block's tag is unchanged. -/
def vstore (v : VReg) (b : Src) (imm : BitVec 21) (k : StoreKind) : Ex Unit := do
  needGroup .vec
  needVector
  let (_, x) ← pk2 (vsrc0 v) (src b) []
  let s ← get
  storeTo (effAddr x imm) 64 ⟨s.vData v.toNat, BitVec.allOnes 64, none⟩ k none (pop [src b])
def execVst (v : VReg) (b : Src) (imm : BitVec 21) (s : State) : Host.Outcome State Fault Refusal := runEx (vstore v b imm .plain) s
def execVstNt (v : VReg) (b : Src) (imm : BitVec 21) (s : State) : Host.Outcome State Fault Refusal := runEx (vstore v b imm .nt) s
def execVstKeep (v : VReg) (b : Src) (imm : BitVec 21) (s : State) : Host.Outcome State Fault Refusal := runEx (vstore v b imm .keep) s

end Sys2Proof.Machine
end

