-- ==== Sys2Proof/Machine/Atomics.lean ====
section
/-!
DEFINITION. Atomics (R170, R171, R312), the take and put operations (R172, R313), fences (R178, R314), migration (R180, R315),
join counters and barriers (R174, R316, R317).
-/

namespace Sys2Proof.Machine

/-- An operation at the home follows the context's own earlier accesses to the block (R181). -/
def orderedHome (pa : Nat) : Ex Unit := do
  ordered pa
  let s ← get
  match s.l1 (coreOf s.cur) (pa / 64) with
  | some l => if l.wait.any fun w => w.ctx == s.cur then blockOn .release
  | none => pure ()

/-- A PV page's copy at the issuing core is written back and dropped before an AMO or RED (R170). -/
def dropPv (pa : Nat) : Ex Unit := do
  let s ← get
  let core := coreOf s.cur
  match s.l1 core (pa / 64) with
  | some l =>
    if l.st = L1State.isD then blockOn .release
    set ((if l.dirty then s.pvWrite s.cur core (pa / 64) l false else s).dropL1 core (pa / 64))
  | none => pure ()

/-- The functions that PCI Express AtomicOps give on host pages (R170): ADD, SWAP and CAS, in native mode. -/
def hostAtomic (mld : Bool) (fn : BitVec 4) : Bool := !mld && (fn == 0 || fn == 8 || fn == 9)

/-- An operation on a local store or a peer leaves only once its release has completed, for which the context waits. -/
def releaseFirst (rel : Bool) (scope : BitVec 3) : Ex Unit := do
  if rel then
    release scope true none
    if (← me).releases.any fun r => r.gate then blockOn .release

/-- AMO and RED (R312). d is the AMO's destination, none for a RED; x is the compared value of CAS. -/
def atomicOp (d : Option GReg) (b c : Src) (x : Option Src) (fn : BitVec 4) (wide acq rel : Bool) (scope : BitVec 3) : Ex Unit := do
  needGroup .base
  needScope scope
  let ops := [src b, src c] ++ (x.map src).toList
  checkOpnds (ops ++ (d.map dst).toList)
  let s ← get
  let va := s.gValue b.reg.toNat
  let cv := s.gValue c.reg.toNat
  let xv := (x.map fun x => s.gValue x.reg.toNat).getD 0
  let n := if wide then 8 else 4
  let own := acq && scope != 0
  gate
  if rel then takeOwed
  let t ← resolve va n n .atomic
  let op := if d.isSome then HomeOp.amo else .red
  match t with
  | .mem pa e => do
    let ct := PageType.ofCt e.ct
    match regionOf pa with
    | .weight _ => trap .wswrite va 0
    | .host => if hostAtomic s.mld fn = false ∨ ct = .sc then trap .typefault va (e.ct.setWidth 64)
    | _ => pure ()
    if ct = .ws then trap .typefault va 3
    scWait ct
    orderedHome pa
    if ct = .pv then dropPv pa
    let r0 ← mkReq op ct pa va n
    let r := { r0 with fn := fn, c := cv, x := xv }
    if rel then releaseWindows scope
    match d with
    | some d => do
      let pid ← beginLoad (.g d.toNat) r own (ct == .sc) (pop ops)
      let r := { r with pid := pid }
      modify fun (s : State) => if rel then s.startRelease s.cur scope false (some r) else s.send r
    | none => do
      pop ops
      modify fun (s : State) => if rel then s.startRelease s.cur scope false (some r) else s.performHeld r
      advance
  | .store core off => do
    releaseFirst rel scope
    let r ← mkReq op .pv 0 va n
    let s ← get
    let old := blockBytes (s.lsBlock core off).1 (off % 64) n
    match d with
    | some d => do
      let pid ← beginLoad (.g d.toNat) r own false (pop ops)
      arriveLater pid (.word (w64 old))
    | none => do
      pop ops
      advance
    match amoFn fn n old cv.toNat xv.toNat with
    | some v => modify fun (s : State) => s.localWrite core off (placeBytes (off % 64) v) (rangeMask (off % 64) n) none
    | none => pure ()
  | .win .. => trap .typefault va 0
  | .peer dev pva => do
    let ct := (← get).peerPage dev pva
    peerScWait ct
    releaseFirst rel scope
    let r0 ← mkReq op ct pva va n
    let r := { r0 with fn := fn, c := cv, x := xv }
    match d with
    | some d => do
      let pid ← beginLoad (.g d.toNat) r own (ct == .sc) (pop ops)
      modify fun (s : State) => s.peerAsk { r with pid := pid } dev
    | none => do
      pop ops
      modify fun (s : State) => s.peerPost r dev false
      advance
      if ct = .sc then modify fun (s : State) => s.followPeer s.cur

/-- ORD: 1 acquires, 2 releases, 3 does both (R312). -/
def ordAcq (o : BitVec 2) : Bool := o.getLsbD 0
def ordRel (o : BitVec 2) : Bool := o.getLsbD 1

def amo (d : GReg) (b c : Src) (fn : BitVec 4) (wide : Bool) (ord : BitVec 2) (scope : BitVec 3) : Ex Unit :=
  atomicOp (some d) b c none fn wide (ordAcq ord) (ordRel ord) scope
def red (b c : Src) (fn : BitVec 4) (wide rel : Bool) (scope : BitVec 3) : Ex Unit :=
  atomicOp none b c none fn wide false rel scope

/-- The AMO functions (R312). -/
def execAmoAdd (d : GReg) (b c : Src) (wide : Bool) (ord : BitVec 2) (scope : BitVec 3) (s : State) : Host.Outcome State Fault Refusal :=
  runEx (amo d b c 0 wide ord scope) s
def execAmoAnd (d : GReg) (b c : Src) (wide : Bool) (ord : BitVec 2) (scope : BitVec 3) (s : State) : Host.Outcome State Fault Refusal :=
  runEx (amo d b c 1 wide ord scope) s
def execAmoOr (d : GReg) (b c : Src) (wide : Bool) (ord : BitVec 2) (scope : BitVec 3) (s : State) : Host.Outcome State Fault Refusal :=
  runEx (amo d b c 2 wide ord scope) s
def execAmoXor (d : GReg) (b c : Src) (wide : Bool) (ord : BitVec 2) (scope : BitVec 3) (s : State) : Host.Outcome State Fault Refusal :=
  runEx (amo d b c 3 wide ord scope) s
def execAmoMin (d : GReg) (b c : Src) (wide : Bool) (ord : BitVec 2) (scope : BitVec 3) (s : State) : Host.Outcome State Fault Refusal :=
  runEx (amo d b c 4 wide ord scope) s
def execAmoMax (d : GReg) (b c : Src) (wide : Bool) (ord : BitVec 2) (scope : BitVec 3) (s : State) : Host.Outcome State Fault Refusal :=
  runEx (amo d b c 5 wide ord scope) s
def execAmoMinu (d : GReg) (b c : Src) (wide : Bool) (ord : BitVec 2) (scope : BitVec 3) (s : State) : Host.Outcome State Fault Refusal :=
  runEx (amo d b c 6 wide ord scope) s
def execAmoMaxu (d : GReg) (b c : Src) (wide : Bool) (ord : BitVec 2) (scope : BitVec 3) (s : State) : Host.Outcome State Fault Refusal :=
  runEx (amo d b c 7 wide ord scope) s
def execAmoSwap (d : GReg) (b c : Src) (wide : Bool) (ord : BitVec 2) (scope : BitVec 3) (s : State) : Host.Outcome State Fault Refusal :=
  runEx (amo d b c 8 wide ord scope) s
def execAmoCas (d : GReg) (b c e : Src) (wide : Bool) (ord : BitVec 2) (scope : BitVec 3) (s : State) : Host.Outcome State Fault Refusal :=
  runEx (atomicOp (some d) b c (some e) 9 wide (ordAcq ord) (ordRel ord) scope) s
def execAmoFadd (d : GReg) (b c : Src) (ord : BitVec 2) (scope : BitVec 3) (s : State) : Host.Outcome State Fault Refusal :=
  runEx (amo d b c 10 false ord scope) s

/-- The RED functions (R171, R312). -/
def execRedAdd (b c : Src) (wide rel : Bool) (scope : BitVec 3) (s : State) : Host.Outcome State Fault Refusal := runEx (red b c 0 wide rel scope) s
def execRedAnd (b c : Src) (wide rel : Bool) (scope : BitVec 3) (s : State) : Host.Outcome State Fault Refusal := runEx (red b c 1 wide rel scope) s
def execRedOr (b c : Src) (wide rel : Bool) (scope : BitVec 3) (s : State) : Host.Outcome State Fault Refusal := runEx (red b c 2 wide rel scope) s
def execRedXor (b c : Src) (wide rel : Bool) (scope : BitVec 3) (s : State) : Host.Outcome State Fault Refusal := runEx (red b c 3 wide rel scope) s
def execRedMin (b c : Src) (wide rel : Bool) (scope : BitVec 3) (s : State) : Host.Outcome State Fault Refusal := runEx (red b c 4 wide rel scope) s
def execRedMax (b c : Src) (wide rel : Bool) (scope : BitVec 3) (s : State) : Host.Outcome State Fault Refusal := runEx (red b c 5 wide rel scope) s
def execRedMinu (b c : Src) (wide rel : Bool) (scope : BitVec 3) (s : State) : Host.Outcome State Fault Refusal := runEx (red b c 6 wide rel scope) s
def execRedMaxu (b c : Src) (wide rel : Bool) (scope : BitVec 3) (s : State) : Host.Outcome State Fault Refusal := runEx (red b c 7 wide rel scope) s
def execRedFadd (b c : Src) (rel : Bool) (scope : BitVec 3) (s : State) : Host.Outcome State Fault Refusal := runEx (red b c 10 false rel scope) s

/-- The home of a word of a take, put, counter or barrier operation (R299, R172, R174, R386): the request, and the device of a
peer. The page must be SC, and for the take family FE. -/
def homeTarget (op : HomeOp) (va : Word) (acc : Acc) (fe : Bool) : Ex (Option Nat × Req) := do
  gate
  let t ← resolve va 8 8 acc
  match t with
  | .mem pa e => do
    if regionOf pa ≠ .lp6 ∨ e.ct ≠ 2 ∨ (fe ∧ e.fe = false) then trap .typefault va (e.ct.setWidth 64)
    scWait .sc
    orderedHome pa
    let r ← mkReq op .sc pa va 8
    pure (none, r)
  | .peer dev pva => do
    peerScWait .sc
    let r ← mkReq op .sc pva va 8
    pure (some dev, r)
  | _ => trap .typefault va 0

/-- A request sent to its home here or at a peer. -/
def State.sendHome (s : State) (dev : Option Nat) (r : Req) : State :=
  match dev with
  | none => s.send r
  | some d => s.peerAsk r d

/-- TAKE and WAITW (R313): producers that may wait at the home (R207). -/
def takeOp (op : HomeOp) (d : GReg) (b : Src) (imm : BitVec 21) (acc : Acc) : Ex Unit := do
  needGroup .base
  let x ← pk1 (src b) [dst d]
  let (dev, r) ← homeTarget op (effAddr x imm) acc true
  homeLimit
  let pid ← beginLoad (.g d.toNat) r false true (pop [src b])
  modify fun (s : State) => s.sendHome dev { r with pid := pid }
def execTake (d : GReg) (b : Src) (imm : BitVec 21) (s : State) : Host.Outcome State Fault Refusal := runEx (takeOp .take d b imm .atomic) s
def execWaitw (d : GReg) (b : Src) (imm : BitVec 21) (s : State) : Host.Outcome State Fault Refusal := runEx (takeOp .waitw d b imm .read) s

/-- TRYTAKE (R313): two producers, of A and of A + 1. -/
def execTrytake (d : GReg) (b : Src) (imm : BitVec 21) (s : State) : Host.Outcome State Fault Refusal :=
  runEx (do
    needGroup .base
    let x ← pk1 (src b) [dst d, .dst (d.toNat + 1)]
    let (dev, r) ← homeTarget .trytake (effAddr x imm) .atomic true
    let pid ← beginLoad (.g d.toNat) r false true (pop [src b])
    let _ ← produce (.g (d.toNat + 1)) none false
    modify fun (s : State) => s.sendHome dev { r with pid := pid }) s

/-- An operation whose context issues nothing further until the home answers (R313, R316, R317, R386). -/
def awaitHome (d : Nat) (dev : Option Nat) (r : Req) (w : Wait) : Ex Unit := do
  let pid ← produce (.g d) (some r) false
  modify fun (s : State) => s.sendHome dev { r with pid := pid }
  blockOn w

/-- PUT and PUTX (R313): A is read first, in mode 0. -/
def putOp (op : HomeOp) (a : GReg) (b : Src) (imm : BitVec 21) : Ex Unit := do
  needGroup .base
  let (v, x) ← pk2 (src0 a) (src b) []
  let va := effAddr x imm
  let (dev, r) ← homeTarget op va .write true
  awaitHome 0 dev { r with x := v } (.putAnswer va)
def execPut (a : GReg) (b : Src) (imm : BitVec 21) (s : State) : Host.Outcome State Fault Refusal := runEx (putOp .put a b imm) s
def execPutx (a : GReg) (b : Src) (imm : BitVec 21) (s : State) : Host.Outcome State Fault Refusal := runEx (putOp .putx a b imm) s

/-- JCINIT, JCDEC and BARINIT (R316, R317): posted here; at a peer the context waits for the answer (R386). -/
def postHome (op : HomeOp) (va x : Word) (acc : Acc) (ops : List Opnd) : Ex Unit := do
  let (dev, r0) ← homeTarget op va acc false
  let r := { r0 with x := x }
  match dev with
  | some _ => awaitHome 0 dev r (.putAnswer va)
  | none => do
    pop ops
    modify fun (s : State) => s.send r
    advance
def execJcinit (b c : Src) (s : State) : Host.Outcome State Fault Refusal :=
  runEx (do
    needGroup .base
    let (va, x) ← pk2 (src b) (src c) []
    postHome .jcinit va x .write [src b, src c]) s
def execJcdec (b : Src) (s : State) : Host.Outcome State Fault Refusal :=
  runEx (do
    needGroup .base
    let va ← pk1 (src b) []
    postHome .jcdec va 0 .atomic [src b]) s
def execBarinit (b c : Src) (s : State) : Host.Outcome State Fault Refusal :=
  runEx (do
    needGroup .base
    let (va, x) ← pk2 (src b) (src c) []
    postHome .barinit va x .write [src b, src c]) s

/-- JCWAIT (R316). -/
def execJcwait (b : Src) (s : State) : Host.Outcome State Fault Refusal :=
  runEx (do
    needGroup .base
    let va ← pk1 (src b) []
    let (dev, r) ← homeTarget .jcwait va .read false
    awaitHome 0 dev r (.jc va)) s

/-- BARARR (R317): the context waits for the home, and takes BROKENBAR at it. -/
def execBararr (d : GReg) (b : Src) (s : State) : Host.Outcome State Fault Refusal :=
  runEx (do
    needGroup .base
    let va ← pk1 (src b) [dst d]
    let (dev, r) ← homeTarget .bararr va .atomic false
    awaitHome d.toNat dev r (.putAnswer va)) s

/-- BARWAIT (R317). -/
def execBarwait (b c : Src) (s : State) : Host.Outcome State Fault Refusal :=
  runEx (do
    needGroup .base
    let (va, x) ← pk2 (src b) (src c) []
    let (dev, r) ← homeTarget .barwait va .read false
    awaitHome 0 dev { r with c := x } (.bar va)) s

/-- A release that its instruction waits for (R178, R314), and the failure that it then takes precisely (R150, R298). -/
def waitRelease (sc : BitVec 3) (windows : Tbl Window → Tbl Window) : Ex Unit := do
  let c ← me
  match c.lastWait with
  | some (.fence, _) => if c.releases ≠ [] then blockOn .fence
  | _ => do
    gate
    takeOwed
    if sc ≠ 0 then do
      let s ← get
      flushWindows (windows (s.core (coreOf s.cur)).windows)
    modify fun (s : State) => s.startRelease s.cur sc true none
    if (← me).releases ≠ [] then blockOn .fence
  takeOwed

/-- FENCE (R314). -/
def execFence (sc : BitVec 3) (s : State) : Host.Outcome State Fault Refusal :=
  runEx (do
    needGroup .base
    needScope sc
    waitRelease sc id
    if sc ≠ 0 then modify fun (s : State) => s.acquireWindows (coreOf s.cur)
    advance) s

/-- ACQR (R314): the context's earlier loads have arrived first. -/
def execAcqr (b c : Src) (sc : BitVec 3) (s : State) : Host.Outcome State Fault Refusal :=
  runEx (do
    needGroup .base
    needScope sc
    let (va, len) ← pk2 (src b) (src c) []
    gate
    if sc ≠ 0 ∧ len ≠ 0 then
      let s ← get
      if (s.ctx s.cur).producers.any fun p => p.home.isSome then blockOn .release
      modify fun (s : State) => s.acquireRange (coreOf s.cur) va len.toNat
    pop [src b, src c]
    advance) s

/-- RELR (R314): the windows that overlap the range; it may wait for more of the context's earlier operations, and does. -/
def execRelr (b c : Src) (sc : BitVec 3) (s : State) : Host.Outcome State Fault Refusal :=
  runEx (do
    needGroup .base
    needScope sc
    let (va, len) ← pk2 (src b) (src c) []
    if len ≠ 0 then
      waitRelease sc fun ws => ws.filter fun e =>
        decide (e.2.va < va.toNat + len.toNat ∧ va.toNat < e.2.va + 64 * e.2.nblk)
    pop [src b, src c]
    advance) s

/-- Helper contexts of a core that an owner holds (R59, R187, R315). -/
def State.heldHelpers (s : State) (core o : Nat) : Nat :=
  (upTo 16).countP fun h => h != 0 && (s.ctx (16 * core + h)).state != .free && (s.ctx (16 * core + h)).owner == o

/-- An owner's lines of PV pages leave a core's L1, their stores written (R180, R210). -/
def State.leavePv (s : State) (core o : Nat) : State :=
  let mine := (s.core core).l1.filter fun e => decide (e.2.st = L1State.pv) && e.2.owner == o
  mine.foldl (fun s e => (if e.2.dirty then s.pvWrite (16 * core) core e.1 e.2 false else s).dropL1 core e.1) s

/-- Lines of an owner's PV pages are on their way from a core to their homes. -/
def State.leaving (s : State) (core o : Nat) : Bool := s.requests.any fun r => r.op == .write && r.core == core && r.owner == o

/-- The PV lines of an owner when one of its contexts goes from a core to another: program order holds across the move (R180, R210). -/
def State.movePv (s : State) (old new o : Nat) : State :=
  if old = new then s else (s.leavePv new o).leavePv old o

/-- What names a context by its number names its new number (R146, R180, R210). -/
def State.renameCtx (s : State) (n m : Nat) : State :=
  let ren (k : Nat) : Nat := if k = n then m else k
  { s with
    copies := mapIf (fun c : CopyReq => c.ctx == some n) (fun c => { c with ctx := some m }) s.copies,
    invals := s.invals.map fun e => (ren e.1, e.2),
    owners := s.owners.map fun e =>
      if e.2.conctx.getLsbD 16 && wbits e.2.conctx 15 0 == n then (e.1, { e.2 with conctx := (e.2.conctx &&& ~~~(0xFFFF : Word)) ||| w64 m }) else e,
    peerOut := mapIf (fun p : PeerOut => p.ctx == n) (fun p => { p with ctx := m }) s.peerOut,
    ports := s.ports.map fun e => (e.1, { e.2 with sender := ren e.2.sender, receiver := ren e.2.receiver }),
    clusters := s.clusters.map fun e => (e.1, { e.2 with
      tiles := mapIf (fun t : Tile => t.ctx == n) (fun t => { t with ctx := m }) e.2.tiles }) }

/-- The context moves to another slot (R180): what it holds goes with it, and its number becomes the new one. -/
def State.moveCtx (s0 : State) (n m : Nat) (home : Option Nat) (old : Ctx) : State :=
  let s := s0.movePv (coreOf n) (coreOf m) (s0.ctx n).owner
  let c := (s.ctx n).goOn (s.ctx n).npc
  let s1 := (s.setCtx m { c with migratedFrom := home }).setCtx n old
  { s1.renameCtx n m with cur := m }

/-- Tile tasks and copies that a context has issued and that have not completed (R343, R349). -/
def State.tilesOut (s : State) (n : Nat) : Bool := s.clusters.any fun e => e.2.tiles.any fun t => t.ctx == n && !t.done && !t.observed
def State.copiesOut (s : State) (n : Nat) : Bool := s.copies.any fun c => c.ctx == some n && !c.done && !c.observed

/-- A move waits until the context's stores are acknowledged, its core's PV lines of the owner written, and its range locks free (R180, R315). -/
def waitMove : Ex Unit := do
  gate
  modify fun (s : State) => (s.startRelease s.cur 0 false none).leavePv (coreOf s.cur) (s.ctx s.cur).owner
  let s ← get
  let c := s.ctx s.cur
  if s.leaving (coreOf s.cur) c.owner then blockOn .release
  if c.unacked ≠ 0 ∨ c.releases ≠ [] ∨ s.storesWaiting s.cur ∨ s.copiesOut s.cur ∨ s.tilesOut s.cur then blockOn .release

/-- MIGRATE (R180, R315). -/
def execMigrate (b : Src) (s : State) : Host.Outcome State Fault Refusal :=
  runEx (do
    needGroup .migr
    let va ← pk1 (src b) []
    let c ← me
    let t ← resolve va 1 1 .read
    match t with
    | .mem pa _ => do
      if regionOf pa ≠ .lp6 then trap .access va 0
      if c.vset.isSome then trap .access va 0
      match c.bind with
      | (q, _) :: _ => trap .queue (w64 (56 + q)) 0
      | [] => pure ()
      match c.gang with
      | some g => trap .gang (g.mask.setWidth 64) 0
      | none => pure ()
      let core := 1024 + channelOf pa
      let s ← get
      if coreOf s.cur = core then do
        pop [src b]
        advance
      else
        let share := ((s.owner c.owner).active.dies.toList.getD (dieOf core) .zero).chctx.toNat
        if share = 0 then trap .access va 0
        waitMove
        let s ← get
        match if s.heldHelpers core c.owner < share then s.freeHelper core else none with
        | none => blockOn (.channelCore va)
        | some h => do
          pop [src b]
          modify fun (s : State) =>
            let n := s.cur
            match (s.ctx n).migratedFrom with
            | some o => s.moveCtx n (16 * core + h) (some o) Ctx.free
            | none => s.moveCtx n (16 * core + h) (some n)
                { Ctx.free with state := .away, owner := (s.ctx n).owner, level := (s.ctx n).level, task := (s.ctx n).task }
    | _ => trap .access va 0) s

/-- RETHOME (R180, R315). -/
def execRethome (s : State) : Host.Outcome State Fault Refusal :=
  runEx (do
    needGroup .migr
    let c ← me
    match c.migratedFrom with
    | none => advance
    | some o => do
      waitMove
      modify fun (s : State) => s.moveCtx s.cur o none Ctx.free) s

end Sys2Proof.Machine
end

