-- ==== Sys2Proof/Machine/Vector.lean ====
section
/-!
DEFINITION. Vector instructions on registers (R319 to R331): lanes, masks and tags once, and one meaning for each instruction.
-/

namespace Sys2Proof.Machine

/-- Lane i of a register, w bits wide (R319). -/
def lane (d : BitVec 512) (w i : Nat) : Nat := d.toNat / 2 ^ (w * i) % 2 ^ w
/-- A register from its lanes, lane 0 first. -/
def ofLanes (w : Nat) (l : List Nat) : BitVec 512 := BitVec.ofNat 512 (l.foldr (fun x a => x % 2 ^ w + 2 ^ w * a) 0)
/-- Count of the lanes of a TY (R319). -/
def tyLanes (ty : BitVec 3) : Nat := 512 / tyWidth ty
/-- The lanes of a register. -/
def lanesOf (d : BitVec 512) (ty : BitVec 3) : List Nat := (upTo (tyLanes ty)).map (lane d (tyWidth ty))
/-- std_tag (R319). -/
def stdTag (ty : BitVec 3) : Tag := BitVec.ofNat 32 (0xFF007F00 + fmtCode ty)
/-- The lane mask: field D of 0 selects every lane (R319). -/
def laneMask (m : Src) (v : Word) : Word := if m.reg = 0 then BitVec.allOnes 64 else v
/-- The operand of a mask field: g0 is not read (R319). -/
def maskOp (m : Src) : List Opnd := if m.reg = 0 then [] else [src m]
/-- Lanes under a mask: unselected ones are zero (R319). -/
def masked (k : Word) (l : List Nat) : List Nat := (l.zip (upTo l.length)).map fun e => if k.getLsbD e.2 then e.1 else 0

/-- The checks that every vector instruction makes first (R266, R319). -/
def vecChecks (g : Group) : Ex Unit := do
  needGroup g
  needVector

/-- The value of a mask, its checks made. -/
def maskValue (m : Src) : Ex Word := do
  let s ← get
  pure (laneMask m (s.gValue m.reg.toNat))

/-- A vector operation on two registers, lane by lane (R321). -/
def vop2 (v : VReg) (b c : VSrc) (m : Src) (ty : BitVec 3) (f : Nat → Nat → Nat) : Ex Unit := do
  vecChecks .vec
  let ops := [vsrc b, vsrc c] ++ maskOp m ++ [vdst v]
  checkOpnds ops
  let k ← maskValue m
  let s ← get
  let r := ((lanesOf (s.vData b.reg.toNat) ty).zip (lanesOf (s.vData c.reg.toNat) ty)).map fun e => f e.1 e.2
  pop ops
  wrV v (ofLanes (tyWidth ty) (masked k r)) (stdTag ty)
  advance

/-- A long-latency vector operation on one register (R322). -/
def vlong1 (v : VReg) (b : VSrc) (m : Src) (ty : BitVec 3) (f : Nat → Nat) : Ex Unit := do
  vecChecks .vec
  let ops := [vsrc b] ++ maskOp m ++ [vdst v]
  checkOpnds ops
  let k ← maskValue m
  let s ← get
  let r := ofLanes (tyWidth ty) (masked k ((lanesOf (s.vData b.reg.toNat) ty).map f))
  pop ops
  let id ← produce (.v v.toNat) none false
  advance
  arriveLater id (.vec r (stdTag ty))

/-- Integer and floating forms of a lane operation (R321): integers wrap at w bits, floats round once to TY. -/
def laneOp (ty : BitVec 3) (i : Int → Int → Int) (f : Fmt → Nat → Nat → Nat) (a b : Nat) : Nat :=
  match tyElem ty with
  | .int w _ => ofInt w (i (asInt w a) (asInt w b))
  | .flt t => f t a b

/-- VADD, VSUB and VMUL (R321). -/
def execVadd (v : VReg) (b c : VSrc) (m : Src) (ty : BitVec 3) (s : State) : Host.Outcome State Fault Refusal :=
  runEx (vop2 v b c m ty (laneOp ty (· + ·) Fmt.addB)) s
def execVsub (v : VReg) (b c : VSrc) (m : Src) (ty : BitVec 3) (s : State) : Host.Outcome State Fault Refusal :=
  runEx (vop2 v b c m ty (laneOp ty (· - ·) Fmt.subB)) s
def execVmul (v : VReg) (b c : VSrc) (m : Src) (ty : BitVec 3) (s : State) : Host.Outcome State Fault Refusal :=
  runEx (vop2 v b c m ty (laneOp ty (· * ·) Fmt.mulB)) s

/-- A lane of VFMA (R321). -/
def fmaLane (ty : BitVec 3) (b c acc : Nat) : Nat :=
  match tyElem ty with
  | .int w _ => ofInt w (asInt w b * asInt w c + asInt w acc)
  | .flt t => t.fmaB b c acc false false

/-- VFMA (R321): A is read first, in mode 0. -/
def execVfma (v : VReg) (b c : VSrc) (m : Src) (ty : BitVec 3) (s : State) : Host.Outcome State Fault Refusal :=
  runEx (do
    vecChecks .vec
    let ops := [vsrc0 v, vsrc b, vsrc c] ++ maskOp m ++ [vdst v]
    checkOpnds ops
    let k ← maskValue m
    let s ← get
    let acc := lanesOf (s.vData v.toNat) ty
    let bc := (lanesOf (s.vData b.reg.toNat) ty).zip (lanesOf (s.vData c.reg.toNat) ty)
    let r := (bc.zip acc).map fun e => fmaLane ty e.1.1 e.1.2 e.2
    pop ops
    wrV v (ofLanes (tyWidth ty) (masked k r)) (stdTag ty)
    advance) s

/-- VMIN and VMAX (R321): signed, or under R238. -/
def execVmin (v : VReg) (b c : VSrc) (m : Src) (ty : BitVec 3) (s : State) : Host.Outcome State Fault Refusal :=
  runEx (vop2 v b c m ty (laneOp ty (fun x y => if x ≤ y then x else y) fun t x y => t.minmax x y false)) s
def execVmax (v : VReg) (b c : VSrc) (m : Src) (ty : BitVec 3) (s : State) : Host.Outcome State Fault Refusal :=
  runEx (vop2 v b c m ty (laneOp ty (fun x y => if y ≤ x then x else y) fun t x y => t.minmax x y true)) s

/-- The floating function of a TY that R320 limits to 3 to 5. -/
def fltLane (ty : BitVec 3) (f : Fmt → Nat → Nat) (x : Nat) : Nat :=
  match tyElem ty with
  | .flt t => f t x
  | .int .. => 0

/-- VRCP, VRSQRT, VEXP2 and VLOG2 (R322). -/
def execVrcp (v : VReg) (b : VSrc) (m : Src) (ty : BitVec 3) (s : State) : Host.Outcome State Fault Refusal :=
  runEx (vlong1 v b m ty (fltLane ty Fmt.recipB)) s
def execVrsqrt (v : VReg) (b : VSrc) (m : Src) (ty : BitVec 3) (s : State) : Host.Outcome State Fault Refusal :=
  runEx (vlong1 v b m ty (fltLane ty Fmt.rsqrtB)) s
def execVexp2 (v : VReg) (b : VSrc) (m : Src) (ty : BitVec 3) (s : State) : Host.Outcome State Fault Refusal :=
  runEx (vlong1 v b m ty (fltLane ty Fmt.exp2B)) s
def execVlog2 (v : VReg) (b : VSrc) (m : Src) (ty : BitVec 3) (s : State) : Host.Outcome State Fault Refusal :=
  runEx (vlong1 v b m ty (fltLane ty Fmt.log2B)) s

/-- The lanes of VABS and VNEG (R322). -/
def absLane (ty : BitVec 3) (x : Nat) : Nat :=
  match tyElem ty with
  | .int w _ => ofInt w (asInt w x).natAbs
  | .flt t => if t.value x = .nan then t.nan else x % 2 ^ (t.e + t.f)
def negLane (ty : BitVec 3) (x : Nat) : Nat :=
  match tyElem ty with
  | .int w _ => ofInt w (- asInt w x)
  | .flt t => if t.value x = .nan then t.nan else t.signed (x / 2 ^ (t.e + t.f) % 2 = 0) (x % 2 ^ (t.e + t.f))

/-- VABS and VNEG (R322). -/
def execVabs (v : VReg) (b : VSrc) (m : Src) (ty : BitVec 3) (s : State) : Host.Outcome State Fault Refusal :=
  runEx (vlong1 v b m ty (absLane ty)) s
def execVneg (v : VReg) (b : VSrc) (m : Src) (ty : BitVec 3) (s : State) : Host.Outcome State Fault Refusal :=
  runEx (vlong1 v b m ty (negLane ty)) s

/-- The bits of the lanes that meet a condition (R323). -/
def condBits (k : Word) (l : List Bool) : Word :=
  w64 ((l.zip (upTo l.length)).foldl (fun n e => if e.1 && k.getLsbD e.2 then n + 2 ^ e.2 else n) 0)

/-- A comparison of lanes (R323, R238): i for the signed integers, f for the order of two values, none with a NaN. -/
def cmpLane (ty : BitVec 3) (i : Int → Int → Bool) (f : Option Int → Bool) (a b : Nat) : Bool :=
  match tyElem ty with
  | .int w _ => i (asInt w a) (asInt w b)
  | .flt t => f ((t.value a).cmp (t.value b))

/-- VCMP (R323): written to a general register at issue. -/
def vcmp (d : GReg) (b c : VSrc) (m : Src) (ty : BitVec 3) (i : Int → Int → Bool) (f : Option Int → Bool) : Ex Unit := do
  vecChecks .vec
  let ops := [vsrc b, vsrc c] ++ maskOp m ++ [dst d]
  checkOpnds ops
  let k ← maskValue m
  let s ← get
  let r := ((lanesOf (s.vData b.reg.toNat) ty).zip (lanesOf (s.vData c.reg.toNat) ty)).map fun e => cmpLane ty i f e.1 e.2
  pop ops
  wr d (condBits k r)
  advance

/-- VCMP.EQ, VCMP.NE, VCMP.LT and VCMP.LE (R323). -/
def execVcmpEq (d : GReg) (b c : VSrc) (m : Src) (ty : BitVec 3) (s : State) : Host.Outcome State Fault Refusal :=
  runEx (vcmp d b c m ty (fun x y => x == y) fun o => o == some 0) s
def execVcmpNe (d : GReg) (b c : VSrc) (m : Src) (ty : BitVec 3) (s : State) : Host.Outcome State Fault Refusal :=
  runEx (vcmp d b c m ty (fun x y => x != y) fun o => o != some 0) s
def execVcmpLt (d : GReg) (b c : VSrc) (m : Src) (ty : BitVec 3) (s : State) : Host.Outcome State Fault Refusal :=
  runEx (vcmp d b c m ty (fun x y => decide (x < y)) fun o => o == some (-1)) s
def execVcmpLe (d : GReg) (b c : VSrc) (m : Src) (ty : BitVec 3) (s : State) : Host.Outcome State Fault Refusal :=
  runEx (vcmp d b c m ty (fun x y => decide (x ≤ y)) fun o => match o with
    | some i => decide (i ≤ 0)
    | none => false) s

/-- VSEL (R324): no lane is zeroed. -/
def execVsel (v : VReg) (b c : VSrc) (m : Src) (ty : BitVec 3) (s : State) : Host.Outcome State Fault Refusal :=
  runEx (do
    vecChecks .vec
    let ops := [vsrc b, vsrc c] ++ maskOp m ++ [vdst v]
    checkOpnds ops
    let k ← maskValue m
    let s ← get
    let bc := (lanesOf (s.vData b.reg.toNat) ty).zip (lanesOf (s.vData c.reg.toNat) ty)
    let r := (bc.zip (upTo bc.length)).map fun e => if k.getLsbD e.2 then e.1.1 else e.1.2
    pop ops
    wrV v (ofLanes (tyWidth ty) r) (stdTag ty)
    advance) s

/-- VAND, VOR, VXOR and VANDN (R321). -/
def execVand (v : VReg) (b c : VSrc) (m : Src) (ty : BitVec 3) (s : State) : Host.Outcome State Fault Refusal :=
  runEx (vop2 v b c m ty fun x y => x &&& y) s
def execVor (v : VReg) (b c : VSrc) (m : Src) (ty : BitVec 3) (s : State) : Host.Outcome State Fault Refusal :=
  runEx (vop2 v b c m ty fun x y => x ||| y) s
def execVxor (v : VReg) (b c : VSrc) (m : Src) (ty : BitVec 3) (s : State) : Host.Outcome State Fault Refusal :=
  runEx (vop2 v b c m ty fun x y => x ^^^ y) s
def execVandn (v : VReg) (b c : VSrc) (m : Src) (ty : BitVec 3) (s : State) : Host.Outcome State Fault Refusal :=
  runEx (vop2 v b c m ty fun x y => x &&& (2 ^ tyWidth ty - 1 - y)) s

/-- The shift count of a lane (R321). -/
def laneCount (ty : BitVec 3) (c : Nat) : Nat := c % tyWidth ty

/-- VSHL, VSHR and VSAR (R321). -/
def execVshl (v : VReg) (b c : VSrc) (m : Src) (ty : BitVec 3) (s : State) : Host.Outcome State Fault Refusal :=
  runEx (vop2 v b c m ty fun x y => x * 2 ^ laneCount ty y) s
def execVshr (v : VReg) (b c : VSrc) (m : Src) (ty : BitVec 3) (s : State) : Host.Outcome State Fault Refusal :=
  runEx (vop2 v b c m ty fun x y => x / 2 ^ laneCount ty y) s
def execVsar (v : VReg) (b c : VSrc) (m : Src) (ty : BitVec 3) (s : State) : Host.Outcome State Fault Refusal :=
  runEx (vop2 v b c m ty fun x y => ofInt (tyWidth ty) (asInt (tyWidth ty) x / 2 ^ laneCount ty y)) s

/-- FMT and SCALE of a tag (R240). -/
def tagFmt (t : Tag) : Nat := bits t.toNat 6 0
def tagScale (t : Tag) : Nat := bits t.toNat 15 8

/-- A format that a vector register's lanes may have (R305, R325). -/
def laneFmt (f : Nat) : Bool := [0x01, 0x03, 0x04, 0x08, 0x09, 0x0A, 0x0B, 0x0C].contains f

/-- VCVT's lanes (R325). -/
def vcvtLanes (d : BitVec 512) (src : Elem) (scale : Nat) (ty : BitVec 3) (rm : BitVec 2) (part : Nat) (sat : Bool) : List Nat :=
  let ms := 512 / src.width
  let md := tyLanes ty
  let p := part % (max ms md / min ms md)
  let cv (i : Nat) := cvtIn (lane d src.width i) src scale (tyElem ty) rm sat
  (upTo md).map fun j =>
    if ms ≤ md then (if p * ms ≤ j ∧ j < p * ms + ms then cv (j - p * ms) else 0) else cv (p * md + j)

/-- VCVT (R325). -/
def execVcvt (v : VReg) (b : VSrc) (m : Src) (ty : BitVec 3) (rm part : BitVec 2) (inf : Bool) (s : State) :
    Host.Outcome State Fault Refusal :=
  runEx (do
    vecChecks .vec
    let ops := [vsrc b] ++ maskOp m ++ [vdst v]
    checkOpnds ops
    let k ← maskValue m
    let s ← get
    let t := s.vTag b.reg.toNat
    let f := tagFmt t
    match if laneFmt f then fmtElem f else none with
    | none => trap .badfmt (w64 (64 + b.reg.toNat)) (w64 f)
    | some e =>
      let r := vcvtLanes (s.vData b.reg.toNat) e (tagScale t) ty rm part.toNat (!inf)
      pop ops
      wrV v (ofLanes (tyWidth ty) (masked k r)) (stdTag ty)
      advance) s

/-- A long-latency reduction to a general register (R326). -/
def vreduce (d : GReg) (b : VSrc) (m : Src) (ty : BitVec 3) (f : Word → List Nat → Word) : Ex Unit := do
  vecChecks .vec
  let ops := [vsrc b] ++ maskOp m ++ [dst d]
  checkOpnds ops
  let k ← maskValue m
  let s ← get
  let r := f k (lanesOf (s.vData b.reg.toNat) ty)
  pop ops
  let id ← produce (.g d.toNat) none false
  advance
  arriveLater id (.word r)

/-- A lane widened exactly to FP32 (R326). -/
def widen (t : Fmt) (x : Nat) : Nat := fp32.ofVal 0 (t.value x)

/-- The selected lanes. -/
def selected (k : Word) (l : List Nat) : List Nat :=
  (l.zip (upTo l.length)).filterMap fun e => if k.getLsbD e.2 then some e.1 else none
/-- Every lane under a mask, with a value for the unselected ones. -/
def entering (k : Word) (l : List Nat) (f : Nat → Nat) (other : Nat) : List Nat :=
  (l.zip (upTo l.length)).map fun e => if k.getLsbD e.2 then f e.1 else other

/-- VSUM (R326). -/
def vsumR (ty : BitVec 3) (k : Word) (l : List Nat) : Word :=
  match tyElem ty with
  | .int w _ => BitVec.ofInt 64 ((selected k l).foldl (fun (n : Int) x => n + asInt w x) 0)
  | .flt t => fres (treeSum (entering k l (widen t) 0))
def execVsum (d : GReg) (b : VSrc) (m : Src) (ty : BitVec 3) (s : State) : Host.Outcome State Fault Refusal :=
  runEx (vreduce d b m ty (vsumR ty)) s

/-- VRMAX and VRMIN (R326, R251). -/
def vrmR (ty : BitVec 3) (isMax : Bool) (k : Word) (l : List Nat) : Word :=
  match tyElem ty with
  | .int w _ =>
    let start : Int := if isMax then -(2 ^ (w - 1)) else 2 ^ (w - 1) - 1
    BitVec.ofInt 64 ((selected k l).foldl (fun n x => if isMax then max n (asInt w x) else min n (asInt w x)) start)
  | .flt t => fres (treeFold (fun x y => fp32.minmax x y isMax) (entering k l (widen t) fp32.nan) 8)
def execVrmax (d : GReg) (b : VSrc) (m : Src) (ty : BitVec 3) (s : State) : Host.Outcome State Fault Refusal :=
  runEx (vreduce d b m ty (vrmR ty true)) s
def execVrmin (d : GReg) (b : VSrc) (m : Src) (ty : BitVec 3) (s : State) : Host.Outcome State Fault Refusal :=
  runEx (vreduce d b m ty (vrmR ty false)) s

/-- VPERM (R327). -/
def execVperm (v : VReg) (b c : VSrc) (m : Src) (ty : BitVec 3) (s : State) : Host.Outcome State Fault Refusal :=
  runEx (do
    vecChecks .vec
    let ops := [vsrc b, vsrc c] ++ maskOp m ++ [vdst v]
    checkOpnds ops
    let k ← maskValue m
    let s ← get
    let w := tyWidth ty
    let r := (lanesOf (s.vData c.reg.toNat) ty).map fun i => lane (s.vData b.reg.toNat) w (i % tyLanes ty)
    pop ops
    wrV v (ofLanes w (masked k r)) (stdTag ty)
    advance) s

/-- VBCAST (R327). -/
def execVbcast (v : VReg) (b m : Src) (ty : BitVec 3) (s : State) : Host.Outcome State Fault Refusal :=
  runEx (do
    vecChecks .vec
    let ops := [src b] ++ maskOp m ++ [vdst v]
    checkOpnds ops
    let k ← maskValue m
    let s ← get
    let x := s.gValue b.reg.toNat
    pop ops
    wrV v (ofLanes (tyWidth ty) (masked k (List.replicate (tyLanes ty) x.toNat))) (stdTag ty)
    advance) s

/-- VINS (R327): A is read first, in mode 0. -/
def execVins (v : VReg) (b c : Src) (ty : BitVec 3) (s : State) : Host.Outcome State Fault Refusal :=
  runEx (do
    vecChecks .vec
    let ops := [vsrc0 v, src b, src c, vdst v]
    checkOpnds ops
    let s ← get
    let x := s.gValue b.reg.toNat
    let i := (s.gValue c.reg.toNat).toNat % tyLanes ty
    let l := lanesOf (s.vData v.toNat) ty
    pop ops
    wrV v (ofLanes (tyWidth ty) (l.set i x.toNat)) (stdTag ty)
    advance) s

/-- VEXTR (R327). -/
def execVextr (d : GReg) (b : VSrc) (c : Src) (ty : BitVec 3) (s : State) : Host.Outcome State Fault Refusal :=
  runEx (do
    vecChecks .vec
    let ops := [vsrc b, src c, dst d]
    checkOpnds ops
    let s ← get
    let i := (s.gValue c.reg.toNat).toNat % tyLanes ty
    let x := lane (s.vData b.reg.toNat) (tyWidth ty) i
    let r := match tyElem ty with
      | .int w _ => sext64 x w
      | .flt _ => w64 x
    pop ops
    wr d r
    advance) s

/-- A codebook entry of a slot, as BF16 bits (R245). -/
def bookEntry (book : BitVec 256) (c : Nat) : Nat := book.toNat / 2 ^ (16 * c) % 2 ^ 16

/-- VLUT (R328). -/
def execVlut (v : VReg) (b : VSrc) (m : Src) (ty : BitVec 3) (rm : BitVec 2) (part : BitVec 3) (inf : Bool) (s : State) :
    Host.Outcome State Fault Refusal :=
  runEx (do
    vecChecks .cb4
    let ops := [vsrc b] ++ maskOp m ++ [vdst v]
    checkOpnds ops
    let k ← maskValue m
    let s ← get
    let t := s.vTag b.reg.toNat
    let f := tagFmt t
    if f < 0x10 ∨ 0x17 < f then trap .badfmt (w64 (64 + b.reg.toNat)) (w64 f)
    let book := (tget (s.core (coreOf s.cur)).books (f - 0x10)).getD 0
    let md := tyLanes ty
    let p := part.toNat % (128 / md)
    let d := s.vData b.reg.toNat
    let r := (upTo md).map fun i =>
      cvtIn (bookEntry book (lane d 4 (p * md + i))) (.flt bf16) (tagScale t) (tyElem ty) rm (!inf)
    pop ops
    wrV v (ofLanes (tyWidth ty) (masked k r)) (stdTag ty)
    advance) s

/-- VDOT's result (R329). -/
def vdotR (ty : BitVec 3) (k : Word) (x y : List Nat) : Word :=
  let l := (x.zip y).zip (upTo x.length)
  match tyElem ty with
  | .int w _ =>
    BitVec.ofInt 64 (l.foldl (fun (n : Int) e => if k.getLsbD e.2 then n + asInt w e.1.1 * asInt w e.1.2 else n) 0)
  | .flt t => fres (treeSum (l.map fun e => if k.getLsbD e.2 then prod32 (t.value e.1.1) (t.value e.1.2) else 0))

/-- VDOT (R329): written at issue. -/
def execVdot (d : GReg) (b c : VSrc) (m : Src) (ty : BitVec 3) (s : State) : Host.Outcome State Fault Refusal :=
  runEx (do
    vecChecks .vec
    let ops := [vsrc b, vsrc c] ++ maskOp m ++ [dst d]
    checkOpnds ops
    let k ← maskValue m
    let s ← get
    let r := vdotR ty k (lanesOf (s.vData b.reg.toNat) ty) (lanesOf (s.vData c.reg.toNat) ty)
    pop ops
    wr d r
    advance) s

/-- VTAGG (R330). -/
def execVtagg (d : GReg) (b : VSrc) (s : State) : Host.Outcome State Fault Refusal :=
  runEx (do
    vecChecks .vec
    let ops := [vsrc b, dst d]
    checkOpnds ops
    let s ← get
    wr d ((s.vTag b.reg.toNat).setWidth 64)
    advance) s

/-- VTAGS (R330): the data bits stand. -/
def execVtags (v : VReg) (b : Src) (s : State) : Host.Outcome State Fault Refusal :=
  runEx (do
    vecChecks .vec
    let x ← rd1 (src b) [vdst v]
    let s ← get
    wrV v (s.vData v.toNat) (x.extractLsb' 0 32 &&& 0xFF00FFFF)
    advance) s

/-- VMOV (R330): the tag goes with the data, unchanged. -/
def execVmov (v : VReg) (b : VSrc) (m : Src) (ty : BitVec 3) (s : State) : Host.Outcome State Fault Refusal :=
  runEx (do
    vecChecks .vec
    let ops := [vsrc b] ++ maskOp m ++ [vdst v]
    checkOpnds ops
    let k ← maskValue m
    let s ← get
    let r := ofLanes (tyWidth ty) (masked k (lanesOf (s.vData b.reg.toNat) ty))
    let t := s.vTag b.reg.toNat
    pop ops
    wrV v r t
    advance) s

/-- VSCALE's exponent (R331): clamped to -1,024 to 1,024. -/
def scaleStep (c : Word) (step : BitVec 16) : Int := max (-1024) (min 1024 (c.toInt + step.toInt))

/-- VSCALE (R331). -/
def execVscale (v : VReg) (b : VSrc) (c m : Src) (ty : BitVec 3) (rm : BitVec 2) (step : BitVec 16) (s : State) :
    Host.Outcome State Fault Refusal :=
  runEx (do
    vecChecks .vec
    let ops := [vsrc b, src c] ++ maskOp m ++ [vdst v]
    checkOpnds ops
    let k ← maskValue m
    let s ← get
    let t := scaleStep (s.gValue c.reg.toNat) step
    let f (x : Nat) : Nat := fltLane ty (fun g x => g.ofVal rm ((g.value x).scale t)) x
    let r := (lanesOf (s.vData b.reg.toNat) ty).map f
    pop ops
    wrV v (ofLanes (tyWidth ty) (masked k r)) (stdTag ty)
    advance) s

end Sys2Proof.Machine
end

