-- ==== Sys2Proof/Machine/TypedMem.lean ====
section
/-!
DEFINITION. Typed loads and stores and tags (R303 to R306), prefetches (R307), cache maintenance (R308), local store windows
(R309, R310) and codebook loads and stores (R311).
-/

namespace Sys2Proof.Machine

/-- A block that its instruction waits for, from a peer or from the Bench of its home (R27, R119, R166): it is asked for once, and the instruction is
tried again when it has come. -/
def awaitBlock (r : Req) (w : Wait) (send : State → Req → State) : Ex Unit := do
  let c ← me
  let asked (p : Producer) : Bool := match p.home with
    | some q => q.typed && q.keep && q.va.toNat / 64 == r.va.toNat / 64
    | none => false
  if c.producers.any asked then blockOn w
  let r := { r with typed := true, keep := true }
  let pid ← produce (.g 0) (some r) false
  modify fun (s : State) => send s { r with pid := pid }
  blockOn w

/-- Part of a block, read with its tag as one unit (R242) by an instruction that goes on only with it in hand: LDT, CBLD,
and the records that PUSH, APPLY and POST read. A block of an RC or PV page comes through the L1, as for a load. A block of a WS page whose W is clear is waited for, up to WAITLIM (R166).
fail is what a failing fill leads to (R298). -/
def readNow (va : Word) (size align : Nat) (fail : Cause → Word → Ex Unit) : Ex (Block × Tag) := do
  gate
  match (← me).marker blockMarker with
  | some p => do
    modMe fun c => { c with markers := tdel c.markers blockMarker }
    fail p.cause p.info
    stop
  | none => pure ()
  let t ← resolve va size align .read
  match t with
  | .mem pa e => do
    let ct ← pageType pa e va
    scWait ct
    ordered pa
    let r ← mkReq .rds ct pa va size
    let s ← get
    match s.fillCheck r false with
    | some c => do
      fail c (w64 (2 ^ 63))
      stop
    | none => pure ()
    if ct = .ws ∧ (s.tagAt (pa / 64)).getLsbD 7 = false then awaitBlock { r with op := .wsLoad } (.benchShare va) fun s r => s.send r
    match s.l1 (coreOf s.cur) (pa / 64) with
    | some l =>
      if l.wait.any fun w => w.store && w.ctx == s.cur then blockOn .release
      if ct ≠ .ws ∧ l.st.holds = false then blockOn (.fill va)
      if ct = .pv then pure (l.data, l.tag) else pure (s.coherent pa)
    | none => do
      if ct = .rc ∨ ct = .pv then
        modify fun (s : State) =>
          let b := pa / 64
          ((s.makeRoom r.core b).setL1 r.core b (newLine .isD r.owner ct [])).send { r with pa := b * 64, va := w64 (va.toNat / 64 * 64), size := 64 }
        blockOn (.fill va)
      match tget (← me).peerBlocks (va.toNat / 64) with
      | some b => pure b
      | none => do
        set (s.slotTouch r.owner r.core r.ctx pa false false)
        modMe fun c => { c with peerBlocks := tset c.peerBlocks (va.toNat / 64) (s.coherent pa) }
        pure (s.coherent pa)
  | .store core off => do
    let s ← get
    pure (s.lsBlock core off)
  | .win core w k off => do
    let s ← get
    let b := s.winBlock core w k
    let need := touched off size
    if b.v || b.d &&& need == need then pure (s.lsBlock core off)
    else
      match tget (s.core core).windows w with
      | none => pure (s.lsBlock core off)
      | some win => do
        let (pa, e) ← windowPage win k va .read
        let s ← get
        let r ← mkReq .winFill (PageType.ofCt e.ct) pa va 64
        modify fun (s : State) => s.askFill { r with core := core, c := w64 w, x := w64 k }
        blockOn (if e.ct = 3 ∧ (s.tagAt (pa / 64)).getLsbD 7 = false then .benchShare va else .fill va)
  | .peer dev pva => do
    let s ← get
    let c ← me
    match tget c.peerBlocks (va.toNat / 64) with
    | some d => pure d
    | none => do
      let r ← mkReq .rds (s.peerPage dev pva) (pva / 64 * 64) va 64
      awaitBlock r .release fun s r => s.peerAsk r dev
      pure (0, 0)

/-- Elements per block of a format, and its listing (R241). -/
def fmtElems (f : Nat) : Option Nat :=
  if 0x10 ≤ f ∧ f ≤ 0x17 then some 128 else (fmtElem f).map fun e => 512 / e.width

/-- An element of a block converted to TY (R244): CB4 codes through a codebook slot (R245). -/
def loadElem (books : Tbl (BitVec 256)) (d : Block) (t : Tag) (i : Nat) (ty : BitVec 3) (rm : BitVec 2) (sat : Bool) : Nat :=
  let f := tagFmt t
  match fmtElem f with
  | some e => cvtIn (lane d e.width i) e (tagScale t) (tyElem ty) rm sat
  | none => cvtIn (bookEntry ((tget books (f - 0x10)).getD 0) (lane d 4 i)) (.flt bf16) (tagScale t) (tyElem ty) rm sat

/-- The blocks of a typed load after the first, in lane order; each must carry the same FMT (R304). -/
def readBlocks (f : Nat) (fail : Cause → Word → Ex Unit) : List Word → Ex (List (Word × Block × Tag))
  | [] => pure []
  | va :: rest => do
    let (d, t) ← readNow va 64 64 fail
    if tagFmt t ≠ f then trap .badfmt va (w64 (tagFmt t))
    let l ← readBlocks f fail rest
    pure ((va, d, t) :: l)

/-- Addresses without repeats, in order. -/
def distinct (l : List Word) : List Word := l.foldl (fun a x => if a.contains x then a else a ++ [x]) []

/-- LDT (R304). -/
def execLdt (v : VReg) (b c m : Src) (ty : BitVec 3) (rm : BitVec 2) (inf : Bool) (s : State) :
    Host.Outcome State Fault Refusal :=
  runEx (do
    needGroup .matrix
    needVector
    let ops := [src b, src c] ++ maskOp m ++ [vdst v]
    checkOpnds ops
    let k ← maskValue m
    let s ← get
    let base := s.gValue b.reg.toNat
    let e := (s.gValue c.reg.toNat).toNat
    let fail (ca : Cause) (info : Word) : Ex Unit := do
      pop ops
      let pid ← produce (.v v.toNat) none false
      advance
      arriveLater pid (.failed ca base info)
    let (d0, t0) ← readNow base 64 64 fail
    let f := tagFmt t0
    match fmtElems f with
    | none => trap .badfmt base (w64 f)
    | some ns =>
      let blk (i : Nat) : Word := base + w64 (64 * ((e + i) / ns))
      let lanes := (upTo (tyLanes ty)).filter fun i => k.getLsbD i
      let others := (distinct (lanes.map blk)).filter fun a => a != base
      let l ← readBlocks f fail others
      let l := (base, d0, t0) :: l
      let s ← get
      let books := (s.core (coreOf s.cur)).books
      let value (i : Nat) : Nat :=
        if k.getLsbD i then
          match l.find? fun x => x.1 == blk i with
          | some (_, d, t) => loadElem books d t ((e + i) % ns) ty rm (!inf)
          | none => 0
        else 0
      let r := ofLanes (tyWidth ty) ((upTo (tyLanes ty)).map value)
      pop ops
      let pid ← produce (.v v.toNat) none false
      advance
      arriveLater pid (.vec r (stdTag ty))) s

/-- What STT writes (R305): the converted elements of the selected lanes, and the tag's FMT and SCALE. -/
def typedStored (d : BitVec 512) (se : Elem) (e : Nat) (k : Word) (ty : BitVec 3) (rm : BitVec 2) (sat : Bool) (scale : BitVec 8) : Stored :=
  let w := tyWidth ty
  let sc : Int := if scale = 0xFF then 0x7F else scale.toNat
  let cv (x : Nat) : Nat :=
    match tyElem ty with
    | .int .. => cvtOut (se.value x) (tyElem ty) rm sat
    | .flt _ => cvtOut ((se.value x).scale (127 - sc)) (tyElem ty) rm sat
  let lanes := (upTo (512 / se.width)).filter fun i => k.getLsbD i
  let data := lanes.foldl (fun (n : Nat) i => n + cv (lane d se.width i) % 2 ^ w * 2 ^ (w * (e + i))) 0
  let mask := lanes.foldl (fun (m : BitVec 64) i => m ||| rangeMask (w / 8 * (e + i)) (w / 8)) 0
  ⟨BitVec.ofNat 512 data, mask, some (BitVec.ofNat 32 (fmtCode ty + 256 * scale.toNat))⟩

/-- STT (R305): the source is read first, in mode 0. -/
def execStt (v : VReg) (b c m : Src) (ty : BitVec 3) (rm : BitVec 2) (inf : Bool) (scale : BitVec 8) (s : State) :
    Host.Outcome State Fault Refusal :=
  runEx (do
    needGroup .matrix
    needVector
    let ops := [vsrc0 v, src b, src c] ++ maskOp m
    checkOpnds ops
    let k ← maskValue m
    let s ← get
    let va := s.gValue b.reg.toNat
    let e := (s.gValue c.reg.toNat).toNat
    let f := tagFmt (s.vTag v.toNat)
    match if laneFmt f then fmtElem f else none with
    | none => trap .badfmt va (w64 f)
    | some se =>
      let ms := 512 / se.width
      let nd := tyLanes ty
      if nd < ms then trap .badfmt va (w64 f)
      if e % ms ≠ 0 ∨ nd < e + ms then trap .align va 0
      storeTo va 64 (typedStored (s.vData v.toNat) se e k ty rm (!inf) scale) .plain none (pop ops)) s

/-- LDT.TAG (R306): it never waits for W. -/
def execLdtTag (d : GReg) (b : Src) (s : State) : Host.Outcome State Fault Refusal :=
  runEx (do
    needGroup .matrix
    let va ← pk1 (src b) [dst d]
    let fin := pop [src b]
    gate
    let t ← resolve va 64 64 .read
    let begin (r : Req) (sc : Bool) (v : Arrival) : Ex Unit := do
      let pid ← beginLoad (.g d.toNat) r false sc fin
      arriveLater pid v
    match t with
    | .mem pa e => do
      let ct ← pageType pa e va
      scWait ct
      ordered pa
      let r ← mkReq .rds ct pa va 64
      let s ← get
      match s.fillCheck r false with
      | some ca => begin r false (.failed ca va (w64 (2 ^ 63)))
      | none => do
        if (match s.l1 (coreOf s.cur) (pa / 64) with
          | some l => l.wait.any fun w => w.store && w.ctx == s.cur
          | none => false) then blockOn .release
        set (s.slotTouch r.owner r.core r.ctx pa false false)
        let tag := match s.l1 (coreOf s.cur) (pa / 64) with
          | some l => if ct = PageType.pv ∧ l.st.holds then l.tag else (s.coherent pa).2
          | none => (s.coherent pa).2
        begin r (ct == .sc) (.word (tag.setWidth 64))
    | .store core off => do
      let r ← mkReq .rds .pv 0 va 64
      let s ← get
      begin r false (.word ((s.lsBlock core off).2.setWidth 64))
    | .win core w k off => do
      let s ← get
      let b := s.winBlock core w k
      let r ← mkReq .rds .pv 0 va 64
      if b.v || b.d == 0xFF then begin r false (.word ((s.lsBlock core off).2.setWidth 64))
      else
        match tget (s.core core).windows w with
        | none => pure ()
        | some win => do
          let (pa, _) ← windowPage win k va .read
          let s ← get
          set (s.slotTouch r.owner r.core r.ctx pa false false)
          begin r false (.word ((s.coherent pa).2.setWidth 64))
    | .peer dev pva => do
      let ct := (← get).peerPage dev pva
      peerScWait ct
      let r0 ← mkReq .rds ct pva va 64
      let r := { r0 with keep := true }
      let pid ← beginLoad (.g d.toNat) r false (ct == .sc) fin
      modify fun (s : State) => s.peerAsk { r with pid := pid } dev) s

/-- STT.TAG (R306): ordered as a store; on a WS page it is no WS write. -/
def execSttTag (a : GReg) (b : Src) (s : State) : Host.Outcome State Fault Refusal :=
  runEx (do
    needGroup .matrix
    let (v, va) ← pk2 (src0 a) (src b) []
    let fin := pop [src0 a, src b]
    let tag : Tag := v.extractLsb' 0 32 &&& 0xFF00FFFF
    gate
    let t ← resolve va 64 64 .write
    match t with
    | .mem pa e => do
      match regionOf pa with
      | .weight _ => trap .wswrite va 0
      | _ => pure ()
      let ct ← pageType pa e va
      scWait ct
      ordered pa
      let s ← get
      if (match s.l1 (coreOf s.cur) (pa / 64) with
        | some l => l.wait.any fun w => w.ctx == s.cur
        | none => false) then blockOn .release
      let r0 ← mkReq .tagWrite ct pa va 64
      fin
      modify fun (s : State) =>
        let s1 := match s.l1 (coreOf s.cur) (pa / 64) with
          | some l => if l.st = L1State.pv then (if l.dirty then s.pvWrite s.cur (coreOf s.cur) (pa / 64) l false else s).dropL1 (coreOf s.cur) (pa / 64) else s
          | none => s
        (s1.modCtx s.cur fun c => { c with unacked := c.unacked + 1 }).send { r0 with tag := tag }
      advance
    | .store core off => do
      fin
      modify fun (s : State) => s.modCore core fun c => { c with lsTag := tagSet c.lsTag (off / 64) tag }
      advance
    | .win core _ _ off => do
      fin
      modify fun (s : State) => s.modCore core fun c => { c with lsTag := tagSet c.lsTag (off / 64) tag }
      advance
    | .peer dev pva => do
      if dev = (← get).deviceIndex.toNat ∧ 2 ^ 47 - 65536 ≤ pva then trap .access va 0
      let ct := (← get).peerPage dev pva
      peerScWait ct
      let r0 ← mkReq .tagWrite ct pva va 64
      fin
      modify fun (s : State) => s.peerPost { r0 with tag := tag, typed := true } dev true
      advance
      if ct = .sc then modify fun (s : State) => s.followPeer s.cur) s

/-- A prefetch (R307): its address, and the fill that starts when no check fails; a failing check drops it. -/
def prefetch (b : Src) (imm : BitVec 21) (go : State → Word → State) : Ex Unit := do
  needGroup .base
  let x ← rd1 (src b) []
  let va := effAddr x imm
  modify fun (s : State) => go s va
  advance

/-- A prefetch of a block of a page passes every check (R307). -/
def State.prefPage (s : State) (va : Word) : Option (Nat × TlbEntry) × State :=
  let c := s.ctx s.cur
  let core := coreOf s.cur
  if formOf va ≠ .page ∨ ((s.core core).lockHit va 64 false).isSome then (none, s)
  else
    match s.checkNow core c.owner c.space c.level va .read with
    | (.ok pa e, s1) => (some (pa, e), s1)
    | (_, s1) => (none, s1)

/-- The page type of a block that a prefetch fetches (R154, R155, R307): it is dropped where a load would raise TYPEFAULT, and where it would wait for W. -/
def State.prefType (s : State) (pa : Nat) (e : TlbEntry) : Bool :=
  match regionOf pa with
  | .lp6 => e.ct != 3 || (s.tagAt (pa / 64)).getLsbD 7
  | _ => decide (e.ct.toNat < 2)

/-- A block's address: a prefetch names the block that its address lies in (DEDUCED, log 78). -/
def blockVa (va : Word) : Word := w64 (va.toNat / 64 * 64)

/-- The fill that PREF.L1 starts (R307): it never waits for W. -/
def State.prefL1 (s : State) (va : Word) : State :=
  match s.prefPage (blockVa va) with
  | (some (pa, e), s1) =>
    let core := coreOf s.cur
    let b := pa / 64
    if (s1.l1 core b).isSome ∨ s1.prefType pa e = false then s1
    else
      let owner := (s1.ctx s.cur).owner
      let r : Req := { op := .rds, ctx := s.cur, core := core, owner := owner, pa := pa, va := blockVa va, ct := PageType.ofCt e.ct, size := 64 }
      if r.ct = .ws then s1.send { r with op := .wsLoad }
      else ((s1.makeRoom core b).setL1 core b (newLine .isD owner r.ct [])).send r
  | (none, s1) => s1

/-- The fill that PREF.LLC starts (R307). -/
def State.prefLlc (s : State) (va : Word) : State :=
  match s.prefPage (blockVa va) with
  | (some (pa, e), s1) =>
    if regionOf pa = .lp6 ∧ s1.prefType pa e = true then s1.slotTouch (s1.ctx s.cur).owner (coreOf s.cur) s.cur pa false false else s1
  | (none, s1) => s1

/-- The fetch that PREF.WIN starts (R307): the INVALID window block of a local-view address. -/
def State.prefWin (s : State) (va : Word) : State :=
  let core := coreOf s.cur
  match formOf va with
  | .localView off =>
    match (s.core core).windowAt off with
    | none => s
    | some (w, k) =>
      let wb := s.winBlock core w k
      if wb.v ∨ wb.d ≠ 0 ∨ ((s.core core).lockHit (blockVa va) 64 false).isSome then s
      else
        match tget (s.core core).windows w with
        | none => s
        | some win =>
          match s.checkNow core win.owner win.space win.level (w64 (win.va + 64 * k)) .read with
          | (.ok pa e, s1) =>
            if regionOf pa = .host ∨ e.ct = 2 ∨ s1.prefType pa e = false then s1
            else
              s1.send { op := .winFill, ctx := s.cur, core := core, owner := (s1.ctx s.cur).owner, pa := pa, va := 1,
                        ct := PageType.ofCt e.ct, size := 64, c := w64 w, x := w64 k }
          | (_, s1) => s1
  | _ => s

/-- PREF.L1, PREF.LLC and PREF.WIN (R307). -/
def execPrefL1 (b : Src) (imm : BitVec 21) (s : State) : Host.Outcome State Fault Refusal := runEx (prefetch b imm State.prefL1) s
def execPrefLlc (b : Src) (imm : BitVec 21) (s : State) : Host.Outcome State Fault Refusal := runEx (prefetch b imm State.prefLlc) s
def execPrefWin (b : Src) (imm : BitVec 21) (s : State) : Host.Outcome State Fault Refusal := runEx (prefetch b imm State.prefWin) s

/-- The cache maintenance functions (R308). -/
inductive Maint where
  | flush | clean | inval
  deriving DecidableEq, Repr

/-- What a maintenance function does to one line (R308). A line on its way to another state is left to the message that
moves it. -/
def State.maintLine (s : State) (f : Maint) (core b : Nat) (l : L1Line) : State :=
  match l.st with
  | .pv =>
    let s1 := if l.dirty ∧ f ≠ .inval then (s.modCtx s.cur fun c => { c with unacked := c.unacked + 1 }).pvWrite s.cur core b l true else s
    if f = .clean then s1.setL1 core b { l with dirty := false } else s1.dropL1 core b
  | .m | .o =>
    (s.modCtx s.cur fun c => { c with unacked := c.unacked + 1 }).writeBack s.cur core b l (f = .clean) true
  | .e | .s | .ro => if f = .clean then s else s.dropL1 core b
  | _ => s

/-- The cores whose caches a maintenance instruction reaches (R308). -/
def State.maintCores (s : State) (sc : Nat) : List Nat :=
  let core := coreOf s.cur
  let o := (s.ctx s.cur).owner
  if sc ≤ 1 then [core]
  else
    let held := (s.cores.map (·.1)).filter fun k => s.coreHeldBy k o || k == core
    held.filter fun k => if sc = 2 then clusterOf k == clusterOf core else if sc = 3 then dieOf k == dieOf core else true

/-- The physical address of a page that has a valid translation (R308). -/
def State.mapped (s : State) (va : Word) : Option Nat × State :=
  let c := s.ctx s.cur
  let core := coreOf s.cur
  if formOf va ≠ .page then (none, s)
  else
    match s.tlbFind core (tableOwner c.owner c.level) c.space va with
    | some e => (some (e.out va), s)
    | none =>
      match s.walkAll (s.walkStart 0 core (.access 0) c.owner c.space (if c.level = .f then .f else .s) va .read 8) 20 with
      | (.ok e, s1) => (some (e.out va), s1)
      | (_, s1) => (none, s1)

/-- One page of a maintenance range: the lines of its blocks between two addresses. -/
def State.maintPage (s : State) (f : Maint) (cores : List Nat) (lo hi : Nat) (page : Nat) : State :=
  match s.mapped (w64 (65536 * page)) with
  | (none, s1) => s1
  | (some pa, s1) =>
    let a := pa + (max lo (65536 * page) - 65536 * page)
    let z := pa + (min hi (65536 * (page + 1)) - 65536 * page)
    let hit (b : Nat) : Bool := decide (a ≤ 64 * b ∧ 64 * b < z)
    let one (s : State) (core : Nat) : State :=
      let s2 := ((s.core core).l1.filter fun e => hit e.1).foldl (fun s e => s.maintLine f core e.1 e.2) s
      if f = .inval then s2.modCore core fun c => { c with icache := c.icache.filter fun e => !hit e.1 } else s2
    cores.foldl one s1

/-- A maintenance function over a range of addresses, page by page. -/
def State.maintRange (s : State) (f : Maint) (base len : Word) (sc : Nat) : State :=
  let lo := base.toNat / 64 * 64
  let hi := if len = 0 then lo else (base.toNat + min len.toNat (2 ^ 32) + 63) / 64 * 64
  let cores := s.maintCores sc
  (List.range' (lo / 65536) ((hi + 65535) / 65536 - lo / 65536)).foldl (fun (s : State) (p : Nat) => s.maintPage f cores lo hi p) s

/-- CFLUSH, CCLEAN and CINVAL (R308): the context's own accesses that still wait at a line of its core come first (R181), but for those to SC pages,
which hold nothing back here (R163). -/
def maint (f : Maint) (b c : Src) (sc : BitVec 3) : Ex Unit := do
  needGroup .base
  let (base, len) ← pk2 (src b) (src c) []
  gate
  let s ← get
  if (s.core (coreOf s.cur)).l1.any fun e => e.2.ct != .sc && e.2.wait.any fun w => w.ctx == s.cur then blockOn .release
  pop [src b, src c]
  modify fun (s : State) => s.maintRange f base len sc.toNat
  advance

def execCflush (b c : Src) (sc : BitVec 3) (s : State) : Host.Outcome State Fault Refusal := runEx (maint .flush b c sc) s
def execCclean (b c : Src) (sc : BitVec 3) (s : State) : Host.Outcome State Fault Refusal := runEx (maint .clean b c sc) s
def execCinval (b c : Src) (sc : BitVec 3) (s : State) : Host.Outcome State Fault Refusal := runEx (maint .inval b c sc) s

/-- Two ranges overlap. -/
def overlap (a n b m : Nat) : Bool := decide (a < b + m ∧ b < a + n)

/-- WMAP (R309, R147). -/
def execWmap (d : GReg) (b c e : Src) (s : State) : Host.Outcome State Fault Refusal :=
  runEx (do
    needGroup .win
    let (l, v, n) ← pk3 (src b) (src c) (src e) [dst d]
    gate
    match [l, v, n].find? fun x => x.toNat % 64 ≠ 0 with
    | some x => trap .align x 0
    | none => pure ()
    let s ← get
    let k := s.core (coreOf s.cur)
    let clash (w : Window) : Bool :=
      overlap l.toNat n.toNat (64 * w.lblk) (64 * w.nblk) || overlap v.toNat n.toNat w.va (64 * w.nblk)
    match (upTo 16).find? fun i => (tget k.windows i).isNone with
    | none => trap .access v 0
    | some i =>
      if n = 0 ∨ 0x80000 < l.toNat + n.toNat ∨ 2 ^ 55 ≤ v.toNat ∨ k.windows.any (fun x => clash x.2) then trap .access v 0
      let x ← me
      pop [src b, src c, src e]
      modify fun (s : State) => s.modCore (coreOf s.cur) fun k => { k with
        windows := tset k.windows i ⟨l.toNat / 64, v.toNat, n.toNat / 64, x.owner, x.space, x.level, []⟩ }
      wr d (w64 i)
      advance) s

/-- The window that R310's functions act on; none when it is not bound. -/
def windowOf (b : Src) (ds : List Opnd) : Ex (Nat × Option Window) := do
  needGroup .win
  let w ← pk1 (src b) ds
  if 15 < w.toNat then trap .access w 0
  let s ← get
  pure (w.toNat, tget (s.core (coreOf s.cur)).windows w.toNat)

/-- A fetch for a window is on its way: WUNMAP and WDROP follow it (R310). -/
def State.windowFilling (s : State) (core w : Nat) : Bool :=
  let hit (r : Req) : Bool := r.op == .winFill && r.core == core && r.c.toNat == w
  s.requests.any hit || s.agenda.any fun i => match i with
    | .windowFill c k .. => c == core && k == w
    | _ => false

/-- WUNMAP (R310): it waits until every merge is acknowledged, then unbinds; a WONCE is taken precisely at it. -/
def execWunmap (b : Src) (s : State) : Host.Outcome State Fault Refusal :=
  runEx (do
    let (i, w) ← windowOf b []
    gate
    match w with
    | none => pure ()
    | some w => do
      let s ← get
      let core := coreOf s.cur
      if w.blocks.any fun e => e.2.d ≠ 0 then do
        flushBlocks core i w true w.blocks
        blockOn .release
      if (s.ctx s.cur).unacked ≠ 0 ∨ s.windowFilling core i then blockOn .release
      modify fun (s : State) => s.modCore core fun k => { k with windows := tdel k.windows i }
      if (s.ctx s.cur).owed.any fun p => p.cause == .wonce then takeOwed
    pop [src b]
    advance) s

/-- WFLUSH (R310): it does not wait. -/
def execWflush (b : Src) (s : State) : Host.Outcome State Fault Refusal :=
  runEx (do
    let (i, w) ← windowOf b []
    gate
    match w with
    | none => pure ()
    | some w => do
      let s ← get
      flushBlocks (coreOf s.cur) i w true w.blocks
    pop [src b]
    advance) s

/-- WDROP (R310). -/
def execWdrop (b : Src) (s : State) : Host.Outcome State Fault Refusal :=
  runEx (do
    let (i, w) ← windowOf b []
    gate
    match w with
    | none => pure ()
    | some w => do
      let s ← get
      if s.windowFilling (coreOf s.cur) i then blockOn .release
      modify fun (s : State) => s.modCore (coreOf s.cur) fun k => { k with windows := tset k.windows i { w with blocks := [] } }
    pop [src b]
    advance) s

/-- The status word of a window (R310). -/
def windowStatus (w : Window) : Word :=
  w64 (1 + 2 * w.lblk + 2 ^ 14 * w.nblk + 2 ^ 28 * (w.blocks.countP fun e => e.2.v) + 2 ^ 42 * (w.blocks.countP fun e => e.2.d != 0))

/-- WSTAT (R310). -/
def execWstat (d : GReg) (b : Src) (s : State) : Host.Outcome State Fault Refusal :=
  runEx (do
    let (_, w) ← windowOf b [dst d]
    pop [src b]
    wr d (match w with
      | some w => windowStatus w
      | none => 0)
    advance) s

/-- CBLD (R311): 32 bytes, untyped, into a slot of the core. -/
def execCbld (k : BitVec 3) (b : Src) (imm : BitVec 21) (s : State) : Host.Outcome State Fault Refusal :=
  runEx (do
    needGroup .cb4
    let x ← pk1 (src b) []
    let va := effAddr x imm
    let fail (c : Cause) (info : Word) : Ex Unit := do
      pop [src b]
      modMe fun x => { x with owed := some (x.owed.getD ⟨c, va, info⟩) }
      advance
    let (d, _) ← readNow va 32 32 fail
    pop [src b]
    modify fun (s : State) => s.modCore (coreOf s.cur) fun c => { c with
      books := tset c.books k.toNat (BitVec.ofNat 256 (blockBytes d (va.toNat % 64) 32)) }
    advance) s

/-- CBST (R311): an ordinary store of a slot. -/
def execCbst (k : BitVec 3) (b : Src) (imm : BitVec 21) (s : State) : Host.Outcome State Fault Refusal :=
  runEx (do
    needGroup .cb4
    let x ← pk1 (src b) []
    let va := effAddr x imm
    let s ← get
    let book := (tget (s.core (coreOf s.cur)).books k.toNat).getD 0
    storeTo va 32 ⟨placeBytes (va.toNat % 64) book.toNat, rangeMask (va.toNat % 64) 32, none⟩ .plain none (pop [src b])) s

end Sys2Proof.Machine
end

