-- ==== Sys2Proof/Machine/Engines.lean ====
section
/-!
DEFINITION. Matrix engines and copy engines: how an engine reads and writes a block (R145, R151, R153, R154, R176, R347), tile
tasks (R98 to R100, R175, R245 to R250, R333 to R344), and copies with their promises (R346 to R350).
-/

namespace Sys2Proof.Machine

/-- Whom an engine acts for: the number of the tile task or copy, the issuing context with its core, owner, SPACE and level, and whether it is a
matrix engine. -/
structure Agent where
  unit : Nat
  ctx : Nat
  core : Nat
  owner : Nat
  space : BitVec 16
  level : Level
  tile : Bool
  deriving DecidableEq, Repr

def Tile.agent (t : Tile) : Agent := ⟨t.id, t.ctx, t.core, t.owner, t.space, t.level, true⟩
def CopyReq.agent (c : CopyReq) : Agent := ⟨c.id, c.ctx.getD (16 * c.core), c.core, c.owner, c.space, c.level, false⟩

/-- What an engine's access comes to: a value, a wait for a reply to a fault message, a wait that is tried again, or an engine
cause (R341). -/
inductive EngOut (α : Type) where
  | ok (a : α)
  | hold
  | again
  | fail (c : BitVec 8)

/-- The page that an engine's access is about: the owner and SPACE that its address is translated in, and the window block that it is for, if it is
for one (R143). -/
structure EngPage where
  owner : Nat
  space : BitVec 16
  va : Word
  win : Bool

def Agent.page (a : Agent) (va : Word) : EngPage := ⟨tableOwner a.owner a.level, a.space, va, false⟩

/-- A failed check of an engine's access (R145): a stage-1 fault posts a message with ENG set, a stage-2 fault goes to firmware,
anything else is a cause. A copy that the host asked for posts no message: its page cannot be reached (R50). -/
def State.engineFault {α : Type} (s : State) (a : Agent) (p : EngPage) (acc : Acc) (size : Nat) (c : Checked) : EngOut α × State :=
  let f (k : FaultKind) (l : Nat) : Fault1 := ⟨a.ctx, a.core, p.owner, p.space, k, l, p.va, acc, size, p.win, a.unit⟩
  let host : Bool := s.copies.any fun q => q.id == a.unit && q.cmd.isSome
  match c with
  | .ok .. => (.again, s)
  | .stage1 k l =>
    if host then (.fail Cause.access.code, s)
    else
      match s.postFault (f k l) with
      | .noRing => (.fail Cause.access.code, s)
      | .waits s1 => (.hold, s1)
      | .full s1 => (.again, s1)
  | .stage2 ipa l k => (.hold, s.report (.stage2 (engineNumber a.unit) ipa (faultBody (f k l) s.dtc)))
  | .cause k _ => (.fail k.code, s)

/-- A running tile task changed. -/
def State.modTile (s : State) (cl id : Nat) (f : Tile → Tile) : State :=
  s.modCluster cl fun k => { k with tiles := mapIf (fun t : Tile => t.id == id) f k.tiles }

/-- An engine's access is under way: its request, or what answers it. -/
def State.accessing (s : State) (seq : Nat) : Bool :=
  (s.requests.any fun r => r.op == .touch && r.seq == seq) || s.resources.any fun e => e.2.queue.any fun q => q.access == seq

/-- The fetch of the same block by another engine of the cluster for the same owner, while it is under way (R338). -/
def State.sameFetch (s : State) (a : Agent) (pa : Nat) : Option Nat :=
  if a.tile then
    ((s.cluster (clusterOf a.core)).tiles.flatMap fun t => if t.id ≠ a.unit ∧ t.owner = a.owner then t.fetching else []).findSome? fun e =>
      if e.2 = some (pa / 64) ∧ s.accessing e.1 = true then some e.1 else none
  else none

/-- An access of a tile task noted: its slot waits are the task's (R342). -/
def State.noteAccess (s : State) (a : Agent) (seq : Nat) (block : Option Nat) : State :=
  if a.tile then s.modTile (clusterOf a.core) a.unit fun t => { t with fetching := t.fetching ++ [(seq, block)] } else s

/-- An engine's access takes its slots (R384), and its data is moved at once (log 2); a fetch that another engine's is merged with takes none (R338). -/
def State.engineTouch (s : State) (a : Agent) (pa : Nat) : State :=
  match s.sameFetch a pa with
  | some seq => s.noteAccess a seq (some (pa / 64))
  | none => (s.noteAccess a s.nextId (some (pa / 64))).unitTouch a.owner a.core a.ctx a.unit pa false false
def State.engineUpdate (s : State) (a : Agent) (pa : Nat) (f : Block → Tag → Block × Tag) : State :=
  (s.noteAccess a s.nextId none).unitUpdate a.owner a.core a.ctx a.unit pa true f

/-- The accesses of an engine's operation that have not been served yet. -/
def State.engineBusy (s : State) (unit : Nat) : Bool := s.requests.any fun r => r.op == .touch && r.pid == unit
/-- Accesses of a tile task are still under way, its own or ones that they are merged with. -/
def State.tileFetching (s : State) (t : Tile) : Bool := t.fetching.any fun e => s.accessing e.1

/-- A page type that memory outside LP6 data may have (R154, R155). -/
def plainType (e : TlbEntry) : Bool := e.ct == 0 || e.ct == 1

/-- An engine at a core's local store: its own core's is never checked, another's must be held by its owner and exported (R153).
A block with a lasting error gives MEMERR (R158). -/
def State.engineStoreCheck (s : State) (a : Agent) (core off : Nat) (write : Bool) : Option (BitVec 8) :=
  if core ≠ a.core ∧ s.coreHeldBy core a.owner = false then some Cause.access.code
  else if core ≠ a.core ∧ s.exported core off 64 write true = false then some Cause.lsrefused.code
  else if s.deadBlock core off then some Cause.memerr.code
  else none

/-- A window block read by an engine is filled as if the owning core had loaded it (R151), charged to the engine's owner. -/
def State.engineWindow (s : State) (a : Agent) (core w k : Nat) : EngOut (Block × Tag) × State :=
  match tget (s.core core).windows w with
  | none => (.again, s)
  | some win =>
    let b := s.winBlock core w k
    let off := 64 * (win.lblk + k)
    if b.v ∨ b.d = 0xFF then (.ok (s.lsBlock core off), s)
    else
      let va := w64 (win.va + 64 * k)
      match s.checkNow core win.owner win.space win.level va .read with
      | (.ok pa e, s1) =>
        if e.ct = 2 ∨ (regionOf pa ≠ .lp6 ∧ plainType e = false) then (.fail Cause.typefault.code, s1)
        else if e.ct = 3 ∧ (s1.tagAt (pa / 64)).getLsbD 7 = false then (.again, s1)
        else
          let s2 := s1.engineTouch a pa
          let (d, t) := s2.coherent pa
          let s3 := s2.fillWindow core w k d t
          (.ok (s3.lsBlock core off), s3)
      | (c, s1) => s1.engineFault a ⟨tableOwner win.owner win.level, win.space, va, true⟩ .read 64 c

/-- A local store block read by an engine (R151, R153). -/
def State.engineLocal (s : State) (a : Agent) (core off : Nat) : EngOut (Block × Tag) × State :=
  match s.engineStoreCheck a core off false with
  | some c => (.fail c, s)
  | none =>
    match s.localTarget core off with
    | .win c w k _ => s.engineWindow a c w k
    | _ => (.ok (s.lsBlock core off), s)

/-- A block of memory read by an engine as one unit with its tag (R242): a WS block waits for W (R166); a PV block that the issuing
core holds is read from its L1, where the issuer's stores have been performed (R176). -/
def State.engineMem (s : State) (a : Agent) (pa : Nat) (e : TlbEntry) : EngOut (Block × Tag) × State :=
  match regionOf pa with
  | .weight _ => if plainType e then (.ok (s.coherent pa), s.engineTouch a pa) else (.fail Cause.typefault.code, s)
  | .host => if plainType e then (.ok (s.coherent pa), s) else (.fail Cause.typefault.code, s)
  | .lp6 =>
    if e.ct = 3 ∧ (s.tagAt (pa / 64)).getLsbD 7 = false then (.again, s)
    else
      let line := if e.ct = 0 then s.l1 a.core (pa / 64) else none
      match line with
      | some l => if l.st.holds then (.ok (l.data, l.tag), s) else (.again, s)
      | none => (.ok (s.coherent pa), s.engineTouch a pa)
  | _ => (.fail Cause.access.code, s)

/-- A block read by an engine at a local virtual address. -/
def State.engineRead (s : State) (a : Agent) (va : Word) : EngOut (Block × Tag) × State :=
  match formOf va with
  | .page =>
    match s.checkNow a.core a.owner a.space a.level va .read with
    | (.ok pa e, s1) => s1.engineMem a pa e
    | (c, s1) => s1.engineFault a (a.page va) .read 64 c
  | .localView off => s.engineLocal a a.core off
  | .clusterView k off => if isChannel a.core then (.fail Cause.access.code, s) else s.engineLocal a (a.core / 8 * 8 + k) off
  | _ => (.fail Cause.access.code, s)

/-- A block written by an engine as one unit, its bytes with FMT and SCALE where a tag is given (R339, R347). A WS block is
written once and its W set (R166); in the weight store a copy may write while the write window is open (R154). -/
def State.engineWriteMem (s : State) (a : Agent) (pa : Nat) (e : TlbEntry) (d : Block) (t : Option Tag) : EngOut Unit × State :=
  let b := pa / 64
  let tagOf (old : Tag) : Tag := match t with
    | some t => typedTag old t
    | none => old
  match regionOf pa with
  | .weight n =>
    if a.tile then (.fail Cause.wswrite.code, s)
    else if (s.porter n).windowOpen.contains a.owner = false then (.fail Cause.access.code, s)
    else (.ok (), s.engineUpdate a pa fun _ old => (d, tagOf old))
  | .host => if plainType e then (.ok (), s.engineUpdate a pa fun _ old => (d, old)) else (.fail Cause.typefault.code, s)
  | .lp6 =>
    if s.busy b then (.again, s)
    else if e.ct = 3 then
      if (s.tagAt b).getLsbD 7 then (.fail Cause.wonce.code, s)
      else
        let s1 := s.engineUpdate a pa fun _ old => (d, tagOf old ||| 0x80)
        (.ok (), s1.serveReaders pa)
    else
      let own := if e.ct = 0 then s.l1 a.core b else none
      match own with
      | some l =>
        if l.st.holds then
          let s1 := (s.dropL1 a.core b).engineUpdate a pa fun _ old => (d, tagOf old)
          (.ok (), s1.checkBlock pa)
        else (.again, s)
      | none =>
        let s1 := s.engineUpdate a pa fun _ old => (d, tagOf old)
        (.ok (), s1.checkBlock pa)
  | _ => (.fail Cause.access.code, s)

/-- A block written by an engine at a local virtual address (R151, R153). -/
def State.engineWrite (s : State) (a : Agent) (va : Word) (d : Block) (t : Option Tag) : EngOut Unit × State :=
  let store (core off : Nat) : EngOut Unit × State :=
    match s.engineStoreCheck a core off true with
    | some c => (.fail c, s)
    | none => (.ok (), s.localWrite core off d (BitVec.allOnes 64) t)
  match formOf va with
  | .page =>
    match s.checkNow a.core a.owner a.space a.level va .write with
    | (.ok pa e, s1) => s1.engineWriteMem a pa e d t
    | (c, s1) => s1.engineFault a (a.page va) .write 64 c
  | .localView off => store a.core off
  | .clusterView k off => if isChannel a.core then (.fail Cause.access.code, s) else store (a.core / 8 * 8 + k) off
  | _ => (.fail Cause.access.code, s)

/-- The word of a DKIND action found (R388): an 8-byte atomic on an SC page, here or at a peer, which needs PEER (R43, R132). -/
inductive DkPlace where
  | none
  | here (pa : Nat)
  | peer (dev pva : Nat)

def State.dkCheck (s : State) (a : Agent) (dkind : BitVec 2) (va : Word) : EngOut DkPlace × State :=
  if dkind = 0 then (.ok .none, s)
  else
    match formOf va with
    | .page =>
      match s.checkNow a.core a.owner a.space a.level va .atomic with
      | (.ok pa e, s1) => if regionOf pa = .lp6 ∧ e.ct = 2 then (.ok (.here pa), s1) else (.fail Cause.typefault.code, s1)
      | (c, s1) => s1.engineFault a (a.page va) .atomic 8 c
    | .peer d p => if s.accepted (s.ctx a.ctx) .peer then (.ok (.peer d p), s) else (.fail Cause.access.code, s)
    | _ => (.fail Cause.typefault.code, s)

/-- The DKIND action (R340, R349, R229): JCDEC, or BARARR, whose barrier is broken instead when the operation has faulted. -/
def State.dkAct (s : State) (a : Agent) (dkind : BitVec 2) (va : Word) (p : DkPlace) (faulted : Bool) : State :=
  let r : Req := { op := if dkind = 1 then .jcdec else .bararr, ctx := a.ctx, core := a.core, owner := a.owner, pa := 0, va := va, ct := .sc,
                   x := if dkind = 2 ∧ faulted then 1 else 0 }
  match p with
  | .none => s
  | .here pa => s.toSlice { r with pa := pa }
  | .peer d p =>
    match s.peerPort a.core a.owner d with
    | (some port, s1) =>
      let m : PeerMsg := ⟨d, port, a.space, { r with pa := p, ctx := engineBase }, false, false⟩
      let s2 := ({ s1 with peerOut := s1.peerOut ++ [⟨engineBase, m⟩] } : State).peerUnits port 0 a.owner 1 []
      if d = s.deviceIndex.toNat then s2.post (peerEvents m) else s2
    | (none, s1) => s1

/-- The engine result queue of a context: whether one is bound, and whether it has room (R340, R351). -/
def Ctx.hasResults (c : Ctx) : Bool := c.bind.any fun e => e.2 == .results
def Ctx.resultsFull (c : Ctx) : Bool := c.hasResults && decide (16 ≤ c.results.length)
/-- A completion word that arrives for a saved context joins its record (R208). -/
def State.recordResult (s : State) (n : Nat) (w : Word) : State :=
  match tget s.saved n with
  | some sv =>
    if sv.cup then s
    else
      let c := s.ctx n
      let at_ := 0x680 + 8 * c.results.length
      let bytes := 64 * (at_ / 64)
      (s.ipaWrite c.owner sv.core ((s.owner c.owner).savearea.toNat + 4096 * sv.num + bytes) (placeBytes (at_ % 64) w.toNat)
        (placeBytes (at_ % 64) (2 ^ 64 - 1))).getD s
  | none => s
/-- A completion word pushed to the engine result queue, or discarded with none bound (R340). -/
def State.pushResult (s : State) (n : Nat) (w : Word) : State :=
  if (s.ctx n).hasResults then
    (s.recordResult n w |>.modCtx n fun c => { c with results := c.results ++ [w] }).wakeIf fun m x => m == n && (match x with
      | .queue _ => true
      | _ => false)
  else s

/-- Range-lock entries of an operation freed (R175, R340). -/
def State.freeLocks (s : State) (core op : Nat) : State :=
  s.modCore core fun c => { c with locks := c.locks.filter fun e => e.2.op != op }

/-- The lowest n free entries of a range-lock table (R175). -/
def Core.freeLockEntries (c : Core) (n : Nat) : Option (List Nat) :=
  let l := (upTo 64).filter fun i => !(c.locks.any fun e => e.1 == i)
  if n ≤ l.length then some (l.take n) else none
def State.addLocks (s : State) (core : Nat) (places : List Nat) (l : List RangeLock) : State :=
  s.modCore core fun c => { c with locks := (places.zip l).foldl (fun t e => tset t e.1 e.2) c.locks }

/-- Fields of a tile-task record (R334). -/
def tW (b : Block) (i : Nat) : Word := blockWord b i
def tAcc (b : Block) : Bool := (tW b 0).getLsbD 0
def tStore (b : Block) : Bool := (tW b 0).getLsbD 1
def tRq (b : Block) : Bool := (tW b 0).getLsbD 2
def tSlot (b : Block) : Nat := wbits (tW b 0) 6 4
def tOty (b : Block) : BitVec 3 := (tW b 0).extractLsb' 8 3
def tOmode (b : Block) : Bool := (tW b 0).getLsbD 11
def tOrm (b : Block) : BitVec 2 := (tW b 0).extractLsb' 12 2
def tOscale (b : Block) : BitVec 8 := (tW b 0).extractLsb' 16 8
def tSc (b : Block) : BitVec 3 := (tW b 0).extractLsb' 24 3
def tNk (b : Block) : Nat := wbits (tW b 0) 39 32
def tPred (b : Block) : Nat := wbits (tW b 0) 55 48
def tGive (b : Block) : Nat := wbits (tW b 0) 63 56
def tAstride (b : Block) : Nat := wbits (tW b 4) 31 0
def tBstride (b : Block) : Nat := wbits (tW b 4) 63 32
def tOstride (b : Block) : Nat := wbits (tW b 5) 31 0
def tDkind (b : Block) : BitVec 2 := (tW b 7).extractLsb' 0 2
def tDaddr (b : Block) : Word := tW b 7 &&& ~~~(7 : Word)
/-- Output blocks per row (R334, R336). -/
def tBlocks (b : Block) : Nat := tyWidth (tOty b) / 8

/-- An address that is a peer's, or that the owner's tables place in the host window (R335). -/
def State.offDevice (s : State) (a : Agent) (va : Word) : Bool :=
  match formOf va with
  | .peer .. => true
  | .page =>
    match s.checkNow a.core a.owner a.space a.level va .read with
    | (.ok pa _, _) => regionOf pa == .host
    | _ => false
  | _ => false

/-- A malformed record (R335). acc is the number of slots the task claims. -/
def State.tileMalformed (s : State) (a : Agent) (acc : Nat) (b : Block) : Bool :=
  let al (w : Word) : Bool := w.toNat % 64 != 0
  (tW b 0 &&& 0x0000FF00F800C088 != 0) || (tW b 7).getLsbD 2 || tDkind b == 3
    || 4 < tSlot b || tNk b == 0 || 192 < tNk b
    || (tSlot b < 4 && acc ≤ tSlot b)
    || (tSlot b == 4 && (tAcc b || !tStore b))
    || (tStore b && tOty b < 3)
    || al (tW b 1) || al (tW b 2) || al (tW b 3) || tAstride b % 64 != 0 || tBstride b % 64 != 0 || tOstride b % 64 != 0
    || (!tStore b && tW b 3 != 0) || wbits (tW b 6) 2 0 != 0
    || s.offDevice a (tW b 1) || s.offDevice a (tW b 2) || (tStore b && s.offDevice a (tW b 3))

/-- The range locks of a record (R336): the hulls of A and B, and of the output. -/
def tileLocks (id : Nat) (b : Block) : List RangeLock :=
  [⟨id, (tW b 1).toNat, 63 * tAstride b + 64 * tNk b, false⟩, ⟨id, (tW b 2).toNat, 63 * tBstride b + 64 * tNk b, false⟩]
    ++ (if tStore b then [⟨id, (tW b 3).toNat, 63 * tOstride b + 64 * tBlocks b, true⟩] else [])

/-- The counter that a record waits for (R98, R334): found at the push, and watched there unless it reads zero. A word that cannot be
reached on an SC page ends the task with the cause (log 30). -/
def State.tileWait (s : State) (a : Agent) (va : Word) : Option (BitVec 8) × Option Nat × State :=
  if va = 0 then (none, none, s)
  else
    match s.checkNow a.core a.owner a.space a.level va .read with
    | (.ok pa e, s1) =>
      if regionOf pa ≠ .lp6 ∨ e.ct ≠ 2 then (some Cause.typefault.code, none, s1)
      else if blockBytes (s1.coherent pa).1 (pa % 64) 8 = 0 then (none, none, s1)
      else (none, some pa, s1.modSlice (channelOf pa) fun sl => { sl with watch := sl.watch ++ [(pa, clusterOf a.core)] })
    | (.cause c _, s1) => (some c.code, none, s1)
    | (_, s1) => (some Cause.access.code, none, s1)

/-- A context's merged writes to WS blocks leave for their homes: an engine that it starts reads them (R176). -/
def State.sendWs (s : State) (n : Nat) : State :=
  let l := (s.ctx n).ws
  l.foldl (fun s r => s.send r) (s.modCtx n fun c => { c with ws := [], unacked := c.unacked + l.length })

/-- PUSH (R336): the record is read as one unit, waits for a place in the owner's share (R98) and for its range-lock entries, and
joins its cluster's scheduler with a copy of the codebook slots. -/
def execPush (d : GReg) (b : Src) (s : State) : Host.Outcome State Fault Refusal :=
  runEx (do
    needGroup .matrix
    if isChannel (coreOf s.cur) then undef
    let ra ← pk1 (src b) [dst d]
    let fail (ca : Cause) (info : Word) : Ex Unit := do
      pop [src b]
      let pid ← produce (.g d.toNat) none false
      advance
      arriveLater pid (.failed ca ra info)
    typeGate .rc
    let (body, _) ← readNow ra 64 64 fail
    let s ← get
    let c ← me
    let core := coreOf s.cur
    let cl := clusterOf core
    let share := 4 * (s.owner c.owner).active.quota (dieOf core) 3
    if share ≤ (s.cluster cl).tiles.countP (fun t => !t.done && t.owner == c.owner) then blockOn .tileShare
    let a : Agent := ⟨0, s.cur, core, c.owner, c.space, c.level, true⟩
    let acc := (c.task.map (·.acc)).getD []
    let bad := s.tileMalformed a acc.length body
    let (id, s1) := s.newId
    let locks := if bad then [] else tileLocks id body
    match (s1.core core).freeLockEntries locks.length with
    | none => blockOn (.rangeLock ra)
    | some places => do
      set (s1.addLocks core places locks)
      let s ← get
      let (early, wjc, s2) := if bad then (none, none, s) else s.tileWait a (tW body 6)
      set s2
      let t : Tile :=
        { id := id, ctx := s.cur, core := core, owner := c.owner, space := c.space, level := c.level, body := body,
          slots := acc, books := (s2.core core).books, cb4 := s2.accepted c .cb4, wjc := wjc, jcReady := wjc.isNone,
          engine := none, k := 0, kidx := 0, busy := 0, waiting := false,
          result := if bad then some 0x40 else early, dk := none, done := false, observed := false, fetching := [] }
      modify fun (s : State) => s.modCluster cl fun k => { k with tiles := k.tiles ++ [t] }
      pop [src b]
      modMe fun c => { c with tiles := c.tiles + 1 }
      let pid ← produce (.g d.toNat) none false
      advance
      modify fun (s : State) => s.sendWs s.cur
      arriveLater pid (.word (w64 (c.tiles + 1)))
      if t.result.isSome then modify fun (s : State) => s.post [.tileTaskComplete cl (1000 + id)]) s

/-- TILE_JC_NOTIFY (R98): the home tells the scheduler that a counter reads zero. -/
def execTileJcNotify (cl pa : Nat) (s : State) : Host.Outcome State Fault Refusal :=
  let s1 := s.modCluster cl fun k => { k with
    tiles := mapIf (fun t : Tile => t.wjc == some pa) (fun t => { t with jcReady := true, wjc := none }) k.tiles }
  .next (s1.modSlice (channelOf pa) fun sl => { sl with watch := sl.watch.filter fun w => w != (pa, cl) })

/-- A context that is being saved, or is saved, starts no later task of its chains (R230). -/
def State.chainHeld (s : State) (n : Nat) : Bool :=
  let c := s.ctx n
  c.saveReq || c.sliceSince.isSome || (match c.state with
    | .saving | .saved | .cupboard => true
    | _ => false)

/-- Every earlier store of a context has been performed at core scope (R159, R176): none waits at a line, is held for a release, or is on its way to
its home. -/
def State.storesPerformed (s : State) (n : Nat) : Bool :=
  !(s.storesWaiting n) && !((s.ctx n).releases.any fun r => r.hold.isSome) && (s.ctx n).ws.isEmpty
    && !(s.requests.any fun r => r.ctx == n && (r.op == .amo || r.op == .red || r.op == .wsWrite || r.op == .tagWrite || (r.op == .merge && !r.keep)))

/-- A record is ready (R337): the chain on its slot, its token, its counter; its issuer's stores have been performed (R176). -/
def State.tileReady (s : State) (cl : Nat) (t : Tile) : Bool :=
  let mine := (s.cluster cl).tiles.filter fun u => u.ctx == t.ctx && u.observed == t.observed && u.id < t.id
  let chain := tSlot t.body < 4 && mine.any (fun u => !u.done && tSlot u.body == tSlot t.body)
  let giver := ((mine.filter fun u => tGive u.body == tPred t.body).getLast?).map (·.done)
  t.jcReady && !chain && (tPred t.body == 0 || giver.getD true) && s.storesPerformed t.ctx
    && !(tSlot t.body < 4 && s.chainHeld t.ctx)

/-- The accumulator a record runs on: a claimed slot of the cluster, or the transient one of an engine, numbered from 16. -/
def Tile.accSlot (t : Tile) (e : Nat) : Nat := if tSlot t.body < 4 then t.slots.getD (tSlot t.body) 0 else 16 + e

/-- The engine that a record can start on now (R99): the one that holds its slot, or the lowest-numbered free one. -/
def State.tileEngine (s : State) (cl : Nat) (t : Tile) : Option Nat :=
  let free (e : Nat) : Bool := !((s.cluster cl).tiles.any fun u => u.engine == some e)
  if tSlot t.body < 4 then
    (let e := t.slots.getD (tSlot t.body) 0 / 4
     if free e then some e else none)
  else (upTo 4).find? free

/-- A record that can start in a slot of its owner. -/
def State.tileStartable (s : State) (cl o : Nat) (t : Tile) : Bool :=
  t.owner == o && !s.layoutHeld o && s.coreOpen t.core o && !t.done && t.engine.isNone && t.result.isNone && s.tileReady cl t && (s.tileEngine cl t).isSome

/-- TILE_SLOT (R99): the owner's oldest record that is ready and whose engine is free starts; 40 busy cycles (R342). -/
def execTileSlot (cl o : Nat) (s : State) : Host.Outcome State Fault Refusal :=
  match (s.cluster cl).tiles.find? fun t => s.tileStartable cl o t with
  | none => .next s
  | some t =>
    match s.tileEngine cl t with
    | none => .next s
    | some e =>
      let clear (a : Tbl (Tbl (BitVec 32))) : Tbl (Tbl (BitVec 32)) := if tAcc t.body then a else tset a (t.accSlot e) []
      .next ((s.modCluster cl fun k => { k with
        tiles := mapIf (fun u : Tile => u.id == t.id) (fun u => { u with engine := some e, busy := 40 }) k.tiles,
        acc := clear k.acc }).post [.tileKStep cl e])

/-- Blocks read in order, up to the first that is not in hand. -/
def State.engineReads (s : State) (a : Agent) : List Word → EngOut (List (Block × Tag)) × State
  | [] => (.ok [], s)
  | va :: rest =>
    match s.engineRead a va with
    | (.ok d, s1) =>
      match s1.engineReads a rest with
      | (.ok l, s2) => (.ok (d :: l), s2)
      | (.hold, s2) => (.hold, s2)
      | (.again, s2) => (.again, s2)
      | (.fail c, s2) => (.fail c, s2)
    | (.hold, s1) => (.hold, s1)
    | (.again, s1) => (.again, s1)
    | (.fail c, s1) => (.fail c, s1)

/-- The operand classes that pair with each other (R247). -/
def pairClass (f : Nat) : Option Nat :=
  if 0x10 ≤ f ∧ f ≤ 0x17 then some 0
  else match fmtElem f with
    | some (.flt t) => if t.width = 8 then some 1 else if t.width = 16 then some 2 else none
    | _ => none

/-- Element i of an operand block (R245, R247). -/
def opElem (books : Tbl (BitVec 256)) (d : Block) (t : Tag) (i : Nat) : FVal :=
  let f := tagFmt t
  if 0x10 ≤ f ∧ f ≤ 0x17 then bf16.value (bookEntry ((tget books (f - 0x10)).getD 0) (lane d 4 i))
  else match fmtElem f with
    | some e => e.value (lane d e.width i)
    | none => .nan

/-- Elements per operand block (R247). -/
def opCount (f : Nat) : Nat := (fmtElems f).getD 0

/-- tree_sum of the products of a block pair (R246 to R249). -/
def pairSum (books : Tbl (BitVec 256)) (a b : Block × Tag) : Nat :=
  treeSum ((upTo (opCount (tagFmt a.2))).map fun i => prod32 (opElem books a.1 a.2 i) (opElem books b.1 b.2 i))

/-- The product table of a pair of codebooks looked up in an engine's cache, and built when it is not there (R246): the tables,
the pointer, and the cycles of a build. -/
def tableUse (ts : List (BitVec 256 × BitVec 256)) (p : Nat) (key : BitVec 256 × BitVec 256) : List (BitVec 256 × BitVec 256) × Nat × Nat :=
  if ts.contains key then (ts, p, 0)
  else if ts.length < 8 then (ts ++ [key], p, 16)
  else (ts.set p key, (p + 1) % 8, 16)

/-- The codebook pairs of a K step, in the order in which the engine visits its block pairs (log 2). -/
def stepKeys (books : Tbl (BitVec 256)) (as bs : List (Block × Tag)) : List (BitVec 256 × BitVec 256) :=
  let book (t : Tag) : Option (BitVec 256) :=
    let f := tagFmt t
    if 0x10 ≤ f ∧ f ≤ 0x17 then some ((tget books (f - 0x10)).getD 0) else none
  as.flatMap fun a => bs.filterMap fun b => match book a.2, book b.2 with
    | some x, some y => some (x, y)
    | _, _ => none

/-- A pairing of a K step that the engine refuses (R247, R341). -/
def badPair (cb4 : Bool) (as bs : List (Block × Tag)) : Bool :=
  as.any fun a => bs.any fun b => match pairClass (tagFmt a.2), pairClass (tagFmt b.2) with
    | some x, some y => x != y || (x == 0 && !cb4)
    | _, _ => true

/-- The slot after a K step (R338): each element takes acc_add of its block pair's sum. -/
def stepSlot (books : Tbl (BitVec 256)) (slot : Tbl (BitVec 32)) (as bs : List (Block × Tag)) : Tbl (BitVec 32) :=
  as.zipIdx.flatMap fun a => bs.zipIdx.map fun b =>
    let i := 64 * a.2 + b.2
    (i, BitVec.ofNat 32 (accAdd ((tget slot i).getD 0).toNat (pairSum books a.1 b.1) (tagScale a.1.2) (tagScale b.1.2)))

/-- The task stops with a cause at an index (R341), or has run to its end (0). -/
def State.tileStop (s : State) (cl e : Nat) (t : Tile) (c : BitVec 8) (kidx : Nat) : State :=
  (s.modTile cl t.id fun u => { u with result := some c, kidx := kidx }).post [.tileTaskComplete cl e]

/-- One output block (R339): 512 / width elements of a row, converted. -/
def outBlock (b : Block) (slot : Tbl (BitVec 32)) (row blk : Nat) : Block :=
  let w := tyWidth (tOty b)
  let n := 512 / w
  let sc : Int := if tOscale b = 0xFF then 0x7F else (tOscale b).toNat
  ofLanes w ((upTo n).map fun i =>
    cvtOut ((fp32.value ((tget slot (64 * row + n * blk + i)).getD 0).toNat).scale (127 - sc)) (tyElem (tOty b)) (tOrm b) (!tOmode b))

/-- One K step (R338, R342), or one output block of a task that stores (R339). It begins when the accesses of the one before have had their slots: their waits
are busy time. A step that a reply lets go on reads its blocks again (log 2). -/
def State.tileStep (s : State) (cl e : Nat) (t : Tile) : State :=
  let b := t.body
  let hold (s : State) : State := s.modTile cl t.id fun u => { u with waiting := true }
  let nk := tNk b
  if t.k ≤ nk ∧ s.tileFetching t then s.postLater [.tileKStep cl e]
  else if t.k < nk then
    if 7200 < t.busy + 32 then s.post [.tileOverrun cl e]
    else
      let rows (base : Word) (stride : Nat) : List Word := (upTo 64).map fun r => base + w64 (r * stride + 64 * t.k)
      match (s.modTile cl t.id fun u => { u with fetching := [] }).engineReads t.agent (rows (tW b 1) (tAstride b) ++ rows (tW b 2) (tBstride b)) with
      | (.hold, s1) => hold s1
      | (.again, _) => s.postLater [.tileKStep cl e]
      | (.fail c, s1) => s1.tileStop cl e t c t.k
      | (.ok l, s1) =>
        let as := l.take 64
        let bs := l.drop 64
        if badPair t.cb4 as bs then s1.tileStop cl e t Cause.badfmt.code t.k
        else
          let k0 := s1.cluster cl
          let use (x : List (BitVec 256 × BitVec 256) × Nat × Nat) (key : BitVec 256 × BitVec 256) :=
            let (ts, p, n) := tableUse x.1 x.2.1 key
            (ts, p, x.2.2 + n)
          let (ts, p, n) := (stepKeys t.books as bs).foldl use ((tget k0.tables e).getD [], (tget k0.tablePtr e).getD 0, 0)
          let slot := stepSlot t.books ((tget k0.acc (t.accSlot e)).getD []) as bs
          let s2 := s1.modCluster cl fun k => { k with
            acc := tset k.acc (t.accSlot e) slot, tables := tset k.tables e ts, tablePtr := tset k.tablePtr e p }
          (s2.modTile cl t.id fun u => { u with k := u.k + 1, busy := u.busy + 32 + n }).post [.tileKStep cl e]
  else if tStore b = false then s.tileStop cl e t 0 0
  else
    let nb := tBlocks b
    let i := t.k - nk
    if i = 0 ∧ 7200 < t.busy + 64 then s.post [.tileOverrun cl e]
    else if 64 * nb ≤ i then s.tileStop cl e t 0 0
    else
      let slot := (tget (s.cluster cl).acc (t.accSlot e)).getD []
      let tag : Tag := BitVec.ofNat 32 (fmtCode (tOty b) + 256 * (tOscale b).toNat)
      match s.engineWrite t.agent (tW b 3 + w64 (i / nb * tOstride b + 64 * (i % nb))) (outBlock b slot (i / nb) (i % nb)) (some tag) with
      | (.hold, s1) => hold s1
      | (.again, s1) => s1.postLater [.tileKStep cl e]
      | (.fail c, s1) => s1.tileStop cl e t c (i / nb)
      | (.ok _, s1) =>
        (s1.modTile cl t.id fun u => { u with k := u.k + 1, busy := u.busy + (if i = 0 then 64 else 0) }).post [.tileKStep cl e]

/-- The task that an engine runs, or, by a number from 1,000 on, a record that never runs (R335). -/
def State.tileOn (s : State) (cl e : Nat) : Option Tile :=
  (s.cluster cl).tiles.find? fun t => if e < 1000 then t.engine == some e else t.id == e - 1000 && !t.done

/-- TILE_K_STEP (R338, R342). -/
def execTileKStep (cl e : Nat) (s : State) : Host.Outcome State Fault Refusal :=
  match s.tileOn cl e with
  | some t => .next (if t.waiting ∨ t.result.isSome then s else s.tileStep cl e t)
  | none => .next s

/-- TILE_OVERRUN (R100, R342): KIDX is the step that was not begun, or NK for the output. -/
def execTileOverrun (cl e : Nat) (s : State) : Host.Outcome State Fault Refusal :=
  match s.tileOn cl e with
  | some t => .next (s.tileStop cl e t 0x41 (min t.k (tNk t.body)))
  | none => .next s

/-- The local store range of a core that an engine's destination names, if it names one (R133). -/
def localRange (core : Nat) (va : Word) : Option (Nat × Nat) :=
  match formOf va with
  | .localView off => some (core, off)
  | .clusterView k off => some (core / 8 * 8 + k, off)
  | _ => none

/-- An operation of clu scope or wider that has written window blocks is performed only once their dirty words are merged at the home (R159, R176).
The answer is none when nothing is left to merge, and the merges are sent otherwise; a page that cannot be written ends the operation. -/
def State.engineMerges (s : State) (a : Agent) (sc : BitVec 3) (dst : Word) (len : Nat) : Option (State × BitVec 8) :=
  match if sc.toNat < 2 then none else localRange a.core dst with
  | none => none
  | some (core, off) =>
    let dirty := (s.core core).windows.flatMap fun e => (e.2.blocks.filter fun b =>
      b.2.d != 0 && decide (off ≤ 64 * (e.2.lblk + b.1) ∧ 64 * (e.2.lblk + b.1) < off + len) && s.windowType core e.2 b.1 != some 0).map fun b => (e.1, e.2, b)
    if dirty.isEmpty then (if s.windowMerging core false then some (s, 0) else none)
    else
      let one (x : State × BitVec 8) (e : Nat × Window × Nat × WinBlock) : State × BitVec 8 :=
        let (w, win, k, b) := e
        let va := w64 (win.va + 64 * k)
        match x.1.checkNow core win.owner win.space win.level va .write with
        | (.ok pa p, s1) =>
          (s1.sendMerge core w k b (64 * (win.lblk + k))
            { op := .merge, ctx := a.ctx, core := core, owner := a.owner, pa := pa, va := va, ct := PageType.ofCt p.ct, size := 64 }, x.2)
        | (.cause c _, s1) => (s1, c.code)
        | (_, s1) => (s1, Cause.access.code)
      some (dirty.foldl one (s, 0))

/-- TILE_TASK_COMPLETE (R340, R388): the DKIND word is found first, since its failure stands in the completion word; then the locks
are freed, the word pushed, and DKIND performed. A full result queue holds the completion back. A task whose issuer has stopped leaves no record (log 79). -/
def execTileTaskComplete (cl e : Nat) (s : State) : Host.Outcome State Fault Refusal :=
  match s.tileOn cl e with
  | none => .next s
  | some t =>
    let finish (s : State) (p : DkPlace) (t : Tile) : State :=
      if tRq t.body ∧ t.observed = false ∧ (s.ctx t.ctx).resultsFull then s.postLater [.tileTaskComplete cl e]
      else
        let left := t.observed
        let t := { t with done := true, engine := none, waiting := false, result := some (t.result.getD 0) }
        let s1 := (if left then s.modCluster cl fun k => { k with tiles := k.tiles.filter fun u => u.id != t.id }
          else s.modTile cl t.id fun _ => t).freeLocks t.core t.id
        let s2 := if tRq t.body ∧ left = false then s1.pushResult t.ctx t.word else s1
        s2.dkAct t.agent (tDkind t.body) (tDaddr t.body) p (t.cause != 0)
    if t.waiting then .next s
    else if s.tileFetching t then .next (s.postLater [.tileTaskComplete cl e])
    else
    match if t.result = some 0 then s.engineMerges t.agent t.scope t.dest.1 t.dest.2 else none with
    | some (s1, c) => .next ((if c = 0 then s1 else s1.modTile cl t.id fun u => { u with result := some c }).postLater [.tileTaskComplete cl e])
    | none =>
    if t.dk.isSome ∨ t.result = some 0x40 then .next (finish s .none t)
    else
      match s.dkCheck t.agent (tDkind t.body) (tDaddr t.body) with
      | (.ok p, s1) => .next (finish s1 p t)
      | (.hold, s1) => .next (s1.modTile cl t.id fun u => { u with waiting := true, engine := some (u.engine.getD e) })
      | (.again, s1) => .next (s1.postLater [.tileTaskComplete cl e])
      | (.fail c, s1) => .next (finish s1 .none { t with dk := some c })

/-- Where a pre-empted slot is kept (R230). -/
def State.accAddr (s : State) (o cl slot : Nat) : Nat := (s.owner o).savearea.toNat + 0x5000000 + 16384 * (16 * cl + slot)

/-- ACC_SLOT_SAVE (R230): the slot's 4,096 values are written to the owner's save area, block by block; a fault leaves the slot in
its engine, and the pre-emption of its chain is tried again. -/
def State.saveSlot (s : State) (cl slot o : Nat) : Option State :=
  let v := (tget (s.cluster cl).acc slot).getD []
  let block (i : Nat) : Block := ofLanes 32 ((upTo 16).map fun j => ((tget v (16 * i + j)).getD 0).toNat)
  (upTo 256).foldl (fun (x : Option State) i => x.bind fun s =>
    s.ipaWrite o (8 * cl) (s.accAddr o cl slot + 64 * i) (block i) (BitVec.allOnes 512)) (some s)
def execAccSlotSave (cl slot : Nat) (s : State) : Host.Outcome State Fault Refusal :=
  match (upTo 8).findSome? fun m => ((s.tasksOn (8 * cl + m)).find? fun t => t.2.acc.contains slot).map (·.2) with
  | none => .next s
  | some t =>
    if (s.cluster cl).tiles.any (fun u => u.engine.isSome && tSlot u.body < 4 && u.slots.getD (tSlot u.body) 99 == slot) then
      .next (s.postLater [.accSlotSave cl slot])
    else
      match s.saveSlot cl slot t.owner with
      | some s1 => .next (s1.modCluster cl fun k => { k with savedAcc := if k.savedAcc.contains (t.owner, slot) then k.savedAcc else k.savedAcc ++ [(t.owner, slot)] })
      | none => .next s

/-- A saved slot loaded again into the same slot before any record naming it starts (R230). -/
def State.loadSlot (s : State) (cl slot o : Nat) : State :=
  if (s.cluster cl).savedAcc.contains (o, slot) = false then s
  else
    let block (i : Nat) : Option Block := (s.ipaRead o (s.accAddr o cl slot + 64 * i)).map (·.1)
    let values (i : Nat) : List (BitVec 32) := match block i with
      | some b => (upTo 16).map fun j => BitVec.ofNat 32 (blockBytes b (4 * j) 4)
      | none => (upTo 16).map fun j => (tget ((tget (s.cluster cl).acc slot).getD []) (16 * i + j)).getD 0
    let v : Tbl (BitVec 32) := (upTo 256).flatMap fun i => (upTo 16).zipWith (fun j x => (16 * i + j, x)) (values i)
    ((upTo 256).foldl (fun s i => s.ipaCharge o (8 * cl) (s.accAddr o cl slot + 64 * i)) s).modCluster cl fun k => { k with acc := tset k.acc slot v, savedAcc := k.savedAcc.filter fun a => a != (o, slot) }

/-- Ceiling division. -/
def ceilDiv (a b : Nat) : Nat := (a + b - 1) / b

/-- The promise of a copy (R348); a quota of 0, the host window or an overflow make one that never passes. -/
def State.promise (s : State) (o core b : Nat) (peer host : Bool) : Word :=
  let die := dieOf core
  let q (k : Nat) : Nat := (s.owner o).active.quota die k
  let same (c : CopyReq) : Bool := c.owner == o && !c.done && dieOf c.core == die && c.core % 8 == core % 8
  let h := (s.copies.filter same).foldl (fun m c => max m c.promise.toNat) 0
  let sum := max s.dtc.toNat h + 1024
    + (8 * (64 - q 4) + 256 * ceilDiv b (q 4))
    + (18 * (64 - q 1) + 9 + 585 * ceilDiv (2 * b) (q 1))
    + (68 * (64 - q 2) + 64 * ceilDiv (5 * b) (q 2))
    + (if peer then 64 * (64 - q 6) + 2048 * ceilDiv b (20 * q 6) else 0)
  if q 4 = 0 ∨ q 1 = 0 ∨ q 2 = 0 ∨ (peer ∧ q 6 = 0) ∨ host ∨ 2 ^ 64 ≤ sum then BitVec.allOnes 64 else w64 sum

/-- Where one side of a copy lies, as its first block shows. -/
inductive Side where
  | here | peer (dev : Nat) | host | weight (die : Nat) | bad
  deriving DecidableEq, Repr
def State.sideOf (s : State) (a : Agent) (va : Word) : Side :=
  match formOf va with
  | .bad => .bad
  | .peer d _ => if (s.accepted (s.ctx a.ctx) .peer) then .peer d else .bad
  | .page =>
    match s.checkNow a.core a.owner a.space a.level va .read with
    | (.ok pa _, _) => (match regionOf pa with
      | .host => .host
      | .weight n => .weight n
      | _ => .here)
    | _ => .here
  | _ => .here
def Side.outside : Side → Bool
  | .peer _ | .host => true
  | _ => false

/-- COPY (R346 to R349). -/
def execCopy (d : GReg) (b c e : Src) (sc : BitVec 3) (tags rq : Bool) (dkind : BitVec 2) (s : State) :
    Host.Outcome State Fault Refusal :=
  runEx (do
    needGroup .base
    needScope sc
    let dk := if dkind = 0 then [] else [Opnd.src (e.reg.toNat + 1) false]
    let ops := [src b, src c, src e] ++ dk
    checkOpnds (ops ++ [dst d])
    let s ← get
    let to_ := s.gValue b.reg.toNat
    let frm := s.gValue c.reg.toNat
    let n := s.gValue e.reg.toNat
    let w := if dkind = 0 then 0 else s.gValue (e.reg.toNat + 1)
    if to_.toNat % 64 ≠ 0 then trap .align to_ 0
    if frm.toNat % 64 ≠ 0 then trap .align frm 0
    if n.toNat % 64 ≠ 0 then trap .align n 0
    if 2 ^ 32 < n.toNat then trap .access n 0
    let x ← me
    let core := coreOf s.cur
    let a : Agent := ⟨0, s.cur, core, x.owner, x.space, x.level, false⟩
    let sd := s.sideOf a to_
    let ss := s.sideOf a frm
    let closed : Bool := match sd with
      | .weight die => !((s.porter die).windowOpen.contains x.owner)
      | _ => false
    if sd = .bad ∨ ss = .bad ∨ (sd.outside ∧ ss.outside) ∨ overlap to_.toNat n.toNat frm.toNat n.toNat ∨ closed then trap .access to_ 0
    if dkind ≠ 0 then do
      let _ ← homeTarget .jcdec w .atomic false
    gate
    typeGate .rc
    takeOwed
    let s ← get
    let blocks := n.toNat / 64
    let k := x.copies + 1
    let die := dieOf core
    let put (c : CopyReq) : Ex Unit := do
      modMe fun c => { c with copies := k }
      modify fun (s : State) => { s with copies := s.copies ++ [c] }
      pop ops
      wr d c.promise
      advance
    let (id, s1) := s.newId
    let base : CopyReq :=
      { id := id, ctx := some s.cur, core := core, owner := x.owner, space := x.space, level := x.level, dst := to_, src := frm,
        blocks := blocks, scope := sc, tags := tags, rq := rq, dkind := dkind, dkAddr := w, promise := s.dtc, k := k, next := 0,
        rel := none, asked := false, got := none, unacked := 0, waiting := false, result := some 0, dk := none, done := false,
        observed := false, cmd := none }
    if blocks = 0 then do
      releaseWindows sc
      set (s1.startRelease s.cur sc false none)
      put base
      modify fun (s : State) => s.post [.copyComplete die (core % 8) id]
    else
      let locks : List RangeLock := [⟨id, frm.toNat, n.toNat, false⟩, ⟨id, to_.toNat, n.toNat, true⟩]
      match (s.core core).freeLockEntries 2 with
      | none => blockOn (.rangeLock to_)
      | some places => do
        let share := ((s.owner x.owner).active.dies.toList.getD die .zero).copyq.toNat
        let live (c : CopyReq) : Bool := !c.done && c.blocks != 0
        if share ≤ s.copies.countP (fun c => live c && c.owner == x.owner && dieOf c.core == die) then blockOn .copyQueue
        if 512 ≤ s.copies.countP (fun c => live c && c.core == core) then blockOn .copyQueue
        releaseWindows sc
        modify fun (s : State) =>
          let s2 := { s with nextId := max s.nextId s1.nextId }.startRelease s.cur sc false none
          s2.addLocks core places locks
        let s ← get
        let peer : Bool := (match sd, ss with
          | .peer _, _ => true
          | _, .peer _ => true
          | _, _ => false)
        let p := s.promise x.owner core blocks peer (sd == .host || ss == .host)
        put { base with promise := p, result := none, rel := ((s.ctx s.cur).releases.getLast?).map (·.id) }) s

/-- A copy can use a slot of its owner now: its release is complete (R176), and it waits for nothing. -/
def State.copyMovable (s : State) (c : CopyReq) : Bool :=
  let rel := match c.rel, c.ctx with
    | some r, some n => (s.ctx n).releases.any fun x => x.id == r
    | _, _ => false
  !s.layoutHeld c.owner && !c.done && c.result.isNone && !c.waiting && !rel && !(c.asked && c.got.isNone)
    && (c.next != 0 || (c.ctx.map s.storesPerformed).getD true)

/-- A copy that has faulted holds its engine until the reply (R145). -/
def State.copyHeld (s : State) (die e : Nat) : Bool :=
  s.copies.any fun c => c.waiting && c.result.isNone && dieOf c.core == die && c.core % 8 == e

/-- A copy changed. -/
def State.modCopy (s : State) (id : Nat) (f : CopyReq → CopyReq) : State :=
  { s with copies := mapIf (fun c : CopyReq => c.id == id) f s.copies }

/-- A copy stops with a cause, or has moved its last block (0). -/
def State.copyStop (s : State) (c : CopyReq) (r : BitVec 8) : State :=
  (s.modCopy c.id fun x => { x with result := some r }).post [.copyComplete (dieOf c.core) (c.core % 8) c.id]

/-- A copy's packet to a peer (R27, R347). -/
def State.copySend (s : State) (c : CopyReq) (dev : Nat) (r : Req) (withTag : Bool) : Option State :=
  match s.peerPort c.core c.owner dev with
  | (none, _) => none
  | (some port, s1) =>
    let m : PeerMsg := ⟨dev, port, c.space, { r with ctx := engineBase + c.id }, withTag, false⟩
    let s2 := ({ s1 with peerOut := s1.peerOut ++ [⟨engineBase + c.id, m⟩] } : State).peerUnits port 0 c.owner (if r.op = .rds then 1 else unitsOf m) []
    some (if dev = s.deviceIndex.toNat then s2.post (peerEvents m) else s2)

/-- A block of a copy read (R347): asked for at a peer first. -/
def State.copyRead (s : State) (c : CopyReq) : EngOut (Block × Tag) × State :=
  let va := c.src + w64 (64 * c.next)
  match formOf va with
  | .peer dev pva =>
    match c.got with
    | some (.vec d t) => (.ok (d, t), s)
    | some (.failed k _ _) => (.fail k.code, s)
    | some _ => (.fail Cause.remote.code, s)
    | none =>
      let r : Req := { op := .rds, ctx := 0, core := c.core, owner := c.owner, pa := pva, va := va, ct := .rc, size := 64, keep := true }
      match s.copySend c dev r true with
      | some s1 => (.hold, s1.modCopy c.id fun x => { x with asked := true })
      | none => (.fail Cause.remote.code, s)
  | _ => s.engineRead c.agent va

/-- A block of a copy written (R347): at a peer it is posted. -/
def State.copyWrite (s : State) (c : CopyReq) (d : Block) (t : Option Tag) : EngOut Unit × State :=
  let va := c.dst + w64 (64 * c.next)
  match formOf va with
  | .peer dev pva =>
    let r : Req := { op := .rdx, ctx := 0, core := c.core, owner := c.owner, pa := pva, va := va, ct := .rc, size := 64,
                     mask := BitVec.allOnes 64, data := d, tag := t.getD 0, typed := t.isSome }
    match s.copySend c dev r t.isSome with
    | some s1 => (.ok (), s1.modCopy c.id fun x => { x with unacked := x.unacked + 1 })
    | none => (.fail Cause.remote.code, s)
  | _ => s.engineWrite c.agent va d t

/-- One slot of a copy (R347): its next block, read and written as one unit. -/
def State.copyStep (s : State) (c : CopyReq) : State :=
  match s.copyRead c with
  | (.hold, s1) => if (formOf (c.src + w64 (64 * c.next))) matches .peer .. then s1 else s1.modCopy c.id fun x => { x with waiting := true }
  | (.again, s1) => s1
  | (.fail k, s1) => s1.copyStop c k
  | (.ok (d, t), s1) =>
    match s1.copyWrite c d (if c.tags then some t else none) with
    | (.hold, s2) => s2.modCopy c.id fun x => { x with waiting := true }
    | (.again, s2) => s2
    | (.fail k, s2) => s2.copyStop c k
    | (.ok _, s2) =>
      let s3 := s2.modCopy c.id fun x => { x with next := x.next + 1, asked := false, got := none }
      if c.blocks ≤ c.next + 1 then s3.copyStop c 0 else s3

/-- The copy that a slot of an owner serves at an engine: the oldest that can move (R347). -/
def State.copySlot (s : State) (die e o : Nat) : State :=
  match if s.copyHeld die e then none else s.copies.find? fun c => c.owner == o && dieOf c.core == die && c.core % 8 == e && s.copyMovable c with
  | some c => s.copyStep c
  | none => s

/-- COPY_COMPLETE (R349, R388): the writes have been performed; then the order of R340. A copy whose issuer has stopped leaves no record (log 79). -/
def execCopyComplete (die e id : Nat) (s : State) : Host.Outcome State Fault Refusal :=
  match s.copies.find? fun c => c.id == id && !c.done with
  | none => .next s
  | some c =>
    let finish (s : State) (p : DkPlace) (c : CopyReq) : State :=
      let full : Bool := match c.ctx with
        | some n => c.rq && !c.observed && (s.ctx n).resultsFull
        | none => false
      if full then s.postLater [.copyComplete die e id]
      else
        let c := { c with done := true, waiting := false }
        let s1 := (if c.observed then { s with copies := s.copies.filter fun x => x.id != id } else s.modCopy c.id fun _ => c).freeLocks c.core c.id
        let s2 := match c.ctx with
          | some n => if c.rq ∧ c.observed = false then s1.pushResult n c.word else s1
          | none => s1
        let s3 := s2.dkAct c.agent c.dkind c.dkAddr p (c.cause != 0)
        match c.cmd with
        | some q => { s3 with copies := s3.copies.filter fun x => x.id != id }.finishCmd q (if c.cause = 0 then 0 else 4)
        | none => s3
    if c.waiting then .next s
    else if c.unacked ≠ 0 ∨ s.engineBusy id then .next (s.postLater [.copyComplete die e id])
    else
    match if c.result = some 0 then s.engineMerges c.agent c.scope c.dst (64 * c.blocks) else none with
    | some (s1, k) => .next ((if k = 0 then s1 else s1.modCopy id fun x => { x with result := some k }).postLater [.copyComplete die e id])
    | none =>
    if c.dk.isSome then .next (finish s .none c)
    else
      match s.dkCheck c.agent c.dkind c.dkAddr with
      | (.ok p, s1) => .next (finish s1 p c)
      | (.hold, s1) => .next (s1.modCopy id fun x => { x with waiting := true })
      | (.again, s1) => .next (s1.postLater [.copyComplete die e id])
      | (.fail k, s1) => .next (finish s1 .none { c with dk := some k })

/-- The copies whose promise a WAITT covers (R350), oldest first. -/
def State.promised (s : State) (n : Nat) (t : Word) : List CopyReq :=
  s.copies.filter fun c => c.ctx == some n && !(c.observed && !c.done) && decide (c.promise.toNat ≤ t.toNat)

/-- The destination ranges of completed copies are acquired (R177, R350). -/
def State.acquireCopies (s : State) (core : Nat) (l : List CopyReq) : State :=
  l.foldl (fun s c =>
    if c.scope = 0 then s
    else s.acquireRange core c.dst (64 * c.blocks)) s

/-- WAITT (R350): it sleeps until its time, then checks and acquires. -/
def execWaitt (b : Src) (s : State) : Host.Outcome State Fault Refusal :=
  runEx (do
    needGroup .base
    let t ← pk1 (src b) []
    let s ← get
    if s.dtc.toNat < t.toNat then blockOn (.waitt t)
    let l := s.promised s.cur t
    match l.find? fun c => c.done && !c.observed && c.cause != 0 with
    | some c => do
      modify fun (s : State) => s.observe s.cur c.word
      trap .engine c.word (engineInfo c.word)
    | none => pure ()
    match l.find? fun c => !c.done with
    | some c => trap .promise c.promise (w64 c.k)
    | none => pure ()
    pop [src b]
    modify fun (s : State) => s.acquireCopies (coreOf s.cur) l
    advance) s

/-- WAITT_WAKE (R350): the time has come. -/
def execWaittWake (ctx : Nat) (s : State) : Host.Outcome State Fault Refusal :=
  .next (s.wakeIf fun m w => m == ctx && (match w with
    | .waitt t => decide (t.toNat ≤ s.dtc.toNat)
    | _ => false))

end Sys2Proof.Machine
end

