-- ==== Sys2Proof/Machine/Contexts.lean ====
section
/-!
DEFINITION. Queue registers and streams (R195 to R199, R351, R352), the contexts of a core (R188, R353, R354), coroutines
(R200, R358) and vector gangs (R201 to R204, R359).
-/

namespace Sys2Proof.Machine

/-- A queue register by its number (R195). -/
def qReg (q : BitVec 3) : Nat := 56 + q.toNat

/-- A register of the context holds an end of a channel (R197). -/
def Ctx.holdsEnd (c : Ctx) (b : Binding) : Bool := c.bind.any fun e => e.2 == b

/-- A context may bind no end of a sibling channel that a register of the pair holds, and not both ends of one channel (R197, R198). -/
def State.endTaken (s : State) (n : Nat) (send back : Bool) (k : Nat) : Bool :=
  let mate : Bool := match siblingOf n with
    | some m => (s.ctx m).holdsEnd (.sibling send back k) || s.saved.any fun e => e.2.num == m && (s.ctx e.1).holdsEnd (.sibling send back k)
    | none => true
  mate || (s.ctx n).holdsEnd (.sibling true back k) || (s.ctx n).holdsEnd (.sibling false back k)

/-- The stream whose SOPEN named a context's register (R199, R351); a head flit that has not come is awaited by the binding itself. -/
def State.streamFor (s : State) (n r : Nat) : Nat × Nat :=
  match (s.ports.filter fun e => e.2.receiver == n && e.2.reg == r && e.2.opened && !e.2.discard).getLast? with
  | some e => (e.1, e.2.depth)
  | none => (0, 64)

/-- A binding that a descriptor asks for (R351), or none for a descriptor that raises QUEUE. -/
def State.bindingOf (s : State) (n r : Nat) (d : Word) : Option Binding :=
  let c := s.ctx n
  let k := wbits d 5 4
  let b : Option Binding :=
    match wbits d 1 0 with
    | 0 => if s.endTaken n (d.getLsbD 2) (d.getLsbD 3) k then none else some (.sibling (d.getLsbD 2) (d.getLsbD 3) k)
    | 1 => if wbits d 5 2 ≠ 0 then none else
        let (id, depth) := s.streamFor n r
        some (.streamIn id depth)
    | 2 => if wbits d 5 2 ≠ 0 ∨ c.hasResults then none else some .results
    | _ => none
  if wbits d 63 6 ≠ 0 then none else b

/-- QBIND (R351): it waits for a pending producer of A, then discards A's value and binds it. -/
def execQbind (q : BitVec 3) (b : Src) (s : State) : Host.Outcome State Fault Refusal :=
  runEx (do
    needGroup .base
    let r := qReg q
    let d ← pk1 (src b) []
    let s ← get
    let c ← me
    if c.pendingOn r then blockOn (.reg r)
    if (c.bound r).isSome then trap .queue (w64 r) 0
    match s.bindingOf s.cur r d with
    | none => trap .queue (w64 r) 0
    | some bd => do
      pop [src b]
      modMe fun c => { c.setG r 0 with bind := tset c.bind q.toNat bd }
      advance) s

/-- What an unbound receiving end leaves behind is discarded (R197, R351). -/
def State.dropQueue (s : State) (n : Nat) (b : Binding) : State :=
  match b with
  | .sibling false back k => s.modCore (coreOf n) fun c => { c with channels := tset c.channels (channelKey n back k) [] }
  | .streamIn id _ => { s with ports := match tget s.ports id with
      | some p => tset s.ports id { p with discard := true, words := [] }
      | none => s.ports }
  | .results => s.modCtx n fun c => { c with results := [] }
  | _ => s

/-- A queue register unbound: it reads full with value zero (R197). -/
def Ctx.unbind (c : Ctx) (q : Nat) : Ctx := { { c with bind := tdel c.bind q }.setG (56 + q) 0 with qpend := tdel c.qpend q }

/-- QUNBIND (R351): producers whose places the queue still holds come first. A register that is not bound stays as it is. -/
def execQunbind (q : BitVec 3) (s : State) : Host.Outcome State Fault Refusal :=
  runEx (do
    needGroup .base
    let c ← me
    match c.bound (qReg q) with
    | none => advance
    | some (.streamOut _) => trap .queue (w64 (qReg q)) 0
    | some b => do
      if (tget c.qpend q.toNat).isSome then blockOn (.queue (qReg q))
      modify fun (s : State) => (s.dropQueue s.cur b).modCtx s.cur fun c => c.unbind q.toNat
      advance) s

/-- QSTAT's word (R351). The descriptor bits of a stream's sending end, which no QBIND made, are not stated: a free value. -/
def State.queueStatus (s : State) (n q : Nat) (b : Binding) : Word :=
  let desc : Nat := match b with
    | .sibling e back k => (if e then 4 else 0) + (if back then 8 else 0) + 16 * k
    | .streamIn _ _ => 1
    | .streamOut _ => (Config.unstated s.fresh).toNat % 64
    | .results => 2
  let (send, marker) : Bool × Bool := match b with
    | .streamOut _ => (true, false)
    | .streamIn id _ => (false, ((tget s.ports id).map (·.marker)).getD false)
    | _ => (false, false)
  let pend := ((tget (s.ctx n).qpend q).map List.length).getD 0
  let count : Nat := match b with
    | .streamOut id => pend + ((tget s.ports id).map (·.flight)).getD 0
    | .sibling true .. => pend
    | b => (s.queueWords n b).length
  w64 (desc + 64 + (if send then 128 else 0) + 256 * count + (if marker then 32768 else 0))

/-- QSTAT (R351). -/
def execQstat (d : GReg) (q : BitVec 3) (s : State) : Host.Outcome State Fault Refusal :=
  runEx (do
    needGroup .base
    checkDest d.toNat
    let s ← get
    match (s.ctx s.cur).bound (qReg q) with
    | none => wr d 0
    | some b => do
      set s.freeCount.2
      wr d (s.queueStatus s.cur q.toNat b)
    advance) s

/-- The receiver of an SOPEN is a helper context of another compute core of the same owner and die (R352). -/
def State.streamPeer (s : State) (n m : Nat) : Bool :=
  let core := coreOf m
  decide (core < 1024) && m % 16 != 0 && core != coreOf n && dieOf core == dieOf (coreOf n) && s.coreHeldBy core (s.ctx n).owner

/-- SOPEN (R352): the head flit is sent, and the context waits until the receiver's interface answers it. -/
def execSopen (q : BitVec 3) (b c : Src) (s : State) : Host.Outcome State Fault Refusal :=
  runEx (do
    needGroup .base
    let r := qReg q
    let (x, depth) ← pk2 (src b) (src c) []
    let s ← get
    let m := wbits x 15 0
    let c0 ← me
    if c0.pendingOn r then blockOn (.reg r)
    let bad : Bool := (c0.bound r).isSome || wbits x 63 19 != 0 || depth == 0 || 64 < depth.toNat || !s.streamPeer s.cur m
    if bad then trap .queue (w64 r) 0
    let mine (e : Nat × Port) : Bool := e.2.sender == s.cur && !e.2.closed && e.2.receiver == m && e.2.reg == 56 + wbits x 18 16
      && !(c0.bind.any fun p => p.2 == .streamOut e.1)
    match s.ports.find? mine with
    | none => do
      let (id, s1) := s.newId
      let p : Port := ⟨id, s.cur, m, 56 + wbits x 18 16, depth.toNat, [], 0, false, false, false, false⟩
      set ({ s1 with ports := tset s1.ports id p }.post [.streamHeadFlit m (BitVec.ofNat 3 (wbits x 18 16))])
      blockOn (.sopen r)
    | some e =>
      if e.2.discard then do
        set { s with ports := tdel s.ports e.1 }
        trap .queue (w64 r) 0
      else if e.2.opened then do
        pop [src b, src c]
        modMe fun c => { c.setG r 0 with bind := tset c.bind q.toNat (.streamOut e.1) }
        advance
      else blockOn (.sopen r)) s

/-- STREAM_HEAD_FLIT (R199, R352): the receiver's interface accepts the stream, or refuses it when another open stream names the
register. A binding made before the flit came takes the stream. -/
def execStreamHeadFlit (ctx : Nat) (q : BitVec 3) (s : State) : Host.Outcome State Fault Refusal :=
  let r := qReg q
  match s.ports.find? fun e => e.2.receiver == ctx && e.2.reg == r && !e.2.opened && !e.2.discard with
  | none => .next s
  | some e =>
    let taken := s.ports.any fun f => f.1 != e.1 && f.2.receiver == ctx && f.2.reg == r && f.2.opened && !f.2.closed && !f.2.discard
    let p : Port := if taken then { e.2 with discard := true } else { e.2 with opened := true }
    let s1 : State := { s with ports := tset s.ports e.1 p }
    let s2 := s1.modCtx ctx fun c => { c with bind := match tget c.bind q.toNat with
      | some (.streamIn 0 _) => if taken then c.bind else tset c.bind q.toNat (.streamIn e.1 p.depth)
      | _ => c.bind }
    .next (s2.wakeIf fun m w => m == p.sender && (match w with
      | .sopen _ => true
      | _ => false))

/-- STREAM_WORD_ARRIVE (R199, R352, R91): a word or the closing marker reaches the port; words for a receiver that has ended or let
the port go are discarded. -/
def execStreamWordArrive (id : Nat) (marker : Bool) (w : Word) (s : State) : Host.Outcome State Fault Refusal :=
  match tget s.ports id with
  | none => .next s
  | some p =>
    let lost : Bool := p.discard || (match (s.ctx p.receiver).state with
      | .ended => true
      | _ => false)
    let p1 : Port := if marker then { p with marker := true, closed := true }
      else { p with flight := p.flight - 1, words := if lost then [] else p.words ++ [w] }
    let s1 : State := { s with ports := if marker ∧ p.discard then tdel s.ports id else tset s.ports id p1 }
    .next (s1.wakeIf fun m x => (m == p.receiver || m == p.sender) && (match x with
      | .queue _ => true
      | _ => false))

/-- SCLOSE (R352): the closing marker goes behind every earlier word. -/
def execSclose (q : BitVec 3) (s : State) : Host.Outcome State Fault Refusal :=
  runEx (do
    needGroup .base
    let c ← me
    match c.bound (qReg q) with
    | some (.streamOut id) => do
      if (tget c.qpend q.toNat).isSome then blockOn (.queue (qReg q))
      modify fun (s : State) =>
        let s1 : State := { s with ports := match tget s.ports id with
          | some p => tset s.ports id { p with closed := true }
          | none => s.ports }
        (s1.post [.streamWordArrive id true 0]).modCtx s.cur fun c => c.unbind q.toNat
      advance
    | _ => trap .queue (w64 (qReg q)) 0) s

/-- A gang member waits for every inbox record of its commit, whose nodes its record bounds (R88). -/
def State.gangPending (s : State) (t : TaskRec) : Bool :=
  match t.gang with
  | [_, first, past] => s.agenda.any fun i => match i with
    | .inboxRecordArrive _ r => r.node.any fun d => decide (first ≤ d ∧ d < past)
    | _ => false
  | _ => false

/-- A control context that has run no instruction since reset acts as Fraven's micro-kernel does (R188, log 4): it starts the tasks of
its inbox whose helpers are FREE, and reaps the helpers that have ended. -/
def Ctx.kernelIdle (c : Ctx) : Bool := c.state == .blocked .inbox && c.held.isNone && c.pc == 2
def State.kernelReap (s : State) (core h : Nat) : State :=
  let n := 16 * core + h
  if h == 0 || (s.ctx n).state != .ended || !(s.quiet n) then s
  else
    let s1 := (s.setCtx n Ctx.free).freed (s.ctx n).owner
    if ((s.ctx n).task.map (·.scope)).getD 0 = 0 then s1 else s1.acquireWindows core
def State.kernelHelper (s : State) (core : Nat) (t : TaskRec) : Option Nat :=
  let free (h : Nat) : Bool := h != 0 && decide ((s.ctx (16 * core + h)).state = .free)
  match t.helper with
  | some h => if free h then some h else none
  | none => (upTo 16).find? free
def State.kernelStart (s : State) (core : Nat) (t : TaskRec) : State :=
  if s.gangPending t || !s.coreOpen core t.owner then s
  else
    match s.kernelHelper core t with
    | none => s
    | some h =>
      (s.modCore core fun c => { c with inbox := dropFirst (fun x => x == t) c.inbox }).startTask (16 * core + h) { t with helper := some h }
def State.kernelStep (s : State) (core : Nat) : State :=
  if (s.ctx (16 * core)).kernelIdle then
    let s1 := (upTo 16).foldl (fun s h => s.kernelReap core h) s
    (s1.core core).inbox.foldl (fun s t => s.kernelStart core t) s1
  else s

/-- INBOX_RECORD_ARRIVE (R85, R88): the record, which its Porter held as reserved, enters the inbox, and the control context wakes. -/
def execInboxRecordArrive (core : Nat) (r : TaskRec) (s : State) : Host.Outcome State Fault Refusal :=
  let s0 : State := { s with porters := s.porters.map fun e => (e.1, { e.2 with records := dropFirst (fun x => x == (core, r)) e.2.records }) }
  let s1 := s0.modCore core fun c => { c with inbox := c.inbox ++ [r] }
  if (s1.ctx (16 * core)).kernelIdle then .next (s1.kernelStep core)
  else .next (s1.wakeIf fun m w => m == 16 * core && w == .inbox)

/-- The helper that START and REAP name (R353). -/
def helperOf (w : Word) : Option Nat := if wbits w 63 4 ≠ 0 ∨ wbits w 3 0 = 0 then none else some (wbits w 3 0)

/-- START (R353). A helper beyond CHCTX of a channel core is refused (R187). -/
def execStart (b : Src) (s : State) : Host.Outcome State Fault Refusal :=
  runEx (do
    needGroup .base
    needLevel fun l => l == .f
    let w ← pk1 (src b) []
    let s ← get
    let core := coreOf s.cur
    match helperOf w with
    | none => trap .access w 0
    | some h => do
      if (s.ctx (16 * core + h)).state ≠ .free then trap .access w 0
      match (s.core core).inbox with
      | [] => blockOn .inbox
      | t :: rest => do
        if s.gangPending t then blockOn .inbox
        let share := ((s.owner t.owner).active.dies.toList.getD (dieOf core) .zero).chctx.toNat
        if isChannel core ∧ share ≤ s.heldHelpers core t.owner then trap .access w 0
        pop [src b]
        modify fun (s : State) =>
          (s.modCore core fun c => { c with inbox := rest }).startTask (16 * core + h) { t with helper := some h }
        advance) s

/-- A REAP whose helper has ended is answered (R353): the end word, the helper FREE, and an acquire at the entry's SCOPE. -/
def State.reapStep (s : State) (core : Nat) : State :=
  (s.core core).reaps.foldl (fun s e =>
    let n := 16 * core + e.1
    let c := s.ctx n
    if c.state ≠ .ended ∨ s.quiet n = false then s
    else
      let s1 := ((s.setCtx n Ctx.free).freed c.owner).modCore core fun k => { k with reaps := dropFirst (fun x => x == e) k.reaps }
      let s2 := if (c.task.map (·.scope)).getD 0 = 0 then s1 else s1.acquireWindows core
      s2.post [.producerArrive (16 * core) e.2 (.word c.endWord)]) s

/-- REAP (R353): a producer that waits for its helper to end. -/
def execReap (d : GReg) (b : Src) (s : State) : Host.Outcome State Fault Refusal :=
  runEx (do
    needGroup .base
    needLevel fun l => l == .f
    let w ← pk1 (src b) [dst d]
    match helperOf w with
    | none => trap .access w 0
    | some h => do
      pop [src b]
      let pid ← produce (.g d.toNat) none false
      advance
      modify fun (s : State) =>
        (s.modCore (coreOf s.cur) fun k => { k with reaps := k.reaps ++ [(h, pid)] }).reapStep (coreOf s.cur)) s

/-- The oldest engine fault of a context that nobody has observed (R343, R349, R354). -/
def State.engineFaultOf (s : State) (n : Nat) : Option Word :=
  let tiles := s.clusters.flatMap fun e => e.2.tiles.filterMap fun t =>
    if t.ctx = n ∧ t.done ∧ !t.observed ∧ t.cause ≠ 0 then some (t.id, t.word) else none
  let copies := s.copies.filterMap fun c =>
    if c.ctx = some n ∧ c.done ∧ !c.observed ∧ c.cause ≠ 0 then some (c.id, c.word) else none
  let all := tiles ++ copies
  ((all.find? fun x => all.all fun y => decide (x.1 ≤ y.1)).map fun x => x.2)

/-- A gang's leader ends it (R203): its members go on alone, those that wait at a GJOIN past it; at END the attached followers end
with it. -/
def State.endGang (s : State) (n : Nat) (ending : Bool) : State :=
  match (s.ctx n).gang with
  | none => s
  | some g =>
    if !(g.leader && g.attached) then s
    else
      let act (e : Nat × Ctx) : Nat × Ctx :=
        match e.2.gang with
        | some h =>
          if h.id ≠ g.id then e
          else
            let c := { e.2 with gang := none, buffer := [] }
            if ending ∧ h.attached ∧ e.1 ≠ n then (e.1, { c with held := some .endTask, lastWait := none, state := .live })
            else match e.2.state with
              | .blocked (.gjoin _) => (e.1, c.goOn c.npc)
              | _ => (e.1, c)
        | none => e
      { s with ctxs := s.ctxs.map act }

/-- END by the Concierge clears VALID in CONCTX (R146). -/
def State.endConcierge (s : State) (n : Nat) : State :=
  let o := (s.ctx n).owner
  if s.isConcierge o n then s.modOwner o fun w => { w with conctx := w.conctx &&& ~~~(0x10000 : Word) } else s

/-- END (R354, R146): the fault of an engine first, then the marker, the gang, the release and the end of the task. -/
def execEndTask (s : State) : Host.Outcome State Fault Refusal :=
  runEx (do
    needGroup .base
    let s ← get
    if s.cur % 16 = 0 then undef
    let c ← me
    let drained : Bool := match c.gang with
      | some g => !(g.leader && g.attached) || (s.gangOthers s.cur g).all fun m => (s.ctx m).buffer.isEmpty && (s.ctx m).held.isNone
      | none => true
    if !c.producers.isEmpty || (c.migratedFrom.isSome && !(s.quiet s.cur)) || s.tilesOut s.cur || s.copiesOut s.cur || !c.qpend.isEmpty || !drained then blockOn .endTask
    match s.engineFaultOf s.cur with
    | some w => do
      modify fun (s : State) => s.taskFault s.cur Cause.engine.code w
      stop
    | none => pure ()
    takeOwed
    modify fun (s : State) => (s.closeStage s.cur).endGang s.cur true
    waitRelease ((c.task.map (·.bound)).getD 0) id
    modify fun (s : State) => (s.endConcierge s.cur).endTask s.cur) s

/-- YIELD (R353): the contexts of the core that are ready now go first. -/
def execYield (s : State) : Host.Outcome State Fault Refusal :=
  runEx (do
    needGroup .base
    modify fun (s : State) =>
      let core := coreOf s.cur
      let others := ((upTo 16).map fun h => 16 * core + h).filter fun m =>
        m != s.cur && decide ((s.ctx m).state = .live) && (s.ctx m).lastIssue.all fun t => decide (4 ≤ (s.dtc - t).toNat)
      s.modCtx s.cur fun c => { c with yielded := others }
    advance) s

/-- A coroutine of an owner by its handle, on its context or in its saved record (R200). -/
def State.coroutine (s : State) (h o : Nat) : Option Ctx :=
  let hit (c : Ctx) : Bool := c.owner == o && (match c.co with
    | some k => k.handle == h
    | none => false) && c.state != .ended && c.state != .free
  (s.ctxs.find? fun e => hit e.2).map (·.2)

/-- A coroutine changed, wherever it is. -/
def State.modCo (s : State) (h o : Nat) (f : Ctx → Ctx) : State :=
  let hit (c : Ctx) : Bool := c.owner == o && (match c.co with
    | some k => k.handle == h
    | none => false) && c.state != .ended && c.state != .free
  { s with ctxs := s.ctxs.map fun e => if hit e.2 then (e.1, f e.2) else e }

/-- A value goes to a coroutine (R200): the first starts it with the value in g7, a later one completes its CYIELD. -/
def Ctx.resume (c : Ctx) (ticket : Nat) (v : Word) : Ctx :=
  match c.co with
  | none => c
  | some k =>
    let c1 := { c with co := some { k with started := true, suspended := false, resumer := some ticket } }
    if k.started then c1.give v
    else { c1.setG 7 v with state := match c.state with
      | .blocked .cyield => .live
      | st => st }

/-- The scope of a task's entry (R200). -/
def Ctx.taskScope (c : Ctx) : BitVec 3 := (c.task.map (·.scope)).getD 0

/-- A wait at a CRESUME or CYIELD goes on, or ends with the value handed over, an acquire at the CO entry's SCOPE (R200). -/
def takeGiven (d : GReg) (w : Wait) (sc : BitVec 3) : Ex Unit := do
  let c ← me
  match c.given with
  | none => blockOn w
  | some v => do
    checkDest d.toNat
    modMe fun c => { c with given := none, ticket := none }
    wr d v
    modify fun (s : State) => if sc = 0 then s else s.acquireWindows (coreOf s.cur)
    advance

/-- CRESUME (R200, R358). -/
def execCresume (d : GReg) (b c : Src) (s : State) : Host.Outcome State Fault Refusal :=
  runEx (do
    needGroup .comb
    let x ← me
    if x.ticket.isSome then takeGiven d .cresume x.taskScope
    else do
      let (h, v) ← pk2 (src b) (src c) [dst d]
      let s ← get
      match s.coroutine h.toNat x.owner with
      | none => trap .combinator h 0
      | some k => do
        if (k.co.bind (·.resumer)).isSome ∨ (k.co.map (·.suspended)) ≠ some true then trap .combinator h 0
        waitRelease k.taskScope id
        pop [src b, src c]
        modify fun (s : State) =>
          let (id, s1) := s.newId
          let s2 := s1.modCtx s.cur fun c => { c with ticket := some id }
          s2.modCo h.toNat x.owner fun c => c.resume id v
        blockOn .cresume) s

/-- CYIELD (R200, R358). -/
def execCyield (d : GReg) (b : Src) (s : State) : Host.Outcome State Fault Refusal :=
  runEx (do
    needGroup .comb
    let x ← me
    match x.co with
    | none => trap .combinator (w64 (← get).cur) 0
    | some k => do
      if k.suspended || x.given.isSome then takeGiven d .cyield x.taskScope
      else do
        let v ← pk1 (src b) [dst d]
        waitRelease x.taskScope id
        pop [src b]
        modify fun (s : State) =>
          let s1 := match k.resumer with
            | some t => s.giveIf (fun c => c.ticket == some t) v
            | none => s
          s1.modCtx s.cur fun c => { c with co := some { k with suspended := true, resumer := none } }
        blockOn .cyield) s

/-- The members a GFORM names (R201): one context number on cores of one cluster. -/
def gangMembers (n : Nat) (mask : Nat) : List Nat :=
  (upTo 8).filterMap fun k => if mask / 2 ^ k % 2 = 1 then some (16 * (coreOf n / 8 * 8 + k) + n % 16) else none

/-- The source of the GFORM that a context waits at, popped when the gang forms (R196, R271). -/
def State.popGform (s : State) (m : Nat) : State :=
  match (s.ctx m).held with
  | some (.gform b) => { ({ s with cur := m } : State).popAll [src b] with cur := s.cur }
  | _ => s

/-- The gang is formed under the next number (R201): its members go on attached, and the one on the lowest core leads. -/
def State.formGang (s s1 : State) (ms : List Nat) (mask : BitVec 8) : State :=
  ms.foldl (fun (s1 : State) (m : Nat) => s1.modCtx m fun c =>
    { (c.goOn c.npc) with gang := some ⟨mask, s.nextId, some m == ms.head?, true⟩ }) s1

/-- GFORM (R201, R359): each member waits until all have arrived at the same mask and place; the lowest core leads. -/
def execGform (b : Src) (s : State) : Host.Outcome State Fault Refusal :=
  runEx (do
    needGroup .gang
    let w ← pk1 (src b) []
    let s ← get
    let c ← me
    let n := s.cur
    let mask := wbits w 7 0
    let formed : Bool := match c.gang with
      | some g => g.id != 0
      | none => false
    if wbits w 63 8 ≠ 0 ∨ popcount mask 8 < 2 ∨ isChannel (coreOf n) ∨ mask / 2 ^ (coreOf n % 8) % 2 = 0 ∨ formed then trap .gang w 0
    modMe fun c => { c with gang := some ⟨BitVec.ofNat 8 mask, 0, false, false⟩ }
    let s ← get
    let ms := gangMembers n mask
    let arrived (m : Nat) : Bool := m == n || (match (s.ctx m).state, (s.ctx m).gang with
      | .blocked .gform, some g => g.id == 0
      | _, _ => false)
    let same (m : Nat) : Bool := (s.ctx m).pc == c.pc && ((s.ctx m).gang.map (·.mask)) == some (BitVec.ofNat 8 mask)
    let alive (m : Nat) : Bool :=
      let x := s.ctx m
      x.owner == c.owner && (x.task.bind (·.launch)) == (c.task.bind (·.launch)) && x.task.isSome && (match x.state with
        | .live | .blocked _ => true
        | _ => false)
    if ms.any fun m => !alive m || (arrived m && !same m) then do
      modify fun (s : State) =>
        (ms.filter fun m => m != n && arrived m).foldl (fun s m => s.takeTrap m (s.ctx m).pc .gang (((s.ctx m).gang.map fun g => g.mask.setWidth 64).getD w) 0 false) s
      trap .gang w 0
    if ms.all arrived then do
      pop [src b]
      modify fun (s : State) => s.formGang ((ms.filter fun m => m != n).foldl (fun (s : State) (m : Nat) => s.popGform m) s.newId.2) ms (BitVec.ofNat 8 mask)
    else blockOn .gform) s

/-- GLEAVE (R203, R359). -/
def execGleave (s : State) : Host.Outcome State Fault Refusal :=
  runEx (do
    needGroup .gang
    let c ← me
    match c.gang with
    | some g =>
      if g.attached && g.leader then trap .gang (g.mask.setWidth 64) 0
      if g.attached then modify fun (s : State) => s.detach s.cur
      advance
    | none => advance) s

/-- GJOIN (R203, R359): the leader collects the members that wait at its address; a detached member waits to be collected. -/
def execGjoin (s : State) : Host.Outcome State Fault Refusal :=
  runEx (do
    needGroup .gang
    let c ← me
    match c.gang with
    | none => advance
    | some g =>
      if g.attached then
        if g.leader then
          modify fun (s : State) =>
            let act (e : Nat × Ctx) : Nat × Ctx := match e.2.gang, e.2.state with
              | some h, .blocked (.gjoin at_) =>
                if h.id = g.id ∧ at_ = c.pc then (e.1, { (e.2.goOn e.2.npc) with gang := some { h with attached := true } }) else e
              | _, _ => e
            { s with ctxs := s.ctxs.map act }
        advance
      else blockOn (.gjoin c.pc)) s

/-- GEND (R203, R359). -/
def execGend (s : State) : Host.Outcome State Fault Refusal :=
  runEx (do
    needGroup .gang
    let c ← me
    match c.gang with
    | none => advance
    | some g =>
      if g.attached && g.leader then modify fun (s : State) => s.endGang s.cur false
      else modMe fun c => { c with gang := none, buffer := [] }
      advance) s

/-- GANG_FORWARD (R202): an instruction that the leader issued reaches an attached follower's buffer. -/
def execGangForward (follower : Nat) (pc npc : Word) (head : BitVec 16) (tail : BitVec 96) (s : State) :
    Host.Outcome State Fault Refusal :=
  .next (s.modCtx follower fun c => match c.gang with
    | some g => if g.attached then { c with buffer := c.buffer ++ [⟨pc, npc, head, tail⟩] } else c
    | none => c)

end Sys2Proof.Machine
end

