-- ==== Sys2Proof/Machine/Lines.lean ====
section
/-!
DEFINITION. Code lines (R252 to R256), the fetch of a line (R131, R254, R257), and the checks on a transfer's target (R258,
R259, R291).
-/

namespace Sys2Proof.Machine

/-- NH of a line's descriptor (R252). -/
def lineHeads (d : Block) : Nat := blockBytes d 0 2 / 2048
/-- Head k of a line (R252). -/
def lineHead (d : Block) (k : Nat) : BitVec 16 := BitVec.ofNat 16 (blockBytes d (2 * k) 2)
/-- Tail length by tail length code (R255). -/
def tailLen (h : BitVec 16) : Nat :=
  match h.toNat / 2 ^ 13 with
  | 0 => 0 | 1 => 2 | 2 => 4 | 3 => 6 | 4 => 8 | 5 => 12 | 6 => 16 | _ => 0
/-- Bytes of tails 1 to k (R252). -/
def tailSum (d : Block) : Nat → Nat
  | 0 => 0
  | k + 1 => tailSum d k + tailLen (lineHead d (k + 1))
/-- The tail of head k (R252). -/
def lineTail (d : Block) (k : Nat) : BitVec 96 :=
  BitVec.ofNat 96 (blockBytes d (64 - tailSum d k) (tailLen (lineHead d k)))
/-- A malformed line (R253). -/
def lineMalformed (d : Block) : Bool :=
  let n := lineHeads d
  let used := 2 + 2 * n + tailSum d n
  n == 0 || blockBytes d 0 2 % 2048 != 0 || (upTo n).any (fun i => lineHead d (i + 1) >>> 13 == 7) || decide (64 < used)
    || blockBytes d (2 + 2 * n) (64 - used) != 0
/-- An address is that of a head of the line (R256, R258). -/
def isHead (d : Block) (pc : Word) : Bool :=
  let o := pc.toNat % 64
  o % 2 == 0 && o != 0 && decide (o ≤ 2 * lineHeads d)
/-- The address of a line. -/
def lineBase (pc : Word) : Word := w64 (pc.toNat / 64 * 64)
/-- The instruction that follows a head in program order (R256). -/
def nextPc (d : Block) (pc : Word) : Word :=
  if pc.toNat % 64 / 2 < lineHeads d then pc + 2 else lineBase pc + 66

/-- A line put into an instruction cache (R130, R254); which line of a full set leaves is a free choice (log 1). -/
def State.fillLine (s : State) (core line : Nat) (data : Block) : State :=
  let (k, s1) := s.freeCount
  let peers := ((s1.core core).icache.filter fun e => e.1 % 256 == line % 256 && e.1 != line).map (·.1)
  let ways := 4 - (tget (s1.core core).iFenced (line % 256)).getD 0
  let s2 := match if peers.length < ways then none else peers[Config.victim k % peers.length]? with
    | some v => s1.modCore core fun c => { c with icache := tdel c.icache v }
    | none => s1
  (s2.modCore core fun c => { c with icache := tset c.icache line ⟨data⟩ }).wakeIf fun m w =>
    coreOf m == core && (match w with
      | .fill _ => true
      | _ => false)

/-- A line that an instruction cache needs is asked for once (R131, R254). -/
def State.askLine (s : State) (r : Req) : State :=
  let coming (i : Instr) : Bool := match i with
    | .instructionLineFill c l _ => c == r.core && l == r.pa / 64
    | _ => false
  if s.requests.any (fun q => q.op == .ifetch && q.core == r.core && q.pa / 64 == r.pa / 64) || s.pendingSteps.any coming then s else s.depart r

/-- The line of an address of code (R257, R291): it comes from the instruction cache, or the context waits for it to be
translated and filled from its slice. -/
def fetchLine (va : Word) : Ex Block := do
  if formOf va ≠ .page then trap .access va 0
  let (pa, e) ← translate va .exec 2
  if regionOf pa = .host then trap .access va 0
  let s ← get
  let c ← me
  let core := coreOf s.cur
  match tget (s.core core).icache (pa / 64) with
  | some l => pure l.data
  | none =>
    match s.fotNow pa c.owner false e.ct with
    | .ok => do
      modify fun (s : State) => s.askLine
        { op := .ifetch, ctx := s.cur, core := core, owner := c.owner, pa := pa, va := va, ct := PageType.ofCt e.ct }
      blockOn (.fill va)
    | .memerr => trap .memerr va 0
    | .access _ => trap .access va 1
    | .typefault => trap .typefault va 0

/-- The checks on an address that becomes a program counter (R258, R259, R291). -/
def checkTarget (t : Word) : Ex Unit := do
  let d ← fetchLine t
  if lineMalformed d then trap .undef (lineBase t) 0
  if isHead d t = false then trap .align t 0

/-- A transfer of control that has passed its checks. -/
def goTo (t : Word) : Ex Unit := modMe fun c => c.goOn t

end Sys2Proof.Machine
end

