-- ==== Sys2Proof/Machine/System.lean ====
section
/-!
DEFINITION. Randomness and stated interference (R122 to R126, R360), system registers (R361 to R363), traps on request (R217,
R259, R364) and TLB instructions (R140, R365).
-/

namespace Sys2Proof.Machine

/-- RAND's result (R360): a draw in the range n, or the stream's new state when n is 0. -/
def State.rand (s : State) (t : StreamId) (n : Nat) : Word × State :=
  if n = 0 then ((gen32 (s.stream t)).setWidth 64, s.advance t)
  else
    let (v, s1) := s.draw t n
    (w64 v, s1)

/-- RAND (R360): the stream belongs to the context slot. -/
def execRand (d : GReg) (b : Src) (s : State) : Host.Outcome State Fault Refusal :=
  runEx (do
    needGroup .base
    let x ← rd1 (src b) [dst d]
    let s ← get
    let c ← me
    let (v, s1) := s.rand ⟨c.owner, .prog, 0, s.cur⟩ (x.toNat % 2 ^ 32)
    set s1
    wr d v
    advance) s

/-- Every resource brought up to the slot in course: the draws made so far are the old streams' (R126, log 2). -/
def State.touchAll (s : State) : State :=
  (upTo 7).foldl (fun s k => (upTo (instances k)).foldl (fun s j => s.touch k j) s) s

/-- The sweep of an owner starts at a slice (R127, R374): its first step joins the owner's queue there. -/
def State.sweepStart (s : State) (o c : Nat) : State :=
  let r := (s.owner o).active.dies.toList.getD (c / 64) .zero
  if r.waymask = 0 then s.modOwner o fun w => { w with sweeping := w.sweeping.filter fun x => x != c }
  else
    let first : Sweep := ⟨o, r.setbase.toNat, nthSet r.waymask.toNat 0 0 16⟩
    (s.modSlice c fun k => { k with sweeps := (k.sweeps.filter fun w => w.owner != o) ++ [first] }).request 0 c o [.sweepStep c o]

/-- RESEED's one step (R126): SEED, generation bit, streams, and the sweep on every slice. -/
def State.reseed (s0 : State) (o : Nat) (seed : Word) : State :=
  let s := (s0.touchAll).restartStreams o
  let s1 := s.modOwner o fun w => { w with oldSeed := some w.seed, seed := seed, gen := !w.gen, sweeping := upTo 256 }
  let s2 := (upTo 256).foldl (fun s c => s.sweepStart o c) s1
  if (s2.owner o).sweeping.isEmpty then s2.modOwner o fun w => { w with oldSeed := none } else s2

/-- RESEED waits for an owner (R125): its sweep is running, or a commit that affects it is in STATE 2, 3 or 4. -/
def State.reseedHeld (s : State) (o : Nat) : Bool :=
  (s.owner o).oldSeed.isSome || s.layoutHeld o

/-- RESEED (R124 to R126, R360). -/
def execReseed (b c : Src) (s : State) : Host.Outcome State Fault Refusal :=
  runEx (do
    needGroup .base
    needLevel fun l => l == .f || (l == .s && c.reg == 0)
    let (x, y) ← pk2 (src b) (src c) []
    let cx ← me
    let o := if cx.level = .f then y.toNat % 16 else cx.owner
    let s ← get
    if cx.level = .f ∧ (16 ≤ y.toNat ∨ (s.owner o).active.en = false) then trap .access y 0
    if s.reseedHeld o then blockOn .reseed
    pop [src b, src c]
    modify fun (s : State) =>
      if b.reg = 0 then s.freeCount.2.reseed o (Config.entropy s.freeCount.1) else s.reseed o x
    advance) s

/-- The product n (n - 1) ... of k factors, 0 when k exceeds n; and comb (R122). -/
def descend (n : Nat) : Nat → Nat
  | 0 => 1
  | k + 1 => descend n k * (n - k)
def comb (n k : Nat) : Nat := descend n k / descend k k

/-- Positions in [p, p + d] that lie in frame f (R122). -/
def inFrame (p d f : Nat) : Nat := min (p + d + 1) (64 * f + 64) - max p (64 * f)

/-- exq (R122), exact: the three factors of every term have the denominator comb(64, q). -/
def exqTerm (q d p : Nat) : Nat :=
  comb (64 - inFrame p d 0) q * comb (64 - inFrame p d 1) q * comb (64 - inFrame p d 2) q
def exq (q d : Nat) : Nat :=
  if q = 0 then 0xFFFFFFFF
  else if 2 * (64 - q) ≤ d then 0
  else
    let total := (upTo 64).foldl (fun n p => n + exqTerm q d p) 0
    min (ceilDiv (total * 2 ^ 32) (64 * comb 64 q ^ 3)) 0xFFFFFFFF

/-- A die-to-die link is fenced (R32): links 0 to 3 are those of the square (R15). -/
def State.squareFenced (s : State) : Bool := (upTo 4).any fun l => s.link l == .fenced

/-- EXQ's result (R32, R122, R360). -/
def State.exqWord (s : State) (o : Nat) (b d : Word) : Word :=
  let k := wbits b 2 0
  if k = 7 ∨ onlyBits b 0x37 = false then BitVec.allOnes 64
  else if k = 2 ∧ s.squareFenced then 0xFFFFFFFF
  else w64 (exq ((s.owner o).active.quota (wbits b 5 4) k) d.toNat)

/-- EXQ (R360). -/
def execExq (d : GReg) (b c : Src) (s : State) : Host.Outcome State Fault Refusal :=
  runEx (do
    needGroup .stat
    let (x, y) ← rd2 (src b) (src c) [dst d]
    let s ← get
    let cx ← me
    let id ← produce (.g d.toNat) none false
    arriveLater id (.word (s.exqWord cx.owner x y))
    advance) s

/-- The wait counter that EXH names, unless CLASS is 7 or a reserved bit is set (R123, R360). -/
def exhKey (o : Nat) (b : Word) : Option Nat :=
  if wbits b 6 4 = 7 ∨ onlyBits b 0x1F77F = false then none
  else some (binKey (wbits b 9 8) (if b.getLsbD 16 then wbits b 15 12 else o) (wbits b 6 4) (wbits b 3 0))

/-- EXH (R360): CLEAR zeroes the bin in the same action. -/
def execExh (d : GReg) (b : Src) (s : State) : Host.Outcome State Fault Refusal :=
  runEx (do
    needGroup .stat
    let x ← pk1 (src b) [dst d]
    let c ← me
    if x.getLsbD 16 ∧ c.level = .u then priv
    pop [src b]
    let s ← get
    match exhKey c.owner x with
    | none => wr d 0
    | some k => do
      wr d (((tget s.bins k).getD 0).setWidth 64)
      if x.getLsbD 10 then modify fun (s : State) => { s with bins := tdel s.bins k }
    advance) s

/-- A system register as R362 lists it: the lowest level that reads it and the lowest that writes it (3 for none), and the bits
that an MTS may set. -/
structure SysReg where
  reads : Nat
  writes : Nat
  mask : Nat
  deriving DecidableEq, Repr

/-- The system registers (R214, R215, R362). -/
def sysReg (n : Nat) : Option SysReg :=
  let a55 := 0x7FFFFFFFFFFFFF
  match n with
  | 0x000 | 0x001 | 0x021 | 0x050 | 0x014 | 0x015 => some ⟨0, 3, 0⟩
  | 0x010 => some ⟨1, 1, a55⟩
  | 0x011 => some ⟨1, 1, 0x1FFF⟩
  | 0x012 | 0x013 => some ⟨1, 1, 0xFFFFFFFFFFFFFFFF⟩
  | 0x016 => some ⟨1, 1, a55⟩
  | 0x017 => some ⟨2, 2, a55⟩
  | 0x020 => some ⟨0, 0, 0xFFFFFFFF⟩
  | 0x030 => some ⟨0, 1, 0x7FFFFFFFFFFFC0⟩
  | 0x031 => some ⟨0, 1, 0x1FFFFF⟩
  | 0x032 => some ⟨1, 1, 0x7FFFFFFFFFFFC0⟩
  | 0x033 => some ⟨1, 1, 0xFFFF⟩
  | 0x034 | 0x038 => some ⟨1, 1, 0xFFFFFFFF0000⟩
  | 0x035 => some ⟨1, 1, 0x7FFFFFFFFFC000⟩
  | 0x036 => some ⟨1, 1, 0x1FFFF⟩
  | 0x037 => some ⟨1, 1, 0xFFFFFFFFF000⟩
  | 0x039 => some ⟨1, 1, 0xFF⟩
  | 0x040 | 0x041 | 0x042 | 0x043 => some ⟨0, 1, 0xF3FFF1FFF⟩
  | _ => none

/-- The ranges that R362, R211 and R152 state. -/
def sysRange (n : Nat) (v : Word) : Bool :=
  match n with
  | 0x031 => decide (v.toNat ≤ 0x100000)
  | 0x039 => v != 0
  | 0x040 | 0x041 | 0x042 | 0x043 => decide (wbits v 29 16 ≤ 8192)
  | _ => true

/-- ECAUSE as it reads: a PLEV of 3 reads as 0 (R215). -/
def ecauseRead (e : Word) : Word := if wbits e 9 8 = 3 then e &&& ~~~(0x300 : Word) else e

/-- CTXID (R362). -/
def Ctx.ctxId (c : Ctx) (n : Nat) : Word := w64 (n + 2 ^ 16 * c.owner + 2 ^ 20 * c.space.toNat + 2 ^ 36 * levelNum c.level)

/-- CONCTX as it reads (R146): a restore writes the new number, so a Concierge that is saved is still named by the number it had (the model names its saved record by
another one, log 11). -/
def State.conctxRead (s : State) (o : Nat) : Word :=
  let v := (s.owner o).conctx
  match tget s.saved (wbits v 15 0) with
  | some sv => if v.getLsbD 16 then (v &&& ~~~(0xFFFF : Word)) ||| w64 sv.num else v
  | none => v

/-- The value of a system register (R154, R362). -/
def State.sysRead (s : State) (n : Nat) : Word :=
  let c := s.ctx s.cur
  let o := s.owner c.owner
  match n with
  | 0x000 => c.ctxId s.cur
  | 0x001 => s.dtc
  | 0x010 => c.epc.setWidth 64
  | 0x011 => ecauseRead c.ecause
  | 0x012 => c.eval
  | 0x013 => c.einfo
  | 0x014 => c.erf0
  | 0x015 => c.erf1
  | 0x016 => o.tvecS.setWidth 64
  | 0x017 => s.tvecF.setWidth 64
  | 0x020 => c.waitlim
  | 0x021 => c.spcount.setWidth 64
  | 0x030 => o.ctbase
  | 0x031 => o.ctlen
  | 0x032 => o.gtqbase
  | 0x033 => o.gtqlen
  | 0x034 => o.sptab
  | 0x035 => o.fqbase
  | 0x036 => s.conctxRead c.owner
  | 0x037 => o.savearea
  | 0x038 => o.stkbase
  | 0x039 => o.stksize
  | 0x040 => (tget (s.core (coreOf s.cur)).lswin 0).getD 0
  | 0x041 => (tget (s.core (coreOf s.cur)).lswin 1).getD 0
  | 0x042 => (tget (s.core (coreOf s.cur)).lswin 2).getD 0
  | 0x043 => (tget (s.core (coreOf s.cur)).lswin 3).getD 0
  | 0x050 => w64 (s.dtc.toNat % 153600)
  | _ => 0

/-- A system register written (R362, R363): a per-owner register holds the new value on every die when the MTS completes, and
CTBASE and CTLEN empty the owner's callable caches. -/
def State.sysWrite (s : State) (n : Nat) (v : Word) : State :=
  let c := s.ctx s.cur
  let core := coreOf s.cur
  let own (f : Owner → Owner) : State := s.modOwner c.owner f
  let lswin (i : Nat) : State := s.modCore core fun k => { k with lswin := tset k.lswin i v }
  match n with
  | 0x010 => s.modCtx s.cur fun c => { c with epc := v.setWidth 55 }
  | 0x011 => s.modCtx s.cur fun c => { c with ecause := (ecauseRead v &&& 0xFFF) ||| (c.ecause &&& 0x1000) }
  | 0x012 => s.modCtx s.cur fun c => { c with eval := v }
  | 0x013 => s.modCtx s.cur fun c => { c with einfo := v }
  | 0x016 => own fun o => { o with tvecS := v.setWidth 55 }
  | 0x017 => { s with tvecF := v.setWidth 55 }
  | 0x020 => s.modCtx s.cur fun c => { c with waitlim := v }
  | 0x030 => (own fun o => { o with ctbase := v }).flushCallable c.owner none
  | 0x031 => (own fun o => { o with ctlen := v }).flushCallable c.owner none
  | 0x032 => own fun o => { o with gtqbase := v }
  | 0x033 => own fun o => { o with gtqlen := v }
  | 0x034 => own fun o => { o with sptab := v }
  | 0x035 => own fun o => { o with fqbase := v }
  | 0x036 => own fun o => { o with conctx := v }
  | 0x037 => own fun o => { o with savearea := v }
  | 0x038 => own fun o => { o with stkbase := v }
  | 0x039 => own fun o => { o with stksize := v }
  | 0x040 => lswin 0
  | 0x041 => lswin 1
  | 0x042 => lswin 2
  | 0x043 => lswin 3
  | _ => s

/-- MFS (R361): a number that is not listed is UNDEF, a level that may not read it PRIV. -/
def execMfs (d : GReg) (num : BitVec 12) (s : State) : Host.Outcome State Fault Refusal :=
  runEx (do
    needGroup .base
    match sysReg num.toNat with
    | none => undef
    | some r => do
      needLevel fun l => decide (r.reads ≤ levelNum l)
      checkDest d.toNat
      let s ← get
      wr d (s.sysRead num.toNat)
      advance) s

/-- The frame of a fault ring (R143): one PIN frame of a page with CT = SC and FE = 1. -/
def ringFrame (v : Word) : Ex (Option Nat) := do
  if v = 0 then pure none
  else
    let (pa, e) ← translate v .read 64
    let s ← get
    let pin : Bool := match frameOf pa with
      | some f => (s.fotAt f).getLsbD 7
      | none => false
    if e.ct = 2 ∧ e.fe = true ∧ pin = true then pure (some pa)
    else trap .typefault v (e.ct.setWidth 64)

/-- MTS (R361 to R363). -/
def execMts (num : BitVec 12) (a : GReg) (s : State) : Host.Outcome State Fault Refusal :=
  runEx (do
    needGroup .base
    match sysReg num.toNat with
    | none => undef
    | some r => do
      needLevel fun l => decide (r.writes ≤ levelNum l)
      let v ← pk1 (src0 a) []
      if onlyBits v r.mask = false ∨ sysRange num.toNat v = false then undef
      if num.toNat = 0x035 then
        if formOf v ≠ .page then trap .typefault v 0
        let f ← ringFrame v
        modify fun (s : State) => s.modOwner (s.ctx s.cur).owner fun o => { o with fqFrame := f }
      pop [src0 a]
      modify fun (s : State) => s.sysWrite num.toNat v
      advance) s

/-- SVC (R216, R364): EPC names the next instruction. -/
def execSvc (imm : BitVec 16) (s : State) : Host.Outcome State Fault Refusal :=
  runEx (do
    needGroup .base
    let c ← me
    modify fun (s : State) => s.takeTrap s.cur c.npc .svc (imm.setWidth 64) 0 false) s

/-- BRK (R364). -/
def execBrk (imm : BitVec 16) (s : State) : Host.Outcome State Fault Refusal :=
  runEx (do
    needGroup .base
    trap .brk (imm.setWidth 64) 0) s

/-- A trap raised by an ERET whose EPC is bad (R259): of the trap registers only CODE and EVAL change. -/
def Ctx.badReturn (c old : Ctx) : Ctx :=
  let code := c.ecause &&& 0xFF
  let pc : Word := old.epc.setWidth 64
  { c with epc := old.epc, einfo := old.einfo, ecause := (old.ecause &&& ~~~(0xFF : Word)) ||| code,
           eval := if code = Cause.undef.code.setWidth 64 then lineBase pc else pc }

/-- A context stands at a trap's entry, not at a wait and not stopped. -/
def Ctx.trapped (c : Ctx) : Bool := c.state == .live && c.held.isNone

/-- ERET (R217, R259, R364): EPC is checked as a target is, before the level changes. -/
def execEret (s : State) : Host.Outcome State Fault Refusal :=
  runEx (do
    needGroup .base
    needLevel fun l => l != .u
    let c ← me
    if c.ecause.getLsbD 11 then modify fun (s : State) => s.doEret s.cur
    else do
      let s ← get
      match checkTarget (c.epc.setWidth 64) s with
      | .ok _ t => set (t.doEret t.cur)
      | .error (.device pa) _ => throw (.device pa)
      | .error .done t =>
        set (if (t.ctx t.cur).trapped then t.modCtx t.cur fun x => x.badReturn c else t)) s

/-- Every core, compute and channel (R105). -/
def allCores : List Nat := upTo 1280

/-- An invalidation posted to every TLB and walker of the device (R140, R365). -/
def State.postInval (s : State) (n : Nat) (i : Inval) : State :=
  let s1 : State := { s with invals := s.invals ++ allCores.map fun c => (n, c, i) }
  s1.post (allCores.map fun c => Instr.invalidationArrive c i)

/-- TLBI1 (R140, R365). -/
def execTlbi1 (b c : Src) (s : State) : Host.Outcome State Fault Refusal :=
  runEx (do
    needGroup .base
    needLevel fun l => l != .u
    let (x, y) ← pk2 (src b) (src c) []
    if onlyBits y 0xFFFF0003 = false then undef
    pop [src b, src c]
    modify fun (s : State) => s.postInval s.cur
      ⟨false, (s.ctx s.cur).owner, y.extractLsb' 16 16, wbits x 54 16, y.getLsbD 0, y.getLsbD 1⟩
    advance) s

/-- TLBI2 (R140, R365). -/
def execTlbi2 (b c : Src) (s : State) : Host.Outcome State Fault Refusal :=
  runEx (do
    needGroup .base
    needLevel fun l => l == .f
    let (x, y) ← pk2 (src b) (src c) []
    if onlyBits y 0xF0001 = false then undef
    pop [src b, src c]
    modify fun (s : State) => s.postInval s.cur ⟨true, wbits y 19 16, 0, wbits x 47 16, y.getLsbD 0, false⟩
    advance) s

/-- TLBSYNC (R140, R365): it waits for the context's own earlier invalidations, and empties the owner's callable caches. -/
def execTlbsync (s : State) : Host.Outcome State Fault Refusal :=
  runEx (do
    needGroup .base
    needLevel fun l => l != .u
    let s ← get
    if s.invals.any fun e => e.1 == s.cur then blockOn .tlbsync
    modify fun (s : State) => s.flushCallable (s.ctx s.cur).owner none
    advance) s

end Sys2Proof.Machine
end

