-- ==== Sys2Proof/Machine/Launch.lean ====
section
/-!
DEFINITION. Launches and continuations from programs (R95, R96, R355, R356) and the builders of callable entries (R357).
-/

namespace Sys2Proof.Machine

/-- The reserved fields of a LAUNCH record are zero (R48, R51). -/
def launchReserved (b : Block) : Bool :=
  onlyBits (blockWord b 0) 0xFFFFFFFF000707FF && onlyBits (blockWord b 1) 0xFFFFF && onlyBits (blockWord b 3) 0xFFFFFFFF
    && blockWord b 7 == 0

/-- ARGS has no bit above 54 (R51, R355). -/
def argsOk (w : Word) : Bool := wbits w 63 55 == 0

/-- A record that APPLY takes (R356). -/
def applyOk (b : Block) : Bool :=
  let h := blockWord b 0
  wbits h 7 0 == 1 && !h.getLsbD 8 && !h.getLsbD 10 && launchReserved b && argsOk (blockWord b 2)

/-- Launches of an owner that a die's Porter holds and that have not started (R73), with those whose records are on their way to it. One that was
pre-empted and is back in its queue counts (DESIGN CHOICE, log 41). -/
def State.unstarted (s : State) (die o : Nat) : Nat :=
  (s.launches.countP fun e => e.2.die == die && e.2.owner == o && (match e.2.state with
    | .queued | .reserve | .waiting => true
    | _ => false))
  + (s.agenda ++ s.later).countP fun i => match i with
    | .launch c => c.owner == o && s.vcpDie c.fn c.vcp == die
    | _ => false

/-- The priority that bounds a launch or a continuation of a context (R72): its launch's base priority, its own as a continuation;
none for a context without a task. -/
def State.ceiling (s : State) (c : Ctx) : Nat := (s.basePriority c).getD 7

/-- A launch from a LAUNCH record's block (R51, R72). -/
def launchOf (die owner : Nat) (space : BitVec 16) (level : Level) (body : Block) (ceil : Nat) : Launch :=
  let prio := wbits (blockWord body 0) 18 16
  { peerLaunchOf die owner space level (min prio ceil) ceil (wbits (blockWord body 1) 19 0)
      ⟨blockWord body 2, (blockWord body 3) &&& 0xFFFFFFFF, 0, 0⟩ none with
    body := body, ceil := ceil, clipped := decide (ceil < prio), peer := false }

/-- APPLY (R356). -/
def execApply (b : Src) (sc : BitVec 3) (s : State) : Host.Outcome State Fault Refusal :=
  runEx (do
    needGroup .comb
    needScope sc
    let ra ← pk1 (src b) []
    let (body, _) ← readNow ra 64 64 (fun ca info => trap ca ra info)
    if applyOk body = false then trap .combinator ra 0
    let s ← get
    let c ← me
    let die := dieOf (coreOf s.cur)
    if 64 ≤ s.unstarted die c.owner then blockOn .applyPlace
    waitRelease sc id
    pop [src b]
    modify fun (s : State) => s.addLaunch (launchOf die c.owner c.space c.level body (s.ceiling c))
    advance) s

/-- Mesh distance of two clusters of a die (R95). -/
def clusterDistance (a b : Nat) : Nat :=
  let d (x y : Nat) : Nat := (x - y) + (y - x)
  d (a % 8) (b % 8) + d (a / 8) (b / 8)

/-- An owner holds a core of a cluster (R59). -/
def State.holdsCluster (s : State) (o cl : Nat) : Bool := (upTo 8).any fun m => (s.owner o).active.cores.getLsbD (8 * cl + m)

/-- The owner's cluster on a die that is nearest to cluster k, lower numbers first (R95). -/
def State.nearestCluster (s : State) (o die k : Nat) : Option Nat :=
  let l := (upTo 32).filter fun j => s.holdsCluster o (32 * die + j)
  (l.find? fun j => l.all fun i => decide (clusterDistance j k ≤ clusterDistance i k)).map fun j => 32 * die + j

/-- The landing cluster of a physical address (R95). -/
def State.landing (s : State) (o pa : Nat) : Option Nat :=
  let c := channelOf pa
  let d := c / 64
  let k := c % 64 / 2
  [d, d ^^^ 1, d ^^^ 2, d ^^^ 3].findSome? fun n => s.nearestCluster o n k

/-- The key of an owner's segment for a cluster (R96). -/
def segKey (o cl : Nat) : Nat := 128 * o + cl
def State.segment (s : State) (o cl : Nat) : List TaskRec := (tget s.gtq (segKey o cl)).getD []
def State.setSegment (s : State) (o cl : Nat) (l : List TaskRec) : State :=
  { s with gtq := if l.isEmpty then tdel s.gtq (segKey o cl) else tset s.gtq (segKey o cl) l }

/-- The place of a segment's next record: records stand in a segment by turns, each at the place after the one before (R96, log 74). -/
def State.segmentPlace (s : State) (o cl : Nat) : Nat := (tget s.gtqNext (segKey o cl)).getD 0 % max 1 (s.owner o).gtqlen.toNat
def State.segmentAddress (s : State) (o cl place : Nat) : Word :=
  (s.owner o).gtqbase + w64 (64 * ((s.owner o).gtqlen.toNat * cl + place))

/-- A record as it lies in its segment (R355): the device fills its last two words with SPACE, level and owner, in a form that the spec does not give
(log 74). -/
def filledRecord (body : Block) (c : Ctx) : Block :=
  mergeBytes body (placeBytes 48 (Config.recordTail c.space (levelNum c.level) c.owner).toNat) (rangeMask 48 16)

/-- A record enters an owner's segment for a cluster (R96). -/
def State.enterSegment (s : State) (c : Ctx) (core cl : Nat) (body : Block) (t : TaskRec) : State :=
  let o := c.owner
  let s1 := s.deviceWrite core o c.space .s (s.segmentAddress o cl (s.segmentPlace o cl)) 64 (filledRecord body c).toNat
  { s1.setSegment o cl (s1.segment o cl ++ [t]) with gtqNext := tset s1.gtqNext (segKey o cl) (s1.segmentPlace o cl + 1) }

/-- A task record's reserved fields (R355). -/
def taskRecOk (b : Block) : Bool :=
  onlyBits (blockWord b 0) 0x70FFFFF && argsOk (blockWord b 1) && onlyBits (blockWord b 2) 0xFFFFFFFF
    && blockWord b 6 == 0 && blockWord b 7 == 0

/-- The continuation that a task record names, with its callable entry (R355, R356). -/
def continuationOf (c : Ctx) (ceil : Nat) (b e : Block) : TaskRec :=
  { node := none, launch := none, owner := c.owner, space := c.space, level := c.level, helper := none, pc := ePc e,
    co := eKind e = 2, cidx := wbits (blockWord b 0) 19 0, scope := BitVec.ofNat 3 (eScope e), bound := BitVec.ofNat 3 (eScope e), g3 := blockWord b 1,
    g4 := blockWord b 2, g5 := blockWord b 3, g6 := blockWord b 4, prio := min (wbits (blockWord b 0) 26 24) ceil,
    jc := blockWord b 5, ls := eLs e, vec := eVec e, acc := List.replicate (eAcc e) 0, gang := [], qin := none,
    qout := none }

/-- POST (R356): an address without a home channel raises ACCESS. -/
def execPost (b c : Src) (sc : BitVec 3) (s : State) : Host.Outcome State Fault Refusal :=
  runEx (do
    needGroup .comb
    needScope sc
    let (da, ta) ← pk2 (src b) (src c) []
    let t ← resolve da 1 1 .read
    match t with
    | .mem pa _ => do
      if regionOf pa = .host then trap .access da 0
      let (body, _) ← readNow ta 64 64 (fun ca info => trap ca ta info)
      let s ← get
      let x ← me
      let ow := s.owner x.owner
      let idx := wbits (blockWord body 0) 19 0
      let bad {α : Type} : Ex α := trap .combinator (w64 idx) 0
      if taskRecOk body = false ∨ ow.gtqlen = 0 ∨ ow.ctlen.toNat ≤ idx then bad
      match s.callable (dieOf (coreOf s.cur)) x.owner x.space x.level idx with
      | (none, _) => bad
      | (some e, s1) => do
        if eKind e ≠ 1 ∧ eKind e ≠ 2 then bad
        set s1
        match s1.landing x.owner pa with
        | none => trap .access da 0
        | some cl => do
          if ow.gtqlen.toNat ≤ (s1.segment x.owner cl).length then blockOn .segment
          waitRelease sc id
          pop [src b, src c]
          modify fun (s : State) => s.enterSegment x (coreOf s.cur) cl body (continuationOf x (s.ceiling x) body e)
          advance
    | _ => trap .access da 0) s

/-- Word 0 of an entry that a builder writes (R357). -/
def builtWord (kind : Nat) (sc : BitVec 3) (x : BitVec 15) : Nat :=
  let v := x.toNat
  kind + 2 ^ 4 * bits v 2 0 + 2 ^ 8 * sc.toNat + 2 ^ 11 * bits v 4 3 + 2 ^ 16 * bits v 7 5 + 2 ^ 19 * bits v 8 8 + 2 ^ 20 * bits v 14 9

/-- The entry that a builder makes of a parameter block (R357). -/
def builtEntry (kind : Nat) (sc : BitVec 3) (x : BitVec 15) (p : Block) : Block :=
  mergeBytes p (placeBytes 0 (builtWord kind sc x)) (rangeMask 0 8)

/-- The block of an entry written (R357): at a home at once, so that the caches which are emptied next read the new entry; elsewhere as
a store. -/
def writeEntry (va : Word) (e : Block) (fin : Ex Unit) : Ex Unit := do
  let t ← resolve va 64 64 .write
  let asStore : Ex Unit := storeTo va 64 ⟨e, BitVec.allOnes 64, none⟩ .plain none fin
  match t with
  | .mem pa te => do
    match regionOf pa with
    | .weight _ => trap .wswrite va 0
    | _ => pure ()
    let ct ← pageType pa te va
    if ct = .ws then asStore
    else do
      scWait ct
      orderedHome pa
      if ct = .pv then
        dropPv pa
        orderedHome pa
      let s ← get
      match s.fotNow pa (s.ctx s.cur).owner true te.ct with
      | .ok => do
        if s.busy (pa / 64) then blockOn .release
        fin
        modify fun (s : State) => s.slotUpdate (s.ctx s.cur).owner (coreOf s.cur) s.cur pa true fun _ t => (e, t)
        advance
      | .memerr => trap .memerr va 0
      | .access _ => refuse .access va 1 pa (s.ctx s.cur).owner
      | .typefault => trap .typefault va 0
  | _ => asStore

/-- A builder (R357). -/
def buildEntry (kind : Nat) (b c : Src) (sc : BitVec 3) (x : BitVec 15) : Ex Unit := do
  needGroup .comb
  let (idx, pa) ← pk2 (src b) (src c) []
  let s ← get
  let cx ← me
  let ow := s.owner cx.owner
  if ow.ctlen.toNat ≤ idx.toNat then trap .combinator idx 0
  let (p, _) ← readNow pa 64 64 (fun ca info => trap ca pa info)
  let dst := ow.ctbase + w64 (64 * idx.toNat)
  let _ ← resolve dst 64 64 .write
  let e := builtEntry kind sc x p
  if blockWord p 0 ≠ 0 ∨ entryOk e = false then trap .combinator idx 0
  writeEntry dst e (pop [src b, src c])
  modify fun (s : State) => s.flushCallable cx.owner (some idx.toNat)

/-- MKFN, MKCO, MKSEQ, MKPAR, MKPIPE, MKFARM and MKLOOP (R357). -/
def execMkfn (b c : Src) (sc : BitVec 3) (x : BitVec 15) (s : State) : Host.Outcome State Fault Refusal := runEx (buildEntry 1 b c sc x) s
def execMkco (b c : Src) (sc : BitVec 3) (x : BitVec 15) (s : State) : Host.Outcome State Fault Refusal := runEx (buildEntry 2 b c sc x) s
def execMkseq (b c : Src) (sc : BitVec 3) (x : BitVec 15) (s : State) : Host.Outcome State Fault Refusal := runEx (buildEntry 3 b c sc x) s
def execMkpar (b c : Src) (sc : BitVec 3) (x : BitVec 15) (s : State) : Host.Outcome State Fault Refusal := runEx (buildEntry 4 b c sc x) s
def execMkpipe (b c : Src) (sc : BitVec 3) (x : BitVec 15) (s : State) : Host.Outcome State Fault Refusal := runEx (buildEntry 5 b c sc x) s
def execMkfarm (b c : Src) (sc : BitVec 3) (x : BitVec 15) (s : State) : Host.Outcome State Fault Refusal := runEx (buildEntry 6 b c sc x) s
def execMkloop (b c : Src) (sc : BitVec 3) (x : BitVec 15) (s : State) : Host.Outcome State Fault Refusal := runEx (buildEntry 7 b c sc x) s

end Sys2Proof.Machine
end

