-- ==== Sys2Proof/Machine/Saves.lean ====
section
/-!
DEFINITION. Saving and restoring contexts (R205 to R210, R295), asynchronous traps (R69, R218), wait limits (R194, R368) and aborts
(R225).
-/

namespace Sys2Proof.Machine

/-- The key under which the context table keeps a saved context: the first unused one above every hardware context (log 11). -/
def savedBase : Nat := 32768
def State.savedKey (s : State) : Nat :=
  ((upTo (s.saved.length + 1)).map (savedBase + ·)).find? (fun k => (tget s.saved k).isNone) |>.getD (savedBase + s.saved.length)

/-- Operations whose instruction is simply executed again after a save or a trap (R166, R173, R174): a wait on a counter or a barrier, or for a block
that its instruction reads. -/
def Producer.repeats (p : Producer) : Bool :=
  match p.home with
  | some r => repeatedWait r
  | none => false

/-- Waits of a context that its instruction makes again end (R166, R173). -/
def State.dropWaits (s : State) (n : Nat) : State :=
  let pids := ((s.ctx n).producers.filter (·.repeats)).map (·.pid)
  let s1 : State := { s with slices := s.slices.map fun e => (e.1, { e.2 with bench := e.2.bench.filter fun b => !(b.req.pid != 0 && pids.contains b.req.pid) }) }
  s1.modCtx n fun c => { c with producers := c.producers.filter fun p => !p.repeats }

/-- The context waits for no reply any longer (R145). -/
def State.dropReply (s : State) (n : Nat) : State :=
  { s with owners := s.owners.map fun e => (e.1, { e.2 with ring := e.2.ring.map fun r => { r with ctxs := tdel r.ctxs n } }) }

/-- A save begins (R188, R207): the registers it will write, and where the context goes on. -/
def State.beginSave (s : State) (n : Nat) (g : BitVec 64) (v : BitVec 32) : State :=
  let s1 := ((s.dropWaits n).dropReply n).modCtx n fun c =>
    { c with state := .saving, saveMask := some (g, v), saveReq := true, retryAt := none, peerBlocks := [] }
  ((s1.startRelease n 4 false none)).post [.saveDone n]

/-- The dirty words of a core's windows merged on behalf of a save, or with pv those of PV pages too when a pool switch takes the core away (R70, R148, R210); a
block that cannot be written stays dirty. -/
def State.mergeBlock (s : State) (n wi : Nat) (w : Window) (pv : Bool) (k : Nat) (b : WinBlock) : State :=
  let core := coreOf n
  if b.d = 0 then s
  else
    let va := w64 (w.va + 64 * k)
    match s.checkNow core w.owner w.space w.level va .write with
    | (.ok pa e, s1) =>
      let weight : Bool := match regionOf pa with
        | .weight _ => true
        | _ => false
      if (e.ct = 0 ∧ pv = false) ∨ e.ct = 2 ∨ weight then s1
      else s1.sendMerge core wi k b (64 * (w.lblk + k))
        { op := .merge, ctx := n, core := core, owner := w.owner, pa := pa, va := va, ct := PageType.ofCt e.ct, size := 64 }
    | (_, s1) => s1
def State.mergeWindows (s : State) (n : Nat) (pv : Bool) : State :=
  (s.core (coreOf n)).windows.foldl (fun s e => e.2.blocks.foldl (fun s b => s.mergeBlock n e.1 e.2 pv b.1 b.2) s) s

/-- A core is to go to another owner (R70, R131): its windows are released, its lines leave the L1 with what they have written, and its instruction cache and TLB
are invalid. The control context counts the writes that have not been acknowledged. -/
def State.clearCore (s : State) (core : Nat) : State :=
  let n := 16 * core
  let count (s : State) : State := s.modCtx n fun c => { c with unacked := c.unacked + 1 }
  let out (s : State) (e : Nat × L1Line) : State :=
    match e.2.st with
    | .m | .o => (count s).writeBack n core e.1 e.2 false true
    | .pv => (if e.2.dirty then (count s).pvWrite n core e.1 e.2 true else s).dropL1 core e.1
    | .e | .s | .ro => s.dropL1 core e.1
    | .isD | .imD | .smG | .miA => s
  let s1 := s.mergeWindows n true
  ((s1.core core).l1.foldl out s1).modCore core fun k => { k with icache := [], tlb := [] }

/-- A cleared core has nothing on its way (R70, R131). -/
def State.coreCleared (s : State) (core : Nat) : Bool := (s.core core).l1.isEmpty && (s.ctx (16 * core)).unacked == 0

/-- SAFEPT (R205, R295). -/
def execSafept (glive : BitVec 64) (vlive : BitVec 32) (s : State) : Host.Outcome State Fault Refusal :=
  runEx (do
    needGroup .base
    let s ← get
    let c ← me
    advance
    if s.cur % 16 ≠ 0 then
      if c.saveReq ∨ c.sliceSince.isSome then
        modify fun (s : State) => (s.mergeWindows s.cur false).beginSave s.cur glive vlive
      else modMe fun c => { c with spcount := 0 }) s

/-- A context can be saved at once (R206): it is blocked on something that will be tried again, not on a walk or an answer on its way. -/
def CtxState.savable (st : CtxState) : Bool :=
  match st with
  | .blocked w => (match w with
    | .walk | .fill _ | .putAnswer _ | .release | .fence | .tlbsync | .inbox | .reap _ => false
    | _ => true)
  | _ => false

/-- A full save of a context at a boundary, or of one that is blocked (R206). -/
def State.fullSave (s : State) (n : Nat) : State :=
  (s.mergeWindows n false).beginSave n (BitVec.allOnes 64) (BitVec.allOnes 32)

/-- The members of the gang a context belongs to, itself included (R204). -/
def State.gangAll (s : State) (n : Nat) : List Nat :=
  match (s.ctx n).gang with
  | some g => if g.id = 0 then [n] else
      (s.ctxs.filter fun e => (e.2.gang.map (·.id)) == some g.id && decide (coreOf e.1 < 1280)).map (·.1)
  | none => [n]

/-- PREEMPT_REQUEST (R204, R206): it applies to every member of a gang; a blocked context is saved at once. -/
def execPreemptRequest (ctx : Nat) (s : State) : Host.Outcome State Fault Refusal :=
  let act (s : State) (m : Nat) : State :=
    if m % 16 = 0 then s
    else
      match (s.ctx m).state with
      | .live => s.modCtx m fun c => { c with saveReq := true }
      | .blocked _ =>
        let s1 := s.modCtx m fun c => { c with saveReq := true }
        if (s.ctx m).state.savable then s1.fullSave m else s1
      | _ => s
  .next ((s.gangAll ctx).foldl act s)

/-- FORCED_SAVE (R206). -/
def execForcedSave (ctx : Nat) (s : State) : Host.Outcome State Fault Refusal :=
  if ctx % 16 = 0 then .next s
  else
    match (s.ctx ctx).state with
    | .live => .next (s.fullSave ctx)
    | .blocked _ => .next (if (s.ctx ctx).state.savable then s.fullSave ctx else s)
    | _ => .next s

/-- SLICEEND_FORCE_SAVE (R69): 100,000 cycles after the slice end. -/
def execSliceendForceSave (ctx : Nat) (s : State) : Host.Outcome State Fault Refusal :=
  match (s.ctx ctx).sliceSince with
  | some t =>
    if (s.dtc - t).toNat < 100000 then .next s
    else
      match (s.ctx ctx).state with
      | .live => .next (s.fullSave ctx)
      | .blocked _ => .next (if (s.ctx ctx).state.savable then s.fullSave ctx else s)
      | _ => .next s
  | none => .next s

/-- The words of a context's sibling receiving ends, by queue register (R208). -/
def State.siblingWords (s : State) (n : Nat) : Tbl (List Word) :=
  (s.ctx n).bind.filterMap fun e => match e.2 with
    | .sibling false back k => some (e.1, (tget (s.core (coreOf n)).channels (channelKey n back k)).getD [])
    | _ => none

/-- What a save writes at word w of a context's record, with the mask of its bits (R205, R208). free stands for words to which the spec
gives no bits. -/
def State.recordWord (s : State) (n : Nat) (gl : BitVec 64) (vl : BitVec 32) (free : Nat) (w : Nat) : Word × Word :=
  let c := s.ctx n
  let all : Word := BitVec.allOnes 64
  let set := c.vset.map fun k => (s.core (coreOf n)).vset k
  let full : Bool := gl == BitVec.allOnes 64
  if w < 64 then
    if gl.getLsbD w && (c.bound w).isNone then (c.g.toList.getD w 0, all) else (0, 0)
  else if w = 64 then (c.gFull, gl)
  else if w = 65 then
    match c.vset, set with
    | some k, some v => (w64 (v.full.toNat + 2 ^ 32 * k + 2 ^ 35), vl.setWidth 64 ||| 0xF00000000)
    | _, _ => (0, 0xF00000000)
  else if w = 66 then (c.pc, all)
  else if w = 67 then (if full then (Config.unstated (free + w), all) else (0, 0))
  else if w = 68 then (c.epc.setWidth 64, all)
  else if w = 69 then (c.ecause, all)
  else if w = 70 then (c.eval, all)
  else if w = 71 then (c.einfo, all)
  else if w = 72 then (c.erf0, all)
  else if w = 73 then (c.erf1, all)
  else if w < 82 then (Config.unstated (free + w), all)
  else if w < 128 then (if full then (Config.unstated (free + w), all) else (0, 0))
  else if w < 144 then
    let r := 2 * (w - 128)
    let half (i : Nat) : Nat := if vl.getLsbD (r + i) && set.isSome then 2 ^ 32 - 1 else 0
    let tag (i : Nat) : Nat := ((set.bind fun v => tget v.tag (r + i)).getD 0).toNat
    (w64 (tag 0 + 2 ^ 32 * tag 1), w64 (half 0 + 2 ^ 32 * half 1))
  else if w < 208 then
    let l := (tget (s.siblingWords n) ((w - 144) / 8)).getD []
    match l[(w - 144) % 8]? with
    | some x => (x, all)
    | none => (0, 0)
  else if w < 224 then
    match c.results[w - 208]? with
    | some x => (x, all)
    | none => (0, 0)
  else (0, 0)

/-- Eight words as a block. -/
def blockOf (f : Nat → Word) : Block := BitVec.ofNat 512 ((upTo 8).foldl (fun n i => n + (f i).toNat * 2 ^ (64 * i)) 0)

/-- The address of a context's record (R208). -/
def State.recordBase (s : State) (o num : Nat) : Nat := (s.owner o).savearea.toNat + 4096 * num

/-- Block i of a record written (R208): the data, and the mask of its bits. -/
def State.recordBlock (s : State) (n : Nat) (gl : BitVec 64) (vl : BitVec 32) (free i : Nat) : Block × Block :=
  if i < 32 then
    (blockOf fun j => (s.recordWord n gl vl free (8 * i + j)).1, blockOf fun j => (s.recordWord n gl vl free (8 * i + j)).2)
  else
    match (s.ctx n).vset with
    | some k =>
      if vl.getLsbD (i - 32) then ((tget ((s.core (coreOf n)).vset k).v (i - 32)).getD 0, BitVec.allOnes 512) else (0, 0)
    | none => (0, 0)

/-- The record of a context written, or the address of the block whose write fails (R208, R209). -/
def State.writeRecord (s : State) (n : Nat) (gl : BitVec 64) (vl : BitVec 32) : Except Nat State :=
  let c := s.ctx n
  let base := s.recordBase c.owner n
  let free := s.fresh
  let s1 : State := { s with fresh := s.fresh + 256 }
  (upTo 64).foldl (fun (x : Except Nat State) i =>
    match x with
    | .error a => .error a
    | .ok t =>
      let (d, m) := s.recordBlock n gl vl free i
      if m = 0 then .ok t
      else
        match t.ipaWrite c.owner (coreOf n) (base + 64 * i) d m with
        | some t' => .ok t'
        | none => .error (base + 64 * i)) (.ok s1)

/-- The context leaves its slot, which is FREE for other tasks (R188); what names the context names its saved record's key. -/
def State.leaveSlot (s : State) (n : Nat) (cup : Bool) : State :=
  let c := s.ctx n
  let k := s.savedKey
  let (g, v) := c.saveMask.getD (BitVec.allOnes 64, BitVec.allOnes 32)
  let sv : Saved :=
    { num := n, core := coreOf n, glive := g, vlive := v, cup := cup,
      vdata := c.vset.map fun i => (s.core (coreOf n)).vset i, queues := s.siblingWords n }
  let s1 := c.bind.foldl (fun s e => match e.2 with
    | .sibling false back i => s.modCore (coreOf n) fun x => { x with channels := tset x.channels (channelKey n back i) [] }
    | _ => s) s
  let s2 := (s1.setCtx k { c with state := if cup then .cupboard else .saved, vset := none, lastIssue := none }).setCtx n Ctx.free
  let s3 := { s2.renameCtx n k with saved := tset s2.saved k sv }
  (if cup then s3.modCore (coreOf n) fun x => { x with cupboard := some k } else s3).freed c.owner

/-- SAVE_DONE (R207, R208, R230): once no producer but those that wait at a home is pending, these are withdrawn; once the context's stores are
performed its record is written, and it is SAVED. -/
def execSaveDone (ctx : Nat) (s : State) : Host.Outcome State Fault Refusal :=
  let c := s.ctx ctx
  if c.state ≠ .saving then .next s
  else
    let waits (p : Producer) : Bool := (s.benchWait p.pid).isSome
    if c.producers.any fun p => !(waits p) then .next (s.postLater [.saveDone ctx])
    else
      let s1 := c.producers.foldl (fun s p => s.withdraw ctx p.pid) s
      if s1.quiet ctx = false ∨ s1.copies.any (fun q => q.ctx == some ctx && q.asked) then .next (s1.postLater [.saveDone ctx])
      else
        let (g, v) := c.saveMask.getD (BitVec.allOnes 64, BitVec.allOnes 32)
        let cl := clusterOf (coreOf ctx)
        let slots := ((c.task.map (·.acc)).getD []).filter fun a => !(s1.cluster cl).savedAcc.contains (c.owner, a)
        let due : Bool := match c.retryAt with
          | some t => decide (t ≤ s.dtc)
          | none => true
        if !slots.isEmpty then
          let s2 := s1.postLater [.saveDone ctx]
          .next (if due then (s2.modCtx ctx fun c => { c with retryAt := some (s.dtc + 2400) }).post (slots.map fun a => Instr.accSlotSave cl a) else s2)
        else
          match s1.writeRecord ctx g v with
          | .error _ => .next (s1.post [.saveWriteFault ctx])
          | .ok s2 => .next (s2.leaveSlot ctx false)

/-- SAVE_WRITE_FAULT (R209): the context goes into the core's Cupboard and SAVEFAULT is reported; with a full Cupboard the save is refused,
the context keeps running, and the request is tried again 2,400 cycles later. -/
def execSaveWriteFault (ctx : Nat) (s : State) : Host.Outcome State Fault Refusal :=
  let c := s.ctx ctx
  if c.state ≠ .saving then .next s
  else if (s.core (coreOf ctx)).cupboard.isSome then
    .next ((s.modCtx ctx fun c => { c with state := .live, held := if c.co.isSome ∨ c.ticket.isSome then c.held else none, lastWait := none,
                                            saveMask := none, retryAt := some (s.dtc + 2400) }).reissueAll ctx)
  else
    let (g, v) := c.saveMask.getD (BitVec.allOnes 64, BitVec.allOnes 32)
    let ipa := match s.writeRecord ctx g v with
      | .error a => a
      | .ok _ => s.recordBase c.owner ctx
    .next ((s.report (.saveFault ctx ipa)).leaveSlot ctx true)

/-- CUPBOARD_RETRY (R209): the refused saves of a core are tried again. -/
def execCupboardRetry (core : Nat) (s : State) : Host.Outcome State Fault Refusal :=
  let again (s : State) (h : Nat) : State :=
    let n := 16 * core + h
    match (s.ctx n).retryAt with
    | some t => if t ≤ s.dtc then ((s.modCtx n fun c => { c with retryAt := none }).post [.forcedSave n]) else s
    | none => s
  .next ((upTo 16).foldl again s)

/-- Where a saved context may be restored (R209, R210). -/
def State.restorable (s : State) (k n : Nat) : Bool :=
  match tget s.saved k with
  | none => false
  | some sv =>
    let stream := (s.ctx k).bind.any fun e => match e.2 with
      | .streamIn .. => true
      | _ => false
    let slots := ((s.ctx k).task.map (·.acc)).getD []
    let cl := clusterOf (coreOf n)
    (slots.isEmpty || (clusterOf sv.core == cl && slots.all fun a => !(s.accUsed cl).contains a))
      && n % 16 != 0 && decide ((s.ctx n).state = .free) && (!(sv.cup || stream) || coreOf n == sv.core)
      && (sv.vdata.isNone || (s.freeVset (coreOf n)).isSome)

/-- The words of a record read back (R208); a block that cannot be read keeps what the context engine holds. -/
def State.readRecord (s : State) (o num i : Nat) : Option Block := (s.ipaRead o (s.recordBase o num + 64 * i)).map (·.1)

/-- A register of a restored context: what its save wrote, else zero and full (R205). -/
def State.restoredG (s : State) (c : Ctx) (sv : Saved) (r : Nat) : Word :=
  if sv.glive.getLsbD r = false then 0
  else if sv.cup then c.g.toList.getD r 0
  else
    match s.readRecord c.owner sv.num (r / 8) with
    | some b => blockWord b (r % 8)
    | none => c.g.toList.getD r 0

/-- A word of a restored record, or what the context engine holds. -/
def State.restoredWord (s : State) (c : Ctx) (sv : Saved) (w : Nat) (own : Word) : Word :=
  if sv.cup then own
  else
    match s.readRecord c.owner sv.num (w / 8) with
    | some b => blockWord b (w % 8)
    | none => own

/-- The vector registers of a restored context (R205, R208). -/
def State.restoredV (s : State) (c : Ctx) (sv : Saved) (own : VSet) : VSet :=
  let live (r : Nat) : Bool := sv.vlive.getLsbD r
  let data (r : Nat) : BitVec 512 :=
    if !live r then 0
    else if sv.cup then (tget own.v r).getD 0
    else (s.readRecord c.owner sv.num (32 + r)).getD ((tget own.v r).getD 0)
  let tag (r : Nat) : BitVec 32 :=
    if !live r then 0
    else
      let o := ((tget own.tag r).getD 0).toNat
      let w := s.restoredWord c sv (128 + r / 2) (w64 (o * 2 ^ (32 * (r % 2))))
      BitVec.ofNat 32 (w.toNat / 2 ^ (32 * (r % 2)))
  let full := (s.restoredWord c sv 65 (own.full.setWidth 64)).extractLsb' 0 32
  ⟨(upTo 32).map fun r => (r, data r), (upTo 32).map fun r => (r, tag r), (full &&& sv.vlive) ||| ~~~sv.vlive⟩

/-- The context as it is after its restore (R205, R208): a coroutine that waits for a resume goes on waiting. -/
def State.restoredCtx (s : State) (k n : Nat) (sv : Saved) : Ctx :=
  let c := s.ctx k
  let own (i : Nat) (x : Word) : Word := s.restoredWord c sv i x
  let waits : Bool := (c.co.map (·.suspended)) == some true && c.given.isNone
  let gFull := (own 64 c.gFull &&& sv.glive) ||| ~~~sv.glive
  { c with
    state := if waits then .blocked .cyield else .live,
    since := s.dtc,
    held := if waits ∨ c.ticket.isSome ∨ c.given.isSome then c.held else none,
    lastWait := none,
    g := Vector.ofFn fun r => if r.val = 0 then 0 else s.restoredG c sv r.val,
    gFull := gFull,
    pc := own 66 c.pc,
    epc := (own 68 (c.epc.setWidth 64)).setWidth 55,
    ecause := own 69 c.ecause,
    eval := own 70 c.eval,
    einfo := own 71 c.einfo,
    erf0 := own 72 c.erf0,
    erf1 := own 73 c.erf1,
    results := (upTo c.results.length).map fun i => own (208 + i) (c.results.getD i 0),
    vset := if sv.vdata.isSome then s.freeVset (coreOf n) else none,
    spcount := 0, saveReq := false, saveMask := none, retryAt := none, sliceSince := none,
    async := { c.async with sliceend := none }, lastIssue := none, yielded := [], refusals := 0 }

/-- The queue words of a restored context go ahead of what its channels have received since (R196, R208). -/
def State.restoreQueues (s : State) (n : Nat) (c : Ctx) (sv : Saved) : State :=
  c.bind.foldl (fun s e => match e.2 with
    | .sibling false back i =>
      let own := (tget sv.queues e.1).getD []
      let ws := (upTo own.length).map fun j => s.restoredWord c sv (144 + 8 * e.1 + j) (own.getD j 0)
      let key := channelKey n back i
      s.modCore (coreOf n) fun x => { x with channels := tset x.channels key (ws ++ (tget x.channels key).getD []) }
    | _ => s) s

/-- The context with its vector set and queues put into a FREE slot (R207, R210, R230): an acquire at dev scope. -/
def State.restoreInto (s : State) (k n : Nat) (sv : Saved) : State :=
  let c := s.ctx k
  let core := coreOf n
  let s0 := if sv.cup then s else (upTo 64).foldl (fun s i => s.ipaCharge c.owner core (s.recordBase c.owner sv.num + 64 * i)) s
  let s1 := s0.movePv sv.core core c.owner
  let r := s1.restoredCtx k n sv
  let s2 := match sv.vdata, r.vset with
    | some own, some i => s1.modCore core fun x => { x with vsets := tset x.vsets i (s1.restoredV c sv own) }
    | _, _ => s1
  let s3 := s2.restoreQueues n c sv
  let s4 : State := { s3.setCtx n r with ctxs := tdel (s3.setCtx n r).ctxs k, saved := tdel s3.saved k }
  let s5 := s4.renameCtx k n
  let s6 := if sv.cup then s5.modCore sv.core fun x => { x with cupboard := none } else s5
  let holds (e : Nat × Slice) : Nat × Slice := (e.1, { e.2 with holders := e.2.holders.map fun h => (h.1, if h.2 = sv.num then n else h.2) })
  let s7 : State := { s6 with slices := s6.slices.map holds }
  let slots := (c.task.map (·.acc)).getD []
  let s8 := slots.foldl (fun s a => s.loadSlot (clusterOf core) a c.owner) s7
  let node : State := match c.task.bind (·.node) |>.bind (tget s8.nodes) with
    | some d => { s8 with nodes := tset s8.nodes d.id { d with ctx := some n } }
    | none => s8
  (node.acquireWindows core).reissueAll n

/-- The saved members of the gang of a saved context, itself included, by the keys of their records; none outside a gang, and none where the owner no longer has
all their cores (R204). -/
def State.gangSaved (s : State) (rec : Nat) : Tbl Saved :=
  match (s.ctx rec).gang with
  | some g =>
    let l := if g.id = 0 then [] else s.saved.filter fun e => ((s.ctx e.1).gang.map (·.id)) == some g.id
    if l.all fun e => s.coreHeldBy (coreOf e.2.num) (s.ctx rec).owner then l else []
  | none => []

/-- Every member of a gang is saved, and its own context is free for it (R204). -/
def State.gangRestorable (s : State) (rec : Nat) (l : Tbl Saved) : Bool :=
  (l.all fun e => s.restorable e.1 e.2.num) && !((s.gangAll rec).any fun m => match (s.ctx m).state with
    | .saving => true
    | _ => false)

/-- CONTEXT_RESTORE (R204, R207 to R210, R228): a place of 0 stands for the first helper that frees; a holder whose word another context waits for goes first on
its core. The members of a gang come back together, each to its own context. -/
def execContextRestore (rec ctx : Nat) (s : State) : Host.Outcome State Fault Refusal :=
  match tget s.saved rec with
  | none => .next s
  | some sv =>
    let gang := s.gangSaved rec
    if gang.isEmpty = false then
      .next (if s.gangRestorable rec gang then gang.foldl (fun s e => s.restoreInto e.1 e.2.num e.2) s else s.postLater [.contextRestore rec ctx])
    else
    let place : Option Nat :=
      if ctx % 16 = 0 then (s.freeHelper (coreOf ctx)).map fun h => 16 * coreOf ctx + h
      else some ctx
    match place with
    | some n =>
      let first : Bool := (s.ctx rec).raised.isNone && s.saved.any fun e => e.1 != rec && e.2.core == coreOf n && (s.ctx e.1).raised.isSome
      let o := (s.ctx rec).owner
      let s1 := s.movePv sv.core (coreOf n) o
      if s.restorable rec n && !first then
        (if sv.core ≠ coreOf n ∧ (s1.leaving sv.core o ∨ s1.leaving (coreOf n) o) then .next (s1.postLater [.contextRestore rec ctx])
        else .next (s.restoreInto rec n sv))
      else .next (s.postLater [.contextRestore rec ctx])
    | none => .next (s.postLater [.contextRestore rec ctx])

/-- The peer address that a report names (R132, R219, R221). -/
def reportAddress (r : Report) : Word := w64 (2 ^ 56 + 2 ^ 47 * wbits r.erf0 24 16 + wbits r.erf1 46 0)

/-- A producer fills a register (R207). -/
def Producer.fills (p : Producer) (r : Nat) : Bool := !p.queued && p.dest.regs.contains r

/-- Every producer that waits at a home is withdrawn (R173, R207). -/
def State.withdrawAll (s : State) (n : Nat) : State :=
  ((s.ctx n).producers.filter fun p => p.atHome).foldl (fun s p => s.post [.homeWithdraw n p.pid]) s

/-- A SLICEEND waits for a context at U (R69). -/
def Ctx.sliceReady (c : Ctx) : Bool := c.async.sliceend.isSome && c.level == .u

/-- A blocked context takes SLICEEND at once (R69): on an empty register, a queue, a page-fault reply or a Bench entry. -/
def CtxState.sliceWait (st : CtxState) : Bool :=
  match st with
  | .live => true
  | .blocked w => (match w with
    | .reg _ | .queue _ | .faultReply | .ringFull | .jc _ | .bar _ | .benchShare _ => true
    | _ => false)
  | _ => false

/-- ASYNC_TRAP (R69, R218, R219, R222): MEMERR, then REMOTE, then SLICEEND, one at a boundary. A SLICEEND stands until a SAFEPT or a save. -/
def execAsyncTrap (ctx : Nat) (s : State) : Host.Outcome State Fault Refusal :=
  let c := s.ctx ctx
  if c.level = .f ∨ c.ecause.getLsbD 10 then .next s
  else
    match c.state, c.async.memerr, c.reports with
    | .live, some va, _ =>
      let s1 := s.modCtx ctx fun c => { c with async := { c.async with memerr := none, physical := false } }
      .next (s1.takeTrap ctx c.pc .memerr va (flag c.async.physical) true)
    | .live, none, r :: rest =>
      let s1 := s.modCtx ctx fun c => { c with reports := rest, lostReports := 0, erf0 := r.erf0, erf1 := r.erf1 }
      .next (s1.takeTrap ctx c.pc .remote (reportAddress r) (c.lostReports.setWidth 64) true)
    | st, _, _ =>
      match c.async.sliceend with
      | some t =>
        if c.sliceReady && st.sliceWait then
          .next ((((s.dropWaits ctx).dropReply ctx).withdrawAll ctx).takeTrap ctx c.pc .sliceend t 0 false)
        else .next s
      | none => .next s

/-- Tile tasks and copies of an aborted context (R225): the tile task that runs finishes, the others are dropped with their range locks. -/
def State.dropEngines (s : State) (n : Nat) : State :=
  let goes (t : Tile) : Bool := t.ctx == n && t.engine.isNone && !t.done
  let tiles := s.clusters.flatMap fun e => e.2.tiles.filter goes
  let copies := s.copies.filter fun c => c.ctx == some n && !c.done
  let s1 : State := { s with
    clusters := s.clusters.map (fun e => (e.1, { e.2 with tiles := e.2.tiles.filter fun t => !goes t })),
    copies := s.copies.filter (fun c => !(c.ctx == some n && !c.done)) }
  let s2 := tiles.foldl (fun s t => s.freeLocks t.core t.id) s1
  copies.foldl (fun s c => s.freeLocks c.core c.id) s2

/-- A context's task has been aborted: no node of a running nest names it (R225). -/
def State.orphan (s : State) (n : Nat) : Bool :=
  match (s.ctx n).task.bind (·.node) with
  | some d => (match tget s.nodes d with
    | some x => decide (x.state = .ended)
    | none => true)
  | none => true

/-- TASK_ABORT (R225): the task stops, its home waits are withdrawn and its reissue records discarded; a saved context is dropped. The end
word says ABORTED (R353). -/
def execTaskAbort (ctx : Nat) (s : State) : Host.Outcome State Fault Refusal :=
  let c := s.ctx ctx
  if ctx % 16 = 0 ∨ c.state = .free ∨ c.state = .ended ∨ c.state = .away ∨ s.orphan ctx = false then .next s
  else
    let s1 := s.dropEngines ctx
    let s2 : State := match tget s1.saved ctx with
      | some sv =>
        let t : State := { s1 with saved := tdel s1.saved ctx, ctxs := tdel s1.ctxs ctx }
        if sv.cup then t.modCore sv.core fun x => { x with cupboard := none } else t
      | none => s1.stopAt ctx 0x100
    match c.task.bind (·.launch) with
    | some l => .next ((s2.tryFinish l).freed c.owner)
    | none => .next (s2.freed c.owner)

/-- Waits that WAITLIM ends (R194). -/
def Wait.limited : Wait → Bool
  | .reg _ | .queue _ | .rangeLock _ | .copyQueue | .tileShare | .applyPlace | .segment | .sopen _ | .jc _ | .bar _ | .gform | .gjoin _
  | .endTask | .reseed | .channelCore _ | .benchShare _ => true
  | _ => false

/-- The register number or the address that a wait is for (R194), if it is for one. -/
def Wait.value : Wait → Option Word
  | .reg n | .queue n | .sopen n => some (w64 n)
  | .rangeLock va | .jc va | .bar va | .gjoin va | .channelCore va | .benchShare va => some va
  | _ => none

/-- A limited wait has lasted LIMIT cycles (R194). -/
def Ctx.expired (c : Ctx) (now : Word) : Bool :=
  match c.state with
  | .blocked w => w.limited && wbits c.waitlim 31 0 != 0 && decide (wbits c.waitlim 31 0 ≤ (now - c.since).toNat)
  | _ => false

/-- WAITLIM_EXPIRE (R194, R207, R368): the producer that the register waits for is withdrawn from its home, and WAITLIM is taken at the
blocked instruction. A wait that is for no register or address gives EVAL no stated value (log 1). -/
def execWaitlimExpire (ctx : Nat) (s : State) : Host.Outcome State Fault Refusal :=
  let c := s.ctx ctx
  match c.state with
  | .blocked w =>
    if c.expired s.dtc then
      let s1 := match w with
        | .reg r => (c.producers.filter fun (p : Producer) => p.fills r && p.atHome).foldl (fun (s : State) (p : Producer) => s.withdraw ctx p.pid) s
        | _ => s.dropWaits ctx
      match w.value with
      | some v => .next (s1.takeTrap ctx c.pc .waitlim v 0 false)
      | none => .next (s1.freeCount.2.takeTrap ctx c.pc .waitlim (Config.unstated s1.freeCount.1) 0 false)
    else .next s
  | _ => .next s

end Sys2Proof.Machine
end

