-- ==== Sys2Proof/Machine/Porter.lean ====
section
/-!
DEFINITION. The Porters (R71 to R88, R101 to R103, R390), peer launches (R370), the global task queue and diffusion (R95 to R97).
-/

namespace Sys2Proof.Machine

/-- The effective priority of a launch (R72). -/
def Launch.eff (l : Launch) : Nat := min (max l.ceil l.prio) (l.prio + l.age)

/-- New launches of an owner are held (R33, R50, R65). -/
def State.launchHeld (s : State) (l : Launch) : Bool :=
  s.powerHold || s.stopped || (s.porter l.die).windowHeld.contains l.owner || s.layoutHeld l.owner

/-- A launch whose wait counts (R72): one that has not started, or that is back in its queue (R103). -/
def Launch.ages (l : Launch) : Bool := match l.state with
  | .queued | .reserve | .waiting => true
  | _ => false
/-- A launch that has not started (R75), a pre-empted one excepted. -/
def Launch.waits (l : Launch) : Bool := !l.preempted && l.ages

/-- A launch's DEADLINE has passed before its COMMIT (R52, R75). -/
def Launch.late (l : Launch) (now : Word) : Bool := !l.peer && l.waits && blockWord l.body 6 != 0 && BitVec.ult (blockWord l.body 6) now

/-- The order in which an owner's launches at a Porter come (R72, R86, R103): effective priority, a pre-empted launch first, then arrival. -/
def Launch.before (a b : Launch) : Bool :=
  if a.eff ≠ b.eff then decide (b.eff < a.eff)
  else if a.preempted ≠ b.preempted then a.preempted
  else if a.arrival ≠ b.arrival then BitVec.ult a.arrival b.arrival
  else decide (a.id < b.id)

/-- The first launch of a list in that order. -/
def firstLaunch (l : List Launch) : Option Launch := l.find? fun a => l.all fun b => a.id == b.id || a.before b

/-- The saved contexts of a launch, by key. -/
def State.savedOf (s : State) (id : Nat) : List (Nat × Saved) :=
  s.saved.filter fun e => ((s.ctx e.1).task.bind (·.launch)) == some id

/-- The core that a saved context of an owner comes back to (R66, R103): its own where the owner still has it, else the first of its cluster, else the first
that the owner has (log 41). -/
def State.coreAgain (s : State) (o : Nat) (sv : Saved) : Option Nat :=
  let has (c : Nat) : Bool := (s.owner o).active.cores.getLsbD c
  if isChannel sv.core || has sv.core then some sv.core
  else
    match ((upTo 8).map fun m => 8 * clusterOf sv.core + m).find? has with
    | some c => some c
    | none => (upTo 1024).find? has

/-- The place that a saved context comes back to: its own, or any helper of another core. -/
def State.placeAgain (s : State) (o : Nat) (sv : Saved) : Option Nat :=
  (s.coreAgain o sv).map fun c => if c = sv.core then sv.num else 16 * c

/-- A saved context can be restored at a place, on a core that its owner may use now. -/
def State.canComeBack (s : State) (e : Nat × Saved) : Bool :=
  let o := (s.ctx e.1).owner
  match s.placeAgain o e.2 with
  | some n =>
    (s.coreOpen (coreOf n) o || isChannel (coreOf n)) && (if n % 16 = 0 then (match s.freeHelper (coreOf n) with
      | some h => s.restorable e.1 (n + h)
      | none => false) else s.restorable e.1 n)
  | none => false

/-- The restore of a saved context (R66, R103). -/
def State.comeBack (s : State) (e : Nat × Saved) : List Instr :=
  match s.placeAgain (s.ctx e.1).owner e.2 with
  | some n => [.contextRestore e.1 n]
  | none => []

/-- A pre-empted launch can be restored onto the places it left (R103): they are free, and no other instance holds its cores. -/
def State.canRestore (s : State) (id : Nat) : Bool :=
  let cores := (s.nodes.filter fun e => e.2.launch == id).flatMap fun e => e.2.cores
  (s.savedOf id).all s.canComeBack && !(s.instanceCores.any fun c => cores.contains c)

/-- A pre-empted launch of an owner comes before a new root of equal or lower effective priority on its die (R103). -/
def State.restoreFirst (s : State) (l : Launch) : Bool :=
  s.launches.any fun e => e.2.die == l.die && e.2.owner == l.owner && e.2.preempted && decide (e.2.state = .queued) && decide (l.eff ≤ e.2.eff)

/-- An owner's candidate at a Porter (R74, R103): a new root has a launch of at least its priority in WAITING before it, and a pre-empted launch one of more. -/
def State.candidate (s : State) (die o : Nat) : Option Launch :=
  let mine := s.launches.filterMap fun e => if e.2.die = die ∧ e.2.owner = o then some e.2 else none
  match firstLaunch (mine.filter fun l => l.state == .queued && !(s.launchHeld l) && !l.late s.dtc) with
  | none => none
  | some l =>
    let before (w : Launch) : Bool := w.state == .waiting && decide (if l.preempted then l.eff < w.eff else l.eff ≤ w.eff)
    if mine.any before then none
    else if l.preempted then (if s.canRestore l.id then some l else none)
    else if s.restoreFirst l then none
    else some l

/-- A child of a nest waits for the Porter of a die (R390): of its own launch's, or of every die where the composite is bound to device domain; a FARM's item
needs no Porter. -/
def State.instantiating (s : State) (die : Nat) : Bool :=
  (s.agenda ++ s.later).any fun i => match i with
    | .compositeInstantiate n _ => (match tget s.nodes n with
      | some d => eKind d.entry != 6 && (match tget s.launches d.launch with
        | some l => !l.preempted && (l.die == die || eDom d.entry == 4)
        | none => false)
      | none => false)
    | _ => false

/-- The launches whose coordinators ask a Porter for a reservation and have not been answered (R87). -/
def State.foreignAsks (s : State) (die : Nat) : List Launch :=
  (s.agenda ++ s.later).filterMap fun i => match i with
    | .foreignReserveRequest d c => if d = die then (match (s.porter c).busy.bind (tget s.launches) with
      | some l => if l.state = .reserve then some l else none
      | none => none) else none
    | _ => none

/-- The Porter's choice (R74): the draw is made only among two or more tied owners, in ascending order. -/
def State.choose (s : State) (die : Nat) : Option Launch × State :=
  let cands := (upTo 16).filterMap fun o => s.candidate die o
  let top := cands.foldl (fun n l => max n l.eff) 0
  let tied := cands.filter fun l => l.eff == top
  match tied with
  | [] => (none, s)
  | [l] => (some l, s)
  | _ =>
    let (j, s1) := s.draw ⟨0, .cal, die, 0x1000 + die⟩ tied.length
    (tied[j]?, s1)

/-- A launch changed. -/
def State.setLaunch (s : State) (l : Launch) : State := { s with launches := tset s.launches l.id l }

/-- The root of a launch is bound to device domain (R87). -/
def State.deviceRoot (s : State) (l : Launch) : Bool :=
  match s.callable l.die l.owner l.space l.level l.cidx with
  | (some e, _) => eDom e == 4
  | _ => false

/-- A reservation begins (R75, R87): a device-domain root asks the other dies, in ascending order. -/
def State.reserve (s : State) (l : Launch) : State :=
  let s1 := (s.setLaunch { l with state := .reserve }).modPorter l.die fun p => { p with busy := some l.id, commit := false }
  if s.deviceRoot l then s1.post [.foreignReserveRequest (if l.die = 0 then 1 else 0) l.die]
  else s1.post [.reserveComplete l.die]

/-- The Porters of other dies are free of a coordinator's reservation (R87). -/
def State.freeForeign (s : State) (die : Nat) : State :=
  let held := (upTo 4).filter fun d => (s.porter d).foreign.contains die
  (held.foldl (fun s d => s.modPorter d fun p => { p with foreign := p.foreign.filter fun x => x != die }) s).post
    (held.map fun d => Instr.porterSelect d)

/-- A Porter's reservation is over (R74). -/
def State.porterDone (s : State) (die : Nat) : State :=
  ((s.modPorter die fun p => { p with busy := none, commit := false }).freeForeign die).post [.porterSelect die]

/-- The order in which Porters serve reservations (R87). -/
def Launch.outranks (a b : Launch) : Bool :=
  if a.eff ≠ b.eff then decide (b.eff < a.eff)
  else if a.arrival ≠ b.arrival then BitVec.ult a.arrival b.arrival
  else decide (a.die < b.die)

/-- The launch whose reservation a Porter runs, its own or a foreign one (R87), and the Porter that coordinates it. -/
def State.reserving (s : State) (die : Nat) : Option (Launch × Nat) :=
  match (s.porter die).busy.bind (tget s.launches) with
  | some l => some (l, die)
  | none => (s.porter die).foreign.findSome? fun c => ((s.porter c).busy.bind (tget s.launches)).map fun l => (l, c)

/-- A pre-empted launch comes back onto the places it left (R103). -/
def State.restoreLaunch (s : State) (l : Launch) : State :=
  (s.setLaunch { l with state := .dispatched, preempted := false }).post ((s.savedOf l.id).flatMap s.comeBack)

/-- A launch of a higher effective priority has become candidate at a Porter (R86). -/
def State.higherCandidate (s : State) (die : Nat) (l : Launch) : Bool :=
  (upTo 16).any fun o => match s.candidate die o with
    | some c => decide (l.eff < c.eff)
    | none => false

/-- PORTER_SELECT (R74, R86, R87): a Porter that runs a reservation, its own or a foreign one, has it rolled back for a candidate of higher effective priority; a free one serves a foreign
request that comes first. -/
def execPorterSelect (die : Nat) (s : State) : Host.Outcome State Fault Refusal :=
  match s.reserving die with
  | some (l, c) => .next (if !(s.porter c).commit && s.higherCandidate die l then s.post [.reserveRollback c] else s)
  | none =>
    if s.instantiating die then .next (s.postLater [.porterSelect die])
    else
      match s.choose die with
      | (none, _) => .next s
      | (some l, s1) =>
        if (s.foreignAsks die).any fun f => f.outranks l then .next s
        else if l.preempted then .next ((s1.restoreLaunch l).post [.porterSelect die])
        else .next (s1.reserve l)

/-- LAUNCH_AGE (R72). -/
def execLaunchAge (id : Nat) (s : State) : Host.Outcome State Fault Refusal :=
  match tget s.launches id with
  | some l =>
    if l.ages then .next ((s.setLaunch { l with age := (s.dtc - l.since).toNat / 240000 }).post [.porterSelect l.die])
    else .next s
  | none => .next s

/-- LAUNCH_DEADLINE_EXPIRE (R52, R75): a reservation in progress is rolled back first. -/
def execLaunchDeadlineExpire (id : Nat) (s : State) : Host.Outcome State Fault Refusal :=
  match tget s.launches id with
  | some l =>
    if l.late s.dtc then
      let s1 := if (s.porter l.die).busy = some id then s.porterDone l.die else s
      .next (s1.finishLaunch l 5)
    else .next s
  | none => .next s

/-- The cores a root may be placed on, from the owner's rotation pointer on (R83, R87). -/
def State.rootCores (s : State) (l : Launch) : List Nat :=
  if s.deviceRoot l then (upTo 4).flatMap fun d => s.ownedCores l.owner d
  else
    let k := (tget (s.porter l.die).rotate l.owner).getD 0
    let all := s.ownedCores l.owner l.die
    all.filter (fun c => decide (k ≤ c)) ++ all.filter (fun c => decide (c < k))

/-- The tasks placed under a gang in one commit (R88): the outermost PAR with GANG, PIPE or FARM above a node, among the nodes from first on. -/
def State.gangOf (s : State) (first : Nat) (d : Node) : Nat → Option Nat
  | 0 => none
  | fuel + 1 =>
    match d.parent.bind (tget s.nodes) with
    | none => none
    | some p =>
      let above := if p.id < first then none else s.gangOf first p fuel
      match above with
      | some g => some g
      | none =>
        let gangs := (eKind p.entry = 4 ∧ eGang p.entry) ∨ ((eKind p.entry = 5 ∨ eKind p.entry = 6) ∧ first ≤ p.id)
        if gangs then some p.id else none

/-- The stream between two stages of a PIPE (R91, R199). -/
def State.openStage (s : State) (p : Node) (a b : Nat) : Nat × State :=
  let (id, s1) := s.newId
  let port : Port :=
    { id := id, sender := a, receiver := b, reg := 56, depth := eDepth p.entry + 1, words := [], flight := 0, marker := false,
      closed := false, opened := true, discard := false }
  (id, { s1 with ports := tset s1.ports id port })

/-- The queues of the stages of a PIPE, as their task records name them. -/
def State.joinStages (s : State) (die : Nat) (p : Node) : State :=
  let kids := s.nodes.filterMap fun e => if e.2.parent = some p.id then some e.2 else none
  (upTo (eNch p.entry - 1)).foldl (fun s i =>
    match kids.find? (fun d => d.child == i), kids.find? (fun d => d.child == i + 1) with
    | some a, some b =>
      let (id, s1) := s.openStage p (a.ctx.getD 0) (b.ctx.getD 0)
      s1.modPorter die fun q => { q with records := q.records.map fun r =>
        (r.1, if r.2.node = some a.id then { r.2 with qout := some id } else if r.2.node = some b.id then { r.2 with qin := some id } else r.2) }
    | _, _ => s) s

/-- A commit of the nodes from first on (R85, R88, R91, R200): gangs are marked, stages joined, handles of coroutines written, domain-bound children
sent, and the task records are on their way to the inboxes. -/
def State.commitNodes (s : State) (die first : Nat) : State :=
  let fresh := s.nodes.filterMap fun e => if first ≤ e.1 then some e.2 else none
  let s1 := fresh.foldl (fun s d => if eKind d.entry > 2 then s.setNode { d with state := .running } else s) s
  let s2 := (fresh.filter fun d => eKind d.entry == 5).foldl (fun s d => s.joinStages die d) s1
  let mark (r : Nat × TaskRec) : Nat × TaskRec :=
    match r.2.node.bind (tget s2.nodes) with
    | some d => if first ≤ d.id then (r.1, { r.2 with gang := ((s2.gangOf first d 9).map fun g => [g, first, s2.nextId]).getD [] }) else r
    | none => r
  let s3 := s2.modPorter die fun p => { p with records := p.records.map mark }
  let mine := (s3.porter die).records.filter fun r => match r.2.node with
    | some d => decide (first ≤ d)
    | none => false
  let handle (s : State) (r : Nat × TaskRec) : State :=
    if r.2.co then s.deviceWrite r.1 r.2.owner r.2.space r.2.level r.2.g3 8 (16 * r.1 + r.2.helper.getD 0) else s
  let s4 := mine.foldl handle s3
  let s5 := (fresh.filter fun d => decide (eKind d.entry > 2) && eDom d.entry == 5).foldl (fun s d =>
    let kids := startChildren d
    let d1 := { d with state := NState.running, next := kids.length }
    kids.foldl (fun s k => s.peerChild d1 k.child k.child) (s.setNode d1)) s4
  s5.post (mine.map fun r => Instr.inboxRecordArrive r.1 r.2)

/-- A FARM with no items ends at once (R92). -/
def State.endEmpty (s : State) (id : Nat) : State :=
  let empty := s.nodes.filterMap fun e =>
    if e.2.launch = id ∧ eKind e.2.entry = 6 ∧ eNitems e.2.entry = 0 ∧ e.2.state = .running then some e.1 else none
  empty.foldl (fun s d => s.nest (.ended d 0) nestFuel) s

/-- Running launches that a waiting root may pre-empt (R101, R102, R146, R228): the owner's, of a lower base priority, not the Concierge's, with no context raised to
the root's priority; lowest base priority first, then the latest TSTART. -/
def State.victimsFor (s : State) (l : Launch) : List Launch :=
  let kept (v : Launch) : Bool := s.ctxs.any fun e => (e.2.task.bind (·.launch)) == some v.id
    && (s.isConcierge l.owner e.1 || (match e.2.raised with
      | some p => decide (l.prio ≤ p)
      | none => false))
  let ok := s.launches.filterMap fun e =>
    if e.2.owner = l.owner ∧ e.2.state = .dispatched ∧ e.2.preempted = false ∧ e.2.prio < l.prio ∧ kept e.2 = false then some e.2 else none
  let before (a b : Launch) : Bool :=
    if a.prio ≠ b.prio then decide (a.prio < b.prio)
    else if a.tstart ≠ b.tstart then BitVec.ult b.tstart a.tstart else decide (a.id ≤ b.id)
  ok.mergeSort before

/-- The contexts that run a launch's tasks. -/
def State.runs (s : State) (id : Nat) : List Nat :=
  s.ctxs.filterMap fun e => if (e.2.task.bind (·.launch)) = some id then
    (match e.2.state with
    | .live | .blocked _ | .saving => some e.1
    | _ => none) else none

/-- What building a root comes to (R80 to R82): its claim is drawn from the owner's free cores, those of other instances barred. -/
def State.buildRoot (s : State) (l : Launch) : Built :=
  s.instantiate l.die l none ⟨0, l.cidx, l.g3, l.g4, l.g5, l.g6⟩ (s.rootCores l) s.instanceCores

/-- A launch counted as pre-empted (R102). -/
def State.markPreempted (s : State) (vs : List Nat) : State :=
  { s with launches := s.launches.map fun e => if vs.contains e.1 then (e.1, { e.2 with preempted := true }) else e }

/-- The victims that are enough, taken in order (R102): none if even all of them would not do. -/
def State.enough (s : State) (l : Launch) : List Launch → List Nat → Option (List Nat)
  | [], _ => none
  | v :: rest, got =>
    let s1 := ((s.runs v.id).foldl (fun s n => s.leaveSlot n false) s).markPreempted [v.id]
    match s1.buildRoot l with
    | .ok .. => some (got ++ [v.id])
    | _ => s1.enough l rest (got ++ [v.id])

/-- The contexts of victims that are still to be asked to save (R102): a task that a record starts after the choice is asked in its turn. -/
def State.askVictims (s : State) (vs : List Nat) : List Instr :=
  vs.flatMap fun v => ((s.runs v).filter fun n => !(s.ctx n).saveReq).map fun n => Instr.preemptRequest n

/-- A waiting root pre-empts (R102). -/
def State.preemptFor (s : State) (l : Launch) : State :=
  if !(s.owner l.owner).active.preempt then s
  else
    match s.enough l (s.victimsFor l) [] with
    | none => s
    | some vs => ((s.setLaunch { l with victims := vs }).markPreempted vs).post (s.askVictims vs)

/-- RESERVE_COMPLETE (R75, R80, R85, R87). The rotation pointer passes the core of the last task record that was placed, for a composite root too (R83, log 76). -/
def execReserveComplete (die : Nat) (s : State) : Host.Outcome State Fault Refusal :=
  match (s.porter die).busy.bind (tget s.launches) with
  | none => .next s
  | some l =>
    if l.state ≠ .reserve then .next s
    else if l.late s.dtc then .next ((s.porterDone die).finishLaunch l 5)
    else
      let first := s.nextId
      match s.buildRoot l with
      | .ok s1 root =>
        let used := ((s1.porter die).records.filter fun r => r.2.launch == some l.id).map (·.1)
        let s2 := s1.setLaunch { l with state := .commit, root := some root, waited := (s.dtc - l.since).toNat }
        let s3 := s2.modPorter die fun p => { p with commit := true, rotate := match used.getLast? with
          | some c => tset p.rotate l.owner (c + 1)
          | none => p.rotate }
        .next ((s3.commitNodes die first).post [.commitDone die])
      | .wait =>
        let l1 := { l with state := LState.waiting }
        .next ((s.setLaunch l1 |>.porterDone die).preemptFor l1)
      | .comb level cidx =>
        let l1 := { l with fault := some ⟨Cause.combinator.code, level, cidx, w64 cidx⟩ }
        .next ((s.setLaunch l1 |>.porterDone die).finishLaunch l1 1)

/-- RESERVE_ROLLBACK (R86, R87): the launch returns to its queue with its arrival kept. -/
def execReserveRollback (die : Nat) (s : State) : Host.Outcome State Fault Refusal :=
  match (s.porter die).busy.bind (tget s.launches) with
  | none => .next s
  | some l =>
    if (s.porter die).commit then .next s
    else
      let s1 := (s.setLaunch { l with state := .queued }).modPorter die fun p => { p with busy := none }
      .next ((s1.freeForeign die).postLater [.porterSelect die])

/-- LAUNCH_RETRY (R75, R103): the owner's first waiting launch goes back to RESERVE, behind a pre-empted one that comes before it. -/
def execLaunchRetry (die o : Nat) (s : State) : Host.Outcome State Fault Refusal :=
  let mine := s.launches.filterMap fun e =>
    if e.2.die = die ∧ e.2.owner = o ∧ e.2.state = .waiting ∧ e.2.victims = [] ∧ s.launchHeld e.2 = false ∧ e.2.late s.dtc = false then some e.2 else none
  match firstLaunch mine with
  | none => .next s
  | some l =>
    if s.restoreFirst l then .next s
    else if (s.reserving die).isSome ∨ s.instantiating die ∨ (s.foreignAsks die).any (fun f => f.outranks l) then .next (s.postLater [.launchRetry die o])
    else .next (s.reserve l)

/-- FOREIGN_RESERVE_REQUEST (R86, R87): a Porter serves the requests that stand at it in order; one that runs a reservation of a lower effective priority rolls it back, one whose
reservation for a device-domain root comes first refuses, and otherwise the request waits. -/
def execForeignReserveRequest (die coordinator : Nat) (s : State) : Host.Outcome State Fault Refusal :=
  match (s.porter coordinator).busy.bind (tget s.launches) with
  | none => .next (s.post [.porterSelect die])
  | some l =>
    if l.state ≠ .reserve then .next (s.post [.porterSelect die])
    else
      let wait := s.postLater [.foreignReserveRequest die coordinator]
      match s.reserving die with
      | none =>
        if s.instantiating die ∨ (s.foreignAsks die).any (fun f => f.outranks l) ∨ s.higherCandidate die l then .next (wait.post [.porterSelect die])
        else
          let s1 := s.modPorter die fun p => { p with foreign := [coordinator] }
          match (upTo 4).find? fun d => decide (die < d) && d != coordinator with
          | some d => .next (s1.post [.foreignReserveRequest d coordinator])
          | none => .next (s1.post [.reserveComplete coordinator])
      | some (m, c) =>
        if (s.porter c).commit ∨ c = coordinator then .next wait
        else if m.eff < l.eff then .next (wait.post [.reserveRollback c])
        else if (c ≠ die ∨ s.deviceRoot m) ∧ m.outranks l then .next (s.post [.reserveRollback coordinator])
        else .next wait

/-- COMMIT_DONE (R75, R85): every inbox record has been written. -/
def execCommitDone (die : Nat) (s : State) : Host.Outcome State Fault Refusal :=
  match (s.porter die).busy.bind (tget s.launches) with
  | none => .next s
  | some l =>
    if (s.porter die).commit = false then .next s
    else if (s.porter die).records.any (fun r => r.2.launch == some l.id) then .next (s.postLater [.commitDone die])
    else
      let s1 := (s.setLaunch { l with state := .dispatched }).porterDone die
      .next ((s1.endEmpty l.id).tryFinish l.id)

/-- Every context of a launch's victims has been saved or has ended, and none of their task records is on its way (R102). -/
def State.victimsGone (s : State) (l : Launch) : Bool :=
  l.victims.all fun v => (s.runs v).isEmpty
    && !(s.cores.any fun e => e.2.inbox.any fun t => t.launch == some v) && !(s.porters.any fun e => e.2.records.any fun r => r.2.launch == some v)

/-- PREEMPT_SAVES_DONE (R102): the victims are back in their queues, and the waiting launch enters RESERVE. -/
def execPreemptSavesDone (id : Nat) (s : State) : Host.Outcome State Fault Refusal :=
  match tget s.launches id with
  | none => .next s
  | some l =>
    if l.state ≠ .waiting ∨ l.victims = [] ∨ s.victimsGone l = false then .next s
    else
      let back (e : Nat × Launch) : Nat × Launch :=
        if l.victims.contains e.1 ∧ e.2.state = .dispatched then (e.1, { e.2 with state := .queued, since := s.dtc - w64 e.2.waited }) else e
      let s1 : State := { s with launches := s.launches.map back }
      .next ((s1.setLaunch { l with victims := [] }).post [.launchRetry l.die l.owner])

/-- The cores of an instance that a later child may use: those that no running sibling holds (R81, R89, R224). -/
def State.childCores (s : State) (p : Node) : List Nat :=
  let busy := (s.children p.id).flatMap (·.cores)
  p.cores.filter fun c => !busy.contains c

/-- The instance still holds contexts that have stopped and have not been reaped, or aborted ones that have not stopped. -/
def State.instanceBusy (s : State) (cores : List Nat) : Bool :=
  s.ctxs.any fun e => cores.contains (coreOf e.1) && e.1 % 16 != 0 && (decide (e.2.state = .ended) || (decide (e.2.state ≠ .free) && s.orphan e.1
    && (e.2.task.bind (·.node)).isSome))

/-- A child that cannot be instantiated is a fault of its composite (R80, R223, R390). -/
def State.childFails (s : State) (p : Node) (child level cidx : Nat) : State :=
  let (id, s1) := s.newId
  let k := laterChild p child
  let d : Node :=
    { id := id, launch := p.launch, parent := some p.id, child := child, level := level, cidx := cidx, entry := 0, g3 := k.given.g3,
      g4 := k.given.g4, g5 := k.given.g5, g6 := k.given.g6, cores := [], state := .reserved, ctx := none, next := 0, iter := 0, retried := [],
      result := 0, fault := none }
  { s1.setNode d with faults := s1.faults ++ [(id, ⟨Cause.combinator.code, level, cidx, w64 cidx⟩)] }

/-- The Porter that a composite's children are instantiated at is free (R390); one bound to device domain needs all four (R87), and a FARM's item none. -/
def State.porterReady (s : State) (die : Nat) (p : Node) : Bool :=
  if eKind p.entry = 6 then true
  else (if eDom p.entry = 4 then upTo 4 else [die]).all fun d => (s.reserving d).isNone

/-- COMPOSITE_INSTANTIATE (R82, R89, R92, R93, R102, R224, R390): as soon as the Porter's reservation or commit ends, and not while the launch is being pre-empted; its
claims come from the composite's own instance. -/
def execCompositeInstantiate (node child : Nat) (s : State) : Host.Outcome State Fault Refusal :=
  match tget s.nodes node with
  | none => .next s
  | some p =>
    if p.state = .ended then .next s
    else
      match tget s.launches p.launch with
      | none => .next s
      | some l =>
        if eDom p.entry = 5 then .next (s.peerChild p child (s.instanceOf (some p) child))
        else if l.preempted ∨ s.porterReady l.die p = false ∨ s.instanceBusy p.cores then .next (s.postLater [.compositeInstantiate node child])
        else
          let first := s.nextId
          let k := laterChild p child
          match s.instantiate l.die l (some p) k (s.childCores p) [] with
          | .ok s1 _ => .next ((s1.commitNodes l.die first).endEmpty l.id)
          | .wait => .next (s.childFails p child (p.level + 1) k.cidx)
          | .comb level c => .next (s.childFails p child level c)

/-- PEER_LAUNCH (R71, R370). -/
def execPeerLaunch (die owner : Nat) (space : BitVec 16) (level : Level) (cidx : Nat) (g3 g4 g5 g6 : Word) (s : State) :
    Host.Outcome State Fault Refusal :=
  .next (s.addLaunch (peerLaunchOf die owner space level 0 7 cidx ⟨g3, g4, g5, g6⟩ none))

/-- A continuation fits on a core that is no part of an instance (R81, R96): a free helper, local store and a vector set; it has the accumulator slots that are
free, as far as its claim goes (log 74). -/
def State.contFits (s : State) (core : Nat) (t : TaskRec) : Option (Nat × List Nat) :=
  match s.freeHelper core with
  | none => none
  | some h =>
    let vecs := (s.tasksOn core).countP fun t => t.2.vec
    let free := (upTo 16).filter fun a => !(s.accUsed (clusterOf core)).contains a
    if s.lsUsed core + t.ls ≤ 8192 ∧ (t.vec = false ∨ vecs < 8) ∧ s.instanceCores.contains core = false then some (h, free.take t.acc.length) else none

/-- Queued continuations start on a core, in order, past those that do not fit (R96); with no stack area they raise COMBINATOR (R211). -/
def State.contStart (s : State) (core : Nat) (t : TaskRec) : State :=
  let drop (s : State) : State := s.modCore core fun c => { c with conts := dropFirst (fun x => x == t) c.conts }
  if s.coreOpen core t.owner = false ∨ s.layoutHeld t.owner then s
  else if (s.owner t.owner).stksize = 0 then
    ((drop s).contFault t core Cause.combinator.code).decrementFor core t.owner t.space t.level t.jc 0
  else
    match s.contFits core t with
    | none => s
    | some (h, acc) => (drop s).startTask (16 * core + h) { t with helper := some h, acc := acc }
def State.contStep (s : State) (core : Nat) : State :=
  if (s.ctx (16 * core)).kernelIdle then (s.core core).conts.foldl (fun s t => s.contStart core t) s else s

/-- Records of an owner in a core's local queue (R96). -/
def State.contCount (s : State) (core o : Nat) : Nat := (s.core core).conts.countP fun t => t.owner == o

/-- GTQ_SEGMENT_TAKE (R96): the segment's head goes to a core that holds fewer than eight of the owner's records, and posters that wait
for a place go on. -/
def execGtqSegmentTake (core o : Nat) (s : State) : Host.Outcome State Fault Refusal :=
  let cl := clusterOf core
  match s.segment o cl with
  | [] => .next s
  | t :: rest =>
    if 8 ≤ s.contCount core o ∨ 32 ≤ (s.core core).conts.length ∨ s.coreOpen core o = false then .next s
    else
      let head := (s.segmentPlace o cl + (s.owner o).gtqlen.toNat - (rest.length + 1) % max 1 (s.owner o).gtqlen.toNat) % max 1 (s.owner o).gtqlen.toNat
      let s0 := s.deviceRead core t.owner t.space .s (s.segmentAddress o cl head)
      let s1 := (s0.setSegment o cl rest).modCore core fun c => { c with conts := c.conts ++ [t] }
      .next ((s1.wakeIf fun _ w => w == .segment).contStep core)

/-- The neighbours of a core in its die's mesh: east, north, west, south (R97). -/
def neighbours (core : Nat) : List Nat :=
  let (x, y) := meshOf core
  let at_ (x y : Nat) : Nat := core / 256 * 256 + 8 * (x / 2 + 8 * (y / 4)) + x % 2 + 2 * (y % 4)
  (if x < 15 then [at_ (x + 1) y] else []) ++ (if 0 < y then [at_ x (y - 1)] else []) ++ (if 0 < x then [at_ (x - 1) y] else [])
    ++ (if y < 15 then [at_ x (y + 1)] else [])

/-- What a core sends for an owner at a tick (R97): the neighbour of each record, the oldest first. -/
def State.diffuse (s : State) (core o : Nat) : List Nat :=
  let n := s.contCount core o
  (neighbours core).flatMap fun m =>
    if (s.owner o).active.cores.getLsbD m then List.replicate ((n - s.contCount m o) / 5) m else []

/-- DIFFUSION_TICK (R97): every count uses the values exchanged at this tick. -/
def execDiffusionTick (s : State) : Host.Outcome State Fault Refusal :=
  let sends := s.cores.flatMap fun e => if 1024 ≤ e.1 then [] else
    (upTo 16).flatMap fun o =>
      ((e.2.conts.filter fun t => t.owner == o).zip (s.diffuse e.1 o)).map fun (t, m) => (e.1, m, t)
  let take (s : State) (x : Nat × Nat × TaskRec) : State :=
    s.modCore x.1 fun c => { c with conts := dropFirst (fun t => t == x.2.2) c.conts }
  .next ((sends.foldl take s).post (sends.map fun x => Instr.diffusionRecordArrive x.2.1 x.2.2))

/-- DIFFUSION_RECORD_ARRIVE (R97). -/
def execDiffusionRecordArrive (core : Nat) (r : TaskRec) (s : State) : Host.Outcome State Fault Refusal :=
  .next ((s.modCore core fun c => { c with conts := c.conts ++ [r] }).contStep core)

end Sys2Proof.Machine
end

