-- ==== Sys2Proof/Machine/Arbiter.lean ====
section
/-!
DEFINITION. Arbitration: frames and slots of the shared resources (R22 to R25, R112 to R116), requests at the ports of the slices (R384),
and the steps of a relocation sweep (R127, R128, R374).
-/

namespace Sys2Proof.Machine

/-- FRAME_START (R113): the calendar of the frame is drawn. -/
def execFrameStart (k j : Nat) (s : State) : Host.Outcome State Fault Refusal := 
  .next (s.buildCalendar k j (s.dtc.toNat / frameLength k * frameLength k))

/-- The owner whose request a slot has taken from an instance's queue. -/
def servedOwner (before after : List Queued) : Option Nat :=
  (upTo 16).find? fun o => decide ((after.countP fun q => q.owner == o) < (before.countP fun q => q.owner == o))

/-- A copy engine's next slot is asked for by an owner with a copy that can move (R112, R123, R347). -/
def State.askCopy (s : State) (j o : Nat) : State :=
  let can := s.copies.any fun c => c.owner == o && dieOf c.core == j / 8 && c.core % 8 == j % 8 && s.copyMovable c
  let queued := (s.resource 4 j).queue.any fun q => q.owner == o
  if can && !queued && !(s.copyHeld (j / 8) (j % 8)) then s.request 4 j o [] else s

/-- Requests at an instance that can have no slot now are withdrawn, and made again when they can: those of an owner none of whose tile tasks can start (R99), and
those for an engine that a faulted copy holds (R145). -/
def State.dropIdle (s : State) (k j : Nat) : State :=
  let stays (q : Queued) : Bool :=
    if k = 3 then (s.cluster j).tiles.any fun t => s.tileStartable j q.owner t
    else if k = 4 then !(s.copyHeld (j / 8) (j % 8))
    else true
  if k = 3 ∨ k = 4 then s.modResource k j fun r => { r with queue := r.queue.filter stays } else s

/-- SLOT_SERVE (R99, R114, R115): a copy engine's slot moves one block of the owner it serves (R347), whose next block becomes oldest then. -/
def execSlotServe (k j slot : Nat) (s : State) : Host.Outcome State Fault Refusal :=
  let s0 := s.dropIdle k j
  let s1 := s0.serveSlot k j slot
  if k = 4 then
    match servedOwner (s0.resource k j).queue (s1.resource k j).queue with
    | some o => .next ((s1.copySlot (j / 8) (j % 8) o).askCopy j o)
    | none => .next s1
  else .next s1

/-- The error counter of an LP6 channel (R25), behind those of cores and slices. -/
def channelUnit (c : Nat) : Nat := 4096 + c

/-- A read that failed is repeated in the owner's next owned slot of the sub-channel (R25): it goes ahead of the owner's other requests there. -/
def State.repeatRead (s : State) (j : Nat) (r : ChanReq) : State :=
  s.modResource 1 j fun q => { q with queue := ⟨r.owner, s.dtc, 1, [], [.lp6ReadRepeat j r .corrected], 0⟩ :: q.queue }

/-- The access that an owner's oldest request makes, and whether it is the repeat of a read (R25). -/
def chanAccess (q : Queued) : Option (ChanReq × Bool) :=
  match q.ev with
  | [.lp6ReadRepeat _ r e] => some (r, decide (e ≠ .good))
  | _ => none

/-- What a read brings is there (R25, R110): the operations that wait for it go on, unless they wait for another read of the block too, that of its tag or of its
data. -/
def State.readDone (s : State) (j : Nat) (r : ChanReq) : State :=
  let more : Bool := (s.resource 1 j).queue.any fun q => match chanAccess q with
    | some (x, _) => x.fill && x.pa / 64 == r.pa / 64 && x.tagBlock != r.tagBlock
    | none => false
  if r.fill && !more then s.fillEnd r.pa true else s

/-- A sub-channel's access has been made, its check code judged (R25): a first read that is not correctable is repeated once. -/
def State.channelRead (s : State) (j : Nat) (r : ChanReq) (err : ReadError) : State :=
  match err with
  | .good => s.readDone j r
  | .corrected => (s.countError (channelUnit (j / 2))).readDone j r
  | .failed => if r.write then s else s.repeatRead j r

/-- LP6_READ_REPEAT (R25): a repeat that reads well makes the error transient; one that fails makes it lasting: the frame is poisoned, and the operations that wait
for the block find it so, each with the MEMERR that its requester receives. -/
def execLp6ReadRepeat (j : Nat) (r : ChanReq) (err : ReadError) (s : State) : Host.Outcome State Fault Refusal :=
  match err with
  | .failed => .next (if r.fill then (s.poison r.pa).fillEnd r.pa false else s.poison r.pa)
  | _ => .next ((s.countError (channelUnit (j / 2))).readDone j r)

/-- CHANNEL_SLOT (R22, R25): one access in the slot of its owner, or in a spare slot; a repeat takes a slot of its owner's own only. -/
def execChannelSlot (j slot : Nat) (err : ReadError) (s : State) : Host.Outcome State Fault Refusal :=
  let o := (s.resource 1 j).cal.getD slot 0
  let before := (s.resource 1 j).queue
  let waits (q : Queued) : Bool := q.owner != o && ((chanAccess q).map (·.2)).getD false
  let held := before.filter waits
  let s0 := s.modResource 1 j fun q => { q with queue := before.filter fun q => !waits q }
  let s1 := s0.serveSlot 1 j slot
  let s2 := s1.modResource 1 j fun q => { q with queue := held ++ q.queue }
  match servedOwner before (s2.resource 1 j).queue with
  | none => .next s2
  | some p =>
    match (before.find? fun q => q.owner == p && !waits q).bind chanAccess with
    | none => .next s2
    | some (r, again) =>
      let s3 : State := { s2 with agenda := s2.agenda.drop 1 }
      if again then .next (s3.postFirst [.lp6ReadRepeat j r err]) else .next (s3.channelRead j r err)

/-- CHANNEL_REFRESH_SLOT (R23, R116): no owner is served; the slot is over. -/
def execChannelRefreshSlot (j : Nat) (s : State) : Host.Outcome State Fault Refusal :=
  .next ((s.touch 1 j).modResource 1 j fun r => { r with upto := max r.upto (slotNo 1 s.dtc + 1) })

/-- WSTORE_REFRESH (R116): the bank enters its window, whose slots are lost to whoever owns them; its earlier slots are accounted for. -/
def execWstoreRefresh (die bank : Nat) (s : State) : Host.Outcome State Fault Refusal := .next (s.touch 5 (64 * die + bank))

/-- The source key of a request (R384): the index of its device, the number of its context or 16 times that of its core, and the input link it came on. -/
def State.sourceKey (s : State) (r : Req) : List Nat :=
  let num (x : Req) : Nat := if x.ctx < 20480 then x.ctx else 16 * x.core
  if engineBase ≤ r.ctx then
    [s.deviceIndex.toNat, ((s.copies.find? fun c => engineBase + c.id == r.ctx).bind (·.ctx)).getD (16 * r.core), r.inp]
  else if remoteBase ≤ r.ctx then
    match tget s.peerIn (r.ctx - remoteBase) with
    | some m => [m.dev, num m.req, r.inp]
    | none => [s.deviceIndex.toNat, 16 * r.core, r.inp]
  else [s.deviceIndex.toNat, num r, r.inp]

/-- A list of numbers comes before another, or equals it. -/
def keyLe : List Nat → List Nat → Bool
  | a :: r, b :: q => if a = b then keyLe r q else decide (a < b)
  | _, _ => true

/-- A request that has arrived joins its owner's queue at the slice (R114, R384). -/
def State.joinSlice (s : State) (c o : Nat) (l : List Req) : State := l.foldl (fun s r => s.enqueue 0 c ⟨o, s.dtc, 1, [], [homeEvent r], accessOf r⟩) s

/-- A request of the same core for the same block left before this one and is still on its way: this one waits for it (log 18). -/
def State.overtakes (s : State) (r : Req) : Bool :=
  (s.later ++ s.resources.flatMap fun e => e.2.queue.flatMap (·.ev)).any fun i => match i with
    | .sliceRequestArrive _ _ l => l.any fun x => x.core == r.core && x.pa / 64 == r.pa / 64 && decide (x.seq < r.seq)
    | _ => false

/-- SLICE_REQUEST_ARRIVE (R384): the requests of one owner that arrive in one cycle are ordered together. -/
def execSliceRequestArrive (c owner : Nat) (rs : List Req) (s : State) : Host.Outcome State Fault Refusal :=
  let same (i : Instr) : Option (List Req) := match i with
    | .sliceRequestArrive c' o' l => if c' = c ∧ o' = owner then some l else none
    | _ => none
  let all := rs ++ (s.agenda.filterMap same).flatten
  let s1 : State := { s with agenda := s.agenda.filter fun i => (same i).isNone }
  let late (r : Req) : Bool := s1.overtakes r || all.any fun x => x.core == r.core && x.pa / 64 == r.pa / 64 && decide (x.seq < r.seq)
  let early := all.filter late
  let keyed := (all.filter fun r => !late r).mergeSort fun a b => keyLe (s1.sourceKey a) (s1.sourceKey b)
  let (l, s2) := s1.order ⟨0, .cal, c / 64, 0x80000 + c⟩ keyed.length keyed
  .next ((s2.joinSlice c owner l).postLater (early.map fun r => Instr.sliceRequestArrive c owner [r]))

/-- The write-back of a line that a relocation sweep displaces (R127, R374). -/
def State.sweepWrite (s : State) (o block : Nat) : State :=
  (s.chargeTag o (64 * block) false).2.channelSlot ⟨o, 64 * block, false, true, false, true⟩

/-- One (set, way) of a sweep (R127). -/
def State.sweepLine (s : State) (c o : Nat) (w : Sweep) : State :=
  let ow := s.owner o
  let r := ow.active.dies.toList.getD (c / 64) .zero
  match (s.slice c).lines.find? fun l => decide (l.set = w.set ∧ l.way = w.way ∧ l.owner = o) && l.gen != ow.gen with
  | none => s
  | some l =>
    let set := llcSet r ow.seed (64 * l.block)
    if set = l.set then
      s.modSlice c fun k => { k with lines := mapIf (fun x => x == l) (fun x => { x with gen := ow.gen }) k.lines }
    else
      match s.victimWay c o o set with
      | (none, s1) =>
        -- no way of the new set is left (R158): the line leaves the slice
        let s2 := if l.dirty then s1.sweepWrite o l.block else s1
        s2.modSlice c fun k => { k with lines := k.lines.filter fun x => x != l }
      | (some way, s1) =>
        let out := (s1.slice c).lines.find? fun x => x.set = set ∧ x.way = way
        let s2 := match out with
          | some x => if x.dirty then s1.sweepWrite o x.block else s1
          | none => s1
        s2.modSlice c fun k => { k with
          lines := (k.lines.filter fun x => x != l && !(x.set == set && x.way == way)) ++ [{ l with set := set, way := way, gen := ow.gen }] }

/-- The next step of a sweep (R127): the next way of the WAYMASK, or the first way of the next set; none behind the last set. -/
def nextSweep (r : DieRec) (w : Sweep) : Option Sweep :=
  match (upTo 16).find? fun i => decide (w.way < i) && r.waymask.getLsbD i with
  | some i => some { w with way := i }
  | none =>
    if w.set + 1 < r.setbase.toNat + 2 ^ r.pw.toNat then some { w with set := w.set + 1, way := nthSet r.waymask.toNat 0 0 16 } else none

/-- A write-back that a sweep started is still to be made (R374). -/
def State.sweepWrites (s : State) (c o : Nat) : Bool :=
  [2 * c, 2 * c + 1].any fun j => (s.resource 1 j).queue.any fun q =>
    q.owner == o && (match chanAccess q with
      | some (r, _) => r.sweep
      | none => false)

/-- The sweep of a slice ends; with the last one the old SEED is discarded and a RESEED that waits goes on (R125, R128). -/
def State.sweepEnd (s : State) (c o : Nat) : State :=
  let s1 := (s.modSlice c fun k => { k with sweeps := k.sweeps.filter fun w => w.owner != o }).modOwner o fun w =>
    let l := w.sweeping.filter fun x => x != c
    { w with sweeping := l, oldSeed := if l.isEmpty then none else w.oldSeed }
  if (s1.owner o).sweeping.isEmpty then s1.wakeIf fun _ w => w == .reseed else s1

/-- The place that stands for a sweep whose last step has ended. -/
def sweepDone (o : Nat) : Sweep := ⟨o, 2 ^ 32, 0⟩

/-- SWEEP_STEP (R127, R374): one line is marked or moved, and the next step joins the tail of the owner's queue; behind the last one the sweep
ends when its write-backs have been acknowledged. -/
def execSweepStep (c o : Nat) (s : State) : Host.Outcome State Fault Refusal :=
  match (s.slice c).sweeps.find? fun w => w.owner == o with
  | none => .next s
  | some w =>
    let put (s : State) (w : Sweep) : State :=
      s.modSlice c fun k => { k with sweeps := mapIf (fun x : Sweep => x.owner == o) (fun _ => w) k.sweeps }
    let finish (s : State) : State :=
      if s.sweepWrites c o then (put s (sweepDone o)).postLater [.sweepStep c o] else s.sweepEnd c o
    if w == sweepDone o then .next (finish s)
    else
      let s1 := s.sweepLine c o w
      match nextSweep ((s.owner o).active.dies.toList.getD (c / 64) .zero) w with
      | some w' => .next ((put s1 w').request 0 c o [.sweepStep c o])
      | none => .next (finish s1)

end Sys2Proof.Machine
end

