-- ==== Sys2Proof/Machine/Control.lean ====
section
/-!
DEFINITION. Branches and jumps (R290 to R294).
-/

namespace Sys2Proof.Machine

/-- A compare-and-branch (R290): A is read first, a taken branch checks its target before it takes effect, and one that is
not taken checks nothing (R258). -/
def branch (a b : Src) (disp : BitVec 24) (cond : Word → Word → Bool) : Ex Unit := do
  needGroup .base
  let (x, y) ← pk2 (src a) (src b) []
  let c ← me
  if cond x y then
    let t := relTarget c.pc disp
    checkTarget t
    pop [src a, src b]
    goTo t
  else
    pop [src a, src b]
    advance

/-- BEQ, BNE, BLT, BGE, BLTU and BGEU (R290). -/
def execBeq (a b : Src) (disp : BitVec 24) (s : State) : Host.Outcome State Fault Refusal := runEx (branch a b disp condEq) s
def execBne (a b : Src) (disp : BitVec 24) (s : State) : Host.Outcome State Fault Refusal := runEx (branch a b disp condNe) s
def execBlt (a b : Src) (disp : BitVec 24) (s : State) : Host.Outcome State Fault Refusal := runEx (branch a b disp condLt) s
def execBge (a b : Src) (disp : BitVec 24) (s : State) : Host.Outcome State Fault Refusal := runEx (branch a b disp condGe) s
def execBltu (a b : Src) (disp : BitVec 24) (s : State) : Host.Outcome State Fault Refusal := runEx (branch a b disp condLtu) s
def execBgeu (a b : Src) (disp : BitVec 24) (s : State) : Host.Outcome State Fault Refusal := runEx (branch a b disp condGeu) s

/-- JAL (R292): the link is written only when the checks pass. -/
def execJal (d : GReg) (disp : BitVec 24) (s : State) : Host.Outcome State Fault Refusal :=
  runEx (do
    needGroup .base
    checkDest d.toNat
    let c ← me
    let t := relTarget c.pc disp
    checkTarget t
    wr d c.npc
    goTo t) s

/-- JALR (R293): B is read before A is written. -/
def execJalr (d : GReg) (b : Src) (imm : BitVec 21) (s : State) : Host.Outcome State Fault Refusal :=
  runEx (do
    needGroup .base
    let x ← pk1 (src b) [dst d]
    let c ← me
    let t := effAddr x imm
    checkTarget t
    pop [src b]
    wr d c.npc
    goTo t) s

/-- INSTRUCTION_LINE_FILL (R254). -/
def execInstructionLineFill (core line : Nat) (data : Block) (s : State) : Host.Outcome State Fault Refusal :=
  .next (s.fillLine core line data)

end Sys2Proof.Machine
end

