-- ==== Sys2Proof/Machine/IntOps.lean ====
section
/-!
DEFINITION. Integer operations, constants, bit operations, select and the address of a label (R268, R275 to R283).
-/

namespace Sys2Proof.Machine

/-- An operation on two registers (R275). -/
def op2 (d : GReg) (b c : Src) (f : Word → Word → Word) : Ex Unit := do
  needGroup .base
  let (x, y) ← rd2 (src b) (src c) [dst d]
  wr d (f x y)
  advance

/-- An operation on one register (R278, R280, R281). -/
def op1 (d : GReg) (b : Src) (f : Word → Word) : Ex Unit := do
  needGroup .base
  let x ← rd1 (src b) [dst d]
  wr d (f x)
  advance

/-- A long-latency operation on two registers (R277, R284, R286): its destination is marked empty, and the result arrives. -/
def long2 (d : GReg) (b c : Src) (f : Word → Word → Word) : Ex Unit := do
  needGroup .base
  let (x, y) ← rd2 (src b) (src c) [dst d]
  let id ← produce (.g d.toNat) none false
  advance
  arriveLater id (.word (f x y))

/-- A long-latency operation on one register (R284, R286). -/
def long1 (d : GReg) (b : Src) (f : Word → Word) : Ex Unit := do
  needGroup .base
  let x ← rd1 (src b) [dst d]
  let id ← produce (.g d.toNat) none false
  advance
  arriveLater id (.word (f x))

/-- A constant (R279). -/
def opConst (d : GReg) (v : Word) : Ex Unit := do
  needGroup .base
  checkDest d.toNat
  wr d v
  advance

/-- NOP (R268). -/
def execNop (s : State) : Host.Outcome State Fault Refusal := runEx (do needGroup .base; advance) s

/-- ADD (R276). -/
def execAdd (d : GReg) (b c : Src) (s : State) : Host.Outcome State Fault Refusal :=
  runEx (op2 d b c fun x y => x + y) s

/-- SUB (R276). -/
def execSub (d : GReg) (b c : Src) (s : State) : Host.Outcome State Fault Refusal :=
  runEx (op2 d b c fun x y => x - y) s

/-- ADDW (R276). -/
def execAddw (d : GReg) (b c : Src) (s : State) : Host.Outcome State Fault Refusal :=
  runEx (op2 d b c fun x y => sextW (x + y)) s

/-- SUBW (R276). -/
def execSubw (d : GReg) (b c : Src) (s : State) : Host.Outcome State Fault Refusal :=
  runEx (op2 d b c fun x y => sextW (x - y)) s

/-- AND (R276). -/
def execAnd (d : GReg) (b c : Src) (s : State) : Host.Outcome State Fault Refusal :=
  runEx (op2 d b c fun x y => x &&& y) s

/-- OR (R276). -/
def execOr (d : GReg) (b c : Src) (s : State) : Host.Outcome State Fault Refusal :=
  runEx (op2 d b c fun x y => x ||| y) s

/-- XOR (R276). -/
def execXor (d : GReg) (b c : Src) (s : State) : Host.Outcome State Fault Refusal :=
  runEx (op2 d b c fun x y => x ^^^ y) s

/-- ANDN (R276). -/
def execAndn (d : GReg) (b c : Src) (s : State) : Host.Outcome State Fault Refusal :=
  runEx (op2 d b c fun x y => x &&& ~~~y) s

/-- SHL (R276). -/
def execShl (d : GReg) (b c : Src) (s : State) : Host.Outcome State Fault Refusal :=
  runEx (op2 d b c fun x y => x <<< shiftN y) s

/-- SHR (R276). -/
def execShr (d : GReg) (b c : Src) (s : State) : Host.Outcome State Fault Refusal :=
  runEx (op2 d b c fun x y => x >>> shiftN y) s

/-- SAR (R276). -/
def execSar (d : GReg) (b c : Src) (s : State) : Host.Outcome State Fault Refusal :=
  runEx (op2 d b c fun x y => x.sshiftRight (shiftN y)) s

/-- ROL (R276). -/
def execRol (d : GReg) (b c : Src) (s : State) : Host.Outcome State Fault Refusal :=
  runEx (op2 d b c rolR) s

/-- SEQ (R276). -/
def execSeq (d : GReg) (b c : Src) (s : State) : Host.Outcome State Fault Refusal :=
  runEx (op2 d b c fun x y => flag (condEq x y)) s

/-- SNE (R276). -/
def execSne (d : GReg) (b c : Src) (s : State) : Host.Outcome State Fault Refusal :=
  runEx (op2 d b c fun x y => flag (condNe x y)) s

/-- SLT (R276). -/
def execSlt (d : GReg) (b c : Src) (s : State) : Host.Outcome State Fault Refusal :=
  runEx (op2 d b c fun x y => flag (condLt x y)) s

/-- SLTU (R276). -/
def execSltu (d : GReg) (b c : Src) (s : State) : Host.Outcome State Fault Refusal :=
  runEx (op2 d b c fun x y => flag (condLtu x y)) s

/-- MIN (R276). -/
def execMin (d : GReg) (b c : Src) (s : State) : Host.Outcome State Fault Refusal :=
  runEx (op2 d b c minR) s

/-- MAX (R276). -/
def execMax (d : GReg) (b c : Src) (s : State) : Host.Outcome State Fault Refusal :=
  runEx (op2 d b c maxR) s

/-- MINU (R276). -/
def execMinu (d : GReg) (b c : Src) (s : State) : Host.Outcome State Fault Refusal :=
  runEx (op2 d b c minuR) s

/-- MAXU (R276). -/
def execMaxu (d : GReg) (b c : Src) (s : State) : Host.Outcome State Fault Refusal :=
  runEx (op2 d b c maxuR) s

/-- MUL (R276). -/
def execMul (d : GReg) (b c : Src) (s : State) : Host.Outcome State Fault Refusal :=
  runEx (op2 d b c fun x y => x * y) s

/-- MULH (R276). -/
def execMulh (d : GReg) (b c : Src) (s : State) : Host.Outcome State Fault Refusal :=
  runEx (op2 d b c mulhR) s

/-- MULHU (R276). -/
def execMulhu (d : GReg) (b c : Src) (s : State) : Host.Outcome State Fault Refusal :=
  runEx (op2 d b c mulhuR) s

/-- MULW (R276). -/
def execMulw (d : GReg) (b c : Src) (s : State) : Host.Outcome State Fault Refusal :=
  runEx (op2 d b c fun x y => sextW (x * y)) s

/-- DIV (R277). -/
def execDiv (d : GReg) (b c : Src) (s : State) : Host.Outcome State Fault Refusal :=
  runEx (long2 d b c divR) s

/-- DIVU (R277). -/
def execDivu (d : GReg) (b c : Src) (s : State) : Host.Outcome State Fault Refusal :=
  runEx (long2 d b c divuR) s

/-- REM (R277). -/
def execRem (d : GReg) (b c : Src) (s : State) : Host.Outcome State Fault Refusal :=
  runEx (long2 d b c remR) s

/-- REMU (R277). -/
def execRemu (d : GReg) (b c : Src) (s : State) : Host.Outcome State Fault Refusal :=
  runEx (long2 d b c remuR) s

/-- ADDI (R278). -/
def execAddi (d : GReg) (b : Src) (imm : BitVec 21) (s : State) : Host.Outcome State Fault Refusal :=
  runEx (op1 d b fun x => x + simm imm) s

/-- ANDI (R278). -/
def execAndi (d : GReg) (b : Src) (imm : BitVec 21) (s : State) : Host.Outcome State Fault Refusal :=
  runEx (op1 d b fun x => x &&& simm imm) s

/-- ORI (R278). -/
def execOri (d : GReg) (b : Src) (imm : BitVec 21) (s : State) : Host.Outcome State Fault Refusal :=
  runEx (op1 d b fun x => x ||| simm imm) s

/-- XORI (R278). -/
def execXori (d : GReg) (b : Src) (imm : BitVec 21) (s : State) : Host.Outcome State Fault Refusal :=
  runEx (op1 d b fun x => x ^^^ simm imm) s

/-- SLTI (R278). -/
def execSlti (d : GReg) (b : Src) (imm : BitVec 21) (s : State) : Host.Outcome State Fault Refusal :=
  runEx (op1 d b fun x => flag (condLt x (simm imm))) s

/-- SLTIU (R278). -/
def execSltiu (d : GReg) (b : Src) (imm : BitVec 21) (s : State) : Host.Outcome State Fault Refusal :=
  runEx (op1 d b fun x => flag (condLtu x (simm imm))) s

/-- ADDWI (R278). -/
def execAddwi (d : GReg) (b : Src) (imm : BitVec 21) (s : State) : Host.Outcome State Fault Refusal :=
  runEx (op1 d b fun x => sextW (x + simm imm)) s

/-- SHLI (R278). -/
def execShli (d : GReg) (b : Src) (n : BitVec 6) (s : State) : Host.Outcome State Fault Refusal :=
  runEx (op1 d b fun x => x <<< n.toNat) s

/-- SHRI (R278). -/
def execShri (d : GReg) (b : Src) (n : BitVec 6) (s : State) : Host.Outcome State Fault Refusal :=
  runEx (op1 d b fun x => x >>> n.toNat) s

/-- SARI (R278). -/
def execSari (d : GReg) (b : Src) (n : BitVec 6) (s : State) : Host.Outcome State Fault Refusal :=
  runEx (op1 d b fun x => x.sshiftRight n.toNat) s

/-- LI, LIW and LID (R279). -/
def execLi (d : GReg) (imm : BitVec 16) (s : State) : Host.Outcome State Fault Refusal := runEx (opConst d (simm imm)) s
def execLiw (d : GReg) (imm : BitVec 32) (s : State) : Host.Outcome State Fault Refusal := runEx (opConst d (simm imm)) s
def execLid (d : GReg) (imm : BitVec 64) (s : State) : Host.Outcome State Fault Refusal := runEx (opConst d imm) s

/-- CLZ (R280). -/
def execClz (d : GReg) (b : Src) (s : State) : Host.Outcome State Fault Refusal :=
  runEx (op1 d b clzR) s

/-- CTZ (R280). -/
def execCtz (d : GReg) (b : Src) (s : State) : Host.Outcome State Fault Refusal :=
  runEx (op1 d b ctzR) s

/-- POPC (R280). -/
def execPopc (d : GReg) (b : Src) (s : State) : Host.Outcome State Fault Refusal :=
  runEx (op1 d b popcR) s

/-- BSWAP (R280). -/
def execBswap (d : GReg) (b : Src) (s : State) : Host.Outcome State Fault Refusal :=
  runEx (op1 d b bswapR) s

/-- SEXTB (R280). -/
def execSextB (d : GReg) (b : Src) (s : State) : Host.Outcome State Fault Refusal :=
  runEx (op1 d b fun x => sext64 x.toNat 8) s

/-- SEXTH (R280). -/
def execSextH (d : GReg) (b : Src) (s : State) : Host.Outcome State Fault Refusal :=
  runEx (op1 d b fun x => sext64 x.toNat 16) s

/-- SEXTW (R280). -/
def execSextW (d : GReg) (b : Src) (s : State) : Host.Outcome State Fault Refusal :=
  runEx (op1 d b sextW) s

/-- ZEXTW (R280). -/
def execZextW (d : GReg) (b : Src) (s : State) : Host.Outcome State Fault Refusal :=
  runEx (op1 d b fun x => zext64 x.toNat 32) s

/-- EXTU (R281). -/
def execExtu (d : GReg) (b : Src) (pos len : BitVec 6) (s : State) : Host.Outcome State Fault Refusal :=
  runEx (op1 d b fun x => extuR x pos.toNat (fieldLen len)) s

/-- EXTS (R281). -/
def execExts (d : GReg) (b : Src) (pos len : BitVec 6) (s : State) : Host.Outcome State Fault Refusal :=
  runEx (op1 d b fun x => extsR x pos.toNat (fieldLen len)) s

/-- INS (R281): A is read after B, in mode 0. -/
def execIns (d : GReg) (b : Src) (pos len : BitVec 6) (s : State) : Host.Outcome State Fault Refusal :=
  runEx (do
    needGroup .base
    let (x, old) ← rd2 (src b) (src0 d) [dst d]
    wr d (insR old x pos.toNat (fieldLen len))
    advance) s

/-- SEL (R282): all three sources are read whatever the condition is. -/
def execSel (d : GReg) (b c e : Src) (s : State) : Host.Outcome State Fault Refusal :=
  runEx (do
    needGroup .base
    let (x, y, z) ← rd3 (src b) (src c) (src e) [dst d]
    wr d (if x ≠ 0 then y else z)
    advance) s

/-- LPC (R283). -/
def execLpc (d : GReg) (disp : BitVec 24) (s : State) : Host.Outcome State Fault Refusal :=
  runEx (do
    needGroup .base
    checkDest d.toNat
    let c ← me
    wr d (relTarget c.pc disp)
    advance) s

end Sys2Proof.Machine
end

