-- ==== Sys2Proof/Machine/FloatOps.lean ====
section
/-!
DEFINITION. Scalar floating point (R285 to R289).
-/

namespace Sys2Proof.Machine

/-- A fused operation (R288). -/
def opFma (d : GReg) (b c e : Src) (negP negC : Bool) : Ex Unit := do
  needGroup .base
  let (x, y, z) ← rd3 (src b) (src c) (src e) [dst d]
  wr d (fres (fp32.fmaB (f32 x) (f32 y) (f32 z) negP negC))
  advance

/-- FADD (R286). -/
def execFadd (d : GReg) (b c : Src) (s : State) : Host.Outcome State Fault Refusal :=
  runEx (op2 d b c fun x y => fres (fp32.addB (f32 x) (f32 y))) s

/-- FSUB (R286). -/
def execFsub (d : GReg) (b c : Src) (s : State) : Host.Outcome State Fault Refusal :=
  runEx (op2 d b c fun x y => fres (fp32.subB (f32 x) (f32 y))) s

/-- FMUL (R286). -/
def execFmul (d : GReg) (b c : Src) (s : State) : Host.Outcome State Fault Refusal :=
  runEx (op2 d b c fun x y => fres (fp32.mulB (f32 x) (f32 y))) s

/-- FDIV (R286). -/
def execFdiv (d : GReg) (b c : Src) (s : State) : Host.Outcome State Fault Refusal :=
  runEx (long2 d b c fun x y => fres (fp32.divB (f32 x) (f32 y))) s

/-- FMIN (R286, R238). -/
def execFmin (d : GReg) (b c : Src) (s : State) : Host.Outcome State Fault Refusal :=
  runEx (op2 d b c fun x y => fres (fp32.minmax (f32 x) (f32 y) false)) s

/-- FMAX (R286, R238). -/
def execFmax (d : GReg) (b c : Src) (s : State) : Host.Outcome State Fault Refusal :=
  runEx (op2 d b c fun x y => fres (fp32.minmax (f32 x) (f32 y) true)) s

/-- FSQRT (R286). -/
def execFsqrt (d : GReg) (b : Src) (s : State) : Host.Outcome State Fault Refusal :=
  runEx (long1 d b fun x => fres (fp32.sqrtB (f32 x))) s

/-- FCLASS (R287). -/
def execFclass (d : GReg) (b : Src) (s : State) : Host.Outcome State Fault Refusal :=
  runEx (op1 d b fun x => w64 (classMask (f32 x))) s

/-- FFMA (R288). -/
def execFfma (d : GReg) (b c e : Src) (s : State) : Host.Outcome State Fault Refusal :=
  runEx (opFma d b c e false false) s

/-- FFMS (R288). -/
def execFfms (d : GReg) (b c e : Src) (s : State) : Host.Outcome State Fault Refusal :=
  runEx (opFma d b c e false true) s

/-- FNMA (R288). -/
def execFnma (d : GReg) (b c e : Src) (s : State) : Host.Outcome State Fault Refusal :=
  runEx (opFma d b c e true false) s

/-- FNMS (R288). -/
def execFnms (d : GReg) (b c e : Src) (s : State) : Host.Outcome State Fault Refusal :=
  runEx (opFma d b c e true true) s

/-- FEQ (R289); C is read in mode 0. -/
def execFeq (d : GReg) (b : Src) (c : GReg) (s : State) : Host.Outcome State Fault Refusal :=
  runEx (op2 d b ⟨c, false⟩ fun x y => flag (fpEq (f32 x) (f32 y))) s

/-- FLT (R289); C is read in mode 0. -/
def execFlt (d : GReg) (b : Src) (c : GReg) (s : State) : Host.Outcome State Fault Refusal :=
  runEx (op2 d b ⟨c, false⟩ fun x y => flag (fpLt (f32 x) (f32 y))) s

/-- FLE (R289); C is read in mode 0. -/
def execFle (d : GReg) (b : Src) (c : GReg) (s : State) : Host.Outcome State Fault Refusal :=
  runEx (op2 d b ⟨c, false⟩ fun x y => flag (fpLe (f32 x) (f32 y))) s

/-- FCVTWF (R289). -/
def execFcvtWF (d : GReg) (b : Src) (rm : BitVec 2) (s : State) : Host.Outcome State Fault Refusal :=
  runEx (op1 d b (cvtWF rm)) s

/-- FCVTFW (R289). -/
def execFcvtFW (d : GReg) (b : Src) (rm : BitVec 2) (s : State) : Host.Outcome State Fault Refusal :=
  runEx (op1 d b (cvtFW rm)) s

/-- FCVTBFF (R289). -/
def execFcvtBfF (d : GReg) (b : Src) (rm : BitVec 2) (s : State) : Host.Outcome State Fault Refusal :=
  runEx (op1 d b (cvtFmt fp32 bf16 rm)) s

/-- FCVTFBF (R289). -/
def execFcvtFBf (d : GReg) (b : Src) (s : State) : Host.Outcome State Fault Refusal :=
  runEx (op1 d b (cvtFmt bf16 fp32 0)) s

/-- FCVTHF (R289). -/
def execFcvtHF (d : GReg) (b : Src) (rm : BitVec 2) (s : State) : Host.Outcome State Fault Refusal :=
  runEx (op1 d b (cvtFmt fp32 fp16 rm)) s

/-- FCVTFH (R289). -/
def execFcvtFH (d : GReg) (b : Src) (s : State) : Host.Outcome State Fault Refusal :=
  runEx (op1 d b (cvtFmt fp16 fp32 0)) s

end Sys2Proof.Machine
end

