-- ==== Sys2Proof/Machine/HostPort.lean ====
section
/-!
DEFINITION. The host interface (R36 to R57): notifications, the rings of a virtual command processor, the command records and their
completion, and feature negotiation.
-/

namespace Sys2Proof

open Machine

/-- KIND of a record, and its words (R48). -/
def Cmd.kind (c : Cmd) : Nat := wbits (blockWord c.body 0) 7 0
def Cmd.word (c : Cmd) (i : Nat) : Word := blockWord c.body i

/-- A word of a record is a multiple of a size (R8, R49). -/
def Cmd.aligned (c : Cmd) (i n : Nat) : Bool := (c.word i).toNat % n == 0

/-- A record's reserved fields are zero, its fields in range and its addresses aligned (R49 to R51). -/
def Cmd.ok (c : Cmd) : Bool :=
  let z (i : Nat) : Bool := c.word i == 0
  let head : Bool := onlyBits (c.word 0) 0xFFFFFFFF000007FF
  c.aligned 4 8 && c.aligned 5 64 &&
  match c.kind with
  | 1 => launchReserved c.body && argsOk (c.word 2)
  | 2 => head && z 6 && z 7 && decide ((c.word 1).toNat % 64 = 0 ∧ (c.word 1).toNat ≤ 2 ^ 32) && c.aligned 2 64 && c.aligned 3 64
  | 3 => head && z 7 && decide ((c.word 1).toNat ≤ 2) && c.aligned 2 8
  | 4 => head && z 6 && z 7 && decide ((c.word 1).toNat ≤ 1) && c.aligned 2 8
  | 7 => head && z 3 && z 6 && z 7 && onlyBits (c.word 1) 0x3FFF && c.aligned 2 64
      && decide (1 ≤ wbits (c.word 1) 12 0 ∧ wbits (c.word 1) 12 0 ≤ 4096)
  | _ => head && z 2 && z 3 && z 6 && z 7 && onlyBits (c.word 1) 0xF

/-- The step of a record's kind. -/
def Cmd.step (c : Cmd) : Instr :=
  match c.kind with
  | 1 => .launch c
  | 2 => .cmdCopy c
  | 3 => .wait c
  | 4 => .signal c
  | 5 => .wsopen c
  | 6 => .wsclose c
  | _ => .indirect c

/-- A WAIT's nonzero limit has passed (R50). -/
def Cmd.late (c : Cmd) (now : Word) : Bool := c.word 6 != 0 && BitVec.ult (c.word 6) now

/-- The dies that a WSOPEN or WSCLOSE names (R50). -/
def Cmd.dies (c : Cmd) : List Nat := (upTo 4).filter fun d => (c.word 1).getLsbD d

end Sys2Proof

namespace Sys2Proof.Machine

/-- Fields of a VCP's shadow entry (R45). The owner for whom its records are executed is the one that the entry names. -/
def Vcp.base (q : Vcp) : Nat := q.w0.toNat / 65536 * 65536
def Vcp.size (q : Vcp) : Nat := wbits q.w1 8 0
def Vcp.owner (q : Vcp) : Nat := wbits q.w1 19 16
def Vcp.priceil (q : Vcp) : Nat := wbits q.w1 22 20

/-- The unit that acts for a VCP: the one at the Porter of the die that holds its page (R71, R384, log 38). -/
def State.vcpUnit (s : State) (fn v : Nat) : Nat := porterCore (s.vcpDie fn v)

/-- A block of a VCP's page that the device reads by its physical address: the slots that it takes (R44). -/
def State.vcpTouch (s : State) (fn v a : Nat) : State :=
  s.slotTouch (s.vcp fn v).owner (s.vcpUnit fn v) (16 * s.vcpUnit fn v) a false false

/-- Bytes of a VCP's page written by the device (R44). -/
def State.vcpUpdate (s : State) (fn v a : Nat) (whole : Bool) (f : Block → Tag → Block × Tag) : State :=
  s.slotUpdate (s.vcp fn v).owner (s.vcpUnit fn v) (16 * s.vcpUnit fn v) a whole f

/-- A word of a VCP page, read by its physical address (R44). -/
def State.vcpWord (s : State) (fn v off : Nat) : Word :=
  let a := (s.vcp fn v).base + off
  BitVec.ofNat 64 (blockBytes (s.coherent a).1 (a % 64) 8)

/-- A word of a VCP page written by the device. -/
def State.vcpPut (s : State) (fn v off : Nat) (w : Word) : State :=
  let a := (s.vcp fn v).base + off
  s.vcpUpdate fn v a false fun d t => (mergeBytes d (placeBytes (a % 64) w.toNat) (rangeMask (a % 64) 8), t)

/-- STATUS of a VCP (R45). -/
def Vcp.status (q : Vcp) : Word := flag q.run + 2 * flag q.tamper + 4 * flag q.halted
def State.putStatus (s : State) (fn v : Nat) : State := s.vcpPut fn v 0x20 (s.vcp fn v).status

/-- A function that the host reaches (R32, R67): it is enabled or bound, and the host link (link 20 of the model) is not fenced. -/
def State.reached (s : State) (fn : Nat) : Bool := s.functions.getLsbD fn && s.link 20 != .fenced

/-- A VCP takes notifications (R32, R39, R42, R59, R67): its entry is valid, its function reached, and the owner enabled, has the VCP in use and has
committed its features. -/
def State.vcpLive (s : State) (fn v : Nat) : Bool :=
  let w := s.owner fn
  (s.vcp fn v).valid && w.active.en && decide (v < w.active.nvcp.toNat) && w.featState == 1 && s.reached fn

/-- NOTIFY (R39, R40, R46, R47): the privileged words are compared with the shadow, and PROD is read; a halted VCP takes nothing. One that arrives while
the host link retrains is held (R31). -/
def execNotify (o v : Nat) (s : State) : Host.Outcome State Fault Refusal :=
  if s.link 20 = .retraining then .next (s.postLater [.notify o v])
  else if s.vcpLive o v = false then .next s
  else
    let q := s.vcp o v
    let same := s.vcpWord o v 0 == q.w0 && s.vcpWord o v 8 == q.w1
    let s0 := s.vcpTouch o v q.base
    let s1 := if same then s0 else ((s0.modVcp o v fun q => { q with tamper := true }).report (.tamper o v)).putStatus o v
    if q.halted then .next s1
    else
      let prod := (s1.vcpWord o v 0x10).extractLsb' 0 32
      if q.size < (prod - q.cons).toNat then
        .next (((s1.modVcp o v fun q => { q with halted := true, run := false }).report (.halted o v)).putStatus o v)
      else .next ((s1.modVcp o v fun q => { q with prod := prod, armed := true }).post [.vcpTakeRecord o v])

/-- The completion ring has no space (R54). -/
def State.ringHeld (s : State) (o v : Nat) : Bool :=
  (s.vcp o v).cprod - (s.vcpWord o v 0x30).extractLsb' 0 32 == 512

/-- A record's kind is one that this owner's VCPs execute here (R43, R48, R57). -/
def State.kindOk (s : State) (c : Cmd) : Bool :=
  decide (1 ≤ c.kind ∧ c.kind ≤ 7) && (c.ring || c.kind != 7)
    && (!(c.kind == 5 || c.kind == 6) || (s.owner c.owner).accept.getLsbD 10)

/-- A record that has been taken is executed, or completes with BADKIND or BADREC (R49). -/
def State.runCmd (s : State) (c : Cmd) : State :=
  if s.kindOk c = false then s.finishCmd c 2
  else if c.ok = false then s.finishCmd c 3
  else s.post [c.step]

/-- An INDIRECT record has completed (R57): with no record of its own. -/
def State.finishIndirect (s : State) (c : Cmd) : State :=
  let h := c.word 0
  s.complete
    { id := 0, owner := c.owner, space := s.vcpSpace c.fn c.vcp, level := .u, body := 0, jc := c.word 4, craddr := c.word 5,
      die := s.vcpDie c.fn c.vcp, vcp := some (c.fn, c.vcp), write := false, written := false, irq := h.getLsbD 10, out := some c, launch := none,
      node := none }

/-- A record may be taken (R49, R73): FENCE and SIGNAL wait for every earlier record, a LAUNCH for a place at the Porter. A record of a buffer
does not wait for the INDIRECT it stands in place of. -/
def State.mayTake (s : State) (c : Cmd) (parent : Option Nat) : Bool :=
  let q := s.vcp c.fn c.vcp
  let alone := q.out.all fun e => parent == some e.id
  let fence := (c.word 0).getLsbD 8 || c.kind == 4
  (!fence || alone) && !(c.kind == 1 && decide (64 ≤ s.unstarted (s.vcpDie c.fn c.vcp) c.owner))

/-- A record taken (R46, R49, R57): CONS passes a record of the ring. -/
def State.takeCmd (s : State) (c : Cmd) (parent : Option Nat) : State :=
  let (id, s1) := s.newId
  let s2 := s1.modVcp c.fn c.vcp fun q => { q with
    cons := if parent.isNone then q.cons + 1 else q.cons,
    out := mapIf (fun e : OutCmd => parent == some e.id) (fun e => { e with left := e.left + 1 }) q.out ++ [⟨id, c, parent, 0⟩],
    indirect := if parent.isNone then q.indirect else q.indirect.bind fun r =>
      if r.count ≤ r.next + 1 then none else some { r with next := r.next + 1 } }
  let s3 := if parent.isNone then s2.vcpPut c.fn c.vcp 0x18 ((s2.vcp c.fn c.vcp).cons.setWidth 64) else s2
  (s3.runCmd c).post [.vcpTakeRecord c.fn c.vcp]

/-- The check of an address that a VCP's record names (R50): under the VCP's SPACE, at level U (DESIGN CHOICE, log 38). -/
def State.cmdCheck (s : State) (c : Cmd) (va : Word) (a : Acc) : Checked × State :=
  s.checkNow (s.vcpUnit c.fn c.vcp) c.owner (s.vcpSpace c.fn c.vcp) .u va a

/-- A block of an indirect buffer (R57). -/
def State.bufferBlock (s : State) (c : Cmd) (i : Nat) : Option Block × State :=
  match s.cmdCheck c (c.word 2 + w64 (64 * i)) .read with
  | (.ok pa _, s1) =>
    if regionOf pa = .host then (none, s1)
    else (some (s1.coherent pa).1, s1.slotTouch c.owner (s.vcpUnit c.fn c.vcp) (16 * s.vcpUnit c.fn c.vcp) pa false false)
  | (_, s1) => (none, s1)

/-- A WAIT or an INDIRECT of a VCP that has been taken and has not begun: it stands before every later record (R50, R57). -/
def State.beginning (s : State) (o v : Nat) : Bool :=
  s.agenda.any fun i => match i with
    | .wait c | .indirect c => c.fn == o && c.vcp == v
    | _ => false

/-- VCP_TAKE_RECORD (R46, R47, R49, R54, R57). The record number of a buffer's record is its place in the buffer (DESIGN CHOICE, log 42). -/
def execVcpTakeRecord (o v : Nat) (s : State) : Host.Outcome State Fault Refusal :=
  let q := s.vcp o v
  if !q.valid || !q.run || !q.armed || q.wait.isSome || s.beginning o v || s.ringHeld o v then .next s
  else
    match q.indirect with
    | some r =>
      let (b, s1) := if r.fresh then s.bufferBlock r.cmd r.next else ((r.got[r.next]?).join, s)
      match b with
      | none => .next ((s1.modVcp o v fun q => { q with indirect := none }).finishCmd r.cmd 4)
      | some b =>
        let c : Cmd := ⟨o, q.owner, v, r.next, false, b⟩
        .next (if s1.mayTake c (some r.id) then s1.takeCmd c (some r.id) else s1)
    | none =>
      if q.cons = q.prod ∨ q.size = 0 then .next s
      else
        let a := q.base + 0x100 + 64 * (q.cons.toNat % q.size)
        let c : Cmd := ⟨o, q.owner, v, q.cons.toNat, true, (s.coherent a).1⟩
        .next (if s.mayTake c none then (s.vcpTouch o v a).takeCmd c none else s)

/-- LAUNCH (R51, R52, R71, R72): the record goes to the Porter of the die that holds the VCP page. -/
def execLaunch (c : Cmd) (s : State) : Host.Outcome State Fault Refusal :=
  let l := launchOf (s.vcpDie c.fn c.vcp) c.owner (s.vcpSpace c.fn c.vcp) .u c.body (s.vcp c.fn c.vcp).priceil
  .next (s.addLaunch { l with cmd := some c, iseq := c.iseq })

/-- The owner's entries in a die's copy request queue are all in use (R59, R346). -/
def State.copyQueueFull (s : State) (die o : Nat) : Bool :=
  let share := ((s.owner o).active.dies.toList.getD die .zero).copyq.toNat
  decide (share ≤ s.copies.countP fun c => !c.done && c.blocks != 0 && c.owner == o && dieOf c.core == die)

/-- Where a side of a host copy lies (R43, R50): an address of the local views names no store for a VCP, and a peer address needs PEER. -/
def State.cmdSide (s : State) (c : Cmd) (va : Word) : Side :=
  match formOf va with
  | .peer d _ => if (s.owner c.owner).accept.getLsbD 6 then .peer d else .bad
  | .page =>
    match (s.cmdCheck c va .read).1 with
    | .ok pa _ => (match regionOf pa with
      | .host => .host
      | .weight n => .weight n
      | _ => .here)
    | _ => .here
  | _ => .bad

/-- A host copy whose sides can be reached together (R43, R50, R154, R347). -/
def State.cmdSidesOk (s : State) (c : Cmd) : Bool :=
  let a := s.cmdSide c (c.word 2)
  let b := s.cmdSide c (c.word 3)
  a != .bad && b != .bad && !(a.outside && b.outside) && (match b with
    | .weight d => (s.porter d).windowOpen.contains c.owner
    | _ => true)

/-- CMD_COPY (R50): one copy request, at engine 0 of the die (log 38); a copy of length 0 completes at once (R49). -/
def execCmdCopy (c : Cmd) (s : State) : Host.Outcome State Fault Refusal :=
  let die := s.vcpDie c.fn c.vcp
  if c.word 1 = 0 then .next (s.finishCmd c 0)
  else if s.cmdSidesOk c = false then .next (s.finishCmd c 4)
  else if s.copyQueueFull die c.owner then .next (s.postLater [.cmdCopy c])
  else
    let (id, s1) := s.newId
    let r : CopyReq :=
      { id := id, ctx := none, core := 256 * die, owner := c.owner, space := s.vcpSpace c.fn c.vcp, level := .u, dst := c.word 3,
        src := c.word 2, blocks := (c.word 1).toNat / 64, scope := 4, tags := false, rq := false, dkind := 0, dkAddr := 0, promise := s.dtc,
        k := 0, next := 0, rel := none, asked := false, got := none, unacked := 0, waiting := false, result := none, dk := none,
        done := false, observed := false, cmd := some c }
    .next { s1 with copies := s1.copies ++ [r] }

/-- The SC word that a WAIT or a SIGNAL names (R50): its physical address, or none when it cannot be accessed as such. -/
def State.cmdWord (s : State) (c : Cmd) (a : Acc) : Option Nat × State :=
  match s.cmdCheck c (c.word 2) a with
  | (.ok pa e, s1) => (if e.ct = 2 ∧ regionOf pa = .lp6 ∧ pa % 8 = 0 then some pa else none, s1)
  | (_, s1) => (none, s1)

/-- COND of a WAIT (R50). -/
def condMet (cond : Nat) (w v : Word) : Bool :=
  match cond with
  | 0 => decide (v.toNat ≤ w.toNat)
  | 1 => w == v
  | _ => w != v

/-- Where a WAIT stands: its word cannot be accessed, its condition is met, or it waits. -/
inductive Waited where
  | access | met | no
  deriving DecidableEq, Repr
def State.waitCheck (s : State) (c : Cmd) : Waited × State :=
  match s.cmdWord c .read with
  | (none, s1) => (.access, s1)
  | (some pa, s1) =>
    let w : Word := BitVec.ofNat 64 (blockBytes (s1.coherent pa).1 (pa % 64) 8)
    (if condMet (wbits (c.word 1) 1 0) w (c.word 3) then .met else .no, s1)

/-- A WAIT no longer holds later records, and completes. -/
def State.endWait (s : State) (c : Cmd) (status : Nat) : State :=
  ((s.modVcp c.fn c.vcp fun q => { q with wait := none }).finishCmd c status).post [.vcpTakeRecord c.fn c.vcp]

/-- WAIT (R50). -/
def execWait (c : Cmd) (s : State) : Host.Outcome State Fault Refusal :=
  match s.waitCheck c with
  | (.access, s1) => .next (s1.finishCmd c 4)
  | (.met, s1) => .next (s1.finishCmd c 0)
  | (.no, s1) => .next (s1.modVcp c.fn c.vcp fun q => { q with wait := some c })

/-- WAIT_MET (R50). -/
def execWaitMet (c : Cmd) (s : State) : Host.Outcome State Fault Refusal :=
  if (s.vcp c.fn c.vcp).wait ≠ some c then .next s
  else
    match s.waitCheck c with
    | (.access, s1) => .next (s1.endWait c 4)
    | (.met, s1) => .next (s1.endWait c 0)
    | (.no, s1) => .next s1

/-- WAIT_TIMEOUT (R50). -/
def execWaitTimeout (c : Cmd) (s : State) : Host.Outcome State Fault Refusal :=
  if (s.vcp c.fn c.vcp).wait = some c ∧ c.late s.dtc then .next (s.endWait c 6) else .next s

/-- SIGNAL (R49, R50): a store or an addition at the home of its word. -/
def execSignal (c : Cmd) (s : State) : Host.Outcome State Fault Refusal :=
  let add := c.word 1 == 1
  match s.cmdWord c (if add then .atomic else .write) with
  | (none, s1) => .next (s1.finishCmd c 4)
  | (some pa, s1) =>
    let old := blockBytes (s1.coherent pa).1 (pa % 64) 8
    let new : Word := if add then w64 old + c.word 3 else c.word 3
    let u := s.vcpUnit c.fn c.vcp
    let s2 := s1.slotUpdate c.owner u (16 * u) pa false fun d t => (mergeBytes d (placeBytes (pa % 64) new.toNat) (rangeMask (pa % 64) 8), t)
    .next ((s2.checkBlock pa).finishCmd c 0)

/-- An owner's launches run on a die: one of its Porter's is in reservation, in commit or dispatched, or one of its tasks is placed there. -/
def State.runsOn (s : State) (o die : Nat) : Bool :=
  (s.launches.any fun e => e.2.owner == o && e.2.die == die && (match e.2.state with
    | .reserve | .commit | .dispatched => true
    | _ => false))
    || s.ctxs.any fun e => e.2.owner == o && dieOf (coreOf e.1) == die && (e.2.task.bind (·.launch)).isSome && decide (e.2.state ≠ .free)

/-- WSOPEN (R50): new launches are held from here on. -/
def execWsopen (c : Cmd) (s : State) : Host.Outcome State Fault Refusal :=
  .next ((c.dies.foldl (fun s d => s.modPorter d fun p => { p with windowHeld := addNew p.windowHeld c.owner }) s).post [.wsopenComplete c])

/-- WSOPEN_COMPLETE (R50): the owner's running launches on those dies have ended, and the write window is open. -/
def execWsopenComplete (c : Cmd) (s : State) : Host.Outcome State Fault Refusal :=
  if !((s.vcp c.fn c.vcp).out.any fun e => e.cmd == c) then .next s
  else if c.dies.any fun d => s.runsOn c.owner d then .next (s.postLater [.wsopenComplete c])
  else .next ((c.dies.foldl (fun s d => s.modPorter d fun p => { p with windowOpen := addNew p.windowOpen c.owner }) s).finishCmd c 0)

/-- A block of the weight stores of some dies on a frame of an owner (R154). -/
def State.weightOf (s : State) (o : Nat) (dies : List Nat) (block : Nat) : Bool :=
  match regionOf (64 * block), frameOf (64 * block) with
  | .weight n, some f => dies.contains n && bits (s.fotAt f).toNat 3 0 == o
  | _, _ => false

/-- WSCLOSE (R50, R154): cached copies are dropped, the window closes, and then held launches are released. -/
def execWsclose (c : Cmd) (s : State) : Host.Outcome State Fault Refusal :=
  let clear (l : List Nat) : List Nat := l.filter fun o => o != c.owner
  let s1 : State := { s with cores := s.cores.map fun e => (e.1, { e.2 with
    l1 := e.2.l1.filter fun l => !(s.weightOf c.owner c.dies l.1) || !l.2.wait.isEmpty,
    icache := e.2.icache.filter fun l => !(s.weightOf c.owner c.dies l.1) }) }
  let s2 := c.dies.foldl (fun s d => s.modPorter d fun p => { p with windowHeld := clear p.windowHeld, windowOpen := clear p.windowOpen }) s1
  .next ((s2.finishCmd c 0).post (c.dies.flatMap fun d => [Instr.porterSelect d, Instr.launchRetry d c.owner]))

/-- The blocks of a buffer read ahead (R57). -/
def State.readBuffer (s : State) (c : Cmd) : Nat → List (Option Block) × State
  | 0 => ([], s)
  | n + 1 =>
    let (l, s1) := s.readBuffer c n
    let (b, s2) := s1.bufferBlock c n
    (l ++ [b], s2)

/-- INDIRECT (R57): the buffer's records are taken in its place; with FRESH clear its blocks are all read now. -/
def execIndirect (c : Cmd) (s : State) : Host.Outcome State Fault Refusal :=
  let n := wbits (c.word 1) 12 0
  let fresh := (c.word 1).getLsbD 13
  match (s.vcp c.fn c.vcp).out.find? fun e => e.cmd == c with
  | none => .next s
  | some e =>
    let (l, s1) := if fresh then ([], s) else s.readBuffer c n
    .next ((s1.modVcp c.fn c.vcp fun q => { q with indirect := some ⟨e.id, c, 0, n, fresh, l⟩ }).post [.vcpTakeRecord c.fn c.vcp])

/-- A record has completed: it is no longer outstanding, and the last record of a buffer completes its INDIRECT (R49, R57). -/
def State.outDone (s : State) (c : Cmd) : State :=
  let q := s.vcp c.fn c.vcp
  match q.out.find? fun e => e.cmd == c with
  | none => s
  | some e =>
    let out := mapIf (fun x : OutCmd => e.parent == some x.id) (fun x => { x with left := x.left - 1 }) (q.out.filter fun x => x.id != e.id)
    let s1 := (s.modVcp c.fn c.vcp fun q => { q with out := out }).post [.vcpTakeRecord c.fn c.vcp]
    match e.parent.bind fun p => out.find? fun x => x.id == p with
    | some p => if p.left = 0 ∧ (q.indirect.map (·.id)) ≠ some p.id then s1.finishIndirect p.cmd else s1
    | none => s1

/-- A completion record written at its address (R51, R53): an RC or SC page, a whole block. -/
def State.recordAt (s : State) (c : Completion) : State :=
  let u := porterCore c.die
  if c.craddr.toNat % 64 ≠ 0 then s
  else
    match s.checkNow u c.owner c.space c.level c.craddr .write with
    | (.ok pa e, s1) =>
      if (e.ct = 1 ∨ e.ct = 2) ∧ regionOf pa = .lp6 then (s1.slotUpdate c.owner u (16 * u) pa true fun _ t => (c.body, t)).checkBlock pa else s1
    | (_, s1) => s1

/-- Where a completion record goes (R53): the completion ring, an address, or nowhere. -/
def Completion.toRing (c : Completion) : Bool := c.write && c.craddr == 0 && c.vcp.isSome
def State.putRecord (s : State) (c : Completion) : State :=
  match c.toRing, c.vcp with
  | true, some (fn, v) =>
    let q := s.vcp fn v
    s.vcpUpdate fn v (q.base + 0x8000 + 64 * (q.cprod.toNat % 512)) true fun _ t => (c.body, t)
  | _, _ => if c.write ∧ c.craddr ≠ 0 then s.recordAt c else s

/-- A completion's ring record has to wait (R54): the ring is full, or an earlier completion of the VCP has not been through. -/
def State.recordHeld (s : State) (c : Completion) : Bool :=
  match c.toRing, c.vcp with
  | true, some (fn, v) => s.ringHeld fn v || s.completions.any fun x => x.toRing && x.vcp == c.vcp && decide (x.id < c.id)
  | _, _ => false

/-- The join counter of a completion has not been decremented yet (R53). -/
def State.counterOut (s : State) (id : Nat) : Bool := s.requests.any fun r => r.op == .jcdec && r.x == w64 id

/-- CPROD counts a ring record, and the IRQ is raised (R53). -/
def State.ringCount (s : State) (c : Completion) : State :=
  match c.vcp with
  | none => s
  | some (fn, v) =>
    let s1 := if c.toRing then
        let s1 := s.modVcp fn v fun q => { q with cprod := q.cprod + 1 }
        s1.vcpPut fn v 0x28 ((s1.vcp fn v).cprod.setWidth 64)
      else s
    if c.irq then { s1 with irqs := s1.irqs ++ [(fn, v)] } else s1

/-- The last part of a completion (R49, R53, R370): the record is no longer outstanding, and the end or the fault of a domain-bound composite's child
reaches its nest. -/
def State.completed (s : State) (c : Completion) : State :=
  let s1 : State := { s with
    completions := s.completions.filter fun x => x.id != c.id,
    launches := match c.launch with
      | some l => tdel s.launches l
      | none => s.launches }
  let s2 := s1.ringCount c
  let s3 := match c.out with
    | some q => s2.outDone q
    | none => s2
  match c.node with
  | some (n, some f) => { s3 with faults := s3.faults ++ [(n, f)] }
  | some (n, none) => s3.nest (.ended n 0) nestFuel
  | none => s3

/-- RECORD_COMPLETE (R53, R54, R370): the record, the join counter, CPROD, IRQ, in that order; CPROD waits until the counter's home has served the
decrement. -/
def execRecordComplete (id : Nat) (s : State) : Host.Outcome State Fault Refusal :=
  match s.completions.find? fun c => c.id == id with
  | none => .next s
  | some c =>
    if c.written = false then
      if s.recordHeld c then .next (s.postLater [.recordComplete id])
      else
        let s1 := (s.putRecord c).decrementFor (porterCore c.die) c.owner c.space c.level c.jc id
        let s2 : State := { s1 with completions := mapIf (fun x : Completion => x.id == id) (fun x => { x with written := true }) s1.completions }
        .next (if s2.counterOut id then s2.postLater [.recordComplete id] else s2.completed c)
    else if s.counterOut id then .next (s.postLater [.recordComplete id])
    else .next (s.completed c)

/-- The bits that a shadow entry's words keep (R45, R47). -/
def shadowWord (word : Nat) (val : Word) : Word := if word = 0 then val &&& 0xFFFFFFFFFFFF0000 else val &&& 0x0000FFFF007F01FF

/-- SHADOW_QCB_WRITE (R47): any write clears TAMPER; one that clears VALID aborts the untaken records; one that leaves VALID set starts a
halted VCP, which takes nothing until it is notified. -/
def execShadowQcbWrite (o v word : Nat) (val : Word) (s : State) : Host.Outcome State Fault Refusal :=
  let q := s.vcp o v
  let valid := if word = 2 then val.getLsbD 0 else q.valid
  let put (q : Vcp) : Vcp := { q with
    valid := valid, tamper := false,
    w0 := if word = 0 then shadowWord 0 val else q.w0,
    w1 := if word = 1 then shadowWord 1 val else q.w1 }
  let stop (q : Vcp) : Vcp := if valid then q else { q with
    prod := q.cons, indirect := none, out := q.out.filter fun e => (q.indirect.map (·.id)) != some e.id || e.left != 0 }
  let start (q : Vcp) : Vcp := if q.halted && valid then { q with halted := false, run := true, armed := false, prod := q.cons } else q
  .next ((s.modVcp o v fun q => start (stop (put q))).putStatus o v)

/-- FEAT_COMMIT (R42). -/
def execFeatCommit (o : Nat) (val : Word) (s : State) : Host.Outcome State Fault Refusal :=
  let w := s.owner o
  if val.getLsbD 0 = false ∨ w.featState = 1 then .next s
  else
    let ok := w.accept &&& ~~~w.offer == 0 && w.accept.getLsbD 0
    .next (s.modOwner o fun w => { w with featState := if ok then 1 else 2 })

/-- A launch is aborted (R42, R65, R225): its tasks stop, and it completes with ABORTED once they have. -/
def State.abortLaunch (s : State) (id : Nat) : State :=
  match tget s.launches id with
  | none => s
  | some l => (s.setLaunch { l with aborted := true }).abortNodes ((s.nodes.filter fun e => e.2.launch == id).map (·.1))

/-- An owner's running launches. -/
def State.runningOf (s : State) (o : Nat) : List Nat :=
  s.launches.filterMap fun e => if e.2.owner = o ∧ (e.2.state = .commit ∨ e.2.state = .dispatched) then some e.1 else none

/-- FUNCTION_LEVEL_RESET (R42). FEAT_ACCEPT keeps its value (DESIGN CHOICE, log 43). -/
def execFunctionLevelReset (o : Nat) (s : State) : Host.Outcome State Fault Refusal :=
  .next (((s.runningOf o).foldl (fun s id => s.abortLaunch id) s).modOwner o fun w => { w with featState := 0 })

end Sys2Proof.Machine
end

