-- ==== Sys2Proof/Machine/Layout.lean ====
section
/-!
DEFINITION. Partitions: the layout registers and the commit (R58 to R66, R383), and time-shared pools (R68 to R70).
-/

namespace Sys2Proof.Machine

/-- The owners that the staged layout enables, ascending, with their records. -/
def State.stagedOwners (s : State) : List (Nat × OwnerRec) :=
  ((upTo 16).map fun o => (o, s.stagedRec o)).filter fun e => e.2.en

/-- A record's part of a die. -/
def OwnerRec.die (r : OwnerRec) (n : Nat) : DieRec := r.dies.toList.getD n .zero

/-- The owner whose value first takes a sum past a limit (R62). -/
def sumPast (l : List (Nat × Nat)) (limit sum : Nat) : Option Nat :=
  match l with
  | [] => none
  | (o, v) :: rest => if limit < sum + v then some o else sumPast rest limit (sum + v)

/-- Pairs of owners, by lower and then by higher number (R62). -/
def ownerPairs (l : List (Nat × OwnerRec)) : List ((Nat × OwnerRec) × (Nat × OwnerRec)) :=
  match l with
  | [] => []
  | a :: rest => rest.map (fun b => (a, b)) ++ ownerPairs rest

/-- A frame holds a block of an absent channel (R35). -/
def absentFrame (absent : List Nat) (f : Nat) : Bool :=
  !absent.isEmpty && (upTo 16).any fun k => absent.contains (channelOf (65536 * f + 4096 * k))

/-- The usable frames present (R35). -/
def State.usableFrames (s : State) : Nat :=
  if s.absent.isEmpty then 15728640 else 15728640 - (upTo 15728640).countP fun f => absentFrame s.absent f

/-- LSSAVE of a pooled owner covers its cores with PIN frames of its own (R63). -/
def State.lssaveOk (s : State) (o : Nat) (r : OwnerRec) : Bool :=
  (upTo (8 * popcount r.cores.toNat 1024)).all fun i =>
    match frameOf (r.lssave + 65536 * i) with
    | some f => let e := s.fotAt f; e.getLsbD 7 && bits e.toNat 3 0 == o
    | none => false

/-- Two owners' set ranges on a die overlap, and so do their ways (R63). -/
def cacheClash (a b : DieRec) : Bool :=
  decide (a.setbase.toNat < b.setbase.toNat + 2 ^ b.pw.toNat ∧ b.setbase.toNat < a.setbase.toNat + 2 ^ a.pw.toNat) && a.waymask &&& b.waymask != 0

/-- A part of a die's cache is a legal range (R63). -/
def cacheRange (d : DieRec) : Bool :=
  decide (1 ≤ d.pw.toNat ∧ d.pw.toNat ≤ 11 ∧ d.setbase.toNat + 2 ^ d.pw.toNat ≤ 2048) && d.waymask != 0

/-- A core leaves an owner with the staged layout. -/
def State.coreLeaves (s : State) (o core : Nat) : Bool :=
  (s.owner o).active.cores.getLsbD core && !((s.stagedRec o).en && (s.stagedRec o).cores.getLsbD core)

/-- Condition 7 (R62, R63): the first owner of a context in the Cupboard of a core that leaves it. -/
def State.cupboardLeft (s : State) : Option Nat :=
  (upTo 16).find? fun o => s.cores.any fun e => (e.2.cupboard.map fun k => (s.ctx k).owner) == some o && s.coreLeaves o e.1

/-- The conditions of R63 in table order: the code and EOWNER of the first that fails. Owners of one pool have the same CORES. -/
def State.layoutCheck (s : State) : Option (Nat × Nat) :=
  let l := s.stagedOwners
  let pairs := ownerPairs l
  let cores := pairs.findSome? fun (a, b) =>
    let mates := a.2.pooled && b.2.pooled && a.2.pool == b.2.pool
    if (if mates then a.2.cores != b.2.cores else a.2.cores &&& b.2.cores != 0) then some b.1 else none
  let pool := (l.find? fun e => e.2.pooled && (e.2.cores == 0 || (s.pool e.2.pool.toNat).staged == 0 || !s.lssaveOk e.1 e.2)).map (·.1)
  let quota := (upTo 4).findSome? fun n => (upTo 7).findSome? fun k => sumPast (l.map fun e => (e.1, e.2.quota n k)) 64 0
  let range := (l.find? fun e => (upTo 4).any fun n => !cacheRange (e.2.die n)).map (·.1)
  let clash := pairs.findSome? fun (a, b) => if (upTo 4).any fun n => cacheClash (a.2.die n) (b.2.die n) then some b.1 else none
  let sum (f : OwnerRec → Nat) (limit : Nat) : Option Nat := sumPast (l.map fun e => (e.1, f e.2)) limit 0
  let dies (f : DieRec → Nat) (limit : Nat) : Option Nat := (upTo 4).findSome? fun n => sum (fun r => f (r.die n)) limit
  let capacity := [sum (fun r => r.lpframes.toNat) s.usableFrames, sum (fun r => r.wsframes.toNat) 32768, dies (fun d => d.tagq.toNat) 64,
    dies (fun d => d.chctx.toNat) 15, dies (fun d => d.copyq.toNat) 4096].findSome? id
  let zero := s.stagedRec 0
  let old := (s.owner 0).active
  let owner0 : Option Nat := if (upTo 4).all fun n =>
      (zero.die n).setbase == (old.die n).setbase && (zero.die n).pw == (old.die n).pw && (zero.die n).waymask == (old.die n).waymask then none
    else some 0
  [cores.map fun o => (1, o), pool.map fun o => (2, o), quota.map fun o => (3, o), range.map fun o => (4, o), clash.map fun o => (4, o),
    capacity.map fun o => (5, o), owner0.map fun o => (6, o), s.cupboardLeft.map fun o => (7, o)].findSome? id

/-- A commit affects an owner (R64). -/
def OwnerRec.affects (a b : OwnerRec) : Bool :=
  a.en != b.en || a.pooled != b.pooled || a.pool != b.pool || a.cores != b.cores || a.s2base != b.s2base || a.lssave != b.lssave
    || (upTo 4).any fun n => (a.die n).setbase != (b.die n).setbase || (a.die n).pw != (b.die n).pw || (a.die n).waymask != (b.die n).waymask

/-- The helper contexts that run work of an owner. -/
def State.runningCtxs (s : State) (o : Nat) : List Nat :=
  s.ctxs.filterMap fun e => if e.2.owner = o ∧ e.1 % 16 ≠ 0 ∧ coreOf e.1 < 1280 then
    (match e.2.state with
    | .live | .blocked _ | .saving => some e.1
    | _ => none) else none

/-- The command records of an owner that have been taken and have not completed end with ABORTED, and its VCPs take no more (R65). -/
def State.abortCmds (s : State) (o : Nat) : State :=
  let copies := s.copies.filterMap fun c => if c.owner = o then c.cmd else none
  let waits := s.vcps.filterMap fun e => e.2.wait.bind fun c => if c.owner = o then some c else none
  let launches := (s.agenda ++ s.later).filterMap fun i => match i with
    | .launch c => if c.owner = o then some c else none
    | _ => none
  let stays (i : Instr) : Bool := match i with
    | .launch c | .cmdCopy c => c.owner != o
    | _ => true
  let s1 : State := { s with
    copies := s.copies.filter fun c => !(c.owner == o && c.cmd.isSome)
    agenda := s.agenda.filter stays
    later := s.later.filter stays
    vcps := s.vcps.map fun e => if e.2.owner = o then (e.1, { e.2 with armed := false }) else e }
  (copies ++ launches).foldl (fun s c => s.finishCmd c 7) (waits.foldl (fun s c => s.endWait c 7) s1)

/-- The work of an owner that goes to EN = 0 is aborted (R65): its launches complete with ABORTED. -/
def State.abortOwner (s : State) (o : Nat) : State :=
  let mine := s.launches.filterMap fun e => if e.2.owner = o then some e.2 else none
  let stop (s : State) (l : Launch) : State :=
    match l.state with
    | .queued | .reserve | .waiting =>
      if l.preempted then s.abortLaunch l.id
      else
        let s1 := if (s.porter l.die).busy = some l.id then s.porterDone l.die else s
        s1.finishLaunch l 7
    | .commit | .dispatched => s.abortLaunch l.id
    | .done => s
  let s1 := mine.foldl stop (s.abortCmds o)
  let loose := s1.ctxs.filterMap fun e => if e.2.owner = o ∧ (e.2.task.map fun t => t.launch.isNone) = some true ∧ e.2.state ≠ .free then some e.1 else none
  ({ s1 with
    cores := s1.cores.map fun e => (e.1, { e.2 with conts := e.2.conts.filter fun t => t.owner != o }),
    gtq := s1.gtq.filter fun e => e.1 / 128 != o
    gtqNext := s1.gtqNext.filter fun e => e.1 / 128 != o } : State).post (loose.map fun n => Instr.taskAbort n)

/-- QUIESCE begins (R65): the affected owners' contexts are asked to save, or their work is aborted. -/
def State.quiesce (s : State) : State :=
  let act (s : State) (o : Nat) : State :=
    if (s.stagedRec o).en then s.post ((s.runningCtxs o).map fun n => Instr.preemptRequest n) else s.abortOwner o
  s.layout.affected.foldl act { s with layout := { s.layout with state := 2 } }

/-- A pool switch is under way (R65). -/
def State.poolSwitching (s : State) : Bool := (upTo 4).any fun p => (s.pool p).switching.isSome

/-- CHECK has passed: QUIESCE begins once no pool switch is under way (R65). -/
def State.checkPassed (s : State) : State := if s.layout.state = 1 ∧ s.poolSwitching = false then s.quiesce else s

/-- LAYOUT_COMMIT (R62 to R65): CHECK, and QUIESCE begins. A COMMIT that is ignored with BUSY does not clear STAGELOCK (DESIGN CHOICE, log 41). -/
def execLayoutCommit (s : State) : Host.Outcome State Fault Refusal :=
  if s.layout.state ≠ 0 then .next { s with layout := { s.layout with err := 8, eowner := 0 } }
  else
    match s.layoutCheck with
    | some (c, o) => .next { s with layout := { s.layout with err := BitVec.ofNat 8 c, eowner := BitVec.ofNat 4 o, stagelock := false } }
    | none =>
      let hit := (upTo 16).filter fun o => (s.stagedRec o).affects (s.owner o).active
      .next ({ s with layout := { s.layout with state := 1, err := 0, eowner := 0, stagelock := false, affected := hit } } : State).checkPassed

/-- LAYOUT_DISCARD (R61): with a commit in progress the staged copy is locked. -/
def execLayoutDiscard (s : State) : Host.Outcome State Fault Refusal :=
  if s.layout.state ≠ 0 then .next s
  else
    let s1 := (upTo 16).foldl (fun (s : State) o => s.modOwner o fun w => { w with staged := w.active }) s
    .next ((upTo 4).foldl (fun (s : State) p => s.modPool p fun q => { q with staged := q.active }) s1)

/-- An affected owner is idle (R65, R125): nothing of it runs, waits in an inbox or at an engine, and no sweep of its own is running. -/
def State.ownerIdle (s : State) (o : Nat) : Bool :=
  (s.runningCtxs o).isEmpty
    && !(s.ctxs.any fun e => e.2.owner == o && e.2.unacked != 0)
    && !(s.cores.any fun e => e.2.inbox.any fun t => t.owner == o)
    && !(s.porters.any fun p => p.2.records.any fun r => r.2.owner == o && s.coreHeldBy r.1 o)
    && !(s.clusters.any fun e => e.2.tiles.any fun t => t.owner == o && t.engine.isSome)
    && !(s.copies.any fun c => c.owner == o && (c.unacked != 0 || (c.asked && c.got.isNone)))
    && (s.owner o).oldSeed.isNone
    && ((s.stagedRec o).en || !(s.launches.any fun e => e.2.owner == o && decide (e.2.state ≠ .done)))
def State.quiesced (s : State) : Bool := s.layout.affected.all fun o => s.ownerIdle o

/-- The saved contexts of an owner that come back with its held work, but for those of pre-empted launches and those on cores that are not its own now
(R66, R70). -/
def State.backFor (s : State) (o : Nat) : List Instr :=
  let here (e : Nat × Saved) : Bool := match s.coreAgain o e.2 with
    | some c => s.coreOpen c o || isChannel c
    | none => false
  (s.saved.filter fun e =>
    (s.ctx e.1).owner == o && (((s.ctx e.1).task.bind (·.launch)).bind (tget s.launches)).map (·.preempted) != some true && here e).flatMap s.comeBack

/-- Held work of owners goes on (R65, R66). -/
def State.resumeOwners (s : State) (l : List Nat) : State :=
  let calm (e : Nat × Ctx) : Nat × Ctx := if l.contains e.2.owner ∧ e.1 % 16 ≠ 0 then (e.1, { e.2 with saveReq := false }) else e
  let s1 : State := { s with ctxs := s.ctxs.map calm }
  s1.post (l.flatMap s1.backFor ++ (upTo 4).flatMap fun d => Instr.porterSelect d :: l.map fun o => Instr.launchRetry d o)

/-- A line that its owner loses with the staged layout (R65). -/
def State.lineLost (s : State) (c : Nat) (l : LlcLine) : Bool :=
  let r := s.stagedRec l.owner
  let d := r.die (c / 64)
  s.layout.affected.contains l.owner
    && (!r.en || !(decide (d.setbase.toNat ≤ l.set ∧ l.set < d.setbase.toNat + 2 ^ d.pw.toNat) && d.waymask.getLsbD l.way))

/-- The sweep of lost sets and ways (R65): dirty lines are written back, and the lines are invalid. -/
def State.layoutSweep (s : State) : State :=
  s.slices.foldl (fun s e =>
    let lost := e.2.lines.filter fun l => s.lineLost e.1 l
    let s1 := lost.foldl (fun s l => if l.dirty then s.sweepWrite l.owner l.block else s) s
    s1.modSlice e.1 fun k => { k with lines := k.lines.filter fun l => !lost.contains l }) s

/-- The listed cores that the staged layout takes from an owner (R131). -/
def State.coresLost (s : State) : List Nat :=
  (s.cores.map (·.1)).filter fun c => s.layout.affected.any fun o => s.coreLeaves o c

/-- The cores that go to another owner are cleared (R131). -/
def State.clearLost (s : State) : State := s.coresLost.foldl (fun s c => s.clearCore c) s

/-- LAYOUT_QUIESCE_DONE (R65): every affected owner is idle, and the sweep begins; or a Cupboard holds a context that condition 7 forbids, and
the held work resumes with ERR 7. -/
def execLayoutQuiesceDone (s : State) : Host.Outcome State Fault Refusal :=
  if s.layout.state ≠ 2 then .next s
  else
    match s.cupboardLeft with
    | some o =>
      let l := s.layout.affected
      let s1 : State := { s with layout := { s.layout with state := 0, err := 7, eowner := BitVec.ofNat 4 o, affected := [] } }
      .next (s1.resumeOwners l)
    | none =>
      if s.quiesced = false then .next s
      else .next (({ s with layout := { s.layout with state := 3 } } : State).layoutSweep.clearLost.post [.layoutSweepDone])

/-- LAYOUT_SWEEP_DONE (R65, R131): once the write-backs are done, the swap time is broadcast. -/
def execLayoutSweepDone (s : State) : Host.Outcome State Fault Refusal :=
  if s.layout.state ≠ 3 then .next s
  else if (s.layout.affected.any fun o => s.slices.any fun e => s.sweepWrites e.1 o) || s.coresLost.any fun c => !(s.coreCleared c) then
    .next (s.clearLost.postLater [.layoutSweepDone])
  else .next { s with layout := { s.layout with state := 4, swapAt := s.dtc + 2400 } }

/-- One owner's part of a swap (R66, R106, R123): its record, and for a newly enabled owner its SEED. The streams of an owner that is disabled end; those of
an owner that is enabled start then. -/
def State.adopt (s : State) (o : Nat) (r : OwnerRec) : State :=
  let fresh := r.en && !(s.owner o).active.en
  let s1 := if r.en then s else s.restartStreams o
  s1.modOwner o fun w => { w with active := r, seed := if fresh then r.seed else w.seed, oldSeed := if fresh then none else w.oldSeed,
                                  sweeping := if fresh then [] else w.sweeping }

/-- A core's queued continuations of owners that no longer have it go back to the owner's nearest segment. -/
def State.returnConts (s : State) (core : Nat) : State :=
  let gone := (s.core core).conts.filter fun t => !(s.owner t.owner).active.cores.getLsbD core
  gone.foldl (fun s t =>
    match s.nearestCluster t.owner (dieOf core) (clusterOf core % 32) with
    | some cl =>
      let s1 := s.modCore core fun c => { c with conts := dropFirst (fun x => x == t) c.conts }
      s1.setSegment t.owner cl (t :: s1.segment t.owner cl)
    | none => s) s

/-- The pools as a swap leaves them (R60, R68): an owner that is no longer a member holds none. -/
def State.adoptPools (s : State) : State :=
  (upTo 4).foldl (fun (s : State) p => s.modPool p fun q => { q with
    active := q.staged
    current := q.current.bind fun o =>
      let r := (s.owner o).active
      if r.en && r.pooled && r.pool.toNat == p then some o else none }) s

/-- LAYOUT_SWAP (R66): every die adopts the staged layout. ERR keeps what a COMMIT that came meanwhile has left there (DESIGN CHOICE, log 41). -/
def execLayoutSwap (s : State) : Host.Outcome State Fault Refusal :=
  if s.layout.state ≠ 4 ∨ s.dtc ≠ s.layout.swapAt then .next s
  else
    let l := s.layout.affected
    let recs := (upTo 16).map fun o => (o, s.stagedRec o)
    let s1 := recs.foldl (fun (s : State) (e : Nat × OwnerRec) => s.adopt e.1 e.2) s.touchAll
    let s2 := s1.adoptPools
    let gone (e : TlbEntry) : Bool := l.contains e.owner
    let lost := s.coresLost
    let s3 : State := { s2 with
      cores := s2.cores.map (fun e => (e.1, { e.2 with
        tlb := e.2.tlb.filter fun t => !gone t
        windows := if lost.contains e.1 then [] else e.2.windows })),
      clusters := s2.clusters.map (fun e => (e.1, { e.2 with l2tlb := e.2.l2tlb.filter fun t => !gone t })),
      bins := s2.bins.filter fun b => !l.contains (b.1 / 128 % 16),
      layout := { s2.layout with lver := s2.layout.lver + 1, ltick := s.dtc, state := 0, affected := [] } }
    let s4 := (s3.cores.map (·.1)).foldl (fun s c => s.returnConts c) s3
    .next (s4.resumeOwners l)

/-- The members of a pool, ascending (R68). -/
def State.poolMembers (s : State) (p : Nat) : List Nat :=
  (upTo 16).filter fun o => let r := (s.owner o).active; r.en && r.pooled && r.pool.toNat == p

/-- A member has work on the pool (R68): a live or saved context there, a queued task record, or a launch that is held. -/
def State.poolWork (s : State) (o : Nat) : Bool :=
  ((s.runningCtxs o).any fun n => !(isChannel (coreOf n)))
    || (s.saved.any fun e => (s.ctx e.1).owner == o && !(isChannel e.2.core))
    || (s.cores.any fun e => !(isChannel e.1) && (e.2.inbox.any (fun t => t.owner == o) || e.2.conts.any fun t => t.owner == o))
    || (s.porters.any fun e => e.2.records.any fun r => r.2.owner == o)
    || (s.gtq.any fun e => e.1 / 128 == o)
    || (s.launches.any fun e => e.2.owner == o && (match e.2.state with
      | .queued | .reserve | .waiting => true
      | _ => false))

/-- The member whose turn comes after an owner's, among those with work (R68). -/
def State.poolNext (s : State) (p : Nat) (after : Option Nat) : Option Nat :=
  let l := (s.poolMembers p).filter fun o => s.poolWork o && after != some o
  let k := after.getD 0
  match l.find? fun o => decide (k < o) with
  | some o => some o
  | none => l.head?

/-- The cores of an owner. -/
def OwnerRec.coreList (r : OwnerRec) : List Nat := (upTo 1024).filter fun c => r.cores.getLsbD c

/-- A context of the outgoing owner takes SLICEEND (R69): a blocked one at once, where it is blocked on what R69 names. -/
def State.sliceOut (s : State) (n : Nat) : State :=
  let s1 := s.modCtx n fun c => { c with async := { c.async with sliceend := some s.dtc }, sliceSince := some s.dtc }
  let c := s1.ctx n
  match c.state with
  | .blocked _ => if c.sliceReady && c.state.sliceWait then s1.post [.asyncTrap n] else s1
  | _ => s1

/-- POOL_SLICE_END (R65, R68, R69): the next member with work takes over, or the slice is renewed. Slices are suspended while a commit is between CHECK
and the end of SWEEP. -/
def execPoolSliceEnd (p : Nat) (s : State) : Host.Outcome State Fault Refusal :=
  let q := s.pool p
  if q.switching.isSome ∨ (1 ≤ s.layout.state.toNat ∧ s.layout.state.toNat ≤ 3) then .next s
  else
    match q.current with
    | none =>
      match s.poolNext p none with
      | some m => .next ((s.modPool p fun q => { q with switching := some m }).post [.poolSwitchDone p])
      | none => .next s
    | some o =>
      if (s.dtc - q.start).toNat < q.active.toNat then .next s
      else
        match s.poolNext p (some o) with
        | none => .next (s.modPool p fun q => { q with start := s.dtc })
        | some m =>
          let cores := (s.owner o).active.coreList
          let ctxs := (s.runningCtxs o).filter fun n => cores.contains (coreOf n)
          .next ((ctxs.foldl (fun s n => s.sliceOut n) (s.modPool p fun q => { q with switching := some m })).post [.poolSwitchDone p])

/-- A block of a core's local store with its tag written to the owner's save area, and one read from it, in the owner's CHANNEL and LINK slots (R70). -/
def State.storeOut (s : State) (core base o b : Nat) : State :=
  let k := s.core core
  let a := base + 64 * b
  let s1 := ((s.recall a).dropClean (a / 64)).writeHome a (readBlock k.ls (64 * b)) ((tget k.lsTag b).getD 0)
  (s1.blockTo o (corePlace core) (slicePlace (channelOf a))).chargeChannel o a true false
def State.storeIn (s : State) (core base o b : Nat) : State :=
  let a := base + 64 * b
  let (d, t) := s.coherent a
  let s1 := (s.blockFrom o (corePlace core) (slicePlace (channelOf a))).chargeChannel o a false false
  s1.modCore core fun k => { k with
    ls := writeBlock k.ls (64 * b) d, lsTag := tagSet k.lsTag b t }

/-- The windows of an owner on a pool's core, kept between its slices with every block invalid (R70). -/
def windowKey (o core : Nat) : Nat := 2048 * o + core

/-- A cleared core of a pool leaves one owner (R70): its local store is saved, and task records in its inbox go back to the Porter. -/
def State.coreOut (s : State) (o core i : Nat) : State :=
  let base := (s.owner o).active.lssave + 524288 * i
  let kept := (s.core core).windows.map fun e => (e.1, { e.2 with blocks := [] })
  let s2 : State := { s with poolWindows := tset s.poolWindows (windowKey o core) kept }
  let s3 := (upTo 8192).foldl (fun s b => s.storeOut core base o b) s2
  let back := (s3.core core).inbox.filter fun t => t.owner == o
  let s4 := s3.modPorter (dieOf core) fun p => { p with records := (back.map fun t => (core, t)) ++ p.records }
  s4.modCore core fun k => { k with windows := [], inbox := k.inbox.filter fun t => t.owner != o }

/-- A core of a pool comes to another (R70): its local store is loaded, and its task records are on their way to the inbox. -/
def State.coreIn (s : State) (m core i : Nat) : State :=
  let base := (s.owner m).active.lssave + 524288 * i
  let s1 := (upTo 8192).foldl (fun s b => s.storeIn core base m b) s
  let s2 := s1.modCore core fun k => { k with windows := (tget s.poolWindows (windowKey m core)).getD [] }
  let recs := s2.porters.flatMap fun p => p.2.records.filter fun r => r.1 == core && r.2.owner == m
  s2.post (recs.map fun r => Instr.inboxRecordArrive r.1 r.2)

/-- Every core of the pool is free of the outgoing owner's contexts and of its running tile task (R70). -/
def State.poolFree (s : State) (o : Nat) : Bool :=
  let cores := (s.owner o).active.coreList
  ((s.runningCtxs o).filter fun n => cores.contains (coreOf n)).isEmpty
    && !(s.clusters.any fun e => e.2.tiles.any fun t => t.owner == o && t.engine.isSome && cores.contains t.core)

/-- The cores of a pool's outgoing owner are cleared (R70, R131). -/
def State.clearPool (s : State) (o : Nat) : State :=
  ((s.owner o).active.coreList.filter fun c => (tget s.cores c).isSome).foldl (fun (s : State) c => s.clearCore c) s

/-- The member that comes in (R68, R70): its slice begins, its local store is loaded, and what it had saved comes back. -/
def State.poolIn (s : State) (p m : Nat) : State :=
  let s1 := s.modPool p fun q => { q with current := some m, switching := none, start := s.dtc }
  let s2 := ((s1.owner m).active.coreList.zipIdx).foldl (fun (s : State) (c : Nat × Nat) => s.coreIn m c.1 c.2) s1
  (s2.post (s2.backFor m ++ (upTo 4).map fun d => Instr.porterSelect d)).checkPassed

/-- POOL_SWITCH_DONE (R70): the outgoing owner's contexts are out; its cores are cleared, and the switch completes when every write of them has been
acknowledged. -/
def execPoolSwitchDone (p : Nat) (s : State) : Host.Outcome State Fault Refusal :=
  let q := s.pool p
  match q.switching, q.current with
  | none, _ => .next s
  | some m, none => .next (s.poolIn p m)
  | some m, some o =>
    if s.poolFree o = false then .next s
    else
      let cores := (s.owner o).active.coreList
      let s1 := s.clearPool o
      if cores.any fun c => !(s1.coreCleared c) then .next s1
      else .next ((cores.zipIdx.foldl (fun (s : State) (c : Nat × Nat) => s.coreOut o c.1 c.2) s1).poolIn p m)

end Sys2Proof.Machine
end

