-- ==== Sys2Proof/Machine/Registers.lean ====
section
/-!
DEFINITION. The host's regions (R36 to R41, R47, R58 to R61, R67): the registers of BAR 0 and BAR 4 as they are read and written, the device memory window, and
the same in MLD mode.
-/

namespace Sys2Proof.Machine

/-- A word of an owner record as it is written (R59): reserved bits are stored as zero. -/
def OwnerRec.put (r : OwnerRec) (o off : Nat) (v : Word) : OwnerRec :=
  let die (n : Nat) (f : DieRec → DieRec) : OwnerRec := { r with dies := r.dies.setIfInBounds n (f (r.die n)) }
  if off = 0 then { r with en := o == 0 || v.getLsbD 0, pooled := v.getLsbD 1, pool := v.extractLsb' 2 2, preempt := v.getLsbD 4, nvcp := v.extractLsb' 8 8 }
  else if off = 0x08 then { r with lpframes := v.extractLsb' 0 24, wsframes := v.extractLsb' 32 16 }
  else if off = 0x10 then { r with seed := v }
  else if off = 0x18 then { r with s2base := 65536 * wbits v 47 16 }
  else if off < 0x40 then die ((off - 0x20) / 8) fun d => { d with
    setbase := v.extractLsb' 0 11, pw := v.extractLsb' 12 4, waymask := v.extractLsb' 16 16, tagq := v.extractLsb' 32 7,
    chctx := v.extractLsb' 40 4, copyq := v.extractLsb' 44 13 }
  else if off < 0x60 then die ((off - 0x40) / 8) fun d => { d with dieq := (v.extractLsb' 0 56) &&& 0x7F7F7F7F7F7F7F }
  else if off = 0x60 then { r with lssave := 65536 * wbits v 47 16 }
  else if 0x80 ≤ off ∧ o ≠ 0 then
    let i := (off - 0x80) / 8
    let m : BitVec 1024 := BitVec.ofNat 1024 (2 ^ (64 * i) * (2 ^ 64 - 1))
    { r with cores := (r.cores &&& ~~~m) ||| BitVec.ofNat 1024 (2 ^ (64 * i) * v.toNat) }
  else r

/-- A record's part of a die as it is read (R59). -/
def DieRec.word (d : DieRec) : Word :=
  w64 (d.setbase.toNat + 2 ^ 12 * d.pw.toNat + 2 ^ 16 * d.waymask.toNat + 2 ^ 32 * d.tagq.toNat + 2 ^ 40 * d.chctx.toNat + 2 ^ 44 * d.copyq.toNat)

/-- A word of an owner record as it is read (R59): SEED reads 0. -/
def OwnerRec.word (r : OwnerRec) (off : Nat) : Word :=
  if off = 0 then flag r.en + 2 * flag r.pooled + w64 (4 * r.pool.toNat + 256 * r.nvcp.toNat) + 16 * flag r.preempt
  else if off = 0x08 then w64 (r.lpframes.toNat + 2 ^ 32 * r.wsframes.toNat)
  else if off = 0x18 then w64 r.s2base
  else if 0x20 ≤ off ∧ off < 0x40 then (r.die ((off - 0x20) / 8)).word
  else if 0x40 ≤ off ∧ off < 0x60 then (r.die ((off - 0x40) / 8)).dieq.setWidth 64
  else if off = 0x60 then w64 r.lssave
  else if 0x80 ≤ off then r.cores.extractLsb' (8 * (off - 0x80)) 64
  else 0

/-- A word of the function control page (R41); FEAT_COMMIT reads 0. -/
def Owner.featWord (w : Owner) (off : Nat) : Word :=
  if off = 0 then w.offer.extractLsb' 0 64
  else if off = 0x08 then w.offer.extractLsb' 64 64
  else if off = 0x10 then w.accept.extractLsb' 0 64
  else if off = 0x18 then w.accept.extractLsb' 64 64
  else if off = 0x28 then w.featState.setWidth 64
  else 0

/-- A word of BAR 0 (R36, R39, R41): NOTIFY reads as STATUS, or as 0 where the VCP's entry is not valid; the remaining pages read as zero. -/
def State.bar0Word (s : State) (fn off : Nat) : Word :=
  if off < 0x400000 then
    let q := s.vcp fn (off / 65536)
    if off % 65536 = 0 ∧ q.valid then q.status else 0
  else if off < 0x410000 then (s.owner fn).featWord (off - 0x400000)
  else 0

/-- A word of the layout control registers (R61). -/
def Layout.word (l : Layout) (off : Nat) : Word :=
  if off = 0 then l.lver.setWidth 64
  else if off = 0x10 then w64 (l.state.toNat + 2 ^ 8 * l.err.toNat + 2 ^ 16 * l.eowner.toNat) + 2 ^ 20 * flag l.stagelock
  else if off = 0x18 then l.ltick
  else 0

/-- A word of the shadow QCB table (R47). -/
def Vcp.word (q : Vcp) (off : Nat) : Word :=
  if off = 0 then q.w0 else if off = 0x08 then q.w1 else if off = 0x10 then flag q.valid else 0

/-- A word of BAR 4 (R47, R58, R60, R61): the staged and the active records, the layout control, and the shadow QCB table; every other word reads as zero
(DESIGN CHOICE, log 43). -/
def State.bar4Word (s : State) (off : Nat) : Word :=
  if 0x10000 ≤ off ∧ off < 0x11000 then (s.stagedRec ((off - 0x10000) / 256)).word (off % 256)
  else if 0x11000 ≤ off ∧ off < 0x11100 ∧ off % 64 = 0 then (s.pool ((off - 0x11000) / 64)).staged.setWidth 64
  else if 0x20000 ≤ off ∧ off < 0x21000 then (s.owner ((off - 0x20000) / 256)).active.word (off % 256)
  else if 0x21000 ≤ off ∧ off < 0x21100 ∧ off % 64 = 0 then (s.pool ((off - 0x21000) / 64)).active.setWidth 64
  else if 0x30000 ≤ off ∧ off < 0x30020 then s.layout.word (off - 0x30000)
  else if 0x40000 ≤ off ∧ off < 0x50000 then
    let k := (off - 0x40000) / 64
    (s.vcp (k / 64) (k % 64)).word (off % 64)
  else 0

/-- A word of a region of registers: BAR 0 of a function, or BAR 4. -/
def State.barWord (s : State) (fn bar off : Nat) : Word := if bar = 0 then s.bar0Word fn off else s.bar4Word off

/-- The step of its own that a write to a register has, if it has one. -/
def registerStep (fn bar off : Nat) (val : Word) : Option Instr :=
  if bar = 0 then
    if off < 0x400000 then (if off % 65536 = 0 then some (.notify fn (off / 65536)) else none)
    else if off = 0x400020 then some (.featCommit fn val)
    else none
  else if bar = 4 then
    if off = 0x30008 then
      (match wbits val 1 0 with
      | 1 => some .layoutCommit
      | 2 => some .layoutDiscard
      | _ => none)
    else if 0x40000 ≤ off ∧ off < 0x50000 then
      let k := (off - 0x40000) / 64
      some (.shadowQcbWrite (k / 64) (k % 64) (off % 64 / 8) val)
    else none
  else none

/-- A staged register written: with a commit in progress the write is ignored and STAGELOCK is set (R61). -/
def State.stage (s : State) (f : State → State) : State :=
  if s.layout.state = 0 then f s else { s with layout := { s.layout with stagelock := true } }

/-- A register with no step of its own written (R36, R41, R58 to R61): FEAT_ACCEPT until its commit, and the staged records; every other write is ignored. A
PSLICE below its range is stored and used as it is (DESIGN CHOICE, log 6). -/
def State.registerPut (s : State) (fn bar off : Nat) (val : Word) : State :=
  if bar = 0 ∧ (off = 0x400010 ∨ off = 0x400018) then
    let i := 64 * ((off - 0x400010) / 8)
    let m : BitVec 128 := BitVec.ofNat 128 (2 ^ i * (2 ^ 64 - 1))
    if (s.owner fn).featState = 1 then s
    else s.modOwner fn fun w => { w with accept := (w.accept &&& ~~~m) ||| BitVec.ofNat 128 (2 ^ i * val.toNat) }
  else if bar = 4 ∧ 0x10000 ≤ off ∧ off < 0x11000 then
    let o := (off - 0x10000) / 256
    s.stage fun s => s.modOwner o fun w => { w with staged := w.staged.put o (off % 256 / 8 * 8) val }
  else if bar = 4 ∧ 0x11000 ≤ off ∧ off < 0x11100 ∧ off % 64 = 0 then
    s.stage fun s => s.modPool ((off - 0x11000) / 64) fun q => { q with staged := val.extractLsb' 0 32 }
  else s

/-- The host's configuration (R36, R67): bar 6 stands for a function's Resizable BAR capability, which sets 2^val bytes, and bar 7 for the enabling of virtual
functions, in MLD mode the fabric manager's binding of logical devices: val's bit n is that of number n (log 43). -/
def State.configPut (s : State) (fn bar : Nat) (val : Word) : State :=
  if bar = 6 ∧ s.mld = false ∧ 28 ≤ val.toNat ∧ val.toNat ≤ 40 then { s with barSize := tset s.barSize fn (2 ^ val.toNat) }
  else if bar = 7 ∧ s.mld = false ∧ fn = 0 then { s with functions := val.extractLsb' 0 16 ||| 1 }
  else if bar = 7 ∧ s.mld ∧ fn = 16 then { s with functions := val.extractLsb' 0 16 }
  else s

/-- The region of registers that an access of a function reaches, with its offset there (R36, R38, R58, R67): in MLD mode BAR 0 opens a logical device's CXL.mem
range, and only the fabric manager and the platform owner reach the mailbox; in recovery it alone answers (R35). -/
def State.registerArea (s : State) (fn bar off : Nat) : Option (Nat × Nat) :=
  if bar = 4 then (if off < 0x100000 ∧ (fn = 0 ∨ (s.mld ∧ fn = 16)) then some (4, off) else none)
  else if s.recovery ∨ s.functions.getLsbD fn = false then none
  else if s.mld then (if bar = 2 ∧ off < 0x800000 then some (0, off) else none)
  else if bar = 0 ∧ off < 0x800000 then some (0, off)
  else none

/-- A register write that reaches its region: its own step, or a value stored. In recovery no firmware takes it (DESIGN CHOICE, log 43). -/
def State.registerWritten (s : State) (fn bar off : Nat) (val : Word) : State :=
  if s.recovery then s
  else
    match registerStep fn bar off val with
    | some i => s.post [i]
    | none => s.registerPut fn bar off val

/-- REGISTER_WRITE (R31, R32, R36 to R38, R58). -/
def execRegisterWrite (fn bar off : Nat) (val : Word) (s : State) : Host.Outcome State Fault Refusal :=
  if s.link 20 = .retraining then .next (s.postLater [.registerWrite fn bar off val])
  else if s.link 20 = .fenced ∨ s.stopped then .next s
  else if 6 ≤ bar then .next (s.configPut fn bar val)
  else
    match s.registerArea fn bar off with
    | some (b, x) => .next (s.registerWritten fn b x val)
    | none => .next s

/-- The device memory that a function reaches: BAR 2 (R36), of 256 MiB until the Resizable BAR capability sets another size (log 6), or a logical device's capacity
(R67). -/
def State.capacity (s : State) (o : Nat) : Nat := if (s.owner o).active.en then 65536 * (s.owner o).active.lpframes.toNat else 0
def State.window (s : State) (fn : Nat) : Nat := if s.mld then s.capacity fn else (tget s.barSize fn).getD (2 ^ 28)

/-- The offset of an access into the function's device memory: in MLD mode it follows the register area (R38). -/
def State.memoryOffset (s : State) (a : HostAccess) : Option Nat :=
  if a.bar ≠ 2 then none
  else if s.mld then (if 0x800000 ≤ a.offset then some (a.offset - 0x800000) else none)
  else some a.offset

/-- The physical address of an offset of device memory in a frame that the owner may use (R36, R37): the offset itself on the physical function, and an
intermediate physical address on the others (in MLD mode on every logical device but owner 0's, log 43). -/
def State.hostFrame (s : State) (o x : Nat) (write : Bool) : Option Nat × State :=
  if o = 0 then
    match frameOf x with
    | some f =>
      let e := s.fotAt f
      (if fotCheck e 0 write (e.extractLsb' 5 2) = .ok then some x else none, s)
    | none => (none, s)
  else s.ipaTarget o x write

/-- The physical address that a host access reaches (R36 to R38, R154): checked against the frame ownership table like any fill. A write to the weight store needs
the owner's write window. -/
def State.hostTarget (s : State) (a : HostAccess) : Option Nat × State :=
  match s.memoryOffset a with
  | none => (none, s)
  | some x =>
    if (s.owner a.owner).active.en = false ∨ s.functions.getLsbD a.owner = false ∨ s.recovery ∨ s.window a.owner < x + a.size then (none, s)
    else
      match s.hostFrame a.owner x a.write with
      | (some pa, s1) =>
        (match regionOf pa with
        | .weight d => if a.write ∧ !((s.porter d).windowOpen.contains a.owner) then none else some pa
        | .lp6 => some pa
        | _ => none, s1)
      | (none, s1) => (none, s1)

/-- A register access of the host (R36): what is read, or the word that results from a write, at the eight-byte word that the access lies in. -/
def State.hostRegister (s : State) (a : HostAccess) (bar x : Nat) : State :=
  let k := x % 8
  let old := s.barWord a.owner bar (x - k)
  if a.write then
    let m : Word := w64 ((2 ^ (8 * a.size) - 1) * 2 ^ (8 * k))
    s.registerWritten a.owner bar (x - k) ((old &&& ~~~m) ||| (w64 (a.data.toNat * 2 ^ (8 * k)) &&& m))
  else { s with hostAnswer := some (w64 (old.toNat / 2 ^ (8 * k) % 2 ^ (8 * a.size))) }

/-- The unit whose place a host access takes on the mesh: the rules give the host port no router (log 43). -/
def hostUnit : Nat := porterCore 0

/-- HOST_BAR2_ACCESS (R31, R32, R36 to R39, R41, R58, R67): the last answer to the host is kept; an Unsupported Request has none. -/
def execHostBar2Access (a : HostAccess) (s : State) : Host.Outcome State Fault Refusal :=
  if s.link 20 = .retraining then .next (s.postLater [.hostBar2Access a])
  else if s.link 20 = .fenced ∨ s.stopped then .next { s with hostAnswer := none }
  else
    match s.registerArea a.owner a.bar a.offset with
    | some (bar, x) => .next (s.hostRegister a bar x)
    | none =>
      match s.hostTarget a with
      | (none, s1) => .next { s1.report (.badHostAccess a.owner a.offset) with hostAnswer := none }
      | (some pa, s1) =>
        if a.write then
          .next ((s1.slotUpdate a.owner hostUnit (16 * hostUnit) pa false fun d t =>
            (mergeBytes d (placeBytes (pa % 64) a.data.toNat) (rangeMask (pa % 64) a.size), t)).checkBlock pa)
        else
          let v := w64 (blockBytes (s1.coherent pa).1 (pa % 64) a.size)
          .next { s1.slotTouch a.owner hostUnit (16 * hostUnit) pa false false with hostAnswer := some v }

end Sys2Proof.Machine
end

