-- ==== Sys2Proof/Machine/Package.lean ====
section
/-!
DEFINITION. The package: its links (R31, R32), power and heat (R33), and device reset (R16, R34, R35). Links 0 to 3 are those of the die
square, 4 + p is peer port p, and 20 is the host port (the model's own numbers).
-/

namespace Sys2Proof.Machine

/-- One more error counted at a link (R31). -/
def State.linkError (s : State) (l : Nat) : State := { s with linkErrors := tset s.linkErrors l ((tget s.linkErrors l).getD 0 + 1) }

/-- A link's state set. -/
def State.setLink (s : State) (l : Nat) (st : LinkState) : State :=
  { s with links := if st = .up then tdel s.links l else tset s.links l st }

/-- A link fenced off (R32): a management event, and a peer port leaves every candidate list. -/
def State.fenceLink (s : State) (l : Nat) : State :=
  let s1 := (s.setLink l .fenced).report (.linkFenced l)
  if 4 ≤ l ∧ l < 20 then s1.fencePort (l - 4) else s1

/-- LINK_CRC_REPLAY (R31): a transient error, counted. -/
def execLinkCrcReplay (l : Nat) (s : State) : Host.Outcome State Fault Refusal := .next (s.linkError l)

/-- LINK_RETRAIN (R31): the link's traffic is held while it retrains: its LINK or PEER slots serve nothing, and what the host sends waits. -/
def execLinkRetrain (l : Nat) (s : State) : Host.Outcome State Fault Refusal :=
  if s.link l = .fenced then .next s else .next ((s.linkError l).setLink l .retraining)

/-- LINK_RETRAIN_END (R31, R32). -/
def execLinkRetrainEnd (l : Nat) (ok : Bool) (s : State) : Host.Outcome State Fault Refusal :=
  if s.link l ≠ .retraining then .next s
  else .next (if ok then s.setLink l .up else s.fenceLink l)

/-- Held launches are looked at again. -/
def State.release (s : State) : State :=
  s.post ((upTo 4).flatMap fun d => Instr.porterSelect d :: (upTo 16).map fun o => Instr.launchRetry d o)

/-- POWER_CAP_HOLD (R33): new launches are held while the average power exceeds the cap. -/
def execPowerCapHold (on : Bool) (s : State) : Host.Outcome State Fault Refusal :=
  let s1 : State := { s with powerHold := on }
  .next (if on then s1 else s1.release)

/-- THERMAL_EVENT (R33). -/
def execThermalEvent (s : State) : Host.Outcome State Fault Refusal := .next (s.report .thermal)

/-- THERMAL_STOP (R33): all four dies stop until a device reset. -/
def execThermalStop (s : State) : Host.Outcome State Fault Refusal := .next { s with stopped := true }

/-- A signed item is accepted (R34): both signatures verify, against the keys whose digests are fused. -/
def Fuses.accepts (f : Fuses) (i : Signed) : Bool := i.edOk && i.mlOk && i.edKey == f.edKey && i.mlKey == f.mlKey

/-- A firmware image is accepted (R35): its security version is not below the fused counter. -/
def Fuses.boots (f : Fuses) (i : Signed) : Bool := f.accepts i && decide (f.version ≤ i.version)

/-- The firmware image that boots (R35): the primary one, else the secondary one. -/
def Fuses.image (f : Fuses) (b : BootOutcome) : Option Signed :=
  if f.boots b.primary then some b.primary else if f.boots b.secondary then some b.secondary else none

/-- Memory as step 5 leaves it (R35): every weight store is clear; other memory is not written (log 6). -/
def bootMem (m : List Host.Cell) : List Host.Cell := m.filter fun c => match regionOf c.1 with
  | .weight _ => false
  | _ => true

/-- The frames with a block of an absent channel are marked POISON, and those that only channels absent before took away are returned (R35). -/
def State.poisonAbsent (s : State) (before : List Nat) : State :=
  let mark (s : State) (f : Nat) : State :=
    if absentFrame s.absent f then s.setFot f (s.fotAt f ||| 0x100)
    else if absentFrame before f then s.setFot f (s.fotAt f &&& 0xFEFF)
    else s
  if s.absent.isEmpty && before.isEmpty then s else (upTo 15728640).foldl mark s

/-- The trained ports of a die that reach a destination (R28). -/
def bootPorts (b : BootOutcome) (die dev : Nat) : List Nat :=
  ((upTo 4).map fun k => 4 * die + k).filter fun p => b.topology.contains (p, dev) && !(b.failedLinks.contains (4 + p))

/-- The mask of a list of a die's ports (R28). -/
def portMask (l : List Nat) : Nat := l.foldl (fun m p => m + 2 ^ (p % 4)) 0

/-- PEERMAP as firmware writes it (R28): the distinct port sets of a die are numbered in ascending order of their masks, and the destinations reached through the same ports
share one list. -/
def bootPeermap (b : BootOutcome) : Tbl (List Nat) :=
  let devs := (b.topology.map (·.2)).foldl addNew []
  let die (t : Tbl (List Nat)) (d : Nat) : Tbl (List Nat) :=
    let masks := (upTo 16).filter fun m => m != 0 && devs.any fun v => portMask (bootPorts b d v) == m
    masks.zipIdx.foldl (fun (t : Tbl (List Nat)) (e : Nat × Nat) =>
      let t1 := tset t (4096 + 16 * d + e.2) (((upTo 4).filter fun k => e.1.testBit k).map fun k => 4 * d + k)
      (devs.filter fun v => portMask (bootPorts b d v) == e.1).foldl (fun (t : Tbl (List Nat)) v => tset t (1024 * d + v) [e.2]) t1) t
  (upTo 4).foldl die []

/-- The owner records of the boot layout (R59, R383): those that the signed configuration states, or, where it states none, the one as shipped, with every usable frame. -/
def bootRecord (b : BootOutcome) (usable o : Nat) : OwnerRec :=
  if b.layout.isEmpty then (if o = 0 then { OwnerRec.boot with lpframes := BitVec.ofNat 24 usable } else OwnerRec.zero)
  else
    let r := (tget b.layout o).getD OwnerRec.zero
    if o = 0 then
      let taken := b.layout.foldl (fun (m : BitVec 1024) e => if e.1 ≠ 0 ∧ e.2.en then m ||| e.2.cores else m) 0
      { r with en := true, cores := ~~~taken }
    else r

/-- An owner as boot leaves it (R41, R106, R383). -/
def bootOwner (b : BootOutcome) (usable o : Nat) : Owner :=
  let r := bootRecord b usable o
  { Owner.reset r with seed := if r.en then r.seed else 0, offer := b.offer &&& 0x7FF }

/-- The pools as boot leaves them (R60, R383). -/
def bootPools (b : BootOutcome) : Tbl Pool :=
  b.pslices.zipIdx.map fun e => (e.2, { Pool.reset with active := e.1, staged := e.1 })

/-- DEVICE_RESET (R16, R28, R30, R34, R35, R383): with no image accepted the device stays in recovery; otherwise it ends with FEAT_OFFER published, and with links
and ports that did not train fenced, and channels that did not train absent. -/
def execDeviceReset (b : BootOutcome) (s : State) : Host.Outcome State Fault Refusal :=
  let base : State := { State.reset with
    fresh := s.fresh, deviceIndex := s.deviceIndex, choice := s.choice, fuses := s.fuses, mem := s.mem, tags := s.tags }
  match s.fuses.image b with
  | none => .next { base with recovery := true, events := [.recovery] }
  | some i =>
    let s1 : State := { base with
      dtc := b.dtc, boot := b.dtc, mem := bootMem s.mem, tags := [], tvecF := b.tvecF, fotBase := b.fotBase, mld := b.mld, absent := b.absentChannels
      peermap := bootPeermap b, measurements := [i.digest]
      identity := if s.fuses.accepts b.identity then some b.identity.digest else none }
    let n := s1.usableFrames
    let s2 : State := { s1.poisonAbsent s.absent with owners := (upTo 16).map fun o => (o, bootOwner b n o), pools := bootPools b }
    let s3 := b.absentChannels.foldl (fun s c => s.report (.absentChannel c n)) s2
    .next (b.failedLinks.foldl (fun s l => s.fenceLink l) s3)

end Sys2Proof.Machine
end

