-- ==== Sys2Proof/Machine/Tick.lean ====
section
/-!
DEFINITION. DTC_TICK (R3): the counter advances, and what is due in the new cycle is posted: slots and frames, timers, and what waits to be
tried again (log 2).
-/

namespace Sys2Proof.Machine

/-- The slot of an instance that begins at a time, and its frame (R23, R112, R116): only instances with a pending request have any. -/
def Resource.due (k j : Nat) (r : Resource) (t : Nat) : List Instr :=
  let at_ := t % frameLength k
  let slot := at_ / slotLength k
  if r.queue.isEmpty ∨ at_ % slotLength k ≠ 0 then []
  else
    let start : List Instr := if at_ = 0 then [.frameStart k j] else []
    let refresh : List Instr := if k = 5 ∧ t % 153600 = 2400 * (j % 64) then [.wstoreRefresh (j / 64) (j % 64)] else []
    let serve : List Instr :=
      if k = 1 then (if slot = 64 then [.channelRefreshSlot j] else [.channelSlot j slot .good])
      else if k = 5 ∧ inRefresh (j % 64) t then []
      else [.slotServe k j slot]
    start ++ refresh ++ serve

/-- An instance's link retrains (R31): its traffic is held, and its slots pass with nothing served and nothing drawn (log 18). -/
def State.slotsHeld (s : State) (k j : Nat) : Bool :=
  (decide (k = 2 ∧ 4096 ≤ j) && s.link ((j - 4096) / 2) == .retraining) || (decide (k = 6) && s.link (4 + j / 2) == .retraining)
def State.resourcesDue (s : State) : List Instr :=
  s.resources.flatMap fun e =>
    let k := e.1 / 65536
    let j := e.1 % 65536
    let due := e.2.due k j s.dtc.toNat
    if s.slotsHeld k j then due.filter fun i => i == .frameStart k j else due

/-- The leader of a context's gang no longer runs: what is left in a follower's buffer is all that it will run. -/
def State.leaderGone (s : State) (g : Gang) : Bool :=
  !(s.ctxs.any fun e => (match e.2.gang with
    | some h => h.id == g.id && h.leader
    | none => false) && (match e.2.state with
    | .live | .blocked _ => true
    | _ => false))

/-- A follower with nothing left to run whose save has been asked for (R204). -/
def State.idleFollower (s : State) (c : Ctx) : Bool :=
  match c.gang with
  | some g => g.attached && !g.leader && c.buffer.isEmpty && c.held.isNone && s.leaderGone g
  | none => false

/-- What is due for a context: its limits, its times, a trap that a blocked context takes at once, and saves (R69, R194, R204, R206, R209, R350). -/
def State.ctxDue (s : State) (n : Nat) (c : Ctx) : List Instr :=
  let limit : List Instr := if c.expired s.dtc then [.waitlimExpire n] else []
  let time : List Instr := match c.state with
    | .blocked (.waitt t) => if t.toNat ≤ s.dtc.toNat then [.waittWake n] else []
    | _ => []
  let blocked : Bool := match c.state with
    | .blocked _ => true
    | _ => false
  let trap : List Instr := if blocked && c.sliceReady && c.state.sliceWait && !c.ecause.getLsbD 10 then [.asyncTrap n] else []
  let slice : List Instr := match c.sliceSince with
    | some t => if 100000 ≤ (s.dtc - t).toNat ∧ (c.state = .live ∨ c.state.savable) then [.sliceendForceSave n] else []
    | none => []
  let save : List Instr :=
    if c.saveReq ∧ c.retryAt.isNone ∧ (c.state.savable ∨ (c.state = .live ∧ s.idleFollower c)) then [.forcedSave n] else []
  let retry : List Instr := match c.retryAt, c.state with
    | some t, .live | some t, .blocked _ => if t ≤ s.dtc then [.cupboardRetry (coreOf n)] else []
    | _, _ => []
  limit ++ time ++ trap ++ slice ++ save ++ retry
def State.ctxsDue (s : State) : List Instr :=
  s.ctxs.flatMap fun e => if coreOf e.1 < 1280 then s.ctxDue e.1 e.2 else []

/-- What is due for a launch (R52, R72, R75, R102). -/
def State.launchDue (s : State) (l : Launch) : List Instr :=
  let wait := (s.dtc - l.since).toNat
  (if l.late s.dtc then [.launchDeadlineExpire l.id] else [])
    ++ (if l.ages ∧ wait ≠ 0 ∧ wait % 240000 = 0 then [.launchAge l.id] else [])
    ++ (if l.state = .waiting ∧ l.victims ≠ [] then (if s.victimsGone l then [.preemptSavesDone l.id] else s.askVictims l.victims) else [])

/-- The core of a cluster that takes the head of an owner's segment (R96): it holds fewer than eight of the owner's records; the shortest queue,
then the lowest number. -/
def State.segmentTaker (s : State) (o cl : Nat) : Option Nat :=
  let l := ((upTo 8).map fun m => 8 * cl + m).filter fun c =>
    decide (s.contCount c o < 8) && decide ((s.core c).conts.length < 32) && s.coreOpen c o
  l.find? fun c => l.all fun d => decide ((s.core c).conts.length ≤ (s.core d).conts.length)
def State.segmentsDue (s : State) : List Instr :=
  s.gtq.filterMap fun e => (s.segmentTaker (e.1 / 128) (e.1 % 128)).map fun c => .gtqSegmentTake c (e.1 / 128)

/-- What is due for the layout commit and the pools (R65, R66, R68, R70). -/
def State.layoutDue (s : State) : List Instr :=
  match s.layout.state.toNat with
  | 2 =>
    let more := s.layout.affected.flatMap fun o =>
      if (s.stagedRec o).en then (s.runningCtxs o).filterMap fun n => if (s.ctx n).saveReq then none else some (Instr.preemptRequest n) else []
    more ++ (if s.quiesced || s.cupboardLeft.isSome then [.layoutQuiesceDone] else [])
  | 4 => if s.dtc = s.layout.swapAt then [.layoutSwap] else []
  | _ => []
def State.poolDue (s : State) (p : Nat) : List Instr :=
  let q := s.pool p
  match q.switching, q.current with
  | some _, some o => if s.poolFree o then [.poolSwitchDone p] else []
  | some _, none => [.poolSwitchDone p]
  | none, none => if (s.poolNext p none).isSome then [.poolSliceEnd p] else []
  | none, some _ => if q.active.toNat ≤ (s.dtc - q.start).toNat then [.poolSliceEnd p] else []

/-- What is due for a VCP (R46, R49, R50). -/
def State.vcpDue (s : State) (o v : Nat) (q : Vcp) : List Instr :=
  match q.wait with
  | some c => (if (s.waitCheck c).1 ≠ .no then [.waitMet c] else []) ++ (if c.late s.dtc then [.waitTimeout c] else [])
  | none => if q.valid ∧ q.run ∧ q.armed ∧ (q.indirect.isSome ∨ q.cons ≠ q.prod) then [.vcpTakeRecord o v] else []

/-- What is due for the holds of migrated pages (R156). -/
def State.holdsDue (s : State) : List Instr :=
  s.migrations.filterMap fun m => match m.until_ with
    | some t => if t ≤ s.dtc then some (.migrationHoldExpire m.key) else none
    | none => none

/-- The retries of refused waits whose time has come (R119). -/
def State.retriesDue (s : State) : List Instr :=
  (s.backoffs.filter fun e => decide (e.1 ≤ s.dtc)).map fun e => .benchBackoffRetry e.2

/-- Every step of the hardware that a new cycle brings, beside the slots. -/
def State.due (s : State) : List Instr :=
  s.ctxsDue ++ (s.launches.flatMap fun e => s.launchDue e.2) ++ s.segmentsDue
    ++ (if s.dtc.toNat % 4800 = 0 then [.diffusionTick] else [])
    ++ s.layoutDue ++ (upTo 4).flatMap s.poolDue
    ++ (s.vcps.flatMap fun e => s.vcpDue (e.1 / 64) (e.1 % 64) e.2) ++ s.holdsDue ++ s.retriesDue

/-- The cores that have anything listed. -/
def State.busyCores (s : State) : List Nat :=
  (s.cores.map (·.1) ++ s.ctxs.map fun e => coreOf e.1).foldl (fun l c => if c < 1280 then addNew l c else l) []

/-- The micro-kernels of the cores, REAPs whose helper has ended, and continuations that wait for room (R96, R353, log 4). -/
def State.kernels (s : State) : State :=
  s.busyCores.foldl (fun s c => ((s.kernelStep c).reapStep c).contStep c) s

/-- Slots of copy engines and tile schedulers asked for (R99, R347). -/
def State.askTile (s : State) (cl o : Nat) : State :=
  let can := (s.cluster cl).tiles.any fun t => s.tileStartable cl o t
  let queued := (s.resource 3 cl).queue.any fun q => q.owner == o
  if can && !queued then s.request 3 cl o [.tileSlot cl o] else s
def State.askEngines (s : State) : State :=
  let s1 := s.copies.foldl (fun s c => s.askCopy (8 * dieOf c.core + c.core % 8) c.owner) s
  s1.clusters.foldl (fun s e => e.2.tiles.foldl (fun s t => s.askTile e.1 t.owner) s) s1

/-- A wait that ends with no message of its own: what it is for is looked at when a slot could be taken (R188). -/
def Wait.polled : Wait → Bool
  | .queue _ | .rangeLock _ | .copyQueue | .tileShare | .applyPlace | .segment | .sopen _ | .gform | .gjoin _ | .endTask | .reseed
  | .channelCore _ | .homeProducers | .fill _ | .walk | .release | .fence | .tlbsync => true
  | _ => false
def CtxState.tries : CtxState → Bool
  | .live => true
  | .blocked w => w.polled
  | _ => false

/-- The cores with a slot to give in this cycle (R189). -/
def State.liveCores (s : State) : List Nat :=
  s.ctxs.foldl (fun l e => if e.2.state.tries && decide (coreOf e.1 < 1280) then addNew l (coreOf e.1) else l) []

/-- The nests and launches at a cycle's end: faults climb, idle FARM instances take items, and launches that are done complete (R92, R94, R226). -/
def State.nests (s : State) : State :=
  let s1 := s.faultStep.farmStep
  (s1.launches.map (·.1)).foldl (fun s id => s.tryFinish id) s1

/-- DTC_TICK (R3, R188): one cycle ends and the next begins. The slots of the new cycle are those of the requests that stand before it (R114). A step that is
still in flight is not posted again. -/
def execDtcTick (s : State) : Host.Outcome State Fault Refusal :=
  let s0 : State := { s with dtc := s.dtc + 1 }
  let slots := s0.resourcesDue
  let s1 := s0.kernels.nests.askEngines
  let s2 := s1.post ((slots ++ s1.due ++ s1.later).filter fun i => !s1.agenda.contains i)
  .next { s2 with dtc := s.dtc + 1, later := [], tried := [], slots := if s.stopped then [] else s2.liveCores }

end Sys2Proof.Machine
end

