-- ==== Sys2Proof/Machine/Dispatch.lean ====
section
/-!
DEFINITION. One arm for each constructor of Instr: a direct call of its meaning.
-/

namespace Sys2Proof.Machine

def exec (i : Instr) (s : State) : Host.Outcome State Fault Refusal :=
  match i with
  | .dtcTick => Sys2Proof.Machine.execDtcTick s
  | .deviceReset b => Sys2Proof.Machine.execDeviceReset b s
  | .linkCrcReplay l => Sys2Proof.Machine.execLinkCrcReplay l s
  | .linkRetrain l => Sys2Proof.Machine.execLinkRetrain l s
  | .linkRetrainEnd l ok => Sys2Proof.Machine.execLinkRetrainEnd l ok s
  | .powerCapHold on => Sys2Proof.Machine.execPowerCapHold on s
  | .thermalEvent => Sys2Proof.Machine.execThermalEvent s
  | .thermalStop => Sys2Proof.Machine.execThermalStop s
  | .channelSlot j slot err => Sys2Proof.Machine.execChannelSlot j slot err s
  | .channelRefreshSlot j => Sys2Proof.Machine.execChannelRefreshSlot j s
  | .lp6ReadRepeat j r err => Sys2Proof.Machine.execLp6ReadRepeat j r err s
  | .wstoreRefresh die bank => Sys2Proof.Machine.execWstoreRefresh die bank s
  | .notify o v => Sys2Proof.Machine.execNotify o v s
  | .vcpTakeRecord o v => Sys2Proof.Machine.execVcpTakeRecord o v s
  | .launch c => Sys2Proof.Machine.execLaunch c s
  | .cmdCopy c => Sys2Proof.Machine.execCmdCopy c s
  | .wait c => Sys2Proof.Machine.execWait c s
  | .waitMet c => Sys2Proof.Machine.execWaitMet c s
  | .waitTimeout c => Sys2Proof.Machine.execWaitTimeout c s
  | .signal c => Sys2Proof.Machine.execSignal c s
  | .wsopen c => Sys2Proof.Machine.execWsopen c s
  | .wsopenComplete c => Sys2Proof.Machine.execWsopenComplete c s
  | .wsclose c => Sys2Proof.Machine.execWsclose c s
  | .indirect c => Sys2Proof.Machine.execIndirect c s
  | .recordComplete id => Sys2Proof.Machine.execRecordComplete id s
  | .shadowQcbWrite o v word val => Sys2Proof.Machine.execShadowQcbWrite o v word val s
  | .featCommit o val => Sys2Proof.Machine.execFeatCommit o val s
  | .functionLevelReset o => Sys2Proof.Machine.execFunctionLevelReset o s
  | .hostBar2Access a => Sys2Proof.Machine.execHostBar2Access a s
  | .registerWrite fn bar off val => Sys2Proof.Machine.execRegisterWrite fn bar off val s
  | .layoutCommit => Sys2Proof.Machine.execLayoutCommit s
  | .layoutDiscard => Sys2Proof.Machine.execLayoutDiscard s
  | .layoutQuiesceDone => Sys2Proof.Machine.execLayoutQuiesceDone s
  | .layoutSweepDone => Sys2Proof.Machine.execLayoutSweepDone s
  | .layoutSwap => Sys2Proof.Machine.execLayoutSwap s
  | .poolSliceEnd p => Sys2Proof.Machine.execPoolSliceEnd p s
  | .sliceendForceSave ctx => Sys2Proof.Machine.execSliceendForceSave ctx s
  | .poolSwitchDone p => Sys2Proof.Machine.execPoolSwitchDone p s
  | .launchAge id => Sys2Proof.Machine.execLaunchAge id s
  | .launchDeadlineExpire id => Sys2Proof.Machine.execLaunchDeadlineExpire id s
  | .porterSelect die => Sys2Proof.Machine.execPorterSelect die s
  | .reserveComplete die => Sys2Proof.Machine.execReserveComplete die s
  | .reserveRollback die => Sys2Proof.Machine.execReserveRollback die s
  | .launchRetry die o => Sys2Proof.Machine.execLaunchRetry die o s
  | .foreignReserveRequest die coordinator => Sys2Proof.Machine.execForeignReserveRequest die coordinator s
  | .commitDone die => Sys2Proof.Machine.execCommitDone die s
  | .preemptSavesDone id => Sys2Proof.Machine.execPreemptSavesDone id s
  | .inboxRecordArrive core r => Sys2Proof.Machine.execInboxRecordArrive core r s
  | .compositeInstantiate node child => Sys2Proof.Machine.execCompositeInstantiate node child s
  | .peerLaunch die owner space level cidx g3 g4 g5 g6 => Sys2Proof.Machine.execPeerLaunch die owner space level cidx g3 g4 g5 g6 s
  | .gtqSegmentTake core o => Sys2Proof.Machine.execGtqSegmentTake core o s
  | .diffusionTick => Sys2Proof.Machine.execDiffusionTick s
  | .diffusionRecordArrive core r => Sys2Proof.Machine.execDiffusionRecordArrive core r s
  | .tileJcNotify cl pa => Sys2Proof.Machine.execTileJcNotify cl pa s
  | .tileSlot cl o => Sys2Proof.Machine.execTileSlot cl o s
  | .tileKStep cl e => Sys2Proof.Machine.execTileKStep cl e s
  | .tileOverrun cl e => Sys2Proof.Machine.execTileOverrun cl e s
  | .tileTaskComplete cl e => Sys2Proof.Machine.execTileTaskComplete cl e s
  | .accSlotSave cl slot => Sys2Proof.Machine.execAccSlotSave cl slot s
  | .frameStart k j => Sys2Proof.Machine.execFrameStart k j s
  | .slotServe k j slot => Sys2Proof.Machine.execSlotServe k j slot s
  | .sliceRequestArrive c owner rs => Sys2Proof.Machine.execSliceRequestArrive c owner rs s
  | .sweepStep c o => Sys2Proof.Machine.execSweepStep c o s
  | .benchBackoffRetry r => Sys2Proof.Machine.execBenchBackoffRetry r s
  | .peerReadRequest m => Sys2Proof.Machine.execPeerReadRequest m s
  | .peerWriteRequest m => Sys2Proof.Machine.execPeerWriteRequest m s
  | .peerAtomicRequest m => Sys2Proof.Machine.execPeerAtomicRequest m s
  | .peerTagMessage m => Sys2Proof.Machine.execPeerTagMessage m s
  | .peerFenceMarker dev port => Sys2Proof.Machine.execPeerFenceMarker dev port s
  | .peerMarkerAck ctx port => Sys2Proof.Machine.execPeerMarkerAck ctx port s
  | .peerResponse m v => Sys2Proof.Machine.execPeerResponse m v s
  | .remoteFaultReport ctx dev cause op pva => Sys2Proof.Machine.execRemoteFaultReport ctx dev cause op pva s
  | .pageWalkRead cl wid => Sys2Proof.Machine.execPageWalkRead cl wid s
  | .faultReply o k => Sys2Proof.Machine.execFaultReply o k s
  | .invalidationArrive core inv => Sys2Proof.Machine.execInvalidationArrive core inv s
  | .pageMigrationDone key => Sys2Proof.Machine.execPageMigrationDone key s
  | .hostPageRequest key => Sys2Proof.Machine.execHostPageRequest key s
  | .migrationHoldExpire key => Sys2Proof.Machine.execMigrationHoldExpire key s
  | .homeRds r => Sys2Proof.Machine.execHomeRds r s
  | .homeRdx r => Sys2Proof.Machine.execHomeRdx r s
  | .homeUpg r => Sys2Proof.Machine.execHomeUpg r s
  | .homeWb r => Sys2Proof.Machine.execHomeWb r s
  | .homeInvAck block core => Sys2Proof.Machine.execHomeInvAck block core s
  | .homeFwdDone block core clean => Sys2Proof.Machine.execHomeFwdDone block core clean s
  | .homeAckMiss block core => Sys2Proof.Machine.execHomeAckMiss block core s
  | .homeAckStale block core => Sys2Proof.Machine.execHomeAckStale block core s
  | .l1Data core block grant data tag => Sys2Proof.Machine.execL1Data core block grant data tag s
  | .l1Grant core block => Sys2Proof.Machine.execL1Grant core block s
  | .l1Inv core block => Sys2Proof.Machine.execL1Inv core block s
  | .l1FwdS core block req => Sys2Proof.Machine.execL1FwdS core block req s
  | .l1FwdX core block req => Sys2Proof.Machine.execL1FwdX core block req s
  | .l1WbAck core block => Sys2Proof.Machine.execL1WbAck core block s
  | .homeMerge r => Sys2Proof.Machine.execHomeMerge r s
  | .mergeAck ctx core block wonce va => Sys2Proof.Machine.execMergeAck ctx core block wonce va s
  | .windowFill core w b data tag => Sys2Proof.Machine.execWindowFill core w b data tag s
  | .homeAmo r => Sys2Proof.Machine.execHomeAmo r s
  | .homeRed r => Sys2Proof.Machine.execHomeRed r s
  | .homeTake r => Sys2Proof.Machine.execHomeTake r s
  | .homeTrytake r => Sys2Proof.Machine.execHomeTrytake r s
  | .homeWaitw r => Sys2Proof.Machine.execHomeWaitw r s
  | .homePut r => Sys2Proof.Machine.execHomePut r s
  | .homePutx r => Sys2Proof.Machine.execHomePutx r s
  | .homeJcdec r => Sys2Proof.Machine.execHomeJcdec r s
  | .homeJcwait r => Sys2Proof.Machine.execHomeJcwait r s
  | .homeBararr r => Sys2Proof.Machine.execHomeBararr r s
  | .homeBarwait r => Sys2Proof.Machine.execHomeBarwait r s
  | .homeWsWrite r => Sys2Proof.Machine.execHomeWsWrite r s
  | .homeWsLoad r => Sys2Proof.Machine.execHomeWsLoad r s
  | .homeWithdraw ctx pid => Sys2Proof.Machine.execHomeWithdraw ctx pid s
  | .fenceMarker ctx rel path => Sys2Proof.Machine.execFenceMarker ctx rel path s
  | .markerAck ctx rel => Sys2Proof.Machine.execMarkerAck ctx rel s
  | .storageError e err => Sys2Proof.Machine.execStorageError e err s
  | .producerArrive ctx pid v => Sys2Proof.Machine.execProducerArrive ctx pid v s
  | .waitlimExpire ctx => Sys2Proof.Machine.execWaitlimExpire ctx s
  | .streamHeadFlit ctx q => Sys2Proof.Machine.execStreamHeadFlit ctx q s
  | .streamWordArrive id marker w => Sys2Proof.Machine.execStreamWordArrive id marker w s
  | .gangForward follower pc npc head tail => Sys2Proof.Machine.execGangForward follower pc npc head tail s
  | .preemptRequest ctx => Sys2Proof.Machine.execPreemptRequest ctx s
  | .forcedSave ctx => Sys2Proof.Machine.execForcedSave ctx s
  | .saveDone ctx => Sys2Proof.Machine.execSaveDone ctx s
  | .saveWriteFault ctx => Sys2Proof.Machine.execSaveWriteFault ctx s
  | .cupboardRetry core => Sys2Proof.Machine.execCupboardRetry core s
  | .contextRestore rec ctx => Sys2Proof.Machine.execContextRestore rec ctx s
  | .asyncTrap ctx => Sys2Proof.Machine.execAsyncTrap ctx s
  | .taskAbort ctx => Sys2Proof.Machine.execTaskAbort ctx s
  | .copyComplete die e id => Sys2Proof.Machine.execCopyComplete die e id s
  | .waittWake ctx => Sys2Proof.Machine.execWaittWake ctx s
  | .instructionLineFill core line data => Sys2Proof.Machine.execInstructionLineFill core line data s
  | .homeJcinit r => Sys2Proof.Machine.execHomeJcinit r s
  | .homeBarinit r => Sys2Proof.Machine.execHomeBarinit r s
  | .homeTagWrite r => Sys2Proof.Machine.execHomeTagWrite r s
  | .nop => Sys2Proof.Machine.execNop s
  | .add d b c => Sys2Proof.Machine.execAdd d b c s
  | .sub d b c => Sys2Proof.Machine.execSub d b c s
  | .addw d b c => Sys2Proof.Machine.execAddw d b c s
  | .subw d b c => Sys2Proof.Machine.execSubw d b c s
  | .and d b c => Sys2Proof.Machine.execAnd d b c s
  | .or d b c => Sys2Proof.Machine.execOr d b c s
  | .xor d b c => Sys2Proof.Machine.execXor d b c s
  | .andn d b c => Sys2Proof.Machine.execAndn d b c s
  | .shl d b c => Sys2Proof.Machine.execShl d b c s
  | .shr d b c => Sys2Proof.Machine.execShr d b c s
  | .sar d b c => Sys2Proof.Machine.execSar d b c s
  | .rol d b c => Sys2Proof.Machine.execRol d b c s
  | .seq d b c => Sys2Proof.Machine.execSeq d b c s
  | .sne d b c => Sys2Proof.Machine.execSne d b c s
  | .slt d b c => Sys2Proof.Machine.execSlt d b c s
  | .sltu d b c => Sys2Proof.Machine.execSltu d b c s
  | .min d b c => Sys2Proof.Machine.execMin d b c s
  | .max d b c => Sys2Proof.Machine.execMax d b c s
  | .minu d b c => Sys2Proof.Machine.execMinu d b c s
  | .maxu d b c => Sys2Proof.Machine.execMaxu d b c s
  | .mul d b c => Sys2Proof.Machine.execMul d b c s
  | .mulh d b c => Sys2Proof.Machine.execMulh d b c s
  | .mulhu d b c => Sys2Proof.Machine.execMulhu d b c s
  | .mulw d b c => Sys2Proof.Machine.execMulw d b c s
  | .div d b c => Sys2Proof.Machine.execDiv d b c s
  | .divu d b c => Sys2Proof.Machine.execDivu d b c s
  | .rem d b c => Sys2Proof.Machine.execRem d b c s
  | .remu d b c => Sys2Proof.Machine.execRemu d b c s
  | .addi d b imm => Sys2Proof.Machine.execAddi d b imm s
  | .andi d b imm => Sys2Proof.Machine.execAndi d b imm s
  | .ori d b imm => Sys2Proof.Machine.execOri d b imm s
  | .xori d b imm => Sys2Proof.Machine.execXori d b imm s
  | .slti d b imm => Sys2Proof.Machine.execSlti d b imm s
  | .sltiu d b imm => Sys2Proof.Machine.execSltiu d b imm s
  | .shli d b n => Sys2Proof.Machine.execShli d b n s
  | .shri d b n => Sys2Proof.Machine.execShri d b n s
  | .sari d b n => Sys2Proof.Machine.execSari d b n s
  | .addwi d b imm => Sys2Proof.Machine.execAddwi d b imm s
  | .li d imm => Sys2Proof.Machine.execLi d imm s
  | .liw d imm => Sys2Proof.Machine.execLiw d imm s
  | .lid d imm => Sys2Proof.Machine.execLid d imm s
  | .clz d b => Sys2Proof.Machine.execClz d b s
  | .ctz d b => Sys2Proof.Machine.execCtz d b s
  | .popc d b => Sys2Proof.Machine.execPopc d b s
  | .bswap d b => Sys2Proof.Machine.execBswap d b s
  | .sextB d b => Sys2Proof.Machine.execSextB d b s
  | .sextH d b => Sys2Proof.Machine.execSextH d b s
  | .sextW d b => Sys2Proof.Machine.execSextW d b s
  | .zextW d b => Sys2Proof.Machine.execZextW d b s
  | .extu d b pos len => Sys2Proof.Machine.execExtu d b pos len s
  | .exts d b pos len => Sys2Proof.Machine.execExts d b pos len s
  | .ins d b pos len => Sys2Proof.Machine.execIns d b pos len s
  | .sel d b c e => Sys2Proof.Machine.execSel d b c e s
  | .lpc d disp => Sys2Proof.Machine.execLpc d disp s
  | .fadd d b c => Sys2Proof.Machine.execFadd d b c s
  | .fsub d b c => Sys2Proof.Machine.execFsub d b c s
  | .fmul d b c => Sys2Proof.Machine.execFmul d b c s
  | .fdiv d b c => Sys2Proof.Machine.execFdiv d b c s
  | .fmin d b c => Sys2Proof.Machine.execFmin d b c s
  | .fmax d b c => Sys2Proof.Machine.execFmax d b c s
  | .fsqrt d b => Sys2Proof.Machine.execFsqrt d b s
  | .fclass d b => Sys2Proof.Machine.execFclass d b s
  | .ffma d b c e => Sys2Proof.Machine.execFfma d b c e s
  | .ffms d b c e => Sys2Proof.Machine.execFfms d b c e s
  | .fnma d b c e => Sys2Proof.Machine.execFnma d b c e s
  | .fnms d b c e => Sys2Proof.Machine.execFnms d b c e s
  | .feq d b c => Sys2Proof.Machine.execFeq d b c s
  | .flt d b c => Sys2Proof.Machine.execFlt d b c s
  | .fle d b c => Sys2Proof.Machine.execFle d b c s
  | .fcvtWF d b rm => Sys2Proof.Machine.execFcvtWF d b rm s
  | .fcvtFW d b rm => Sys2Proof.Machine.execFcvtFW d b rm s
  | .fcvtBfF d b rm => Sys2Proof.Machine.execFcvtBfF d b rm s
  | .fcvtFBf d b => Sys2Proof.Machine.execFcvtFBf d b s
  | .fcvtHF d b rm => Sys2Proof.Machine.execFcvtHF d b rm s
  | .fcvtFH d b => Sys2Proof.Machine.execFcvtFH d b s
  | .beq a b disp => Sys2Proof.Machine.execBeq a b disp s
  | .bne a b disp => Sys2Proof.Machine.execBne a b disp s
  | .blt a b disp => Sys2Proof.Machine.execBlt a b disp s
  | .bge a b disp => Sys2Proof.Machine.execBge a b disp s
  | .bltu a b disp => Sys2Proof.Machine.execBltu a b disp s
  | .bgeu a b disp => Sys2Proof.Machine.execBgeu a b disp s
  | .jal d disp => Sys2Proof.Machine.execJal d disp s
  | .jalr d b imm => Sys2Proof.Machine.execJalr d b imm s
  | .safept glive vlive => Sys2Proof.Machine.execSafept glive vlive s
  | .ldB d b imm => Sys2Proof.Machine.execLdB d b imm s
  | .ldBu d b imm => Sys2Proof.Machine.execLdBu d b imm s
  | .ldH d b imm => Sys2Proof.Machine.execLdH d b imm s
  | .ldHu d b imm => Sys2Proof.Machine.execLdHu d b imm s
  | .ldW d b imm => Sys2Proof.Machine.execLdW d b imm s
  | .ldWu d b imm => Sys2Proof.Machine.execLdWu d b imm s
  | .ldD d b imm => Sys2Proof.Machine.execLdD d b imm s
  | .stB a b imm => Sys2Proof.Machine.execStB a b imm s
  | .stH a b imm => Sys2Proof.Machine.execStH a b imm s
  | .stW a b imm => Sys2Proof.Machine.execStW a b imm s
  | .stD a b imm => Sys2Proof.Machine.execStD a b imm s
  | .lda d b scope w imm => Sys2Proof.Machine.execLda d b scope w imm s
  | .stl a b scope w imm => Sys2Proof.Machine.execStl a b scope w imm s
  | .vld v b imm => Sys2Proof.Machine.execVld v b imm s
  | .vldNt v b imm => Sys2Proof.Machine.execVldNt v b imm s
  | .vst v b imm => Sys2Proof.Machine.execVst v b imm s
  | .vstNt v b imm => Sys2Proof.Machine.execVstNt v b imm s
  | .vstKeep v b imm => Sys2Proof.Machine.execVstKeep v b imm s
  | .ldt v b c m ty rm inf => Sys2Proof.Machine.execLdt v b c m ty rm inf s
  | .stt v b c m ty rm inf scale => Sys2Proof.Machine.execStt v b c m ty rm inf scale s
  | .ldtTag d b => Sys2Proof.Machine.execLdtTag d b s
  | .sttTag a b => Sys2Proof.Machine.execSttTag a b s
  | .prefL1 b imm => Sys2Proof.Machine.execPrefL1 b imm s
  | .prefLlc b imm => Sys2Proof.Machine.execPrefLlc b imm s
  | .prefWin b imm => Sys2Proof.Machine.execPrefWin b imm s
  | .cflush b c sc => Sys2Proof.Machine.execCflush b c sc s
  | .cclean b c sc => Sys2Proof.Machine.execCclean b c sc s
  | .cinval b c sc => Sys2Proof.Machine.execCinval b c sc s
  | .wmap d b c e => Sys2Proof.Machine.execWmap d b c e s
  | .wunmap b => Sys2Proof.Machine.execWunmap b s
  | .wflush b => Sys2Proof.Machine.execWflush b s
  | .wdrop b => Sys2Proof.Machine.execWdrop b s
  | .wstat d b => Sys2Proof.Machine.execWstat d b s
  | .cbld k b imm => Sys2Proof.Machine.execCbld k b imm s
  | .cbst k b imm => Sys2Proof.Machine.execCbst k b imm s
  | .amoAdd d b c wide ord scope => Sys2Proof.Machine.execAmoAdd d b c wide ord scope s
  | .amoAnd d b c wide ord scope => Sys2Proof.Machine.execAmoAnd d b c wide ord scope s
  | .amoOr d b c wide ord scope => Sys2Proof.Machine.execAmoOr d b c wide ord scope s
  | .amoXor d b c wide ord scope => Sys2Proof.Machine.execAmoXor d b c wide ord scope s
  | .amoMin d b c wide ord scope => Sys2Proof.Machine.execAmoMin d b c wide ord scope s
  | .amoMax d b c wide ord scope => Sys2Proof.Machine.execAmoMax d b c wide ord scope s
  | .amoMinu d b c wide ord scope => Sys2Proof.Machine.execAmoMinu d b c wide ord scope s
  | .amoMaxu d b c wide ord scope => Sys2Proof.Machine.execAmoMaxu d b c wide ord scope s
  | .amoSwap d b c wide ord scope => Sys2Proof.Machine.execAmoSwap d b c wide ord scope s
  | .amoCas d b c e wide ord scope => Sys2Proof.Machine.execAmoCas d b c e wide ord scope s
  | .amoFadd d b c ord scope => Sys2Proof.Machine.execAmoFadd d b c ord scope s
  | .redAdd b c wide rel scope => Sys2Proof.Machine.execRedAdd b c wide rel scope s
  | .redAnd b c wide rel scope => Sys2Proof.Machine.execRedAnd b c wide rel scope s
  | .redOr b c wide rel scope => Sys2Proof.Machine.execRedOr b c wide rel scope s
  | .redXor b c wide rel scope => Sys2Proof.Machine.execRedXor b c wide rel scope s
  | .redMin b c wide rel scope => Sys2Proof.Machine.execRedMin b c wide rel scope s
  | .redMax b c wide rel scope => Sys2Proof.Machine.execRedMax b c wide rel scope s
  | .redMinu b c wide rel scope => Sys2Proof.Machine.execRedMinu b c wide rel scope s
  | .redMaxu b c wide rel scope => Sys2Proof.Machine.execRedMaxu b c wide rel scope s
  | .redFadd b c rel scope => Sys2Proof.Machine.execRedFadd b c rel scope s
  | .take d b imm => Sys2Proof.Machine.execTake d b imm s
  | .trytake d b imm => Sys2Proof.Machine.execTrytake d b imm s
  | .put a b imm => Sys2Proof.Machine.execPut a b imm s
  | .putx a b imm => Sys2Proof.Machine.execPutx a b imm s
  | .waitw d b imm => Sys2Proof.Machine.execWaitw d b imm s
  | .fence sc => Sys2Proof.Machine.execFence sc s
  | .acqr b c sc => Sys2Proof.Machine.execAcqr b c sc s
  | .relr b c sc => Sys2Proof.Machine.execRelr b c sc s
  | .migrate b => Sys2Proof.Machine.execMigrate b s
  | .rethome => Sys2Proof.Machine.execRethome s
  | .jcinit b c => Sys2Proof.Machine.execJcinit b c s
  | .jcdec b => Sys2Proof.Machine.execJcdec b s
  | .jcwait b => Sys2Proof.Machine.execJcwait b s
  | .barinit b c => Sys2Proof.Machine.execBarinit b c s
  | .bararr d b => Sys2Proof.Machine.execBararr d b s
  | .barwait b c => Sys2Proof.Machine.execBarwait b c s
  | .vadd v b c m ty => Sys2Proof.Machine.execVadd v b c m ty s
  | .vsub v b c m ty => Sys2Proof.Machine.execVsub v b c m ty s
  | .vmul v b c m ty => Sys2Proof.Machine.execVmul v b c m ty s
  | .vfma v b c m ty => Sys2Proof.Machine.execVfma v b c m ty s
  | .vmin v b c m ty => Sys2Proof.Machine.execVmin v b c m ty s
  | .vmax v b c m ty => Sys2Proof.Machine.execVmax v b c m ty s
  | .vrcp v b m ty => Sys2Proof.Machine.execVrcp v b m ty s
  | .vrsqrt v b m ty => Sys2Proof.Machine.execVrsqrt v b m ty s
  | .vexp2 v b m ty => Sys2Proof.Machine.execVexp2 v b m ty s
  | .vlog2 v b m ty => Sys2Proof.Machine.execVlog2 v b m ty s
  | .vabs v b m ty => Sys2Proof.Machine.execVabs v b m ty s
  | .vneg v b m ty => Sys2Proof.Machine.execVneg v b m ty s
  | .vcmpEq d b c m ty => Sys2Proof.Machine.execVcmpEq d b c m ty s
  | .vcmpNe d b c m ty => Sys2Proof.Machine.execVcmpNe d b c m ty s
  | .vcmpLt d b c m ty => Sys2Proof.Machine.execVcmpLt d b c m ty s
  | .vcmpLe d b c m ty => Sys2Proof.Machine.execVcmpLe d b c m ty s
  | .vsel v b c m ty => Sys2Proof.Machine.execVsel v b c m ty s
  | .vand v b c m ty => Sys2Proof.Machine.execVand v b c m ty s
  | .vor v b c m ty => Sys2Proof.Machine.execVor v b c m ty s
  | .vxor v b c m ty => Sys2Proof.Machine.execVxor v b c m ty s
  | .vandn v b c m ty => Sys2Proof.Machine.execVandn v b c m ty s
  | .vshl v b c m ty => Sys2Proof.Machine.execVshl v b c m ty s
  | .vshr v b c m ty => Sys2Proof.Machine.execVshr v b c m ty s
  | .vsar v b c m ty => Sys2Proof.Machine.execVsar v b c m ty s
  | .vcvt v b m ty rm part inf => Sys2Proof.Machine.execVcvt v b m ty rm part inf s
  | .vsum d b m ty => Sys2Proof.Machine.execVsum d b m ty s
  | .vrmax d b m ty => Sys2Proof.Machine.execVrmax d b m ty s
  | .vrmin d b m ty => Sys2Proof.Machine.execVrmin d b m ty s
  | .vperm v b c m ty => Sys2Proof.Machine.execVperm v b c m ty s
  | .vbcast v b m ty => Sys2Proof.Machine.execVbcast v b m ty s
  | .vins v b c ty => Sys2Proof.Machine.execVins v b c ty s
  | .vextr d b c ty => Sys2Proof.Machine.execVextr d b c ty s
  | .vlut v b m ty rm part inf => Sys2Proof.Machine.execVlut v b m ty rm part inf s
  | .vdot d b c m ty => Sys2Proof.Machine.execVdot d b c m ty s
  | .vtagg d b => Sys2Proof.Machine.execVtagg d b s
  | .vtags v b => Sys2Proof.Machine.execVtags v b s
  | .vmov v b m ty => Sys2Proof.Machine.execVmov v b m ty s
  | .vscale v b c m ty rm step => Sys2Proof.Machine.execVscale v b c m ty rm step s
  | .push d b => Sys2Proof.Machine.execPush d b s
  | .copy d b c e sc tags rq dkind => Sys2Proof.Machine.execCopy d b c e sc tags rq dkind s
  | .waitt b => Sys2Proof.Machine.execWaitt b s
  | .qbind q b => Sys2Proof.Machine.execQbind q b s
  | .qunbind q => Sys2Proof.Machine.execQunbind q s
  | .qstat d q => Sys2Proof.Machine.execQstat d q s
  | .sopen q b c => Sys2Proof.Machine.execSopen q b c s
  | .sclose q => Sys2Proof.Machine.execSclose q s
  | .start b => Sys2Proof.Machine.execStart b s
  | .reap d b => Sys2Proof.Machine.execReap d b s
  | .endTask => Sys2Proof.Machine.execEndTask s
  | .yield => Sys2Proof.Machine.execYield s
  | .apply b sc => Sys2Proof.Machine.execApply b sc s
  | .post b c sc => Sys2Proof.Machine.execPost b c sc s
  | .mkfn b c sc x => Sys2Proof.Machine.execMkfn b c sc x s
  | .mkco b c sc x => Sys2Proof.Machine.execMkco b c sc x s
  | .mkseq b c sc x => Sys2Proof.Machine.execMkseq b c sc x s
  | .mkpar b c sc x => Sys2Proof.Machine.execMkpar b c sc x s
  | .mkpipe b c sc x => Sys2Proof.Machine.execMkpipe b c sc x s
  | .mkfarm b c sc x => Sys2Proof.Machine.execMkfarm b c sc x s
  | .mkloop b c sc x => Sys2Proof.Machine.execMkloop b c sc x s
  | .cresume d b c => Sys2Proof.Machine.execCresume d b c s
  | .cyield d b => Sys2Proof.Machine.execCyield d b s
  | .gform b => Sys2Proof.Machine.execGform b s
  | .gleave => Sys2Proof.Machine.execGleave s
  | .gjoin => Sys2Proof.Machine.execGjoin s
  | .gend => Sys2Proof.Machine.execGend s
  | .rand d b => Sys2Proof.Machine.execRand d b s
  | .reseed b c => Sys2Proof.Machine.execReseed b c s
  | .exq d b c => Sys2Proof.Machine.execExq d b c s
  | .exh d b => Sys2Proof.Machine.execExh d b s
  | .mfs d num => Sys2Proof.Machine.execMfs d num s
  | .mts num a => Sys2Proof.Machine.execMts num a s
  | .svc imm => Sys2Proof.Machine.execSvc imm s
  | .eret => Sys2Proof.Machine.execEret s
  | .brk imm => Sys2Proof.Machine.execBrk imm s
  | .tlbi1 b c => Sys2Proof.Machine.execTlbi1 b c s
  | .tlbi2 b c => Sys2Proof.Machine.execTlbi2 b c s
  | .tlbsync => Sys2Proof.Machine.execTlbsync s

end Sys2Proof.Machine
end

