-- ==== Sys2Proof/Machine/Issue.lean ====
section
/-!
DEFINITION. Which step of the machine comes next (log 2), which context takes an issue slot (R189, R202), and the issue of an
instruction up to its meaning (R252 to R257, R266, R267); and how a test word is placed where the machine fetches next.
-/

namespace Sys2Proof.Machine

noncomputable section

/-- An asynchronous trap can be taken at the next boundary (R218): none is taken while a handler is active, and none by a
control context. -/
def Ctx.asyncReady (c : Ctx) : Bool :=
  c.level != .f && !c.ecause.getLsbD 10
    && (c.async.memerr.isSome || !c.reports.isEmpty || (c.async.sliceend.isSome && c.level == .u))

/-- The attached followers of a leader have room for one more instruction (R202). -/
def State.followersRoom (s : State) (n : Nat) : Bool :=
  match (s.ctx n).gang with
  | some g => if g.leader && g.attached then (s.gangOthers n g).all fun m => decide ((s.ctx m).buffer.length < 16) else true
  | none => true

/-- A context may be looked at for an issue slot (R189): LIVE, or BLOCKED on a wait that may have cleared, its last issue at least four cycles before, no YIELD
standing (R353), and, in a gang, an instruction to run (R202). -/
def State.ready (s : State) (n : Nat) : Bool :=
  let c := s.ctx n
  let spaced : Bool := match c.lastIssue with
    | some t => decide (4 ≤ (s.dtc - t).toNat) && (c.yielded.isEmpty || decide (16 ≤ (s.dtc - t).toNat))
    | none => true
  let follows : Bool := match c.gang with
    | some g => !(g.attached && !g.leader) || !c.buffer.isEmpty || c.held.isSome
    | none => true
  c.state.tries && spaced && follows && (c.held.isSome || s.followersRoom n)

/-- The contexts of a core in the order in which its slot of this cycle is offered to them (R189). -/
def State.rotation (s : State) (core : Nat) : List Nat :=
  let t := s.dtc.toNat % 16
  (upTo 16).map fun i => 16 * core + (t + i) % 16

/-- The first instruction of a launch's first task dates the launch (R55), and with it the launch whose nest it is a child of (R370). -/
def State.dateLaunch (s : State) (id : Nat) : Nat → State
  | 0 => s
  | k + 1 =>
    match tget s.launches id with
    | none => s
    | some l =>
      let s1 : State := { s with launches := tset s.launches id { l with tstart := if l.tstart = 0 then s.dtc else l.tstart } }
      match l.node.bind (tget s1.nodes) with
      | some d => s1.dateLaunch d.launch k
      | none => s1

/-- A slot taken by a context: it becomes the one whose instruction runs, YIELDs on its core count it (R353), and the core's slot of this cycle is gone. -/
def State.takeSlot (s : State) (n : Nat) : State :=
  let step (e : Nat × Ctx) : Nat × Ctx :=
    if coreOf e.1 = coreOf n then (e.1, { e.2 with yielded := e.2.yielded.filter fun m => m != n }) else e
  let s0 := match (s.ctx n).lastIssue, (s.ctx n).task.bind (·.launch) with
    | none, some l => s.dateLaunch l 9
    | _, _ => s
  let s1 : State := { s0 with ctxs := s0.ctxs.map step, slots := s0.slots.filter fun c => c != coreOf n }
  { s1.modCtx n fun c => { c with lastIssue := some s.dtc } with cur := n }

/-- The head and tail at the program counter (R252, R256): a malformed line is UNDEF (R253), an offset that is no head's ALIGN. -/
def fetchWords : Ex (Word × BitVec 16 × BitVec 96) := do
  let c ← me
  let d ← fetchLine c.pc
  if lineMalformed d then trap .undef (lineBase c.pc) 0
  if isHead d c.pc = false then trap .align c.pc 0
  let k := c.pc.toNat % 64 / 2
  pure (nextPc d c.pc, lineHead d k, lineTail d k)

/-- The instruction that a gang member takes from its forwarding buffer (R202): none when it has none or when its own program
counter has gone another way (R203). -/
def Ctx.forwarded (c : Ctx) : Option Forwarded :=
  match c.gang, c.buffer with
  | some g, f :: _ => if g.attached && f.pc == c.pc then some f else none
  | _, _ => none

/-- The next instruction of the current context issues: it is fetched or taken from the forwarding buffer, counted (R205),
decoded, and forwarded by a gang's leader (R202). -/
def issue : Ex Instr := do
  let c ← me
  match c.forwarded with
  | some f => do
    modMe fun c => { c with buffer := c.buffer.drop 1, npc := f.npc, head := f.head }
    match decode f.head f.tail with
    | some i => do
      modMe fun c => { c with held := some i, spcount := if c.spcount = 0xFFFF then c.spcount else c.spcount + 1 }
      pure i
    | none => trap .undef (f.head.setWidth 64) 0
  | none => do
    if !c.buffer.isEmpty then modify fun (s : State) => s.detach s.cur
    let (npc, h, t) ← fetchWords
    modMe fun c => { c with npc := npc, head := h, spcount := if c.spcount = 0xFFFF then c.spcount else c.spcount + 1 }
    match decode h t with
    | some i => do
      modMe fun c => { c with held := some i }
      modify fun (s : State) =>
        match (s.ctx s.cur).gang with
        | some g =>
          if g.leader && g.attached then
            s.post ((s.gangOthers s.cur g).map fun m => Instr.gangForward m (s.ctx s.cur).pc npc h t)
          else s
        | none => s
      pure i
    | none => trap .undef (h.setWidth 64) 0

/-- What comes next: a step to run, a state already reached (a context that is held back, or a fetch that traps), or no meaning. -/
inductive Sched where
  | run (s : State) (i : Instr)
  | done (s : State)
  | device (pa : Nat)

/-- What a context goes on with: the instruction that it holds, or else a new one. -/
def State.proceed (s : State) (n : Nat) : Sched :=
  match (s.ctx n).held with
  | some i => .run s i
  | none =>
    match issue s with
    | .ok i t => .run t i
    | .error .done t => .done t
    | .error (.device pa) _ => .device pa

/-- A context at its boundary (R218, R206): an asynchronous trap first, then a save that is forced, then its instruction. -/
def State.boundary (s : State) (n : Nat) : Sched :=
  let c := s.ctx n
  if c.asyncReady then .run s (.asyncTrap n)
  else if c.saveReq ∧ c.retryAt.isNone ∧ 4096 ≤ c.spcount.toNat then .run s (.forcedSave n)
  else s.proceed n

/-- The state that an instruction would leave, if it is given one. -/
def State.after (s : State) (i : Instr) : Option State :=
  match exec i s with
  | .next t => some t
  | _ => none

/-- A context that its instruction's line or operands hold back takes no slot (R189). -/
def CtxState.heldBack : CtxState → Bool
  | .blocked (.reg _) | .blocked (.queue _) | .blocked (.fill _) | .blocked .walk => true
  | _ => false

/-- What a context comes to that has been looked at: u is what its instruction would leave, and go what comes if it takes the slot. One whose wait has not cleared
stays BLOCKED, and is looked at again in the next cycle if its instruction has gone on to another part of its wait; one that is held back becomes BLOCKED and takes
no slot (R188, R189). -/
def State.judged (s : State) (n : Nat) (u : State) (go : Sched) : Option Sched :=
  if (s.ctx n).state ≠ .live ∧ (u.ctx n).state = (s.ctx n).state then
    (if { u with cur := s.cur } = s then none else some (.done { u with tried := n :: u.tried }))
  else if (u.ctx n).state.heldBack then some (.done u)
  else some go

/-- A step that a context could take, looked at before it is taken. -/
def State.looked (s : State) (n : Nat) (b : Sched) : Option Sched :=
  match b with
  | .run t i =>
    (match t.after i with
    | some u => s.judged n u (.run (t.takeSlot n) i)
    | none => some (.run (t.takeSlot n) i))
  | .done u => s.judged n u (.done (u.takeSlot n))
  | .device pa => some (.device pa)

/-- A context that is offered its core's slot (R188, R189). A BLOCKED one comes to its boundary when its wait has cleared. -/
def State.offer (s : State) (n : Nat) : Option Sched :=
  if s.ready n = false ∨ s.tried.contains n then none
  else
    let s0 : State := { s.modCtx n fun c => { c with state := .live } with cur := n }
    if (s.ctx n).state = .live then s.looked n (s0.boundary n)
    else
      match s.looked n (s0.proceed n) with
      | none => none
      | some (.done u) => if (u.ctx n).state = .live then s.looked n (s0.boundary n) else some (.done u)
      | some _ => s.looked n (s0.boundary n)

/-- The issue slots of a cycle that are still to come, core by core. -/
def State.nextSlot (s : State) : List Nat → Sched
  | [] => .run { s with slots := [] } .dtcTick
  | core :: rest =>
    match (s.rotation core).findSome? s.offer with
    | some r => r
    | none => s.nextSlot rest

/-- A device reset; and what the management mailbox answers (R35). -/
def isReset : Instr → Bool
  | .deviceReset _ => true
  | _ => false
def isMailbox : Instr → Bool
  | .hostBar2Access a => a.bar == 4
  | .registerWrite _ bar _ _ => bar == 4
  | _ => false

/-- The next step of the machine (log 2): a step of the hardware that is in flight, in an order that choice decides; else an issue
slot of this cycle; else the cycle ends. A choice beyond the steps in flight takes an issue slot ahead of them, or ends the cycle when no context is ready for one. A
stopped device waits for a device reset (R33), and in recovery the management mailbox alone answers (R35). -/
def State.schedule (s : State) : Sched :=
  if s.stopped then
    (match s.agenda.find? isReset with
    | some i => .run { s with agenda := [] } i
    | none => .done s)
  else if s.recovery then
    (match s.agenda.find? fun i => isReset i || isMailbox i with
    | some i => .run { s with agenda := dropFirst (fun x => x == i) s.agenda } i
    | none => .done s)
  else
  match s.choice with
  | k :: rest =>
    let s1 : State := { s with choice := rest }
    match s.agenda[k]? with
    | some i => .run { s1 with agenda := dropAt s.agenda k } i
    | none => s1.nextSlot s1.slots
  | [] =>
    match s.agenda with
    | i :: r => .run { s with agenda := r } i
    | [] => s.nextSlot s.slots

/-- A code line that holds one instruction (R252, R253): one head, its tail at the top, zeros between. -/
def lineOf (h : BitVec 16) (t : BitVec 96) : Block :=
  BitVec.ofNat 512 (2048 + 2 ^ 16 * h.toNat + 2 ^ (8 * (64 - tailLen h)) * (t.toNat % 2 ^ (8 * tailLen h)))

/-- The state with one instruction where the machine fetches next: context 0 of core 0 LIVE at address 2 with the slot of this
cycle, its page translated, and the line in the instruction cache. -/
def State.placeWord (s : State) (h : BitVec 16) (t : BitVec 96) : State :=
  let c := s.ctx 0
  let e : TlbEntry :=
    { owner := tableOwner c.owner c.level, space := c.space, global := false, page := 0, size := 3, pa := 0, ap1 := 1, ap2 := 3,
      x := true, x2 := true, level1 := 3, level2 := 3, ipa := 0, ct := 0, fe := false, dirty := true, fot := 0, fotFrame := some 0, s2 := [] }
  let s1 := s.setCtx 0 { c with state := .live, pc := 2, held := none, lastWait := none, lastIssue := none, yielded := [], gang := none, buffer := [],
                                async := ⟨none, false, none⟩, reports := [], saveReq := false }
  let s2 := s1.modCore 0 fun k => { k with icache := tset k.icache 0 ⟨lineOf h t⟩, tlb := [e] }
  { s2 with agenda := [], choice := [], slots := [0], stopped := false, recovery := false }

end

end Sys2Proof.Machine
end

