-- ==== Sys2Proof/Machine/Step.lean ====
section
/-!
DEFINITION. One step of the machine, and a test word placed where the machine fetches.
-/

namespace Sys2Proof.Machine

/-- One step: what comes next is scheduled, and its meaning is executed. -/
noncomputable def step (s : State) : Host.Outcome State Fault Refusal :=
  match s.schedule with
  | .run t i => exec i t
  | .done t => .next t
  | .device pa => .refused (.deviceRegister pa)

/-- The state with a word, numbered as spec/opcode_table.json numbers it, as the next instruction that step fetches. -/
noncomputable def State.withFetchWord (s : State) (nbits w : Nat) : State :=
  s.placeWord (BitVec.ofNat 16 (w >>> (nbits - 16))) (BitVec.ofNat 96 (w % 2 ^ (nbits - 16)))

end Sys2Proof.Machine
end

