-- ==== Sys2Proof/Safety.lean ====
section
/-!
DEFINITION. What the claims speak of: the conditions under which an instruction completes, the states that its own effect leaves, and the
canonical form of memory.
-/

namespace Sys2Proof.Machine

/-- The context whose instruction is being executed. -/
def State.here (s : State) : Ctx := s.ctx s.cur

/-- The instruction passes the check of its feature group: accepted, or passed before it waited (R43, R266, R267). -/
def State.mayUse (s : State) (g : Group) : Bool := s.here.lastWait.isSome || s.accepted s.here g

/-- The instruction passes the checks of every vector instruction (R266, R319). -/
def State.mayVec (s : State) (g : Group) : Bool := s.mayUse g && s.here.vset.isSome && !isChannel (coreOf s.cur)

/-- A source can be read (R192, R195, R298, R340): full, or with a word in its queue, and with no failure on it. -/
def State.srcReady (s : State) (r : Nat) : Bool :=
  (s.here.marker r).isNone && s.sourceReady r == .yes && (s.faultedWord r).isNone

/-- A destination can be written (R193, R196, R197): g0, no producer pending, or room in an open queue. -/
def State.dstReady (s : State) (r : Nat) : Bool :=
  r == 0 || (match s.here.bound r with
    | none => !s.here.pendingOn r
    | some b => !s.pushClosed b && decide (s.queueLoad s.cur (r - 56) b < s.queueDepth b))

/-- Every operand can be read or written (R267 step 4). -/
def State.readable (s : State) (ops : List Opnd) : Bool :=
  ops.all fun o => match o with
    | .src r _ => s.srcReady r
    | .dst r => s.dstReady r

/-- The current context goes on at the next instruction (R256). -/
def State.done (s : State) : State := s.advanceCtx s.cur

/-- The state after an instruction that gives a general register a value: its queue sources popped, the register written (or its queue
pushed), the context at the next instruction (R191, R196, R256). -/
def State.givesG (s : State) (ops : List Opnd) (d : GReg) (v : Word) : State := ((s.popAll ops).wrote d v).done

/-- The same for a vector register with its tag (R191, R319). -/
def State.givesV (s : State) (ops : List Opnd) (v : VReg) (x : BitVec 512) (t : Tag) : State :=
  let s1 := s.popAll ops
  (s1.setV s1.cur v.toNat x t).done

/-- The state after an instruction whose result arrives later (R269): its destination is empty, or a place in its queue is reserved, and its
result is on its way. -/
def State.givesLater (s : State) (ops : List Opnd) (d : Dest) (a : Arrival) : State :=
  let s1 := s.popAll ops
  let s2 := (s1.began d none false).done
  s2.post [.producerArrive s2.cur s1.nextId a]

/-- An access of n bytes at an address meets no check and no wait, and falls in the context's own local store at an offset outside every window
(R178, R297, R299, R301). -/
def State.localOk (s : State) (va : Word) (n off : Nat) (write : Bool) : Bool :=
  let k := s.core (coreOf s.cur)
  !s.here.gated && formOf va == .localView off && va.toNat % n == 0 && (k.lockHit va n write).isNone
    && !s.deadBlock (coreOf s.cur) off && !s.heldLocal s.cur (coreOf s.cur) off && (k.windowAt off).isNone

/-- What a load from local store holds while its value is on its way (R207, R269). -/
def State.localReq (s : State) (va : Word) (n : Nat) : Req :=
  { op := .rds, ctx := s.cur, core := coreOf s.cur, owner := s.here.owner, pa := 0, va := va, ct := .pv, size := n }

/-- The state after a load whose value is on its way (R269, R300). -/
def State.givesLoad (s : State) (ops : List Opnd) (d : Dest) (r : Req) (acq : Bool) (a : Arrival) : State :=
  let s1 := s.popAll ops
  let s2 := (s1.beganLoad d r acq false).done
  s2.post [.producerArrive s2.cur s1.nextId a]

/-- The block of the context's own local store that holds an offset, with its tag. -/
def State.ownBlock (s : State) (off : Nat) : Block × Tag := s.lsBlock (coreOf s.cur) off

/-- The state after a store to the context's own local store (R299, R300). -/
def State.storesLocal (s : State) (ops : List Opnd) (off : Nat) (st : Stored) : State :=
  ((s.localWrite (coreOf s.cur) off st.data st.mask st.tag).popAll ops).done

/-- A page is translated and the access allowed, without a walk (R137, R142, R297): the address and the entry it comes to. -/
def State.pageOk (s : State) (va : Word) (acc : Acc) (pa : Nat) (e : TlbEntry) : Bool :=
  match s.tlbFind (coreOf s.cur) (tableOwner s.here.owner s.here.level) s.here.space va with
  | some f =>
    (!acc.writes || f.dirty) && s.permit f (tableOwner s.here.owner s.here.level) s.here.level va acc false == .ok pa e
      && (match regionOf (f.out va) with
        | .lp6 | .weight _ | .host => true
        | _ => false)
  | none => false

/-- An access of n bytes at an address meets no check and no wait, and falls in memory (R178, R297, R299). -/
def State.memAt (s : State) (va : Word) (n : Nat) (acc : Acc) (pa : Nat) (e : TlbEntry) : Bool :=
  !s.here.gated && formOf va == .page && va.toNat % n == 0 && ((s.core (coreOf s.cur)).lockHit va n acc.writes).isNone
    && s.pageOk va acc pa e

/-- No earlier access of the context holds an access to a block back (R181). -/
def State.blockFree (s : State) (pa : Nat) : Bool :=
  (s.here.ws.filter fun r => r.pa / 64 == pa / 64).isEmpty && !s.sameBlock s.cur pa
    && (match s.l1 (coreOf s.cur) (pa / 64) with
      | some l => !(l.wait.any fun w => w.ctx == s.cur)
      | none => true)

/-- Every earlier access of the context to RC and SC pages has been performed (R165). -/
def State.scReady (s : State) : Bool :=
  !s.scGated s.cur && !s.scStores s.cur && !(s.requests.any fun r => r.ctx == s.cur && ordersSc r)
    && !(s.here.producers.any fun p => (p.home.map ordersSc).getD false)

/-- An operation on a word at its home can leave (R165, R181, R299, R313): the word is one of an SC page of LP6 memory, with FE where fe asks
for it, and nothing earlier of the context holds it back. -/
def State.homeAt (s : State) (va : Word) (acc : Acc) (fe : Bool) (pa : Nat) (e : TlbEntry) : Bool :=
  s.memAt va 8 acc pa e && regionOf pa == .lp6 && e.ct == 2 && (!fe || e.fe) && s.scReady && s.blockFree pa

/-- What goes to the home of a word (R172, R174). -/
def State.homeReq (s : State) (op : HomeOp) (pa : Nat) (va : Word) : Req :=
  { op := op, ctx := s.cur, core := coreOf s.cur, owner := s.here.owner, pa := pa, va := va, ct := .sc, size := 8 }

/-- A record of 64 bytes in the context's own local store can be read (R297). -/
def State.recordHere (s : State) (va : Word) (off : Nat) : Bool := s.localOk va 64 off false && (s.here.marker blockMarker).isNone

/-- Nothing of the context is outstanding that a release would wait for, and its core binds no window (R178). -/
def State.calm (s : State) : Bool :=
  !s.here.gated && s.here.releases.isEmpty && s.here.lastWait.isNone && s.here.owed.isNone && s.here.ws.isEmpty
    && (s.core (coreOf s.cur)).windows.isEmpty

/-- The state after a release at a scope that holds later memory instructions (R178). -/
def State.released (s : State) (sc : BitVec 3) : State := s.startRelease s.cur sc true none

/-- The release completes at once. -/
def State.releasedOk (s : State) (sc : BitVec 3) : Bool :=
  s.calm && (s.released sc).here.releases.isEmpty && (s.released sc).here.owed.isNone

/-- The target of a transfer passes its checks (R258, R259, R291): its line is in the instruction cache and well-formed, and it is a head. -/
def State.codeAt (s : State) (t : Word) (pa : Nat) (e : TlbEntry) : Bool :=
  formOf t == .page && s.pageOk t .exec pa e && regionOf pa != .host
    && (match tget (s.core (coreOf s.cur)).icache (pa / 64) with
      | some l => !lineMalformed l.data && isHead l.data t
      | none => false)

/-- The state after a transfer of control whose operands are popped (R196, R290). -/
def State.transfers (s : State) (ops : List Opnd) (t : Word) : State :=
  let s1 := s.popAll ops
  s1.modCtx s1.cur fun c => c.goOn t

/-- The lane mask that field D selects (R319). -/
def State.maskOf (s : State) (m : Src) : Word := laneMask m (s.gValue m.reg.toNat)

/-- The feature group of an instruction (R43); a step of the hardware has none. -/
def groupOf (i : Instr) : Option Group :=
  match i with
  | .nop | .add .. | .sub .. | .addw .. | .subw .. | .and .. | .or .. | .xor .. | .andn .. | .shl .. | .shr .. | .sar .. | .rol ..
  | .seq .. | .sne .. | .slt .. | .sltu .. | .min .. | .max .. | .minu .. | .maxu .. | .mul .. | .mulh .. | .mulhu .. | .mulw ..
  | .div .. | .divu .. | .rem .. | .remu .. | .addi .. | .andi .. | .ori .. | .xori .. | .slti .. | .sltiu .. | .shli .. | .shri ..
  | .sari .. | .addwi .. | .li .. | .liw .. | .lid .. | .clz .. | .ctz .. | .popc .. | .bswap .. | .sextB .. | .sextH .. | .sextW ..
  | .zextW .. | .extu .. | .exts .. | .ins .. | .sel .. | .lpc .. | .fadd .. | .fsub .. | .fmul .. | .fdiv .. | .fmin .. | .fmax ..
  | .fsqrt .. | .fclass .. | .ffma .. | .ffms .. | .fnma .. | .fnms .. | .feq .. | .flt .. | .fle .. | .fcvtWF .. | .fcvtFW ..
  | .fcvtBfF .. | .fcvtFBf .. | .fcvtHF .. | .fcvtFH .. | .beq .. | .bne .. | .blt .. | .bge .. | .bltu .. | .bgeu .. | .jal ..
  | .jalr .. | .safept .. | .ldB .. | .ldBu .. | .ldH .. | .ldHu .. | .ldW .. | .ldWu .. | .ldD .. | .stB .. | .stH .. | .stW ..
  | .stD .. | .lda .. | .stl .. | .prefL1 .. | .prefLlc .. | .prefWin .. | .cflush .. | .cclean .. | .cinval .. | .amoAdd .. | .amoAnd ..
  | .amoOr .. | .amoXor .. | .amoMin .. | .amoMax .. | .amoMinu .. | .amoMaxu .. | .amoSwap .. | .amoCas .. | .amoFadd .. | .redAdd ..
  | .redAnd .. | .redOr .. | .redXor .. | .redMin .. | .redMax .. | .redMinu .. | .redMaxu .. | .redFadd .. | .take .. | .trytake ..
  | .put .. | .putx .. | .waitw .. | .fence .. | .acqr .. | .relr .. | .jcinit .. | .jcdec .. | .jcwait .. | .barinit .. | .bararr ..
  | .barwait .. | .copy .. | .waitt .. | .qbind .. | .qunbind .. | .qstat .. | .sopen .. | .sclose .. | .start .. | .reap .. | .endTask
  | .yield | .rand .. | .reseed .. | .mfs .. | .mts .. | .svc .. | .eret | .brk .. | .tlbi1 .. | .tlbi2 .. | .tlbsync => some .base
  | .vld .. | .vldNt .. | .vst .. | .vstNt .. | .vstKeep .. | .vadd .. | .vsub .. | .vmul .. | .vfma .. | .vmin .. | .vmax .. | .vrcp ..
  | .vrsqrt .. | .vexp2 .. | .vlog2 .. | .vabs .. | .vneg .. | .vcmpEq .. | .vcmpNe .. | .vcmpLt .. | .vcmpLe .. | .vsel .. | .vand ..
  | .vor .. | .vxor .. | .vandn .. | .vshl .. | .vshr .. | .vsar .. | .vcvt .. | .vsum .. | .vrmax .. | .vrmin .. | .vperm ..
  | .vbcast .. | .vins .. | .vextr .. | .vdot .. | .vtagg .. | .vtags .. | .vmov .. | .vscale .. => some .vec
  | .ldt .. | .stt .. | .ldtTag .. | .sttTag .. | .push .. => some .matrix
  | .cbld .. | .cbst .. | .vlut .. => some .cb4
  | .apply .. | .post .. | .mkfn .. | .mkco .. | .mkseq .. | .mkpar .. | .mkpipe .. | .mkfarm .. | .mkloop .. | .cresume .. | .cyield .. => some .comb
  | .gform .. | .gleave | .gjoin | .gend => some .gang
  | .migrate .. | .rethome => some .migr
  | .exq .. | .exh .. => some .stat
  | .wmap .. | .wunmap .. | .wflush .. | .wdrop .. | .wstat .. => some .win
  | .dtcTick | .deviceReset .. | .linkCrcReplay .. | .linkRetrain .. | .linkRetrainEnd .. | .powerCapHold .. | .thermalEvent
  | .thermalStop | .channelSlot .. | .channelRefreshSlot .. | .lp6ReadRepeat .. | .wstoreRefresh .. | .notify .. | .vcpTakeRecord ..
  | .launch .. | .cmdCopy .. | .wait .. | .waitMet .. | .waitTimeout .. | .signal .. | .wsopen .. | .wsopenComplete .. | .wsclose ..
  | .indirect .. | .recordComplete .. | .shadowQcbWrite .. | .featCommit .. | .functionLevelReset .. | .hostBar2Access ..
  | .registerWrite .. | .layoutCommit | .layoutDiscard | .layoutQuiesceDone | .layoutSweepDone | .layoutSwap | .poolSliceEnd ..
  | .sliceendForceSave .. | .poolSwitchDone .. | .launchAge .. | .launchDeadlineExpire .. | .porterSelect .. | .reserveComplete ..
  | .reserveRollback .. | .launchRetry .. | .foreignReserveRequest .. | .commitDone .. | .preemptSavesDone .. | .inboxRecordArrive ..
  | .compositeInstantiate .. | .peerLaunch .. | .gtqSegmentTake .. | .diffusionTick | .diffusionRecordArrive .. | .tileJcNotify ..
  | .tileSlot .. | .tileKStep .. | .tileOverrun .. | .tileTaskComplete .. | .accSlotSave .. | .frameStart .. | .slotServe ..
  | .sliceRequestArrive .. | .sweepStep .. | .benchBackoffRetry .. | .peerReadRequest .. | .peerWriteRequest .. | .peerAtomicRequest ..
  | .peerTagMessage .. | .peerFenceMarker .. | .peerMarkerAck .. | .peerResponse .. | .remoteFaultReport .. | .pageWalkRead ..
  | .faultReply .. | .invalidationArrive .. | .pageMigrationDone .. | .hostPageRequest .. | .migrationHoldExpire .. | .homeRds ..
  | .homeRdx .. | .homeUpg .. | .homeWb .. | .homeInvAck .. | .homeFwdDone .. | .homeAckMiss .. | .homeAckStale .. | .l1Data ..
  | .l1Grant .. | .l1Inv .. | .l1FwdS .. | .l1FwdX .. | .l1WbAck .. | .homeMerge .. | .mergeAck .. | .windowFill .. | .homeAmo ..
  | .homeRed .. | .homeTake .. | .homeTrytake .. | .homeWaitw .. | .homePut .. | .homePutx .. | .homeJcdec .. | .homeJcwait ..
  | .homeBararr .. | .homeBarwait .. | .homeWsWrite .. | .homeWsLoad .. | .homeWithdraw .. | .fenceMarker .. | .markerAck ..
  | .storageError .. | .producerArrive .. | .waitlimExpire .. | .streamHeadFlit .. | .streamWordArrive .. | .gangForward ..
  | .preemptRequest .. | .forcedSave .. | .saveDone .. | .saveWriteFault .. | .cupboardRetry .. | .contextRestore .. | .asyncTrap ..
  | .taskAbort .. | .copyComplete .. | .waittWake .. | .instructionLineFill .. | .homeJcinit .. | .homeBarinit .. | .homeTagWrite .. => none

/-- The operations on two registers, which give their result at issue (R276, R286, R288). -/
def twoSources (d : GReg) (b c : Src) : List Instr :=
  [.add d b c, .sub d b c, .addw d b c, .subw d b c, .and d b c, .or d b c, .xor d b c, .andn d b c, .shl d b c, .shr d b c, .sar d b c,
    .rol d b c, .seq d b c, .sne d b c, .slt d b c, .sltu d b c, .min d b c, .max d b c, .minu d b c, .maxu d b c, .mul d b c, .mulh d b c,
    .mulhu d b c, .mulw d b c, .fadd d b c, .fsub d b c, .fmul d b c, .fmin d b c, .fmax d b c]

/-- The operations on two registers whose result arrives later (R277, R286). -/
def twoSourcesLater (d : GReg) (b c : Src) : List Instr := [.div d b c, .divu d b c, .rem d b c, .remu d b c, .fdiv d b c]

/-- The operations on one register (R278, R280, R281, R289). -/
def oneSource (d : GReg) (b : Src) (i : BitVec 21) (n pos len : BitVec 6) (rm : BitVec 2) : List Instr :=
  [.addi d b i, .andi d b i, .ori d b i, .xori d b i, .slti d b i, .sltiu d b i, .shli d b n, .shri d b n, .sari d b n, .addwi d b i, .clz d b,
    .ctz d b, .popc d b, .bswap d b, .sextB d b, .sextH d b, .sextW d b, .zextW d b, .extu d b pos len, .exts d b pos len, .fclass d b,
    .fcvtWF d b rm, .fcvtFW d b rm, .fcvtBfF d b rm, .fcvtFBf d b, .fcvtHF d b rm, .fcvtFH d b]

/-- The operations on two vector registers under a lane mask (R319 to R325). -/
noncomputable def vecTwo (v : VReg) (b c : VSrc) (m : Src) (ty : BitVec 3) : List Instr :=
  [.vadd v b c m ty, .vsub v b c m ty, .vmul v b c m ty, .vmin v b c m ty, .vmax v b c m ty, .vand v b c m ty, .vor v b c m ty, .vxor v b c m ty,
    .vandn v b c m ty, .vshl v b c m ty, .vshr v b c m ty, .vsar v b c m ty]

/-- Two states agree on every byte and tag of device memory and of every local store, and on every line of every L1. -/
def State.sameMemory (s t : State) : Prop :=
  (∀ a, mget t.mem a = mget s.mem a) ∧ (∀ k, t.tagAt k = s.tagAt k)
    ∧ ∀ k, (∀ a, mget (t.core k).ls a = mget (s.core k).ls a) ∧ (t.core k).lsTag = (s.core k).lsTag ∧ (t.core k).l1 = (s.core k).l1

/-- Two states agree on what a context holds beside the registers listed (64 and up are vector registers): its other registers with their full
bits, its trap registers, its level, owner and SPACE, its queue bindings, and what the owner and the device hold for it. -/
def State.sameBeside (s t : State) (n : Nat) (ds : List Nat) : Prop :=
  (∀ r, r < 64 → r ∉ ds → (t.ctx n).g.toList.getD r 0 = (s.ctx n).g.toList.getD r 0 ∧ (t.ctx n).gFull.getLsbD r = (s.ctx n).gFull.getLsbD r)
    ∧ (t.ctx n).vset = (s.ctx n).vset
    ∧ (∀ k r, r < 32 → ((s.ctx n).vset ≠ some k ∨ 64 + r ∉ ds) →
      let x := (s.core (coreOf n)).vset k
      let y := (t.core (coreOf n)).vset k
      (tget y.v r).getD 0 = (tget x.v r).getD 0 ∧ (tget y.tag r).getD 0 = (tget x.tag r).getD 0 ∧ y.full.getLsbD r = x.full.getLsbD r)
    ∧ (t.ctx n).epc = (s.ctx n).epc ∧ (t.ctx n).ecause = (s.ctx n).ecause ∧ (t.ctx n).eval = (s.ctx n).eval
    ∧ (t.ctx n).einfo = (s.ctx n).einfo ∧ (t.ctx n).erf0 = (s.ctx n).erf0 ∧ (t.ctx n).erf1 = (s.ctx n).erf1
    ∧ (t.ctx n).waitlim = (s.ctx n).waitlim ∧ (t.ctx n).level = (s.ctx n).level ∧ (t.ctx n).owner = (s.ctx n).owner
    ∧ (t.ctx n).space = (s.ctx n).space ∧ (t.ctx n).bind = (s.ctx n).bind
    ∧ t.owners = s.owners ∧ t.tvecF = s.tvecF ∧ t.dtc = s.dtc

/-- Every other context stands as it did, but that a queue which moves may wake it (R196). -/
def State.sameOthers (s t : State) (n : Nat) : Prop :=
  ∀ m, m ≠ n → t.ctx m = s.ctx m ∨ t.ctx m = { s.ctx m with state := .live }

/-- The canonical form of every memory of the device: the device memory, and each core's local store (log 5). -/
def State.memOk (s : State) : Bool := Memory.wf s.mem && s.cores.all fun e => Memory.wf e.2.ls

end Sys2Proof.Machine
end

