-- ==== Sys2Proof/Certificates/Slice0/Obligations.lean ====
section
/-!
DEFINITION. The statements for the provers.
-/

open Sys2Proof Sys2Proof.Machine

/-- R276: each operation on two registers is read from its opcode and F, and writes its stated function of B and C into A, at issue. -/
def Obligations.IntegerOps : Prop :=
  ∀ (s : State) (d : GReg) (b c : Src), s.mayUse .base = true → s.readable [src b, src c, dst d] = true →
    let x := s.gValue b.reg.toNat
    let y := s.gValue c.reg.toNat
    let n := y.toNat % 64
    let gives (v : Word) : Host.Outcome State Fault Refusal := .next (s.givesG [src b, src c, dst d] d v)
    let reads (op : BitVec 7) (f : BitVec 2) (i : Instr) : Prop := decode (mkHead 1 op d) (T2R.toTail ⟨b, c, f⟩) = some i
    exec (.add d b c) s = gives (x + y)
    ∧ exec (.sub d b c) s = gives (x - y)
    ∧ exec (.addw d b c) s = gives (((x + y).extractLsb' 0 32).signExtend 64)
    ∧ exec (.subw d b c) s = gives (((x - y).extractLsb' 0 32).signExtend 64)
    ∧ exec (.and d b c) s = gives (x &&& y)
    ∧ exec (.or d b c) s = gives (x ||| y)
    ∧ exec (.xor d b c) s = gives (x ^^^ y)
    ∧ exec (.andn d b c) s = gives (x &&& ~~~y)
    ∧ exec (.shl d b c) s = gives (x <<< n)
    ∧ exec (.shr d b c) s = gives (x >>> n)
    ∧ exec (.sar d b c) s = gives (x.sshiftRight n)
    ∧ exec (.rol d b c) s = gives (x.rotateLeft n)
    ∧ exec (.seq d b c) s = gives (if x = y then 1 else 0)
    ∧ exec (.sne d b c) s = gives (if x = y then 0 else 1)
    ∧ exec (.slt d b c) s = gives (if x.toInt < y.toInt then 1 else 0)
    ∧ exec (.sltu d b c) s = gives (if x.toNat < y.toNat then 1 else 0)
    ∧ exec (.min d b c) s = gives (if x.toInt ≤ y.toInt then x else y)
    ∧ exec (.max d b c) s = gives (if y.toInt ≤ x.toInt then x else y)
    ∧ exec (.minu d b c) s = gives (if x.toNat ≤ y.toNat then x else y)
    ∧ exec (.maxu d b c) s = gives (if y.toNat ≤ x.toNat then x else y)
    ∧ exec (.mul d b c) s = gives (x * y)
    ∧ exec (.mulh d b c) s = gives (((x.signExtend 128 * y.signExtend 128).extractLsb' 64 64))
    ∧ exec (.mulhu d b c) s = gives (((x.setWidth 128 * y.setWidth 128).extractLsb' 64 64))
    ∧ exec (.mulw d b c) s = gives (((x * y).extractLsb' 0 32).signExtend 64)
    ∧ reads 0x01 0 (.add d b c)
    ∧ reads 0x01 1 (.sub d b c)
    ∧ reads 0x01 2 (.addw d b c)
    ∧ reads 0x01 3 (.subw d b c)
    ∧ reads 0x02 0 (.and d b c)
    ∧ reads 0x02 1 (.or d b c)
    ∧ reads 0x02 2 (.xor d b c)
    ∧ reads 0x02 3 (.andn d b c)
    ∧ reads 0x03 0 (.shl d b c)
    ∧ reads 0x03 1 (.shr d b c)
    ∧ reads 0x03 2 (.sar d b c)
    ∧ reads 0x03 3 (.rol d b c)
    ∧ reads 0x04 0 (.seq d b c)
    ∧ reads 0x04 1 (.sne d b c)
    ∧ reads 0x04 2 (.slt d b c)
    ∧ reads 0x04 3 (.sltu d b c)
    ∧ reads 0x05 0 (.min d b c)
    ∧ reads 0x05 1 (.max d b c)
    ∧ reads 0x05 2 (.minu d b c)
    ∧ reads 0x05 3 (.maxu d b c)
    ∧ reads 0x06 0 (.mul d b c)
    ∧ reads 0x06 1 (.mulh d b c)
    ∧ reads 0x06 2 (.mulhu d b c)
    ∧ reads 0x06 3 (.mulw d b c)

/-- R277: a division empties its destination and sends its quotient or remainder, rounded toward zero. By zero DIV and DIVU give all ones and REM and
REMU the dividend, and no division traps. -/
def Obligations.DivisionOps : Prop :=
  ∀ (s : State) (d : GReg) (b c : Src), s.mayUse .base = true → s.readable [src b, src c, dst d] = true →
    let x := s.gValue b.reg.toNat
    let y := s.gValue c.reg.toNat
    let gives (v : Word) : Host.Outcome State Fault Refusal := .next (s.givesLater [src b, src c, dst d] (.g d.toNat) (.word v))
    let reads (f : BitVec 2) (i : Instr) : Prop := decode (mkHead 1 0x07 d) (T2R.toTail ⟨b, c, f⟩) = some i
    exec (.div d b c) s = gives (if y = 0 then BitVec.allOnes 64 else BitVec.ofInt 64 (x.toInt.tdiv y.toInt))
    ∧ exec (.rem d b c) s = gives (if y = 0 then x else BitVec.ofInt 64 (x.toInt.tmod y.toInt))
    ∧ exec (.divu d b c) s = gives (if y = 0 then BitVec.allOnes 64 else BitVec.ofNat 64 (x.toNat / y.toNat))
    ∧ exec (.remu d b c) s = gives (if y = 0 then x else BitVec.ofNat 64 (x.toNat % y.toNat))
    ∧ reads 0 (.div d b c) ∧ reads 1 (.divu d b c) ∧ reads 2 (.rem d b c) ∧ reads 3 (.remu d b c)

/-- R268, R278, R279 and R283: each is read from its encoding; NOP only advances; an immediate operation combines B with its sign-extended immediate; LI, LIW and LID
write a constant; LPC writes the address of a label. -/
def Obligations.ImmediateOps : Prop :=
  ∀ (s : State) (d : GReg) (b : Src) (i : BitVec 21) (n : BitVec 6) (i16 : BitVec 16) (i32 : BitVec 32) (i64 : BitVec 64) (disp : BitVec 24),
    s.mayUse .base = true →
    let x := s.gValue b.reg.toNat
    let e := i.signExtend 64
    let gives (v : Word) : Host.Outcome State Fault Refusal := .next (s.givesG [src b, dst d] d v)
    let reads (f : BitVec 4) (k : BitVec 21) (j : Option Instr) : Prop := decode (mkHead 2 0x08 d) (T4I.toTail ⟨b, f, k⟩) = j
    exec .nop s = .next s.done
    ∧ decode 0 0 = some .nop ∧ (d ≠ 0 → ∀ t, decode (mkHead 0 0 d) t = none)
    ∧ reads 0 i (some (.addi d b i)) ∧ reads 1 i (some (.andi d b i)) ∧ reads 2 i (some (.ori d b i)) ∧ reads 3 i (some (.xori d b i))
    ∧ reads 4 i (some (.slti d b i)) ∧ reads 5 i (some (.sltiu d b i)) ∧ reads 9 i (some (.addwi d b i))
    ∧ (i.toNat < 64 → let k : BitVec 6 := i.extractLsb' 0 6
      reads 6 i (some (.shli d b k)) ∧ reads 7 i (some (.shri d b k)) ∧ reads 8 i (some (.sari d b k)))
    ∧ (64 ≤ i.toNat → reads 6 i none ∧ reads 7 i none ∧ reads 8 i none)
    ∧ (∀ f : BitVec 4, 10 ≤ f.toNat → reads f i none)
    ∧ decode (mkHead 1 0x09 d) (i16.setWidth 96) = some (.li d i16) ∧ decode (mkHead 2 0x0A d) (i32.setWidth 96) = some (.liw d i32)
    ∧ decode (mkHead 4 0x0B d) (i64.setWidth 96) = some (.lid d i64)
    ∧ decode (mkHead 2 0x0F d) (T4B.toTail ⟨z, false, disp⟩) = some (.lpc d disp)
    ∧ (s.readable [src b, dst d] = true →
      exec (.addi d b i) s = gives (x + e)
      ∧ exec (.andi d b i) s = gives (x &&& e)
      ∧ exec (.ori d b i) s = gives (x ||| e)
      ∧ exec (.xori d b i) s = gives (x ^^^ e)
      ∧ exec (.slti d b i) s = gives (if x.toInt < e.toInt then 1 else 0)
      ∧ exec (.sltiu d b i) s = gives (if x.toNat < e.toNat then 1 else 0)
      ∧ exec (.shli d b n) s = gives (x <<< n.toNat)
      ∧ exec (.shri d b n) s = gives (x >>> n.toNat)
      ∧ exec (.sari d b n) s = gives (x.sshiftRight n.toNat)
      ∧ exec (.addwi d b i) s = gives (((x + e).extractLsb' 0 32).signExtend 64))
    ∧ (s.dstReady d.toNat = true →
      exec (.li d i16) s = .next (s.wrote d (i16.signExtend 64)).done
      ∧ exec (.liw d i32) s = .next (s.wrote d (i32.signExtend 64)).done
      ∧ exec (.lid d i64) s = .next (s.wrote d i64).done
      ∧ exec (.lpc d disp) s = .next (s.wrote d (s.here.pc + 2 * disp.signExtend 64)).done)

/-- R280 to R282: bit counts, byte swap, extensions, bit fields (a length of 0 stands for 64) and SEL, which reads all three sources. -/
def Obligations.BitOps : Prop :=
  ∀ (s : State) (d : GReg) (b c e : Src) (pos len : BitVec 6), s.mayUse .base = true →
    let x := s.gValue b.reg.toNat
    let old := s.gValue d.toNat
    let l := if len = 0 then 64 else len.toNat
    let m : Word := BitVec.ofNat 64 (2 ^ l - 1)
    let gives (v : Word) : Host.Outcome State Fault Refusal := .next (s.givesG [src b, dst d] d v)
    (s.readable [src b, dst d] = true →
      (x = 0 → exec (.clz d b) s = gives 64 ∧ exec (.ctz d b) s = gives 64 ∧ exec (.popc d b) s = gives 0)
      ∧ (∀ k, k < 64 → x.getLsbD k = true → (∀ j, k < j → x.getLsbD j = false) → exec (.clz d b) s = gives (BitVec.ofNat 64 (63 - k)))
      ∧ (∀ k, k < 64 → x.getLsbD k = true → (∀ j, j < k → x.getLsbD j = false) → exec (.ctz d b) s = gives (BitVec.ofNat 64 k))
      ∧ exec (.popc d b) s = gives (BitVec.ofNat 64 ((List.range 64).countP fun k => x.getLsbD k))
      ∧ (∃ v : Word, exec (.bswap d b) s = gives v ∧ ∀ k, k < 8 → v.extractLsb' (8 * k) 8 = x.extractLsb' (56 - 8 * k) 8)
      ∧ exec (.sextB d b) s = gives ((x.extractLsb' 0 8).signExtend 64)
      ∧ exec (.sextH d b) s = gives ((x.extractLsb' 0 16).signExtend 64)
      ∧ exec (.sextW d b) s = gives ((x.extractLsb' 0 32).signExtend 64)
      ∧ exec (.zextW d b) s = gives ((x.extractLsb' 0 32).setWidth 64)
      ∧ (pos.toNat + l ≤ 64 →
        exec (.extu d b pos len) s = gives ((x >>> pos.toNat) &&& m)
        ∧ exec (.exts d b pos len) s = gives ((x <<< (64 - l - pos.toNat)).sshiftRight (64 - l))))
    ∧ (s.readable [src b, src0 d, dst d] = true → pos.toNat + l ≤ 64 →
      exec (.ins d b pos len) s =
        .next (s.givesG [src b, src0 d, dst d] d ((old &&& ~~~(m <<< pos.toNat)) ||| ((x &&& m) <<< pos.toNat))))
    ∧ (s.readable [src b, src c, src e, dst d] = true →
      exec (.sel d b c e) s = .next (s.givesG [src b, src c, src e, dst d] d
        (if x = 0 then s.gValue e.reg.toNat else s.gValue c.reg.toNat)))

/-- R285 to R289: scalar FP32 results are rounded to nearest even, ties to even, and zero-extended; FDIV and FSQRT arrive later, the others at issue.
When a later result arrives is the model's choice (log 2). -/
def Obligations.FloatOps : Prop :=
  ∀ (s : State) (d c' : GReg) (b c e : Src) (rm : BitVec 2), s.mayUse .base = true →
    let f (r : Src) : Nat := (s.gValue r.reg.toNat).toNat % 2 ^ 32
    let x := f b
    let y := f c
    let w := f e
    let g := (s.gValue c'.toNat).toNat % 2 ^ 32
    let two (v : Nat) : Host.Outcome State Fault Refusal := .next (s.givesG [src b, src c, dst d] d (w64 v))
    let one (v : Nat) : Host.Outcome State Fault Refusal := .next (s.givesG [src b, dst d] d (w64 v))
    let cmp (v : Bool) : Host.Outcome State Fault Refusal := .next (s.givesG [src b, src0 c', dst d] d (if v then 1 else 0))
    let fma (v : Nat) : Host.Outcome State Fault Refusal := .next (s.givesG [src b, src c, src e, dst d] d (w64 v))
    (s.readable [src b, src c, dst d] = true →
      exec (.fadd d b c) s = two (fp32.addB x y)
      ∧ exec (.fsub d b c) s = two (fp32.subB x y)
      ∧ exec (.fmul d b c) s = two (fp32.mulB x y)
      ∧ exec (.fmin d b c) s = two (fp32.minmax x y false)
      ∧ exec (.fmax d b c) s = two (fp32.minmax x y true)
      ∧ exec (.fdiv d b c) s = .next (s.givesLater [src b, src c, dst d] (.g d.toNat) (.word (w64 (fp32.divB x y)))))
    ∧ (s.readable [src b, dst d] = true →
      exec (.fsqrt d b) s = .next (s.givesLater [src b, dst d] (.g d.toNat) (.word (w64 (fp32.sqrtB x))))
      ∧ exec (.fclass d b) s = one (classMask x)
      ∧ exec (.fcvtWF d b rm) s =
        .next (s.givesG [src b, dst d] d (BitVec.ofInt 64 (toIntSat rm (-(2 ^ 31)) (2 ^ 31 - 1) (fp32.value x))))
      ∧ exec (.fcvtFW d b rm) s = one (fp32.ofVal rm (.ofInt (asInt 32 x)))
      ∧ exec (.fcvtBfF d b rm) s = one (bf16.ofVal rm (fp32.value x))
      ∧ exec (.fcvtFBf d b) s = one (fp32.ofVal 0 (bf16.value (x % 2 ^ 16)))
      ∧ exec (.fcvtHF d b rm) s = one (fp16.ofVal rm (fp32.value x))
      ∧ exec (.fcvtFH d b) s = one (fp32.ofVal 0 (fp16.value (x % 2 ^ 16))))
    ∧ (s.readable [src b, src0 c', dst d] = true →
      exec (.feq d b c') s = cmp ((fp32.value x).cmp (fp32.value g) == some 0)
      ∧ exec (.flt d b c') s = cmp ((fp32.value x).cmp (fp32.value g) == some (-1))
      ∧ exec (.fle d b c') s = cmp ((fp32.value x).cmp (fp32.value g) == some 0 || (fp32.value x).cmp (fp32.value g) == some (-1)))
    ∧ (s.readable [src b, src c, src e, dst d] = true →
      exec (.ffma d b c e) s = fma (fp32.fmaB x y w false false)
      ∧ exec (.ffms d b c e) s = fma (fp32.fmaB x y w false true)
      ∧ exec (.fnma d b c e) s = fma (fp32.fmaB x y w true false)
      ∧ exec (.fnms d b c e) s = fma (fp32.fmaB x y w true true))

/-- R290 to R293: a branch whose condition holds goes to pc + 2 times its displacement once the target's checks pass; one whose condition does not hold
checks no target. JAL and JALR write the address of the next instruction into A. -/
def Obligations.BranchOps : Prop :=
  ∀ (s : State) (a b : Src) (d : GReg) (disp : BitVec 24) (i : BitVec 21) (pa : Nat) (e : TlbEntry), s.mayUse .base = true →
    let x := s.gValue a.reg.toNat
    let y := s.gValue b.reg.toNat
    let t := s.here.pc + 2 * disp.signExtend 64
    let runs (j : Instr) (cond : Prop) : Prop :=
      (cond → s.codeAt t pa e = true → exec j s = .next (s.transfers [src a, src b] t))
      ∧ (¬cond → exec j s = .next (s.popAll [src a, src b]).done)
    (s.readable [src a, src b] = true →
      runs (.beq a b disp) (x = y)
      ∧ runs (.bne a b disp) (x ≠ y)
      ∧ runs (.blt a b disp) (x.toInt < y.toInt)
      ∧ runs (.bge a b disp) (y.toInt ≤ x.toInt)
      ∧ runs (.bltu a b disp) (x.toNat < y.toNat)
      ∧ runs (.bgeu a b disp) (y.toNat ≤ x.toNat))
    ∧ (s.dstReady d.toNat = true → s.codeAt t pa e = true →
      exec (.jal d disp) s = .next ((s.wrote d s.here.npc).transfers [] t))
    ∧ (s.readable [src b, dst d] = true → s.codeAt (y + i.signExtend 64) pa e = true →
      exec (.jalr d b i) s = .next (((s.popAll [src b]).wrote d s.here.npc).transfers [] (y + i.signExtend 64)))

/-- R295 and R69: with no save asked for, SAFEPT clears the context's count of instructions since a safe point and goes on; with one asked for, or
after the end of its owner's slice, the save of the registers it names begins. -/
def Obligations.SafePoint : Prop :=
  ∀ (s : State) (g : BitVec 64) (v : BitVec 32), s.mayUse .base = true → s.cur % 16 ≠ 0 →
    (s.here.saveReq = false → s.here.sliceSince = none →
      exec (.safept g v) s = .next (s.done.modCtx s.cur fun c => { c with spcount := 0 }))
    ∧ (s.here.saveReq = true ∨ s.here.sliceSince.isSome = true →
      exec (.safept g v) s = .next ((s.done.mergeWindows s.cur false).beginSave s.cur g v))

/-- R299 to R302: a load from the context's own local store takes its bytes little-endian from the block that holds the address, sign- or zero-extends them and
sends them to its destination; a vector load takes the block and its tag. An LDA beyond scope ctx, with no earlier STL outstanding (R182), holds back
later memory instructions.
When a result that is sent arrives is the model's choice (log 2). -/
def Obligations.LocalLoads : Prop :=
  ∀ (s : State) (d : GReg) (v : VReg) (b : Src) (i : BitVec 21) (sc : BitVec 3) (w : BitVec 2) (j : BitVec 19) (off : Nat),
    let va := s.gValue b.reg.toNat + i.signExtend 64
    let ops := [src b]
    let raw (n : Nat) : Nat := (s.ownBlock off).1.toNat / 2 ^ (8 * (off % 64)) % 2 ^ (8 * n)
    let sends (n : Nat) (x : Word) : Host.Outcome State Fault Refusal :=
      .next (s.givesLoad ops (.g d.toNat) (s.localReq va n) false (.word x))
    (s.mayUse .base = true → s.readable [src b, dst d] = true →
      (s.localOk va 1 off false = true →
        exec (.ldB d b i) s = sends 1 ((BitVec.ofNat 8 (raw 1)).signExtend 64) ∧ exec (.ldBu d b i) s = sends 1 (BitVec.ofNat 64 (raw 1)))
      ∧ (s.localOk va 2 off false = true →
        exec (.ldH d b i) s = sends 2 ((BitVec.ofNat 16 (raw 2)).signExtend 64) ∧ exec (.ldHu d b i) s = sends 2 (BitVec.ofNat 64 (raw 2)))
      ∧ (s.localOk va 4 off false = true →
        exec (.ldW d b i) s = sends 4 ((BitVec.ofNat 32 (raw 4)).signExtend 64) ∧ exec (.ldWu d b i) s = sends 4 (BitVec.ofNat 64 (raw 4)))
      ∧ (s.localOk va 8 off false = true → exec (.ldD d b i) s = sends 8 (BitVec.ofNat 64 (raw 8))))
    ∧ (let va' := s.gValue b.reg.toNat + j.signExtend 64
      s.mayUse .base = true → ((sc = 5 ∨ sc = 6) → s.mayUse .peer = true) → s.readable [src b, dst d] = true →
      (sc = 0 ∨ s.here.releases = []) → s.localOk va' (2 ^ w.toNat) off false = true →
      exec (.lda d b sc w j) s = .next (s.givesLoad ops (.g d.toNat) (s.localReq va' (2 ^ w.toNat)) (sc != 0)
        (.word (BitVec.ofNat 64 (raw (2 ^ w.toNat))))))
    ∧ (s.mayVec .vec = true → s.readable [src b, vdst v] = true → s.localOk va 64 off false = true →
      let sent : Host.Outcome State Fault Refusal :=
        .next (s.givesLoad ops (.v v.toNat) (s.localReq va 64) false (.vec (s.ownBlock off).1 (s.ownBlock off).2))
      exec (.vld v b i) s = sent ∧ exec (.vldNt v b i) s = sent)

/-- R299, R300 and R302: a store to the context's own local store writes the low bytes of A at the address and nothing else; a vector store writes the
block and leaves its tag. -/
def Obligations.LocalStores : Prop :=
  ∀ (s : State) (a : GReg) (v : VReg) (b : Src) (i : BitVec 21) (off : Nat),
    let va := s.gValue b.reg.toNat + i.signExtend 64
    let x := s.gValue a.toNat
    let stores (n : Nat) : Host.Outcome State Fault Refusal := .next (s.storesLocal [src0 a, src b] off
      ⟨placeBytes (va.toNat % 64) (x.toNat % 2 ^ (8 * n)), rangeMask (va.toNat % 64) n, none⟩)
    (s.mayUse .base = true → s.readable [src0 a, src b] = true →
      (s.localOk va 1 off true = true → exec (.stB a b i) s = stores 1)
      ∧ (s.localOk va 2 off true = true → exec (.stH a b i) s = stores 2)
      ∧ (s.localOk va 4 off true = true → exec (.stW a b i) s = stores 4)
      ∧ (s.localOk va 8 off true = true → exec (.stD a b i) s = stores 8))
    ∧ (s.mayVec .vec = true → s.readable [vsrc0 v, src b] = true → s.localOk va 64 off true = true →
      let stored : Host.Outcome State Fault Refusal :=
        .next (s.storesLocal [src b] off ⟨s.vData v.toNat, BitVec.allOnes 64, none⟩)
      exec (.vst v b i) s = stored ∧ exec (.vstNt v b i) s = stored ∧ exec (.vstKeep v b i) s = stored)

/-- R301 and R178: an STL at scope ctx stores at once; at a wider scope its store is held by a release that begins, and the context goes on.
The place in the agenda of the steps it posts is the model's choice (log 2). -/
def Obligations.ReleasingStores : Prop :=
  ∀ (s : State) (a : GReg) (b : Src) (sc : BitVec 3) (w : BitVec 2) (j : BitVec 19) (off : Nat),
    s.mayUse .base = true → ((sc = 5 ∨ sc = 6) → s.mayUse .peer = true) → s.readable [src0 a, src b] = true → s.here.owed = none →
    (s.core (coreOf s.cur)).windows = [] → s.windowMerging (coreOf s.cur) true = false →
    let va := s.gValue b.reg.toNat + j.signExtend 64
    let n := 2 ^ w.toNat
    s.localOk va n off true = true →
    let r : Req := { s.localReq va n with
      op := .winFill, c := w64 off, data := placeBytes (va.toNat % 64) ((s.gValue a.toNat).toNat % 2 ^ (8 * n)),
      mask := rangeMask (va.toNat % 64) n }
    exec (.stl a b sc w j) s = .next ((s.startRelease s.cur sc false (some r)).popAll [src0 a, src b]).done

/-- R304 to R306 and R311, on local store: LDT converts the elements that C counts from, through their format and scale; STT converts the register's lanes and
writes FMT and SCALE; LDT.TAG and STT.TAG move a tag; CBLD and CBST move the 32 bytes of a codebook slot.
The number of the fault marker of a block load is the model's (log 14), and the order of STT's checks is its reading (log 63). -/
def Obligations.TypedAndTags : Prop :=
  ∀ (s : State) (d : GReg) (v : VReg) (k : BitVec 3) (b c m : Src) (ty : BitVec 3) (rm : BitVec 2) (inf : Bool) (scale : BitVec 8)
    (i : BitVec 21) (off : Nat),
    let va := s.gValue b.reg.toNat
    let e := (s.gValue c.reg.toNat).toNat
    let vi := va + i.signExtend 64
    let blk := s.ownBlock off
    (∀ ns, s.mayVec .matrix = true → (s.here.marker blockMarker).isNone = true →
      s.readable ([src b, src c] ++ maskOp m ++ [vdst v]) = true → s.localOk va 64 off false = true →
      fmtElems (tagFmt blk.2) = some ns → e + tyLanes ty ≤ ns →
      exec (.ldt v b c m ty rm inf) s = .next (s.givesLater ([src b, src c] ++ maskOp m ++ [vdst v]) (.v v.toNat)
        (.vec (ofLanes (tyWidth ty) ((upTo (tyLanes ty)).map fun n =>
          if (s.maskOf m).getLsbD n then
            loadElem (s.core (coreOf s.cur)).books blk.1 blk.2 (e + n) ty rm (!inf)
          else 0)) (stdTag ty))))
    ∧ (∀ se, s.mayVec .matrix = true → s.readable ([vsrc0 v, src b, src c] ++ maskOp m) = true → s.localOk va 64 off true = true →
      laneFmt (tagFmt (s.vTag v.toNat)) = true → fmtElem (tagFmt (s.vTag v.toNat)) = some se →
      512 / se.width ≤ tyLanes ty → e % (512 / se.width) = 0 → e + 512 / se.width ≤ tyLanes ty →
      exec (.stt v b c m ty rm inf scale) s = .next (s.storesLocal ([vsrc0 v, src b, src c] ++ maskOp m) off
        (typedStored (s.vData v.toNat) se e (s.maskOf m) ty rm (!inf) scale)))
    ∧ (s.mayUse .matrix = true → s.readable [src b, dst d] = true → s.localOk va 64 off false = true →
      exec (.ldtTag d b) s = .next (s.givesLoad [src b] (.g d.toNat) (s.localReq va 64) false (.word (blk.2.setWidth 64))))
    ∧ (s.mayUse .matrix = true → s.readable [src0 d, src b] = true → s.localOk va 64 off true = true →
      exec (.sttTag d b) s = .next ((s.popAll [src0 d, src b]).modCore (coreOf s.cur) fun x =>
        { x with lsTag := tagSet x.lsTag (off / 64) ((s.gValue d.toNat).extractLsb' 0 32 &&& 0xFF00FFFF) }).done)
    ∧ (s.mayUse .cb4 = true → s.readable [src b] = true → s.localOk vi 32 off false = true → (s.here.marker blockMarker).isNone = true →
      exec (.cbld k b i) s = .next ((s.popAll [src b]).modCore (coreOf (s.popAll [src b]).cur) fun x =>
        { x with books := tset x.books k.toNat (BitVec.ofNat 256 (blk.1.toNat / 2 ^ (8 * (vi.toNat % 64)) % 2 ^ (8 * 32))) }).done)
    ∧ (s.mayUse .cb4 = true → s.readable [src b] = true → s.localOk vi 32 off true = true →
      exec (.cbst k b i) s = .next (s.storesLocal [src b] off
        ⟨placeBytes (vi.toNat % 64) ((tget (s.core (coreOf s.cur)).books k.toNat).getD 0).toNat, rangeMask (vi.toNat % 64) 32, none⟩))

/-- R307 and R308: a prefetch pops its source, starts the fill that no check forbids, and always goes on; a maintenance instruction acts on the
blocks of its range and goes on, once the context's own accesses that wait at a line of its core have ended, those to SC pages apart (R163, R181). -/
def Obligations.CacheHints : Prop :=
  ∀ (s : State) (b c : Src) (i : BitVec 21) (sc : BitVec 3), s.mayUse .base = true →
    let va := s.gValue b.reg.toNat + i.signExtend 64
    let base := s.gValue b.reg.toNat
    let len := s.gValue c.reg.toNat
    let maint (f : Maint) : Host.Outcome State Fault Refusal := .next ((s.popAll [src b, src c]).maintRange f base len sc.toNat).done
    (s.readable [src b] = true →
      exec (.prefL1 b i) s = .next ((s.popAll [src b]).prefL1 va).done
      ∧ exec (.prefLlc b i) s = .next ((s.popAll [src b]).prefLlc va).done
      ∧ exec (.prefWin b i) s = .next ((s.popAll [src b]).prefWin va).done)
    ∧ (s.readable [src b, src c] = true → s.here.gated = false →
      ((s.core (coreOf s.cur)).l1.all fun e => e.2.ct == .sc || !(e.2.wait.any fun w => w.ctx == s.cur)) = true →
      exec (.cflush b c sc) s = maint .flush
      ∧ exec (.cclean b c sc) s = maint .clean
      ∧ exec (.cinval b c sc) s = maint .inval)

/-- R147, R309 and R310: WMAP binds the lowest free window number to its range with every block invalid; WUNMAP of a window with nothing dirty or in
flight unbinds it; WFLUSH and WDROP of a window with nothing dirty leave its data; WSTAT gives its status word, and 0 for one that is not bound. -/
def Obligations.WindowOps : Prop :=
  ∀ (s : State) (d : GReg) (b c e : Src), s.mayUse .win = true →
    let core := coreOf s.cur
    let l := s.gValue b.reg.toNat
    let v := s.gValue c.reg.toNat
    let n := s.gValue e.reg.toNat
    let w := l.toNat
    (∀ i, s.readable [src b, src c, src e, dst d] = true → s.here.gated = false → l.toNat % 64 = 0 → v.toNat % 64 = 0 → n.toNat % 64 = 0 →
      n ≠ 0 → l.toNat + n.toNat ≤ 0x80000 → v.toNat < 2 ^ 55 →
      (∀ x ∈ (s.core core).windows, overlap l.toNat n.toNat (64 * x.2.lblk) (64 * x.2.nblk) = false
        ∧ overlap v.toNat n.toNat x.2.va (64 * x.2.nblk) = false) →
      i < 16 → tget (s.core core).windows i = none → (∀ j, j < i → tget (s.core core).windows j ≠ none) →
      exec (.wmap d b c e) s = .next (((((s.popAll [src b, src c, src e]).modCore (coreOf (s.popAll [src b, src c, src e]).cur) fun k => { k with
        windows := tset k.windows i ⟨l.toNat / 64, v.toNat, n.toNat / 64, s.here.owner, s.here.space, s.here.level, []⟩ })).wrote d (BitVec.ofNat 64 i)).done))
    ∧ (w ≤ 15 → s.readable [src b] = true → s.here.gated = false →
      (tget (s.core core).windows w = none →
        exec (.wunmap b) s = .next (s.popAll [src b]).done
        ∧ exec (.wflush b) s = .next (s.popAll [src b]).done
        ∧ exec (.wdrop b) s = .next (s.popAll [src b]).done)
      ∧ (∀ x, tget (s.core core).windows w = some x → (∀ k ∈ x.blocks, k.2.d = 0) → s.here.unacked = 0 → s.windowFilling core w = false → s.here.owed = none →
        exec (.wunmap b) s = .next ((s.modCore core fun k => { k with windows := tdel k.windows w }).popAll [src b]).done
        ∧ exec (.wflush b) s = .next (s.popAll [src b]).done)
      ∧ (∀ x, tget (s.core core).windows w = some x → s.windowFilling core w = false →
        exec (.wdrop b) s = .next ((s.modCore core fun k => { k with windows := tset k.windows w { x with blocks := [] } }).popAll [src b]).done))
    ∧ (w ≤ 15 → s.readable [src b, dst d] = true →
      exec (.wstat d b) s = .next ((s.popAll [src b]).wrote d (match tget (s.core core).windows w with
        | some x => BitVec.ofNat 64 (1 + 2 * x.lblk + 2 ^ 14 * x.nblk + 2 ^ 28 * (x.blocks.countP fun k => k.2.v)
            + 2 ^ 42 * (x.blocks.countP fun k => k.2.d != 0))
        | none => 0)).done)

/-- R170, R171 and R312 on local store: an AMO sends the old value to its destination and stores its function's result; a RED stores it and returns nothing;
CAS stores only when the old value is the compared one. -/
def Obligations.LocalAtomics : Prop :=
  ∀ (s : State) (d : GReg) (b c e : Src) (wide : Bool) (ord : BitVec 2) (sc : BitVec 3) (off : Nat),
    s.mayUse .base = true → ((sc = 5 ∨ sc = 6) → s.mayUse .peer = true) → ord.getLsbD 1 = false →
    let va := s.gValue b.reg.toNat
    let size (w : Bool) : Nat := if w then 8 else 4
    let old (w : Bool) : Nat := (s.ownBlock off).1.toNat / 2 ^ (8 * (off % 64)) % 2 ^ (8 * size w)
    let arg (w : Bool) : Nat := (s.gValue c.reg.toNat).toNat % 2 ^ (8 * size w)
    let sgn (w : Bool) (v : Nat) : Int := (BitVec.ofNat (8 * size w) v).toInt
    let writes (w : Bool) (t : State) (v : Nat) : State :=
      t.localWrite (coreOf s.cur) off (placeBytes (off % 64) v) (rangeMask (off % 64) (size w)) none
    let sent (w : Bool) (ops : List Opnd) : State :=
      s.givesLoad ops (.g d.toNat) { s.localReq va (size w) with op := .amo } (ord.getLsbD 0 && sc != 0) (.word (BitVec.ofNat 64 (old w)))
    let gone : State := (s.popAll [src b, src c]).done
    (s.readable [src b, src c, dst d] = true → s.localOk va (size wide) off true = true →
      let gives (v : Nat) : Host.Outcome State Fault Refusal := .next (writes wide (sent wide [src b, src c]) v)
      exec (.amoAdd d b c wide ord sc) s = gives ((old wide + arg wide) % 2 ^ (8 * size wide))
      ∧ exec (.amoAnd d b c wide ord sc) s = gives (old wide &&& arg wide)
      ∧ exec (.amoOr d b c wide ord sc) s = gives (old wide ||| arg wide)
      ∧ exec (.amoXor d b c wide ord sc) s = gives (old wide ^^^ arg wide)
      ∧ exec (.amoMin d b c wide ord sc) s = gives (if sgn wide (old wide) ≤ sgn wide (arg wide) then old wide else arg wide)
      ∧ exec (.amoMax d b c wide ord sc) s = gives (if sgn wide (arg wide) ≤ sgn wide (old wide) then old wide else arg wide)
      ∧ exec (.amoMinu d b c wide ord sc) s = gives (min (old wide) (arg wide))
      ∧ exec (.amoMaxu d b c wide ord sc) s = gives (max (old wide) (arg wide))
      ∧ exec (.amoSwap d b c wide ord sc) s = gives (arg wide))
    ∧ (s.readable [src b, src c, dst d] = true → s.localOk va 4 off true = true →
      exec (.amoFadd d b c ord sc) s = .next (writes false (sent false [src b, src c]) (fp32.addB (old false) (arg false))))
    ∧ (s.readable [src b, src c, src e, dst d] = true → s.localOk va (size wide) off true = true →
      exec (.amoCas d b c e wide ord sc) s =
        if old wide = (s.gValue e.reg.toNat).toNat % 2 ^ (8 * size wide) then .next (writes wide (sent wide [src b, src c, src e]) (arg wide))
        else .next (sent wide [src b, src c, src e]))
    ∧ (s.readable [src b, src c] = true → s.localOk va (size wide) off true = true →
      let gives (v : Nat) : Host.Outcome State Fault Refusal := .next (writes wide gone v)
      exec (.redAdd b c wide false sc) s = gives ((old wide + arg wide) % 2 ^ (8 * size wide))
      ∧ exec (.redAnd b c wide false sc) s = gives (old wide &&& arg wide)
      ∧ exec (.redOr b c wide false sc) s = gives (old wide ||| arg wide)
      ∧ exec (.redXor b c wide false sc) s = gives (old wide ^^^ arg wide)
      ∧ exec (.redMin b c wide false sc) s = gives (if sgn wide (old wide) ≤ sgn wide (arg wide) then old wide else arg wide)
      ∧ exec (.redMax b c wide false sc) s = gives (if sgn wide (arg wide) ≤ sgn wide (old wide) then old wide else arg wide)
      ∧ exec (.redMinu b c wide false sc) s = gives (min (old wide) (arg wide))
      ∧ exec (.redMaxu b c wide false sc) s = gives (max (old wide) (arg wide)))
    ∧ (s.readable [src b, src c] = true → s.localOk va 4 off true = true →
      exec (.redFadd b c false sc) s = .next (writes false gone (fp32.addB (old false) (arg false))))

/-- R165, R172, R207 and R313: TAKE, WAITW and TRYTAKE of a word on an SC page empty their destinations and send the operation to the word's home, the
context going on; PUT and PUTX send it and the context waits for the home's answer.
The place in the agenda of the steps it posts is the model's choice (log 2). -/
def Obligations.HomeWords : Prop :=
  ∀ (s : State) (a : GReg) (b : Src) (i : BitVec 21) (pa : Nat) (e : TlbEntry), s.mayUse .base = true →
    let va := s.gValue b.reg.toNat + i.signExtend 64
    let s1 := s.popAll [src b]
    let began (op : HomeOp) : State := (s1.beganLoad (.g a.toNat) (s.homeReq op pa va) false true).done
    let put (op : HomeOp) : State :=
      let r : Req := { s.homeReq op pa va with x := s.gValue a.toNat }
      let t := (s.began (.g 0) (some r) false).send { r with pid := s.nextId }
      t.modCtx t.cur fun c => c.block (.putAnswer va) t.dtc
    (s.readable [src b, dst a] = true → homeWaiting s.here < 16 →
      (s.homeAt va .atomic true pa e = true →
        exec (.take a b i) s = .next ((began .take).send { s.homeReq .take pa va with pid := s1.nextId }))
      ∧ (s.homeAt va .read true pa e = true →
        exec (.waitw a b i) s = .next ((began .waitw).send { s.homeReq .waitw pa va with pid := s1.nextId })))
    ∧ (s.readable [src b, dst a, .dst (a.toNat + 1)] = true → s.homeAt va .atomic true pa e = true →
      exec (.trytake a b i) s =
        .next (((began .trytake).began (.g (a.toNat + 1)) none false).send { s.homeReq .trytake pa va with pid := s1.nextId }))
    ∧ (s.readable [src0 a, src b] = true → s.homeAt va .write true pa e = true →
      exec (.put a b i) s = .next (put .put) ∧ exec (.putx a b i) s = .next (put .putx))

/-- R174, R316 and R317: JCINIT, JCDEC and BARINIT leave for the counter's home and the context goes on; JCWAIT, BARARR and BARWAIT leave and the context
waits for the home's answer.
The place in the agenda of the steps it posts is the model's choice (log 2). -/
def Obligations.CountersAndBarriers : Prop :=
  ∀ (s : State) (d : GReg) (b c : Src) (pa : Nat) (e : TlbEntry), s.mayUse .base = true →
    let va := s.gValue b.reg.toNat
    let x := s.gValue c.reg.toNat
    let posts (ops : List Opnd) (r : Req) : Host.Outcome State Fault Refusal := .next ((s.popAll ops).send r).done
    let waits (k : Nat) (r : Req) (w : Wait) : Host.Outcome State Fault Refusal :=
      let t := (s.began (.g k) (some r) false).send { r with pid := s.nextId }
      .next (t.modCtx t.cur fun c => c.block w t.dtc)
    (s.readable [src b, src c] = true →
      (s.homeAt va .write false pa e = true →
        exec (.jcinit b c) s = posts [src b, src c] { s.homeReq .jcinit pa va with x := x }
        ∧ exec (.barinit b c) s = posts [src b, src c] { s.homeReq .barinit pa va with x := x })
      ∧ (s.homeAt va .read false pa e = true → exec (.barwait b c) s = waits 0 { s.homeReq .barwait pa va with c := x } (.bar va)))
    ∧ (s.readable [src b] = true →
      (s.homeAt va .atomic false pa e = true → exec (.jcdec b) s = posts [src b] (s.homeReq .jcdec pa va))
      ∧ (s.homeAt va .read false pa e = true → exec (.jcwait b) s = waits 0 (s.homeReq .jcwait pa va) (.jc va)))
    ∧ (s.readable [src b, dst d] = true → s.homeAt va .atomic false pa e = true →
      exec (.bararr d b) s = waits d.toNat (s.homeReq .bararr pa va) (.putAnswer va))

/-- R178, R314, R180 and R315: with nothing of the context's outstanding, FENCE, ACQR and RELR go on, the acquiring ones having acted on the windows of the
core; MIGRATE to the core a context is on goes on, and to another moves the context to a free helper there once its stores are acknowledged and its PV lines
written; RETHOME of a context that has not migrated goes on, and of one that has returns it to its slot.
The place in the agenda of the steps it posts is the model's choice (log 2). -/
def Obligations.FencesAndMigration : Prop :=
  ∀ (s : State) (b c : Src) (sc : BitVec 3) (pa : Nat) (e : TlbEntry),
    let core := coreOf s.cur
    let va := s.gValue b.reg.toNat
    let len := s.gValue c.reg.toNat
    let quiet : Prop := s.here.gated = false ∧ s.here.releases = [] ∧ s.here.lastWait = none ∧ s.here.owed = none ∧ s.here.ws = []
      ∧ (s.core core).windows = []
    let rel : State := s.startRelease s.cur sc true none
    let away : State := (s.startRelease s.cur 0 false none).leavePv core s.here.owner
    let left : Prop := away.leaving (coreOf away.cur) away.here.owner = false ∧ away.here.unacked = 0 ∧ away.here.releases = []
      ∧ away.storesWaiting away.cur = false ∧ away.copiesOut away.cur = false ∧ away.tilesOut away.cur = false
    (s.mayUse .base = true → ((sc = 5 ∨ sc = 6) → s.mayUse .peer = true) →
      (quiet → rel.here.releases = [] → rel.here.owed = none →
        exec (.fence sc) s = .next (if sc = 0 then rel.done else (rel.acquireWindows (coreOf rel.cur)).done))
      ∧ (s.readable [src b, src c] = true → s.here.gated = false → (s.here.producers.any fun p => p.home.isSome) = false →
        exec (.acqr b c sc) s = .next (if sc ≠ 0 ∧ len ≠ 0 then ((s.acquireRange core va len.toNat).popAll [src b, src c]).done
          else (s.popAll [src b, src c]).done))
      ∧ (s.readable [src b, src c] = true → quiet → rel.here.releases = [] → rel.here.owed = none →
        exec (.relr b c sc) s = .next (if len = 0 then (s.popAll [src b, src c]).done else (rel.popAll [src b, src c]).done)))
    ∧ (s.mayUse .migr = true → s.readable [src b] = true → s.memAt va 1 .read pa e = true → regionOf pa = .lp6 → s.here.vset = none →
      s.here.bind = [] → s.here.gang = none → let side := 1024 + channelOf pa
      (core = side → exec (.migrate b) s = .next (s.popAll [src b]).done)
      ∧ (∀ h, core ≠ side → ((s.owner s.here.owner).active.dies.toList.getD (dieOf side) .zero).chctx ≠ 0 → left → away.freeHelper side = some h →
        away.heldHelpers side s.here.owner < ((s.owner s.here.owner).active.dies.toList.getD (dieOf side) .zero).chctx.toNat →
        let t := away.popAll [src b]
        exec (.migrate b) s = .next (match t.here.migratedFrom with
          | some o => t.moveCtx t.cur (16 * side + h) (some o) Ctx.free
          | none => t.moveCtx t.cur (16 * side + h) (some t.cur) { Ctx.free with
              state := .away, owner := t.here.owner, level := t.here.level, task := t.here.task })))
    ∧ (s.mayUse .migr = true → s.here.migratedFrom = none → exec .rethome s = .next s.done)
    ∧ (∀ o, s.mayUse .migr = true → s.here.migratedFrom = some o → s.here.gated = false → left →
      exec .rethome s = .next (away.moveCtx away.cur o none Ctx.free))

/-- R319 to R321, R324, R325, R327, R328, R330 and R331: vector results written at issue. Each selected lane is the stated function of the same lanes of B and C,
unselected lanes are zero (VSEL takes the lane of C), and the tag is the standard one but for VMOV, which keeps B's, and VTAGS, which writes it. -/
def Obligations.VectorOps : Prop :=
  ∀ (s : State) (v : VReg) (b c : VSrc) (m g h : Src) (ty : BitVec 3) (rm part : BitVec 2) (part3 : BitVec 3) (inf : Bool) (step : BitVec 16),
    let w := tyWidth ty
    let n := tyLanes ty
    let x (i : Nat) : Nat := lane (s.vData b.reg.toNat) w i
    let y (i : Nat) : Nat := lane (s.vData c.reg.toNat) w i
    let old (i : Nat) : Nat := lane (s.vData v.toNat) w i
    let k (i : Nat) : Bool := (s.maskOf m).getLsbD i
    let under (f : Nat → Nat) : BitVec 512 := ofLanes w ((List.range n).map fun i => if k i then f i else 0)
    let ops2 := [vsrc b, vsrc c] ++ maskOp m ++ [vdst v]
    let ops1 := [vsrc b] ++ maskOp m ++ [vdst v]
    let two (f : Nat → Nat → Nat) : Host.Outcome State Fault Refusal := .next (s.givesV ops2 v (under fun i => f (x i) (y i)) (stdTag ty))
    (s.mayVec .vec = true → s.readable ops2 = true →
      exec (.vadd v b c m ty) s = two (laneOp ty (· + ·) Fmt.addB)
      ∧ exec (.vsub v b c m ty) s = two (laneOp ty (· - ·) Fmt.subB)
      ∧ exec (.vmul v b c m ty) s = two (laneOp ty (· * ·) Fmt.mulB)
      ∧ exec (.vmin v b c m ty) s = two (laneOp ty (fun p q => if p ≤ q then p else q) fun t p q => t.minmax p q false)
      ∧ exec (.vmax v b c m ty) s = two (laneOp ty (fun p q => if q ≤ p then p else q) fun t p q => t.minmax p q true)
      ∧ exec (.vand v b c m ty) s = two (fun p q => p &&& q)
      ∧ exec (.vor v b c m ty) s = two (fun p q => p ||| q)
      ∧ exec (.vxor v b c m ty) s = two (fun p q => p ^^^ q)
      ∧ exec (.vandn v b c m ty) s = two (fun p q => p &&& (2 ^ w - 1 - q))
      ∧ exec (.vshl v b c m ty) s = two (fun p q => p * 2 ^ (q % w))
      ∧ exec (.vshr v b c m ty) s = two (fun p q => p / 2 ^ (q % w))
      ∧ exec (.vsar v b c m ty) s = two (fun p q => ofInt w (asInt w p / 2 ^ (q % w)))
      ∧ exec (.vsel v b c m ty) s =
        .next (s.givesV ops2 v (ofLanes w ((List.range n).map fun i => if k i then x i else y i)) (stdTag ty))
      ∧ exec (.vperm v b c m ty) s = .next (s.givesV ops2 v (under fun i => x (y i % n)) (stdTag ty)))
    ∧ (s.mayVec .vec = true → s.readable ([vsrc0 v, vsrc b, vsrc c] ++ maskOp m ++ [vdst v]) = true →
      exec (.vfma v b c m ty) s = .next (s.givesV ([vsrc0 v, vsrc b, vsrc c] ++ maskOp m ++ [vdst v]) v
        (under fun i => fmaLane ty (x i) (y i) (old i)) (stdTag ty)))
    ∧ (s.mayVec .vec = true → s.readable ops1 = true →
      exec (.vmov v b m ty) s = .next (s.givesV ops1 v (under x) (s.vTag b.reg.toNat))
      ∧ (∀ e, laneFmt (tagFmt (s.vTag b.reg.toNat)) = true → fmtElem (tagFmt (s.vTag b.reg.toNat)) = some e →
        exec (.vcvt v b m ty rm part inf) s = .next (s.givesV ops1 v
          (ofLanes w (masked (s.maskOf m) (vcvtLanes (s.vData b.reg.toNat) e (tagScale (s.vTag b.reg.toNat)) ty rm part.toNat (!inf)))) (stdTag ty))))
    ∧ (s.mayVec .cb4 = true → s.readable ops1 = true → 0x10 ≤ tagFmt (s.vTag b.reg.toNat) → tagFmt (s.vTag b.reg.toNat) ≤ 0x17 →
      exec (.vlut v b m ty rm part3 inf) s = .next (s.givesV ops1 v
        (under fun i => cvtIn (bookEntry ((tget (s.core (coreOf s.cur)).books (tagFmt (s.vTag b.reg.toNat) - 0x10)).getD 0)
            (lane (s.vData b.reg.toNat) 4 (part3.toNat % (128 / n) * n + i))) (.flt bf16) (tagScale (s.vTag b.reg.toNat)) (tyElem ty) rm (!inf))
        (stdTag ty)))
    ∧ (s.mayVec .vec = true → s.readable ([src g] ++ maskOp m ++ [vdst v]) = true →
      exec (.vbcast v g m ty) s = .next (s.givesV ([src g] ++ maskOp m ++ [vdst v]) v (under fun _ => (s.gValue g.reg.toNat).toNat) (stdTag ty)))
    ∧ (s.mayVec .vec = true → s.readable [vsrc0 v, src g, src h, vdst v] = true →
      exec (.vins v g h ty) s = .next (s.givesV [vsrc0 v, src g, src h, vdst v] v (ofLanes w ((List.range n).map fun i =>
        if i = (s.gValue h.reg.toNat).toNat % n then (s.gValue g.reg.toNat).toNat else old i)) (stdTag ty)))
    ∧ (s.mayVec .vec = true → s.readable ([vsrc b, src g] ++ maskOp m ++ [vdst v]) = true →
      exec (.vscale v b g m ty rm step) s = .next (s.givesV ([vsrc b, src g] ++ maskOp m ++ [vdst v]) v
        (under fun i => fltLane ty (fun t q => t.ofVal rm ((t.value q).scale (scaleStep (s.gValue g.reg.toNat) step))) (x i)) (stdTag ty)))
    ∧ (s.mayVec .vec = true → s.readable [src g, vdst v] = true →
      exec (.vtags v g) s = .next (s.givesV [src g, vdst v] v ((s.popAll [src g, vdst v]).vData v.toNat) ((s.gValue g.reg.toNat).extractLsb' 0 32 &&& 0xFF00FFFF)))

/-- R319, R322, R323, R326, R327, R329 and R330: vector results that arrive later, lane by lane or reduced to a general register, and those that a general
register receives at issue.
When a later result arrives is the model's choice (log 2), and so is the rounding of VEXP2 and VLOG2 (log 8). -/
def Obligations.VectorResults : Prop :=
  ∀ (s : State) (v : VReg) (d : GReg) (b c : VSrc) (m g : Src) (ty : BitVec 3),
    let w := tyWidth ty
    let n := tyLanes ty
    let x (i : Nat) : Nat := lane (s.vData b.reg.toNat) w i
    let y (i : Nat) : Nat := lane (s.vData c.reg.toNat) w i
    let k (i : Nat) : Bool := (s.maskOf m).getLsbD i
    let xs := (List.range n).map x
    let ys := (List.range n).map y
    (s.mayVec .vec = true → s.readable ([vsrc b] ++ maskOp m ++ [vdst v]) = true →
      let later (f : Nat → Nat) : Host.Outcome State Fault Refusal := .next (s.givesLater ([vsrc b] ++ maskOp m ++ [vdst v]) (.v v.toNat)
        (.vec (ofLanes w ((List.range n).map fun i => if k i then f (x i) else 0)) (stdTag ty)))
      exec (.vrcp v b m ty) s = later (fltLane ty Fmt.recipB)
      ∧ exec (.vrsqrt v b m ty) s = later (fltLane ty Fmt.rsqrtB)
      ∧ exec (.vexp2 v b m ty) s = later (fltLane ty Fmt.exp2B)
      ∧ exec (.vlog2 v b m ty) s = later (fltLane ty Fmt.log2B)
      ∧ exec (.vabs v b m ty) s = later (absLane ty)
      ∧ exec (.vneg v b m ty) s = later (negLane ty))
    ∧ (s.mayVec .vec = true → s.readable ([vsrc b] ++ maskOp m ++ [dst d]) = true →
      let later (r : Word) : Host.Outcome State Fault Refusal := .next (s.givesLater ([vsrc b] ++ maskOp m ++ [dst d]) (.g d.toNat) (.word r))
      exec (.vsum d b m ty) s = later (vsumR ty (s.maskOf m) xs)
      ∧ exec (.vrmax d b m ty) s = later (vrmR ty true (s.maskOf m) xs)
      ∧ exec (.vrmin d b m ty) s = later (vrmR ty false (s.maskOf m) xs))
    ∧ (s.mayVec .vec = true → s.readable ([vsrc b, vsrc c] ++ maskOp m ++ [dst d]) = true →
      let gives (r : Word) : Host.Outcome State Fault Refusal := .next (s.givesG ([vsrc b, vsrc c] ++ maskOp m ++ [dst d]) d r)
      let bits (p : Nat → Bool) : Word := condBits (s.maskOf m) ((List.range n).map p)
      exec (.vcmpEq d b c m ty) s = gives (bits fun i => cmpLane ty (fun p q => p == q) (fun o => o == some 0) (x i) (y i))
      ∧ exec (.vcmpNe d b c m ty) s = gives (bits fun i => cmpLane ty (fun p q => p != q) (fun o => o != some 0) (x i) (y i))
      ∧ exec (.vcmpLt d b c m ty) s = gives (bits fun i => cmpLane ty (fun p q => decide (p < q)) (fun o => o == some (-1)) (x i) (y i))
      ∧ exec (.vcmpLe d b c m ty) s = gives (bits fun i => cmpLane ty (fun p q => decide (p ≤ q)) (fun o => match o with
          | some j => decide (j ≤ 0)
          | none => false) (x i) (y i))
      ∧ exec (.vdot d b c m ty) s = gives (vdotR ty (s.maskOf m) xs ys))
    ∧ (s.mayVec .vec = true → s.readable [vsrc b, src g, dst d] = true →
      exec (.vextr d b g ty) s = .next (s.givesG [vsrc b, src g, dst d] d (match tyElem ty with
        | .int z _ => (BitVec.ofNat z (x ((s.gValue g.reg.toNat).toNat % n))).signExtend 64
        | .flt _ => BitVec.ofNat 64 (x ((s.gValue g.reg.toNat).toNat % n)))))
    ∧ (s.mayVec .vec = true → s.readable [vsrc b, dst d] = true →
      exec (.vtagg d b) s = .next ((s.wrote d ((s.vTag b.reg.toNat).setWidth 64)).done))

/-- R336, R346 to R350: PUSH gives a record to its cluster's scheduler, or ends it at once as malformed, and its destination gets the count of pushes; COPY gives a
copy to its engine after a release and writes its promise, which for no bytes is the present cycle; WAITT whose time has come and whose copies are done goes on.
The place in the agenda of the steps it posts is the model's choice (log 2). -/
def Obligations.Engines : Prop :=
  ∀ (s : State) (d : GReg) (b c e : Src) (sc : BitVec 3) (tags rq : Bool) (dkind : BitVec 2) (off pa : Nat) (te : TlbEntry),
    let core := coreOf s.cur
    let cl := clusterOf core
    let x := s.gValue b.reg.toNat
    let frm := s.gValue c.reg.toNat
    let n := s.gValue e.reg.toNat
    let w : Word := if dkind = 0 then 0 else s.gValue (e.reg.toNat + 1)
    let ops := [src b, src c, src e] ++ (if dkind = 0 then [] else [Opnd.src (e.reg.toNat + 1) false])
    let body := (s.ownBlock off).1
    let slots := (s.here.task.map (·.acc)).getD []
    let bad := s.tileMalformed ⟨0, s.cur, core, s.here.owner, s.here.space, s.here.level, true⟩ slots.length body
    let side (v : Word) : Side := s.sideOf ⟨0, s.cur, core, s.here.owner, s.here.space, s.here.level, false⟩ v
    (s.mayUse .matrix = true → isChannel core = false → s.readable [src b, dst d] = true → s.recordHere x off = true →
      s.scGated s.cur = false → s.here.ws = [] →
      (s.cluster cl).tiles.countP (fun t => !t.done && t.owner == s.here.owner) < 4 * (s.owner s.here.owner).active.quota (dieOf core) 3 →
      (bad = true ∨ (blockWord body 6 = 0 ∧ (tileLocks 0 body).length + (s.core core).locks.length ≤ 64)) →
      ∃ t q, exec (.push d b) s = .next t ∧ (t.cluster cl).tiles = (s.cluster cl).tiles ++ [q]
        ∧ q.ctx = s.cur ∧ q.core = core ∧ q.owner = s.here.owner ∧ q.body = body ∧ q.slots = slots ∧ q.wjc = none ∧ q.done = false
        ∧ q.result = (if bad then some 0x40 else none) ∧ t.here.tiles = s.here.tiles + 1 ∧ t.here.pc = s.here.npc
        ∧ Instr.producerArrive s.cur (s.nextId + 1) (.word (BitVec.ofNat 64 (s.here.tiles + 1))) ∈ t.agenda)
    ∧ (s.mayUse .base = true → ((sc = 5 ∨ sc = 6) → s.mayUse .peer = true) → s.readable (ops ++ [dst d]) = true → s.calm = true →
      s.scGated s.cur = false → s.windowMerging core true = false → x.toNat % 64 = 0 → frm.toNat % 64 = 0 → n.toNat % 64 = 0 → n.toNat ≤ 2 ^ 32 →
      side x = .here → side frm = .here → overlap x.toNat n.toNat frm.toNat n.toNat = false → (dkind ≠ 0 → s.homeAt w .atomic false pa te = true) →
      (n ≠ 0 → (s.core core).locks.length ≤ 62
        ∧ s.copies.countP (fun q => !q.done && q.blocks != 0 && q.owner == s.here.owner && dieOf q.core == dieOf core)
          < ((s.owner s.here.owner).active.dies.toList.getD (dieOf core) .zero).copyq.toNat
        ∧ s.copies.countP (fun q => !q.done && q.blocks != 0 && q.core == core) < 512) →
      ∃ t q, exec (.copy d b c e sc tags rq dkind) s = .next t ∧ t.copies = s.copies ++ [q]
        ∧ q.ctx = some s.cur ∧ q.dst = x ∧ q.src = frm ∧ q.blocks = n.toNat / 64 ∧ q.k = s.here.copies + 1 ∧ q.dkind = dkind ∧ q.dkAddr = w
        ∧ q.promise = (if n = 0 then s.dtc else s.promise s.here.owner core (n.toNat / 64) false false)
        ∧ q.result = (if n = 0 then some 0 else none)
        ∧ t.here.copies = s.here.copies + 1 ∧ t.here.pc = s.here.npc
        ∧ (d.toNat ≠ 0 → d.toNat < 56 → t.here.g.toList.getD d.toNat 0 = q.promise))
    ∧ (s.mayUse .base = true → s.readable [src b] = true → x.toNat ≤ s.dtc.toNat →
      (s.promised s.cur x).all (fun q => q.done && (q.observed || q.cause == 0)) = true →
      exec (.waitt b) s = .next ((s.popAll [src b]).acquireCopies core (s.promised s.cur x)).done)

/-- R195 to R199, R351 and R352: QBIND binds an end of a channel of the pair, a stream's receiving end or the engine result queue; QUNBIND lets an end go; QSTAT
counts its words; SOPEN sends the head flit and waits, and binds once the receiver's interface has accepted it; SCLOSE sends the closing marker.
The place in the agenda of the steps it posts is the model's choice (log 2). A head flit that has not been sent yet is the model's reading for QBIND
(log 24). -/
def Obligations.Queues : Prop :=
  ∀ (s : State) (d : GReg) (q : BitVec 3) (b c : Src), s.mayUse .base = true →
    let r := 56 + q.toNat
    let x := s.gValue b.reg.toNat
    let y := s.gValue c.reg.toNat
    let kind : Word := x &&& 3
    let k : Nat := (x >>> 4).toNat % 4
    let binds (bd : Binding) : Host.Outcome State Fault Refusal :=
      .next ((s.popAll [src b]).modCtx s.cur fun c => { c.setG r 0 with bind := tset c.bind q.toNat bd }).done
    (s.readable [src b] = true → s.here.pendingOn r = false → s.here.bound r = none →
      (x >>> 6 = 0 → kind = 0 → s.endTaken s.cur (x.getLsbD 2) (x.getLsbD 3) k = false →
        exec (.qbind q b) s = binds (.sibling (x.getLsbD 2) (x.getLsbD 3) k))
      ∧ (x = 1 → exec (.qbind q b) s = binds (.streamIn (s.streamFor s.cur r).1 (s.streamFor s.cur r).2))
      ∧ (x = 2 → s.here.hasResults = false → exec (.qbind q b) s = binds .results))
    ∧ (s.here.bound r = none → exec (.qunbind q) s = .next s.done)
    ∧ (∀ bd, s.here.bound r = some bd → (∀ id, bd ≠ .streamOut id) → tget s.here.qpend q.toNat = none →
      exec (.qunbind q) s = .next ((s.dropQueue s.cur bd).modCtx s.cur fun c => c.unbind q.toNat).done)
    ∧ (s.dstReady d.toNat = true →
      (s.here.bound r = none → exec (.qstat d q) s = .next (s.wrote d 0).done)
      ∧ (s.here.bound r = some .results →
        exec (.qstat d q) s = .next (s.freeCount.2.wrote d (BitVec.ofNat 64 (2 + 64 + 256 * s.here.results.length))).done)
      ∧ (∀ back k, s.here.bound r = some (.sibling false back k) →
        exec (.qstat d q) s = .next (s.freeCount.2.wrote d (BitVec.ofNat 64 ((if back then 8 else 0) + 16 * k + 64
          + 256 * (s.queueWords s.cur (.sibling false back k)).length))).done))
    ∧ (s.readable [src b, src c] = true → s.here.pendingOn r = false → s.here.bound r = none → x >>> 19 = 0 → 1 ≤ y.toNat → y.toNat ≤ 64 →
      let m := x.toNat % 2 ^ 16
      let reg := (x >>> 16).toNat % 8
      let mine (p : Nat × Port) : Bool := p.2.sender == s.cur && !p.2.closed && p.2.receiver == m && p.2.reg == 56 + reg
        && !(s.here.bind.any fun z => z.2 == .streamOut p.1)
      s.streamPeer s.cur m = true →
      (s.ports.find? mine = none → ∃ t, exec (.sopen q b c) s = .next t ∧ t.here.state = .blocked (.sopen r)
        ∧ (∃ p, tget t.ports s.nextId = some p ∧ p.receiver = m ∧ p.reg = 56 + reg ∧ p.depth = y.toNat ∧ p.opened = false)
        ∧ Instr.streamHeadFlit m (BitVec.ofNat 3 reg) ∈ t.agenda)
      ∧ (∀ p, s.ports.find? mine = some p → p.2.discard = false → p.2.opened = true →
        exec (.sopen q b c) s = .next ((s.popAll [src b, src c]).modCtx s.cur fun c =>
          { c.setG r 0 with bind := tset c.bind q.toNat (.streamOut p.1) }).done))
    ∧ (∀ id p, s.here.bound r = some (.streamOut id) → tget s.ports id = some p → tget s.here.qpend q.toNat = none →
      exec (.sclose q) s = .next ((({ s with ports := tset s.ports id { p with closed := true } } : State).post [.streamWordArrive id true 0]).modCtx
        s.cur fun c => c.unbind q.toNat).done)

/-- R353 and R354: START at F starts the oldest record of the core's inbox on a FREE helper; REAP at F waits as a producer for its helper to end; END of a
drained context outside a gang sends a PIPE stage's marker, releases at its entry's SCOPE, or at the wider one of a combinator that its end passes, and stops it, its context ENDED; YIELD lets the ready contexts of the core go first.
The place in the agenda of the steps it posts is the model's choice (log 2). -/
def Obligations.ContextControl : Prop :=
  ∀ (s : State) (d : GReg) (b : Src) (h : Nat), s.mayUse .base = true →
    let core := coreOf s.cur
    let x := s.gValue b.reg.toNat
    let sc := (s.here.task.map (·.bound)).getD 0
    (s.here.level = .f → 1 ≤ h → h ≤ 15 → x = BitVec.ofNat 64 h →
      (∀ t rest, s.readable [src b] = true → (s.ctx (16 * core + h)).state = .free → (s.core core).inbox = t :: rest → s.gangPending t = false →
        (isChannel core = true → s.heldHelpers core t.owner < ((s.owner t.owner).active.dies.toList.getD (dieOf core) .zero).chctx.toNat) →
        exec (.start b) s = .next (((s.popAll [src b]).modCore core fun c => { c with inbox := rest }).startTask (16 * core + h)
          { t with helper := some h }).done)
      ∧ (s.readable [src b, dst d] = true →
        let s1 := s.popAll [src b]
        exec (.reap d b) s = .next (((s1.began (.g d.toNat) none false).done.modCore core fun k => { k with
          reaps := k.reaps ++ [(h, s.nextId)] }).reapStep core)))
    ∧ (s.cur % 16 ≠ 0 → s.here.producers = [] → s.here.migratedFrom = none → s.tilesOut s.cur = false → s.copiesOut s.cur = false → s.here.qpend = [] →
      s.here.gang = none → s.engineFaultOf s.cur = none → (s.closeStage s.cur).releasedOk sc = true →
      exec .endTask s = .next ((((s.closeStage s.cur).released sc).endConcierge s.cur).endTask s.cur)
      ∧ (s.here.task = none → ∃ t, exec .endTask s = .next t ∧ t.here.state = .ended ∧ t.here.endWord = 0 ∧ t.here.vset = none
        ∧ t.here.bind = []))
    ∧ (let ready (m : Nat) : Bool :=
        m != s.cur && decide ((s.ctx m).state = .live) && (s.ctx m).lastIssue.all fun t => decide (4 ≤ (s.dtc - t).toNat)
      exec .yield s = .next (s.modCtx s.cur fun c => { c with yielded := ((List.range 16).map fun i => 16 * core + i).filter ready }).done)

/-- R355 and R356: APPLY gives the launch of its record to the die's Porter after a release; POST adds its continuation to the segment of the cluster nearest to
its data.
The place in the agenda of the steps it posts is the model's choice (log 2). -/
def Obligations.Launches : Prop :=
  ∀ (s : State) (b c : Src) (sc : BitVec 3) (off pa : Nat) (te : TlbEntry), s.mayUse .comb = true → ((sc = 5 ∨ sc = 6) → s.mayUse .peer = true) →
    let die := dieOf (coreOf s.cur)
    let x := s.gValue b.reg.toNat
    let y := s.gValue c.reg.toNat
    (s.readable [src b] = true → s.recordHere x off = true → applyOk (s.ownBlock off).1 = true → s.unstarted die s.here.owner < 64 → s.releasedOk sc = true →
      exec (.apply b sc) s = .next ((((s.released sc).popAll [src b]).addLaunch
        (launchOf die s.here.owner s.here.space s.here.level (s.ownBlock off).1 (s.ceiling s.here))).done))
    ∧ (∀ en s1 cl, s.readable [src b, src c] = true → s.here.gated = false → s.memAt x 1 .read pa te = true → regionOf pa ≠ .host → s.recordHere y off = true →
      let body := (s.ownBlock off).1
      let idx := (blockWord body 0).toNat % 2 ^ 20
      let ow := s.owner s.here.owner
      taskRecOk body = true → ow.gtqlen ≠ 0 → idx < ow.ctlen.toNat →
      s.callable die s.here.owner s.here.space s.here.level idx = (some en, s1) → (eKind en = 1 ∨ eKind en = 2) →
      s1.landing s.here.owner pa = some cl → (s1.segment s.here.owner cl).length < ow.gtqlen.toNat → s1.releasedOk sc = true →
      let t := (s1.released sc).popAll [src b, src c]
      exec (.post b c sc) s = .next (t.enterSegment s.here (coreOf t.cur) cl body (continuationOf s.here (t.ceiling s.here) body en)).done)

/-- R357: a builder writes the entry of its parameter block, with word 0 made of its KIND and fields, to its place in the table, and empties the owner's callable
caches of it.
The entry is written at its home at once: the model's choice (log 33). -/
def Obligations.Builders : Prop :=
  ∀ (s : State) (b c : Src) (sc : BitVec 3) (x : BitVec 15) (off off2 pa : Nat) (te : TlbEntry), s.mayUse .comb = true → s.readable [src b, src c] = true →
    let idx := s.gValue b.reg.toNat
    let ow := s.owner s.here.owner
    let p := (s.ownBlock off).1
    let to_ : Word := ow.ctbase + 64 * idx
    let entry (kind : Nat) : Block := p ||| BitVec.ofNat 512 (kind + 2 ^ 4 * (x.toNat % 8) + 2 ^ 8 * sc.toNat + 2 ^ 11 * (x.toNat / 8 % 4)
      + 2 ^ 16 * (x.toNat / 32 % 8) + 2 ^ 19 * (x.toNat / 256 % 2) + 2 ^ 20 * (x.toNat / 512))
    idx.toNat < ow.ctlen.toNat → ow.ctlen.toNat ≤ 2 ^ 20 → s.recordHere (s.gValue c.reg.toNat) off = true → blockWord p 0 = 0 →
    let builds (i : Instr) (kind : Nat) : Prop :=
      entryOk (entry kind) = true →
        (s.localOk to_ 64 off2 true = true →
          exec i s = .next ((s.storesLocal [src b, src c] off2 ⟨entry kind, BitVec.allOnes 64, none⟩).flushCallable s.here.owner (some idx.toNat)))
        ∧ (s.memAt to_ 64 .write pa te = true → regionOf pa = .lp6 → ((te.ct = 1 ∧ s.scGated s.cur = false) ∨ (te.ct = 2 ∧ s.scReady = true)) → s.blockFree pa = true →
          s.fotNow pa s.here.owner true te.ct = .ok → s.busy (pa / 64) = false →
          let t := s.popAll [src b, src c]
          exec i s = .next (((t.slotUpdate t.here.owner (coreOf t.cur) t.cur pa true fun _ g => (entry kind, g)).done).flushCallable s.here.owner
            (some idx.toNat)))
    builds (.mkfn b c sc x) 1 ∧ builds (.mkco b c sc x) 2 ∧ builds (.mkseq b c sc x) 3 ∧ builds (.mkpar b c sc x) 4 ∧ builds (.mkpipe b c sc x) 5
    ∧ builds (.mkfarm b c sc x) 6 ∧ builds (.mkloop b c sc x) 7

/-- R200 and R358: CRESUME hands its value to a suspended coroutine of its owner and waits for one in return; a coroutine's CYIELD hands its value to the
resumer that waits and suspends; each goes on with the value handed to it.
Tickets and numbers are the model's own (log 14). -/
def Obligations.Coroutines : Prop :=
  ∀ (s : State) (d : GReg) (b c : Src), s.mayUse .comb = true →
    let x := s.gValue b.reg.toNat
    let sc := s.here.taskScope
    let acq (t : State) : State := if sc = 0 then t else t.acquireWindows (coreOf t.cur)
    (∀ k, s.here.ticket = none → s.readable [src b, src c, dst d] = true → s.coroutine x.toNat s.here.owner = some k → k.co.bind (·.resumer) = none →
      k.co.map (·.suspended) = some true → s.releasedOk k.taskScope = true →
      let t := (s.released k.taskScope).popAll [src b, src c]
      exec (.cresume d b c) s = .next (((t.newId.2.modCtx t.cur fun c => { c with ticket := some t.nextId }).modCo x.toNat s.here.owner
        fun z => z.resume t.nextId (s.gValue c.reg.toNat)).modCtx t.cur fun z => z.block .cresume t.dtc))
    ∧ (∀ n v, s.here.ticket = some n → s.here.given = some v → s.dstReady d.toNat = true →
      exec (.cresume d b c) s = .next (acq ((s.modCtx s.cur fun c => { c with given := none, ticket := none }).wrote d v)).done)
    ∧ (∀ k, s.here.co = some k → k.suspended = false → s.here.given = none → s.readable [src b, dst d] = true → s.releasedOk sc = true →
      let t := (s.released sc).popAll [src b]
      exec (.cyield d b) s = .next (((match k.resumer with
        | some n => t.giveIf (fun z => z.ticket == some n) x
        | none => t).modCtx t.cur fun z => { z with co := some { k with suspended := true, resumer := none } }).modCtx t.cur
          fun z => z.block .cyield t.dtc))
    ∧ (∀ k v, s.here.co = some k → s.here.given = some v → s.dstReady d.toNat = true →
      exec (.cyield d b) s = .next (acq ((s.modCtx s.cur fun c => { c with given := none, ticket := none }).wrote d v)).done)

/-- R201 to R203 and R359: when the last member arrives at GFORM, every member goes on attached under one number and the one on the lowest core leads; a follower
that runs GLEAVE detaches; a leader's GJOIN collects the members that wait at its address; GEND by the leader ends the gang; outside a gang GLEAVE, GJOIN and
GEND go on.
The moment of forwarding is the model's choice (log 69). -/
def Obligations.Gangs : Prop :=
  ∀ (s : State) (b : Src) (mask : Nat), s.mayUse .gang = true →
    let ms := gangMembers s.cur mask
    (s.readable [src b] = true → s.gValue b.reg.toNat = BitVec.ofNat 64 mask → mask < 256 → popcount mask 8 ≥ 2 → isChannel (coreOf s.cur) = false →
      mask / 2 ^ (coreOf s.cur % 8) % 2 = 1 → s.here.gang = none → s.here.task.isSome = true → (∃ w, s.here.state = .live ∨ s.here.state = .blocked w) →
      (∀ m ∈ ms, m ≠ s.cur → (s.ctx m).state = .blocked .gform ∧ (s.ctx m).gang = some ⟨BitVec.ofNat 8 mask, 0, false, false⟩
        ∧ (s.ctx m).pc = s.here.pc ∧ (s.ctx m).owner = s.here.owner ∧ (s.ctx m).task.isSome = true
        ∧ (s.ctx m).task.bind (·.launch) = s.here.task.bind (·.launch)) →
      ∃ t, exec (.gform b) s = .next t ∧ ∀ m ∈ ms, (t.ctx m).gang = some ⟨BitVec.ofNat 8 mask, s.nextId, some m == ms.head?, true⟩
        ∧ (t.ctx m).state = .live ∧ (t.ctx m).pc = (s.ctx m).npc)
    ∧ (s.here.gang = none → exec .gleave s = .next s.done ∧ exec .gjoin s = .next s.done ∧ exec .gend s = .next s.done)
    ∧ (∀ g, s.here.gang = some g →
      (g.leader = false → g.attached = true → exec .gleave s = .next (s.detach s.cur).done)
      ∧ (g.attached = false → exec .gleave s = .next s.done)
      ∧ (g.leader = true → g.attached = true → ∃ t, exec .gjoin s = .next t ∧ t.here.pc = s.here.npc
        ∧ ∀ m h, m ≠ s.cur → (tget s.ctxs m).isSome = true → (s.ctx m).gang = some h → h.id = g.id → (s.ctx m).state = .blocked (.gjoin s.here.pc) →
          (t.ctx m).gang = some { h with attached := true } ∧ (t.ctx m).pc = (s.ctx m).npc ∧ (t.ctx m).state = .live)
      ∧ (g.leader = true → g.attached = true → exec .gend s = .next (s.endGang s.cur false).done)
      ∧ (g.leader = false → exec .gend s = .next (s.modCtx s.cur fun c => { c with gang := none, buffer := [] }).done))

/-- R122 to R126 and R360: RAND writes a draw from the context slot's own stream; RESEED restarts the owner's streams from its seed; EXQ sends the bound of its
resource and distance to its destination; EXH writes a wait counter, which CLEAR zeroes.
The place in the agenda of the steps it posts is the model's choice (log 2). -/
def Obligations.RandomAndStatistics : Prop :=
  ∀ (s : State) (d : GReg) (b c : Src),
    let x := s.gValue b.reg.toNat
    let y := s.gValue c.reg.toNat
    let n := x.toNat % 2 ^ 32
    let st : StreamId := ⟨s.here.owner, .prog, 0, s.cur⟩
    let s1 := s.popAll [src b, dst d]
    let draw := s1.draw ⟨s1.here.owner, .prog, 0, s1.cur⟩ n
    (s.mayUse .base = true → s.readable [src b, dst d] = true →
      (n = 0 → exec (.rand d b) s = .next ((s1.advance st).wrote d ((gen32 (s1.stream st)).setWidth 64)).done)
      ∧ (n ≠ 0 → exec (.rand d b) s = .next (draw.2.wrote d (BitVec.ofNat 64 draw.1)).done))
    ∧ (s.mayUse .base = true → s.readable [src b, src c] = true → (s.here.level = .f ∨ (s.here.level = .s ∧ c.reg = 0)) →
      let o := if s.here.level = .f then y.toNat % 16 else s.here.owner
      (s.here.level = .f → y.toNat < 16 ∧ (s.owner o).active.en = true) → (s.owner o).oldSeed = none → s.layoutHeld o = false → b.reg ≠ 0 →
      exec (.reseed b c) s = .next ((s.popAll [src b, src c]).reseed o x).done)
    ∧ (s.mayUse .stat = true → s.readable [src b, src c, dst d] = true →
      let q : Nat := (s.owner s.here.owner).active.quota (x.toNat / 16 % 4) (x.toNat % 8)
      let gives (v : Word) : Host.Outcome State Fault Refusal :=
        let t := s.popAll [src b, src c, dst d]
        let u := (t.began (.g d.toNat) none false).post [.producerArrive t.cur t.nextId (.word v)]
        .next u.done
      (x &&& ~~~0x37 = 0 → x.toNat % 8 ≠ 7 → (x.toNat % 8 = 2 → (s.popAll [src b, src c, dst d]).squareFenced = false) → exec (.exq d b c) s = gives (BitVec.ofNat 64 (exq q y.toNat)))
      ∧ ((x &&& ~~~0x37 ≠ 0 ∨ x.toNat % 8 = 7) → exec (.exq d b c) s = gives (BitVec.allOnes 64)))
    ∧ (s.mayUse .stat = true → s.readable [src b, dst d] = true → (x.getLsbD 16 = true → s.here.level ≠ .u) →
      let t := s.popAll [src b]
      let key := binKey (x.toNat / 256 % 4) (if x.getLsbD 16 then x.toNat / 4096 % 16 else s.here.owner) (x.toNat / 16 % 8) (x.toNat % 16)
      (x &&& ~~~0x1F77F = 0 → x.toNat / 16 % 8 ≠ 7 →
        let v := t.wrote d (((tget t.bins key).getD 0).setWidth 64)
        exec (.exh d b) s = .next (if x.getLsbD 10 then { v with bins := tdel v.bins key } else v).done)
      ∧ ((x &&& ~~~0x1F77F ≠ 0 ∨ x.toNat / 16 % 8 = 7) → exec (.exh d b) s = .next (t.wrote d 0).done))

/-- R214, R215, R361 and R362: MFS writes the value of the system register it names at each level that may read it, raises PRIV below, and UNDEF for a number that is
not listed. CONCTX names a Concierge that is saved by the number that it had (log 11). -/
def Obligations.SystemReads : Prop :=
  ∀ (s : State) (d : GReg), s.mayUse .base = true →
    let c := s.here
    let o := s.owner c.owner
    let lv : Nat := match c.level with
      | .u => 0 | .s => 1 | .f => 2
    let lswin (i : Nat) : Word := (tget (s.core (coreOf s.cur)).lswin i).getD 0
    let ec : Word := if (c.ecause >>> 8) &&& 3 = 3 then c.ecause &&& ~~~(0x300 : Word) else c.ecause
    let table : List (Nat × Nat × Word) :=
      [(0x000, 0, BitVec.ofNat 64 (s.cur + 2 ^ 16 * c.owner + 2 ^ 20 * c.space.toNat + 2 ^ 36 * lv)), (0x001, 0, s.dtc), (0x010, 1, c.epc.setWidth 64),
        (0x011, 1, ec), (0x012, 1, c.eval), (0x013, 1, c.einfo), (0x014, 0, c.erf0), (0x015, 0, c.erf1), (0x016, 1, o.tvecS.setWidth 64),
        (0x017, 2, s.tvecF.setWidth 64), (0x020, 0, c.waitlim), (0x021, 0, c.spcount.setWidth 64), (0x030, 0, o.ctbase), (0x031, 0, o.ctlen),
        (0x032, 1, o.gtqbase), (0x033, 1, o.gtqlen), (0x034, 1, o.sptab), (0x035, 1, o.fqbase), (0x036, 1, s.conctxRead c.owner), (0x037, 1, o.savearea),
        (0x038, 1, o.stkbase), (0x039, 1, o.stksize), (0x040, 0, lswin 0), (0x041, 0, lswin 1), (0x042, 0, lswin 2), (0x043, 0, lswin 3),
        (0x050, 0, BitVec.ofNat 64 (s.dtc.toNat % 153600))]
    (∀ e ∈ table,
      (e.2.1 ≤ lv → s.dstReady d.toNat = true → exec (.mfs d (BitVec.ofNat 12 e.1)) s = .next (s.wrote d e.2.2).done)
      ∧ (lv < e.2.1 → exec (.mfs d (BitVec.ofNat 12 e.1)) s = .next (s.takeTrap s.cur c.pc .priv (c.head.setWidth 64) 0 false)))
    ∧ (∀ n : BitVec 12, (∀ e ∈ table, e.1 ≠ n.toNat) →
      exec (.mfs d n) s = .next (s.takeTrap s.cur c.pc .undef (c.head.setWidth 64) 0 false))

/-- R361 to R363: MTS writes its source to the system register it names at each level that may write it, with no reserved bit set and in the register's range, and
raises PRIV below and UNDEF for a reserved bit or a number that is not listed; a fault ring's base is 0, or in a PIN frame of an SC page with FE.
That PLEV of 3 is kept as 0 (log 37) and that STKSIZE of 0 raises UNDEF (log 70) are the model's readings. -/
def Obligations.SystemWrites : Prop :=
  ∀ (s : State) (a : GReg), s.mayUse .base = true → s.readable [src0 a] = true →
    let c := s.here
    let v := s.gValue a.toNat
    let lv : Nat := match c.level with
      | .u => 0 | .s => 1 | .f => 2
    let t := s.popAll [src0 a]
    let ctx (f : Ctx → Ctx) : State := t.modCtx t.cur f
    let own (f : Owner → Owner) : State := t.modOwner t.here.owner f
    let core (f : Core → Core) : State := t.modCore (coreOf t.cur) f
    let e : Word := if (v >>> 8) &&& 3 = 3 then v &&& ~~~(0x300 : Word) else v
    let table : List (Nat × Nat × Word × State) :=
      [(0x010, 1, 0x7FFFFFFFFFFFFF, ctx fun c => { c with epc := v.setWidth 55 }),
        (0x011, 1, 0x1FFF, ctx fun c => { c with ecause := (e &&& 0xFFF) ||| (c.ecause &&& 0x1000) }),
        (0x012, 1, BitVec.allOnes 64, ctx fun c => { c with eval := v }), (0x013, 1, BitVec.allOnes 64, ctx fun c => { c with einfo := v }),
        (0x016, 1, 0x7FFFFFFFFFFFFF, own fun o => { o with tvecS := v.setWidth 55 }), (0x017, 2, 0x7FFFFFFFFFFFFF, { t with tvecF := v.setWidth 55 }),
        (0x020, 0, 0xFFFFFFFF, ctx fun c => { c with waitlim := v }),
        (0x030, 1, 0x7FFFFFFFFFFFC0, (own fun o => { o with ctbase := v }).flushCallable t.here.owner none),
        (0x031, 1, 0x1FFFFF, (own fun o => { o with ctlen := v }).flushCallable t.here.owner none),
        (0x032, 1, 0x7FFFFFFFFFFFC0, own fun o => { o with gtqbase := v }), (0x033, 1, 0xFFFF, own fun o => { o with gtqlen := v }),
        (0x034, 1, 0xFFFFFFFF0000, own fun o => { o with sptab := v }), (0x036, 1, 0x1FFFF, own fun o => { o with conctx := v }),
        (0x037, 1, 0xFFFFFFFFF000, own fun o => { o with savearea := v }), (0x038, 1, 0xFFFFFFFF0000, own fun o => { o with stkbase := v }),
        (0x039, 1, 0xFF, own fun o => { o with stksize := v }),
        (0x040, 1, 0xF3FFF1FFF, core fun k => { k with lswin := tset k.lswin 0 v }), (0x041, 1, 0xF3FFF1FFF, core fun k => { k with lswin := tset k.lswin 1 v }),
        (0x042, 1, 0xF3FFF1FFF, core fun k => { k with lswin := tset k.lswin 2 v }), (0x043, 1, 0xF3FFF1FFF, core fun k => { k with lswin := tset k.lswin 3 v })]
    let inRange (n : Nat) : Prop := (n = 0x031 → v.toNat ≤ 2 ^ 20) ∧ (n = 0x039 → v ≠ 0) ∧ (0x040 ≤ n → (v >>> 16).toNat % 2 ^ 14 ≤ 8192)
    let ring (f : Option Nat) : Host.Outcome State Fault Refusal :=
      let t := (s.modOwner s.here.owner fun o => { o with fqFrame := f }).popAll [src0 a]
      .next (t.modOwner t.here.owner fun o => { o with fqbase := v }).done
    (1 ≤ lv → v &&& ~~~0x7FFFFFFFFFC000 = 0 →
      (v = 0 → exec (.mts 0x035 a) s = ring none)
      ∧ (∀ pa e f, v ≠ 0 → formOf v = .page → s.pageOk v .read pa e = true → e.ct = 2 → e.fe = true → frameOf pa = some f → (s.fotAt f).getLsbD 7 = true →
        exec (.mts 0x035 a) s = ring (some pa)))
    ∧ ∀ z ∈ table,
      (z.2.1 ≤ lv → v &&& ~~~z.2.2.1 = 0 → inRange z.1 → exec (.mts (BitVec.ofNat 12 z.1) a) s = .next z.2.2.2.done)
      ∧ (z.2.1 ≤ lv → v &&& ~~~z.2.2.1 ≠ 0 → exec (.mts (BitVec.ofNat 12 z.1) a) s = .next (s.takeTrap s.cur c.pc .undef (c.head.setWidth 64) 0 false))
      ∧ (lv < z.2.1 → exec (.mts (BitVec.ofNat 12 z.1) a) s = .next (s.takeTrap s.cur c.pc .priv (c.head.setWidth 64) 0 false))

/-- R216, R217, R259 and R364: below F, with no handler active and TVEC_S set, SVC and BRK enter the handler at S with EPC, ECAUSE, EVAL and EINFO written; at F they
enter at TVEC_F and change CODE alone. ERET whose EPC passes a target's checks restores the level and the pc and clears ACTIVE.
That a return at F goes to the level in PLEV is the model's reading (log 35). -/
def Obligations.TrapsOnRequest : Prop :=
  ∀ (s : State) (i : BitVec 16) (pa : Nat) (e : TlbEntry), s.mayUse .base = true →
    let c := s.here
    let lv : Nat := match c.level with
      | .u => 0 | .s => 1 | .f => 2
    let tv := (s.owner c.owner).tvecS
    let enters (epc : Word) (code : Nat) : Host.Outcome State Fault Refusal :=
      .next (s.modCtx s.cur fun c => { c with
        epc := epc.setWidth 55, ecause := BitVec.ofNat 64 (code + 256 * lv + 1024), eval := i.setWidth 64, einfo := 0, level := .s,
        pc := tv.setWidth 64, state := c.state.awake, held := none, lastWait := none, refusals := 0, peerBlocks := [] })
    let entersF (epc : Word) (code : Nat) : Host.Outcome State Fault Refusal :=
      .next (s.modCtx s.cur fun c => { c with
        epc := epc.setWidth 55, ecause := (c.ecause &&& ~~~(0xFF : Word)) ||| BitVec.ofNat 64 code,
        pc := s.tvecF.setWidth 64, state := c.state.awake, held := none, lastWait := none, refusals := 0, peerBlocks := [] })
    (c.gang = none →
      (c.level ≠ .f → c.ecause.getLsbD 10 = false → tv ≠ 0 → exec (.svc i) s = enters c.npc 0x11 ∧ exec (.brk i) s = enters c.pc 0x12)
      ∧ (c.level = .f → exec (.svc i) s = entersF c.npc 0x11 ∧ exec (.brk i) s = entersF c.pc 0x12))
    ∧ (c.level ≠ .u → c.ecause.getLsbD 11 = false → s.codeAt (c.epc.setWidth 64) pa e = true →
      let p : Word := (c.ecause >>> 8) &&& 3
      let l : Level := if c.level = .f then (if p = 0 then .u else if p = 1 then .s else .f) else (if p = 1 then .s else .u)
      exec .eret s = .next ((s.modCtx s.cur fun c => { c with
        level := l, pc := c.epc.setWidth 64, ecause := c.ecause &&& ~~~(0x400 : Word),
        held := none, lastWait := none, state := .live }).reissueAll s.cur))
    ∧ (c.level ≠ .u → c.ecause.getLsbD 11 = true → exec .eret s = .next (s.taskFault s.cur (c.ecause.extractLsb' 0 8) c.eval))

/-- R140 and R365: TLBI1 and TLBI2 post an invalidation of the page named to the TLBs and walkers of every core; TLBSYNC with none of the context's outstanding goes on
and empties the owner's callable caches.
The place in the agenda of the steps it posts is the model's choice (log 2). That the posted invalidation goes to all 1,280 cores is its reading (log
34). -/
def Obligations.TlbMaintenance : Prop :=
  ∀ (s : State) (b c : Src), s.mayUse .base = true →
    let x := s.gValue b.reg.toNat
    let y := s.gValue c.reg.toNat
    let t := s.popAll [src b, src c]
    let posted (v : Inval) : State :=
      ({ t with invals := t.invals ++ (List.range 1280).map fun k => (t.cur, k, v) } : State).post ((List.range 1280).map fun k => Instr.invalidationArrive k v)
    (s.readable [src b, src c] = true → s.here.level ≠ .u → y &&& ~~~0xFFFF0003 = 0 →
      exec (.tlbi1 b c) s = .next (posted ⟨false, t.here.owner, y.extractLsb' 16 16, x.toNat / 2 ^ 16 % 2 ^ 39, y.getLsbD 0, y.getLsbD 1⟩).done)
    ∧ (s.readable [src b, src c] = true → s.here.level = .f → y &&& ~~~0xF0001 = 0 →
      exec (.tlbi2 b c) s = .next (posted ⟨true, y.toNat / 2 ^ 16 % 16, 0, x.toNat / 2 ^ 16 % 2 ^ 32, y.getLsbD 0, false⟩).done)
    ∧ (s.here.level ≠ .u → (s.invals.any fun e => e.1 == s.cur) = false → exec .tlbsync s = .next (s.flushCallable s.here.owner none).done)

/-- R3, R31 to R35: a tick ends the cycle; a link counts its errors, holds its traffic while it retrains, and is fenced when that fails; the power cap holds launches
until it is lifted; a thermal stop stops the device; a device reset boots the primary image if it is accepted and else the secondary one, and leaves the machine that
the boot describes, with PEERMAP, the measurement and the signed layout; with neither it leaves the device in recovery.
What a device reset keeps is the model's choice (log 13), as are the boot values the spec does not give (log 6) and the place in the agenda (log 2). -/
def Obligations.PackageEvents : Prop :=
  ∀ (s : State) (l : Nat) (b : BootOutcome),
    (∃ t, exec .dtcTick s = .next t ∧ t.dtc = s.dtc + 1 ∧ t.later = [])
    ∧ exec (.linkCrcReplay l) s = .next { s with linkErrors := tset s.linkErrors l ((tget s.linkErrors l).getD 0 + 1) }
    ∧ (s.link l ≠ .fenced → ∃ t, exec (.linkRetrain l) s = .next t ∧ t.link l = .retraining
      ∧ t.linkErrors = tset s.linkErrors l ((tget s.linkErrors l).getD 0 + 1))
    ∧ (s.link l = .retraining →
      (∃ t, exec (.linkRetrainEnd l true) s = .next t ∧ t.link l = .up)
      ∧ (∃ t, exec (.linkRetrainEnd l false) s = .next t ∧ t.link l = .fenced ∧ Event.linkFenced l ∈ t.events))
    ∧ exec (.powerCapHold true) s = .next { s with powerHold := true }
    ∧ (∃ t, exec (.powerCapHold false) s = .next t ∧ t.powerHold = false ∧ ∀ d, d < 4 → Instr.porterSelect d ∈ t.agenda)
    ∧ exec .thermalEvent s = .next { s with events := s.events ++ [.thermal] }
    ∧ exec .thermalStop s = .next { s with stopped := true }
    ∧ (s.fuses.boots b.primary = false → s.fuses.boots b.secondary = false → ∃ t, exec (.deviceReset b) s = .next t ∧ t.recovery = true
      ∧ t.events = [.recovery] ∧ t.ctxs = [] ∧ t.agenda = [])
    ∧ (∀ i, (s.fuses.boots b.primary = true ∧ i = b.primary) ∨ (s.fuses.boots b.primary = false ∧ s.fuses.boots b.secondary = true ∧ i = b.secondary) →
      b.absentChannels = [] → s.absent = [] → b.failedLinks = [] → ∃ t, exec (.deviceReset b) s = .next t ∧ t.stopped = false ∧ t.recovery = false
      ∧ t.dtc = b.dtc ∧ t.mld = b.mld ∧ t.peermap = bootPeermap b ∧ t.measurements = [i.digest]
      ∧ t.identity = (if s.fuses.accepts b.identity then some b.identity.digest else none)
      ∧ t.tvecF = b.tvecF ∧ t.fotBase = b.fotBase ∧ t.ctxs = [] ∧ t.cores = [] ∧ t.clusters = [] ∧ t.slices = [] ∧ t.dir = [] ∧ t.launches = []
      ∧ t.vcps = [] ∧ t.layout = State.reset.layout ∧ (t.owner 0).offer = b.offer &&& 0x7FF
      ∧ (t.owner 0).featState = 0 ∧ (t.owner 0).accept = 0 ∧ (b.layout = [] → ∀ o, o ≠ 0 → (t.owner o).active.en = false)
      ∧ (∀ o r, 0 < o → o < 16 → tget b.layout o = some r → (t.owner o).active = r ∧ (t.owner o).seed = (if r.en then r.seed else 0))
      ∧ ∀ a, (match regionOf a with
        | .weight _ => True
        | _ => False) → mget t.mem a = 0)

/-- R39 to R49, R53 to R57: a notification reads PROD and starts the taking of records; a record taken is executed, or completes with BADKIND or BADREC; a
completion writes its record, decrements its counter, counts its ring and raises its interrupt, in that order; an INDIRECT's records stand in its place; a write to a shadow entry, a feature commit and a function
level reset act as stated, the last aborting the running launches. What the host sends over a link that retrains is held.
The place in the agenda of the steps it posts is the model's choice (log 2). That IRQ is raised without a record (log 48) and that FEAT_ACCEPT keeps its value over a
function level reset (log 43) are its readings. -/
def Obligations.HostQueues : Prop :=
  ∀ (s : State) (o v word id : Nat) (val : Word) (c : Cmd),
    let q := s.vcp o v
    (s.link 20 = .retraining → exec (.notify o v) s = .next (s.postLater [.notify o v]))
    ∧ (s.link 20 ≠ .retraining → s.vcpLive o v = false → exec (.notify o v) s = .next s)
    ∧ (s.link 20 ≠ .retraining → s.vcpLive o v = true → q.halted = false → s.vcpWord o v 0 = q.w0 → s.vcpWord o v 8 = q.w1 →
      let s0 := s.vcpTouch o v q.base
      let prod := (s0.vcpWord o v 0x10).extractLsb' 0 32
      ((prod - q.cons).toNat ≤ q.size →
        exec (.notify o v) s = .next ((s0.modVcp o v fun q => { q with prod := prod, armed := true }).post [.vcpTakeRecord o v]))
      ∧ (q.size < (prod - q.cons).toNat →
        exec (.notify o v) s = .next (((s0.modVcp o v fun q => { q with halted := true, run := false }).report (.halted o v)).putStatus o v)))
    ∧ (q.valid = true → q.run = true → q.armed = true → q.wait = none → s.beginning o v = false → s.ringHeld o v = false → q.indirect = none →
      (q.cons = q.prod → exec (.vcpTakeRecord o v) s = .next s)
      ∧ (q.cons ≠ q.prod → q.size ≠ 0 →
        let a := q.base + 0x100 + 64 * (q.cons.toNat % q.size)
        let r : Cmd := ⟨o, q.owner, v, q.cons.toNat, true, (s.coherent a).1⟩
        s.mayTake r none = true → exec (.vcpTakeRecord o v) s = .next ((s.vcpTouch o v a).takeCmd r none)))
    ∧ (s.kindOk c = false → s.runCmd c = s.finishCmd c 2)
    ∧ (s.kindOk c = true → c.ok = false → s.runCmd c = s.finishCmd c 3)
    ∧ (∀ e, (s.vcp c.fn c.vcp).out.find? (fun e => e.cmd == c) = some e →
      let n := (c.word 1).toNat % 2 ^ 13
      let ahead := if (c.word 1).getLsbD 13 then ([], s) else s.readBuffer c n
      exec (.indirect c) s = .next ((ahead.2.modVcp c.fn c.vcp fun q => { q with
        indirect := some ⟨e.id, c, 0, n, (c.word 1).getLsbD 13, ahead.1⟩ }).post [.vcpTakeRecord c.fn c.vcp]))
    ∧ ((s.completions.find? fun x => x.id == id) = none → exec (.recordComplete id) s = .next s)
    ∧ (∀ x, (s.completions.find? fun x => x.id == id) = some x →
      (x.written = false → x.jc = 0 → x.write = false → x.launch = none → x.out = none → x.node = none → s.counterOut id = false →
        exec (.recordComplete id) s = .next { s with
          completions := s.completions.filter fun y => y.id != id
          irqs := match x.irq, x.vcp with
            | true, some p => s.irqs ++ [p]
            | _, _ => s.irqs })
      ∧ (x.written = false → s.recordHeld x = false →
        let t := (s.putRecord x).decrementFor (porterCore x.die) x.owner x.space x.level x.jc id
        let u : State := { t with completions := mapIf (fun y : Completion => y.id == id) (fun y => { y with written := true }) t.completions }
        exec (.recordComplete id) s = .next (if u.counterOut id then u.postLater [.recordComplete id] else u.completed x))
      ∧ (x.written = true → s.counterOut id = false → exec (.recordComplete id) s = .next (s.completed x)))
    ∧ (word = 2 → val.getLsbD 0 = false → ∃ t, exec (.shadowQcbWrite o v word val) s = .next t ∧ (t.vcp o v).valid = false
      ∧ (t.vcp o v).tamper = false ∧ (t.vcp o v).prod = q.cons ∧ (t.vcp o v).indirect = none)
    ∧ (word ≤ 1 ∨ (word = 2 ∧ val.getLsbD 0 = true) → ∃ t, exec (.shadowQcbWrite o v word val) s = .next t ∧ (t.vcp o v).tamper = false
      ∧ (t.vcp o v).halted = (q.halted && !(word == 2 || q.valid))
      ∧ (t.vcp o v).w0 = (if word = 0 then val &&& 0xFFFFFFFFFFFF0000 else q.w0)
      ∧ (t.vcp o v).w1 = (if word = 1 then val &&& 0x0000FFFF007F01FF else q.w1))
    ∧ (let w := s.owner o
      (w.featState ≠ 1 → val.getLsbD 0 = true → exec (.featCommit o val) s = .next (s.modOwner o fun w => { w with
        featState := if w.accept &&& ~~~w.offer = 0 ∧ w.accept.getLsbD 0 = true then 1 else 2 }))
      ∧ (w.featState = 1 ∨ val.getLsbD 0 = false → exec (.featCommit o val) s = .next s))
    ∧ exec (.functionLevelReset o) s =
      .next (((s.runningOf o).foldl (fun s id => s.abortLaunch id) s).modOwner o fun w => { w with featState := 0 })

/-- R50 to R52: a LAUNCH goes to the Porter of its die; a COPY joins the copy engine; a WAIT whose condition is met completes, one whose condition is not holds later
records until it is met or its time is past; a SIGNAL stores or adds and completes; WSOPEN holds new launches and opens the write window once none runs; WSCLOSE
closes it. A word or a page that cannot be accessed completes with ACCESS.
The place in the agenda of the steps it posts is the model's choice (log 2). ACCESS for a misaligned word is its reading (log 20), as is what WSOPEN
holds (log 44). -/
def Obligations.HostCommands : Prop :=
  ∀ (s : State) (c : Cmd),
    let q := s.vcp c.fn c.vcp
    let die := s.vcpDie c.fn c.vcp
    let u := s.vcpUnit c.fn c.vcp
    exec (.launch c) s = .next (s.addLaunch { launchOf die c.owner (s.vcpSpace c.fn c.vcp) .u c.body q.priceil with
      cmd := some c, iseq := c.iseq })
    ∧ (c.word 1 = 0 → exec (.cmdCopy c) s = .next (s.finishCmd c 0))
    ∧ (c.word 1 ≠ 0 → s.cmdSidesOk c = false → exec (.cmdCopy c) s = .next (s.finishCmd c 4))
    ∧ (c.word 1 ≠ 0 → s.cmdSidesOk c = true → s.copyQueueFull die c.owner = false →
      ∃ t r, exec (.cmdCopy c) s = .next t ∧ t.copies = s.copies ++ [r] ∧ r.src = c.word 2 ∧ r.dst = c.word 3 ∧ r.blocks = (c.word 1).toNat / 64
        ∧ r.owner = c.owner ∧ r.level = .u ∧ r.space = s.vcpSpace c.fn c.vcp ∧ r.cmd = some c)
    ∧ (∀ s1, s.cmdWord c .read = (none, s1) → exec (.wait c) s = .next (s1.finishCmd c 4))
    ∧ (∀ pa s1, s.cmdWord c .read = (some pa, s1) →
      let w : Word := BitVec.ofNat 64 (blockBytes (s1.coherent pa).1 (pa % 64) 8)
      let met : Prop := if (c.word 1).toNat % 4 = 0 then (c.word 3).toNat ≤ w.toNat else if (c.word 1).toNat % 4 = 1 then w = c.word 3 else w ≠ c.word 3
      (met → exec (.wait c) s = .next (s1.finishCmd c 0)
        ∧ (q.wait = some c → exec (.waitMet c) s = .next (s1.endWait c 0)))
      ∧ (¬met → exec (.wait c) s = .next (s1.modVcp c.fn c.vcp fun q => { q with wait := some c })))
    ∧ (q.wait = some c → c.word 6 ≠ 0 → (c.word 6).toNat < s.dtc.toNat → exec (.waitTimeout c) s = .next (s.endWait c 6))
    ∧ (c.word 1 = 0 ∨ c.word 1 = 1 →
      (∀ s1, s.cmdWord c (if c.word 1 = 1 then .atomic else .write) = (none, s1) → exec (.signal c) s = .next (s1.finishCmd c 4))
      ∧ (∀ pa s1, s.cmdWord c (if c.word 1 = 1 then .atomic else .write) = (some pa, s1) →
        let old := BitVec.ofNat 64 (blockBytes (s1.coherent pa).1 (pa % 64) 8)
        let new : Word := if c.word 1 = 1 then old + c.word 3 else c.word 3
        exec (.signal c) s = .next (((s1.slotUpdate c.owner u (16 * u) pa false fun d t =>
          (mergeBytes d (placeBytes (pa % 64) new.toNat) (rangeMask (pa % 64) 8), t)).checkBlock pa).finishCmd c 0)))
    ∧ exec (.wsopen c) s = .next ((c.dies.foldl (fun s d => s.modPorter d fun p => { p with
        windowHeld := addNew p.windowHeld c.owner }) s).post [.wsopenComplete c])
    ∧ ((q.out.any fun e => e.cmd == c) = true → (c.dies.any fun d => s.runsOn c.owner d) = false →
      exec (.wsopenComplete c) s = .next ((c.dies.foldl (fun s d => s.modPorter d fun p => { p with
        windowOpen := addNew p.windowOpen c.owner }) s).finishCmd c 0))
    ∧ (let dropped : State := { s with cores := s.cores.map fun e => (e.1, { e.2 with
          l1 := e.2.l1.filter fun l => !(s.weightOf c.owner c.dies l.1) || !l.2.wait.isEmpty,
          icache := e.2.icache.filter fun l => !(s.weightOf c.owner c.dies l.1) }) }
      exec (.wsclose c) s = .next (((c.dies.foldl (fun s d => s.modPorter d fun p => { p with
          windowHeld := p.windowHeld.filter fun o => o != c.owner, windowOpen := p.windowOpen.filter fun o => o != c.owner }) dropped).finishCmd c 0).post
        (c.dies.flatMap fun d => [Instr.porterSelect d, Instr.launchRetry d c.owner])))

/-- R32, R36 to R39, R41, R47, R58 to R61: over a host link that is up, an access of the host inside its device memory reads or writes the memory its function may
reach, and one outside is answered as an Unsupported Request and reported; a read of a register answers with its word; a write to a register with a step of its own
posts that step; FEAT_ACCEPT takes a write until its commit; a staged record takes one until a commit is in progress, when STAGELOCK is set.
The place in the agenda of the steps it posts is the model's choice (log 2). The size of the BAR 2 window after reset is the model's choice (log 6),
and the answer of a weight-store access its reading (log 43). -/
def Obligations.HostAccesses : Prop :=
  ∀ (s : State) (a : HostAccess) (o off : Nat) (val : Word), s.link 20 = .up → s.stopped = false →
    (∀ x, s.registerArea a.owner a.bar a.offset = none → s.memoryOffset a = some x →
      ((s.owner a.owner).active.en = false ∨ s.functions.getLsbD a.owner = false ∨ s.window a.owner < x + a.size) →
      exec (.hostBar2Access a) s = .next { s.report (.badHostAccess a.owner a.offset) with hostAnswer := none })
    ∧ (∀ pa s1, s.registerArea a.owner a.bar a.offset = none → s.hostTarget a = (some pa, s1) →
      (a.write = true → exec (.hostBar2Access a) s = .next ((s1.slotUpdate a.owner hostUnit (16 * hostUnit) pa false fun d t =>
        (mergeBytes d (placeBytes (pa % 64) a.data.toNat) (rangeMask (pa % 64) a.size), t)).checkBlock pa))
      ∧ (a.write = false → exec (.hostBar2Access a) s = .next { s1.slotTouch a.owner hostUnit (16 * hostUnit) pa false false with
        hostAnswer := some (BitVec.ofNat 64 (blockBytes (s1.coherent pa).1 (pa % 64) a.size)) }))
    ∧ (∀ bar x, s.registerArea a.owner a.bar a.offset = some (bar, x) → a.write = false →
      exec (.hostBar2Access a) s = .next { s with
        hostAnswer := some (BitVec.ofNat 64 ((s.barWord a.owner bar (x - x % 8)).toNat / 2 ^ (8 * (x % 8)) % 2 ^ (8 * a.size))) })
    ∧ (∀ v, v < 64 → s.barWord o 0 (65536 * v) = (if (s.vcp o v).valid then (s.vcp o v).status else 0))
    ∧ (s.recovery = false → s.mld = false → s.functions.getLsbD o = true →
      (∀ v, v < 64 → exec (.registerWrite o 0 (65536 * v) val) s = .next (s.post [.notify o v]))
      ∧ exec (.registerWrite o 0 0x400020 val) s = .next (s.post [.featCommit o val])
      ∧ ((s.owner o).featState ≠ 1 → exec (.registerWrite o 0 0x400010 val) s = .next (s.modOwner o fun w => { w with
        accept := (w.accept &&& ~~~(BitVec.ofNat 128 (2 ^ 64 - 1))) ||| val.setWidth 128 }))
      ∧ ((s.owner o).featState = 1 → exec (.registerWrite o 0 0x400010 val) s = .next s))
    ∧ (s.recovery = false →
      (val.toNat % 4 = 1 → exec (.registerWrite 0 4 0x30008 val) s = .next (s.post [.layoutCommit]))
      ∧ (val.toNat % 4 = 2 → exec (.registerWrite 0 4 0x30008 val) s = .next (s.post [.layoutDiscard]))
      ∧ (∀ v word, o < 16 → v < 64 → word < 3 →
        exec (.registerWrite 0 4 (0x40000 + 64 * (64 * o + v) + 8 * word) val) s = .next (s.post [.shadowQcbWrite o v word val]))
      ∧ (o < 16 → off < 256 →
        (s.layout.state = 0 → exec (.registerWrite 0 4 (0x10000 + 256 * o + off) val) s = .next (s.modOwner o fun w => { w with
          staged := w.staged.put o (off / 8 * 8) val }))
        ∧ (s.layout.state ≠ 0 → exec (.registerWrite 0 4 (0x10000 + 256 * o + off) val) s = .next { s with layout := { s.layout with stagelock := true } })))

/-- R60 to R70: a commit that passes its checks marks the owners it affects and, with no pool switch under way, enters STATE 2, and one that does not reports why; a discard restores the staged copy; once every affected owner is idle
the sweep begins, then the swap time is set 2,400 cycles ahead, and at that time the new layout is adopted under the next version; a pool's slice ends only when
another owner waits for it, and the pool passes to that owner once its cores are free and cleared.
The place in the agenda of the steps it posts is the model's choice (log 2). That a discard is ignored while a commit runs is its reading (log 50). -/
def Obligations.LayoutEvents : Prop :=
  ∀ (s : State) (p ctx : Nat),
    (s.layout.state ≠ 0 →
      exec .layoutCommit s = .next { s with layout := { s.layout with err := 8, eowner := 0 } } ∧ exec .layoutDiscard s = .next s)
    ∧ (∀ c o, s.layout.state = 0 → s.layoutCheck = some (c, o) →
      exec .layoutCommit s = .next { s with layout := { s.layout with err := BitVec.ofNat 8 c, eowner := BitVec.ofNat 4 o, stagelock := false } })
    ∧ (s.layout.state = 0 → s.layoutCheck = none →
      let hit := (upTo 16).filter fun o => (s.stagedRec o).affects (s.owner o).active
      let t : State := { s with layout := { s.layout with state := 1, err := 0, eowner := 0, stagelock := false, affected := hit } }
      exec .layoutCommit s = .next (if s.poolSwitching then t else t.quiesce)
      ∧ (hit = [] → s.poolSwitching = false →
        exec .layoutCommit s = .next { s with layout := { s.layout with state := 2, err := 0, eowner := 0, stagelock := false, affected := [] } }))
    ∧ (s.layout.state = 0 → ∃ t, exec .layoutDiscard s = .next t ∧ (∀ o, o < 16 → (t.owner o).staged = (s.owner o).active)
      ∧ (∀ i, i < 4 → (t.pool i).staged = (s.pool i).active) ∧ t.layout = s.layout)
    ∧ (s.layout.state ≠ 2 → exec .layoutQuiesceDone s = .next s)
    ∧ (s.layout.state = 2 → s.cupboardLeft = none →
      (s.quiesced = false → exec .layoutQuiesceDone s = .next s)
      ∧ (s.quiesced = true → exec .layoutQuiesceDone s =
        .next (({ s with layout := { s.layout with state := 3 } } : State).layoutSweep.clearLost.post [.layoutSweepDone])))
    ∧ (∀ o, s.layout.state = 2 → s.cupboardLeft = some o → exec .layoutQuiesceDone s =
      .next (({ s with layout := { s.layout with state := 0, err := 7, eowner := BitVec.ofNat 4 o, affected := [] } } : State).resumeOwners s.layout.affected))
    ∧ (s.layout.state = 3 → (s.layout.affected.any fun o => s.slices.any fun e => s.sweepWrites e.1 o) = false →
      (s.coresLost.any fun c => !(s.coreCleared c)) = false →
      exec .layoutSweepDone s = .next { s with layout := { s.layout with state := 4, swapAt := s.dtc + 2400 } })
    ∧ (s.layout.state ≠ 4 ∨ s.dtc ≠ s.layout.swapAt → exec .layoutSwap s = .next s)
    ∧ (s.layout.state = 4 → s.dtc = s.layout.swapAt → s.cores = [] → ∃ t, exec .layoutSwap s = .next t ∧ t.layout.state = 0
      ∧ t.layout.lver = s.layout.lver + 1 ∧ t.layout.ltick = s.dtc ∧ t.layout.affected = []
      ∧ ∀ o, o < 16 → (t.owner o).active = s.stagedRec o)
    ∧ (let q := s.pool p
      q.switching = none → (s.layout.state.toNat = 0 ∨ 4 ≤ s.layout.state.toNat) →
      (∀ o, q.current = some o → (s.dtc - q.start).toNat < q.active.toNat → exec (.poolSliceEnd p) s = .next s)
      ∧ (∀ o, q.current = some o → q.active.toNat ≤ (s.dtc - q.start).toNat → s.poolNext p (some o) = none →
        exec (.poolSliceEnd p) s = .next (s.modPool p fun q => { q with start := s.dtc }))
      ∧ (∀ o m, q.current = some o → q.active.toNat ≤ (s.dtc - q.start).toNat → s.poolNext p (some o) = some m →
        let out := (s.runningCtxs o).filter fun n => (s.owner o).active.coreList.contains (coreOf n)
        exec (.poolSliceEnd p) s = .next ((out.foldl (fun s n => s.sliceOut n) (s.modPool p fun q => { q with switching := some m })).post [.poolSwitchDone p]))
      ∧ (∀ m, q.current = none → s.poolNext p none = some m →
        exec (.poolSliceEnd p) s = .next ((s.modPool p fun q => { q with switching := some m }).post [.poolSwitchDone p])))
    ∧ ((s.pool p).switching = none → exec (.poolSwitchDone p) s = .next s)
    ∧ (∀ m, (s.pool p).switching = some m → (s.pool p).current = none →
      exec (.poolSwitchDone p) s = .next (s.poolIn p m)
      ∧ ((s.owner m).active.coreList = [] → s.layout.state ≠ 1 →
        ∃ t, exec (.poolSwitchDone p) s = .next t ∧ (t.pool p).current = some m ∧ (t.pool p).switching = none ∧ (t.pool p).start = s.dtc))
    ∧ (∀ m o, (s.pool p).switching = some m → (s.pool p).current = some o → s.poolFree o = true →
      ((s.owner o).active.coreList.any fun c => !((s.clearPool o).coreCleared c)) = false →
      exec (.poolSwitchDone p) s =
        .next (((s.owner o).active.coreList.zipIdx.foldl (fun (s : State) (c : Nat × Nat) => s.coreOut o c.1 c.2) (s.clearPool o)).poolIn p m))
    ∧ (∀ t, (s.ctx ctx).sliceSince = some t →
      ((s.dtc - t).toNat < 100000 → exec (.sliceendForceSave ctx) s = .next s)
      ∧ (100000 ≤ (s.dtc - t).toNat → (s.ctx ctx).state = .live ∨ ((∃ w, (s.ctx ctx).state = .blocked w) ∧ (s.ctx ctx).state.savable = true) →
        exec (.sliceendForceSave ctx) s = .next (s.fullSave ctx)))

/-- R72 to R75, R80, R85 to R87, R101 to R103 and R71: a Porter that runs no reservation reserves the launch it chooses, or restores a pre-empted one; a launch that waits
ages one step every 240,000 cycles; one whose deadline is past before its commit ends with status 5; a reservation that cannot be made waits, one whose claims never
fit ends as a fault, and one that is overtaken goes back to its queue; a foreign Porter that is free takes part; a commit whose records have been written dispatches its
launch; a waiting launch whose victims are gone is tried again; a peer's launch joins its die's Porter.
The place in the agenda of the steps it posts is the model's choice (log 2). The priority of a peer launch is its reading (log 16). -/
def Obligations.LaunchScheduling : Prop :=
  ∀ (s : State) (id die o co : Nat) (space : BitVec 16) (level : Level) (cidx : Nat) (g3 g4 g5 g6 : Word),
    let p := s.porter die
    let asked (l : Launch) : Bool := (s.foreignAsks die).any fun f => f.outranks l
    (s.reserving die = none → s.instantiating die = false →
      (∀ l s1, s.choose die = (some l, s1) → asked l = false →
        (l.preempted = false → exec (.porterSelect die) s = .next (s1.reserve l))
        ∧ (l.preempted = true → exec (.porterSelect die) s = .next ((s1.restoreLaunch l).post [.porterSelect die])))
      ∧ (∀ s1, s.choose die = (none, s1) → exec (.porterSelect die) s = .next s))
    ∧ (∀ l c, s.reserving die = some (l, c) → (s.porter c).commit = false → s.higherCandidate die l = true →
      exec (.porterSelect die) s = .next (s.post [.reserveRollback c]))
    ∧ (∀ l, tget s.launches id = some l → l.ages = true →
      exec (.launchAge id) s = .next ((s.setLaunch { l with age := (s.dtc - l.since).toNat / 240000 }).post [.porterSelect l.die]))
    ∧ (∀ l, tget s.launches id = some l →
      (l.late s.dtc = true → (s.porter l.die).busy ≠ some id → exec (.launchDeadlineExpire id) s = .next (s.finishLaunch l 5))
      ∧ (l.late s.dtc = true → (s.porter l.die).busy = some id → exec (.launchDeadlineExpire id) s = .next ((s.porterDone l.die).finishLaunch l 5))
      ∧ (l.late s.dtc = false → exec (.launchDeadlineExpire id) s = .next s))
    ∧ (p.busy = none →
      exec (.reserveComplete die) s = .next s ∧ exec (.reserveRollback die) s = .next s ∧ exec (.commitDone die) s = .next s)
    ∧ (∀ l, p.busy.bind (tget s.launches) = some l →
      (l.state = .reserve → l.late s.dtc = true → exec (.reserveComplete die) s = .next ((s.porterDone die).finishLaunch l 5))
      ∧ (l.state = .reserve → l.late s.dtc = false →
        (s.buildRoot l = .wait →
          exec (.reserveComplete die) s = .next (((s.setLaunch { l with state := .waiting }).porterDone die).preemptFor { l with state := .waiting }))
        ∧ (∀ s1 root, s.buildRoot l = .ok s1 root → ∃ t, exec (.reserveComplete die) s = .next t ∧ Instr.commitDone die ∈ t.agenda)
        ∧ (∀ n c, s.buildRoot l = .comb n c →
          let m : Launch := { l with fault := some ⟨Cause.combinator.code, n, c, BitVec.ofNat 64 c⟩ }
          exec (.reserveComplete die) s = .next (((s.setLaunch m).porterDone die).finishLaunch m 1)))
      ∧ (p.commit = false → exec (.reserveRollback die) s =
        .next ((((s.setLaunch { l with state := .queued }).modPorter die fun p => { p with busy := none }).freeForeign die).postLater [.porterSelect die]))
      ∧ (p.commit = true → (p.records.any fun r => r.2.launch == some l.id) = false →
        exec (.commitDone die) s = .next ((((s.setLaunch { l with state := .dispatched }).porterDone die).endEmpty l.id).tryFinish l.id)))
    ∧ (∀ l, firstLaunch (s.launches.filterMap fun e =>
        if e.2.die = die ∧ e.2.owner = o ∧ e.2.state = .waiting ∧ e.2.victims = [] ∧ s.launchHeld e.2 = false ∧ e.2.late s.dtc = false then some e.2 else none)
        = some l →
      s.restoreFirst l = false → s.reserving die = none → s.instantiating die = false → asked l = false →
      exec (.launchRetry die o) s = .next (s.reserve l))
    ∧ (∀ l, (s.porter co).busy.bind (tget s.launches) = some l → l.state = .reserve → s.reserving die = none → s.instantiating die = false → asked l = false →
      s.higherCandidate die l = false → die < 4 →
      ∃ t, exec (.foreignReserveRequest die co) s = .next t ∧ (t.porter die).foreign = [co]
        ∧ ((∀ d, die < d → d < 4 → d = co) → Instr.reserveComplete co ∈ t.agenda)
        ∧ (∀ d, die < d → d < 4 → d ≠ co → (∀ x, die < x → x < d → x = co) → Instr.foreignReserveRequest d co ∈ t.agenda))
    ∧ (∀ l, tget s.launches id = some l → l.state = .waiting → l.victims ≠ [] → s.victimsGone l = true →
      let back (e : Nat × Launch) : Nat × Launch :=
        if l.victims.contains e.1 ∧ e.2.state = .dispatched then (e.1, { e.2 with state := .queued, since := s.dtc - BitVec.ofNat 64 e.2.waited }) else e
      exec (.preemptSavesDone id) s = .next ((({ s with launches := s.launches.map back } : State).setLaunch
        { l with victims := [] }).post [.launchRetry l.die l.owner]))
    ∧ exec (.peerLaunch die o space level cidx g3 g4 g5 g6) s =
      .next (s.addLaunch (peerLaunchOf die o space level 0 7 cidx ⟨g3, g4, g5, g6⟩ none))

/-- R78 to R93 and R96 to R98: a task record that arrives joins its core's inbox; a later child whose claims fit is instantiated, and one whose do not is a fault
of its composite; a core takes the head of its cluster's segment; at a diffusion tick records go to neighbours that hold fewer, and join their queues there.
The place in the agenda of the steps it posts is the model's choice (log 2). The place that a record takes in its segment is its choice (log 74). -/
def Obligations.TaskEvents : Prop :=
  ∀ (s : State) (core o node child : Nat) (r : TaskRec),
    (∃ t, exec (.inboxRecordArrive core r) s = .next t
      ∧ ((s.ctx (16 * core)).kernelIdle = false → (t.core core).inbox = (s.core core).inbox ++ [r]
        ∧ ((s.ctx (16 * core)).state = .blocked .inbox → (tget s.ctxs (16 * core)).isSome = true → (t.ctx (16 * core)).state = .live)))
    ∧ (tget s.nodes node = none → exec (.compositeInstantiate node child) s = .next s)
    ∧ (∀ p l, tget s.nodes node = some p → p.state ≠ .ended → tget s.launches p.launch = some l →
      let k := laterChild p child
      (eDom p.entry = 5 → exec (.compositeInstantiate node child) s = .next (s.peerChild p child (s.instanceOf (some p) child)))
      ∧ (eDom p.entry ≠ 5 → l.preempted = false → s.porterReady l.die p = true → s.instanceBusy p.cores = false →
        let built := s.instantiate l.die l (some p) k (s.childCores p) []
        (∀ s1 root, built = .ok s1 root → exec (.compositeInstantiate node child) s = .next ((s1.commitNodes l.die s.nextId).endEmpty l.id))
        ∧ (built = .wait → exec (.compositeInstantiate node child) s = .next (s.childFails p child (p.level + 1) k.cidx))
        ∧ (∀ n c, built = .comb n c → exec (.compositeInstantiate node child) s = .next (s.childFails p child n c))))
    ∧ (∀ t rest, s.segment o (clusterOf core) = t :: rest → s.contCount core o < 8 → (s.core core).conts.length < 32 → s.coreOpen core o = true →
      let n := (s.owner o).gtqlen.toNat
      let head := (s.segmentPlace o (clusterOf core) + n - (rest.length + 1) % max 1 n) % max 1 n
      let u := s.deviceRead core t.owner t.space .s (s.segmentAddress o (clusterOf core) head)
      exec (.gtqSegmentTake core o) s = .next ((((u.setSegment o (clusterOf core) rest).modCore core fun c => { c with conts := c.conts ++ [t] }).wakeIf
        fun _ w => w == .segment).contStep core))
    ∧ (s.segment o (clusterOf core) = [] → exec (.gtqSegmentTake core o) s = .next s)
    ∧ (∀ c t, s.cores = [(core, c)] → core < 1024 → c.conts = [t] → exec .diffusionTick s = .next s)
    ∧ (∀ c t rest m ms, s.cores = [(core, c)] → core < 1024 → o < 16 → c.conts = t :: rest → t.owner = o → neighbours core = m :: ms →
      (s.owner o).active.cores.getLsbD m = true → 5 ≤ s.contCount core o - s.contCount m o →
      ∃ u, exec .diffusionTick s = .next u ∧ Instr.diffusionRecordArrive m t ∈ u.agenda)
    ∧ ((s.ctx (16 * core)).kernelIdle = false →
      exec (.diffusionRecordArrive core r) s = .next (s.modCore core fun c => { c with conts := c.conts ++ [r] }))

/-- R22 to R25, R112 to R116, R119, R127 and R384: a frame starts with a new calendar; a slot serves its owner; a channel's slot makes its owner's access, which
ends with the error that its check code shows; a read repeated without error is transient and one that fails again is lasting; a refresh slot serves nobody; the requests of one owner that
reach a slice join its queue there; a sweep marks or moves one line a step and ends behind its last one; a refused access goes again when its back-off is over.
The place in the agenda of the steps it posts is the model's choice (log 2). The requester number of a sweep is the model's own (log 14). -/
def Obligations.ResourceEvents : Prop :=
  ∀ (s : State) (k j slot c o : Nat) (r : Req) (q : ChanReq),
    exec (.frameStart k j) s = .next (s.buildCalendar k j (s.dtc.toNat / frameLength k * frameLength k))
    ∧ (k ≠ 3 → k ≠ 4 → exec (.slotServe k j slot) s = .next (s.serveSlot k j slot))
    ∧ (k = 3 → (∀ q ∈ (s.resource 3 j).queue, ∃ t ∈ (s.cluster j).tiles, s.tileStartable j q.owner t = true) →
      exec (.slotServe 3 j slot) s = .next ((s.modResource 3 j id).serveSlot 3 j slot))
    ∧ (k = 4 → (s.resource 4 j).queue = [] → exec (.slotServe 4 j slot) s = .next ((s.modResource 4 j id).serveSlot 4 j slot))
    ∧ exec (.lp6ReadRepeat j q .failed) s = .next (if q.fill then (s.poison q.pa).fillEnd q.pa false else s.poison q.pa)
    ∧ exec (.lp6ReadRepeat j q .corrected) s = .next ((s.countError (4096 + j / 2)).readDone j q)
    ∧ exec (.lp6ReadRepeat j q .good) s = .next ((s.countError (4096 + j / 2)).readDone j q)
    ∧ (∀ since err, s.agenda = [] → (s.slice (j / 2)).fills = [] → since ≠ s.dtc → (s.resource 1 j).cal.getD slot 0 = q.owner →
      (s.resource 1 j).queue = [⟨q.owner, since, 1, [], [.lp6ReadRepeat j q .good], 0⟩] →
      let u := (s.modResource 1 j fun x => { x with queue := [], upto := s.dtc.toNat / 9 + 1 }).count (j / 128) q.owner 1 (waitOf 1 j since s.dtc)
      exec (.channelSlot j slot err) s = .next (match err with
        | .good => u.readDone j q
        | .corrected => (u.countError (4096 + j / 2)).readDone j q
        | .failed => if q.write then u else u.modResource 1 j fun x => { x with
            queue := [⟨q.owner, s.dtc, 1, [], [.lp6ReadRepeat j q .corrected], 0⟩] }))
    ∧ exec (.channelRefreshSlot j) s = .next ((s.touch 1 j).modResource 1 j fun x => { x with upto := max x.upto (s.dtc.toNat / 9 + 1) })
    ∧ exec (.wstoreRefresh k j) s = .next (s.touch 5 (64 * k + j))
    ∧ (s.agenda = [] → s.overtakes r = false → exec (.sliceRequestArrive c o [r]) s = .next (s.joinSlice c o [r]))
    ∧ ((s.slice c).sweeps.find? (fun w => w.owner == o) = none → exec (.sweepStep c o) s = .next s)
    ∧ (∀ w w', (s.slice c).sweeps = [w] → w.owner = o → w ≠ sweepDone o →
      (nextSweep ((s.owner o).active.dies.toList.getD (c / 64) .zero) w = some w' → exec (.sweepStep c o) s =
        .next (((s.sweepLine c o w).modSlice c fun k => { k with sweeps := mapIf (fun x : Sweep => x.owner == o) (fun _ => w') k.sweeps }).request 0 c o
          [.sweepStep c o]))
      ∧ (nextSweep ((s.owner o).active.dies.toList.getD (c / 64) .zero) w = none → (s.sweepLine c o w).sweepWrites c o = false →
        exec (.sweepStep c o) s = .next ((s.sweepLine c o w).sweepEnd c o)))
    ∧ exec (.benchBackoffRetry r) s = .next (({ s with backoffs := s.backoffs.filter fun e => !(e.2 == r && decide (e.1 ≤ s.dtc)) } : State).depart r)

/-- R98 to R100, R230 and R334 to R350: a counter's notice makes the records that wait for it ready; a slot starts its owner's oldest ready record on its engine with its
accumulator cleared unless ACC is set; a K step reads 64 rows of A and of B and accumulates them; an overrun stops its task with 0x41; a task or copy that has
stopped frees its locks, pushes its word and acts on its DKIND word; a slot that is saved is written out; a WAITT whose time has come goes on.
The place in the agenda of the steps it posts is the model's choice (log 2). That a K step's reads are one step is its choice (log 23). -/
def Obligations.EngineEvents : Prop :=
  ∀ (s : State) (cl e o pa slot id ctx : Nat),
    (∃ t, exec (.tileJcNotify cl pa) s = .next t ∧ ∀ x ∈ (s.cluster cl).tiles, x.wjc = some pa → { x with jcReady := true, wjc := none } ∈ (t.cluster cl).tiles)
    ∧ ((s.cluster cl).tiles.find? (fun t => s.tileStartable cl o t) = none → exec (.tileSlot cl o) s = .next s)
    ∧ (∀ t, (s.cluster cl).tiles = [t] → s.tileStartable cl o t = true → s.tileEngine cl t = some e →
      exec (.tileSlot cl o) s = .next ((s.modCluster cl fun k => { k with
        tiles := [{ t with engine := some e, busy := 40 }], acc := if tAcc t.body then k.acc else tset k.acc (t.accSlot e) [] }).post [.tileKStep cl e]))
    ∧ (s.tileOn cl e = none → exec (.tileKStep cl e) s = .next s ∧ exec (.tileOverrun cl e) s = .next s ∧ exec (.tileTaskComplete cl e) s = .next s)
    ∧ (∀ t, s.tileOn cl e = some t →
      exec (.tileOverrun cl e) s = .next (s.tileStop cl e t 0x41 (min t.k (tNk t.body)))
      ∧ (t.waiting = false → t.result = none → t.k < tNk t.body →
        (s.tileFetching t = true → exec (.tileKStep cl e) s = .next (s.postLater [.tileKStep cl e]))
        ∧ (s.tileFetching t = false → 7200 < t.busy + 32 → exec (.tileKStep cl e) s = .next (s.post [.tileOverrun cl e]))
        ∧ (s.tileFetching t = false → t.busy + 32 ≤ 7200 →
          let rows (base : Word) (stride : Nat) : List Word := (List.range 64).map fun r => base + BitVec.ofNat 64 (r * stride + 64 * t.k)
          ∀ l s1, (s.modTile cl t.id fun u => { u with fetching := [] }).engineReads t.agent
              (rows (blockWord t.body 1) (tAstride t.body) ++ rows (blockWord t.body 2) (tBstride t.body)) = (.ok l, s1) →
            (badPair t.cb4 (l.take 64) (l.drop 64) = true → exec (.tileKStep cl e) s = .next (s1.tileStop cl e t Cause.badfmt.code t.k))
            ∧ (badPair t.cb4 (l.take 64) (l.drop 64) = false → ∃ u, exec (.tileKStep cl e) s = .next u
              ∧ tget (u.cluster cl).acc (t.accSlot e) =
                some (stepSlot t.books ((tget (s1.cluster cl).acc (t.accSlot e)).getD []) (l.take 64) (l.drop 64))
              ∧ Instr.tileKStep cl e ∈ u.agenda)))
      ∧ (t.waiting = false → t.result = none → tNk t.body < t.k ∨ s.tileFetching t = false → tNk t.body ≤ t.k → (blockWord t.body 0).getLsbD 1 = false →
        exec (.tileKStep cl e) s = .next (s.tileStop cl e t 0 0))
      ∧ (t.waiting = false → s.tileFetching t = true → exec (.tileTaskComplete cl e) s = .next (s.postLater [.tileTaskComplete cl e]))
      ∧ (∀ r, t.waiting = false → t.dk = none → t.result = some r → s.tileFetching t = false →
        r ≠ 0 ∨ s.engineMerges t.agent t.scope t.dest.1 t.dest.2 = none → (blockWord t.body 7).toNat % 4 = 0 → (blockWord t.body 0).getLsbD 2 = false →
        exec (.tileTaskComplete cl e) s = .next ((if t.observed then s.modCluster cl fun k => { k with tiles := k.tiles.filter fun u => u.id != t.id }
          else s.modTile cl t.id fun _ => { t with done := true, engine := none }).freeLocks t.core t.id)))
    ∧ (let holder : Option TaskRec := (List.range 8).findSome? fun m => ((s.tasksOn (8 * cl + m)).find? fun t => t.2.acc.contains slot).map (·.2)
      (holder = none → exec (.accSlotSave cl slot) s = .next s)
      ∧ (∀ t s1, holder = some t → (s.cluster cl).tiles = [] → s.saveSlot cl slot t.owner = some s1 →
        exec (.accSlotSave cl slot) s = .next (s1.modCluster cl fun k => { k with
          savedAcc := if k.savedAcc.contains (t.owner, slot) then k.savedAcc else k.savedAcc ++ [(t.owner, slot)] })))
    ∧ (s.copies.find? (fun c => c.id == id && !c.done) = none → exec (.copyComplete cl e id) s = .next s)
    ∧ (∀ c, s.copies.find? (fun c => c.id == id && !c.done) = some c → c.waiting = false → c.dk = none → c.dkind = 0 → c.rq = false → c.cmd = none →
      (c.unacked ≠ 0 ∨ s.engineBusy id = true → exec (.copyComplete cl e id) s = .next (s.postLater [.copyComplete cl e id]))
      ∧ (c.unacked = 0 → s.engineBusy id = false → c.result ≠ some 0 →
        exec (.copyComplete cl e id) s = .next ((if c.observed then { s with copies := s.copies.filter fun x => x.id != id }
          else s.modCopy c.id fun _ => { c with done := true }).freeLocks c.core c.id))
      ∧ (c.unacked = 0 → s.engineBusy id = false → c.result = some 0 → s.engineMerges c.agent c.scope c.dst (64 * c.blocks) = none →
        exec (.copyComplete cl e id) s = .next ((if c.observed then { s with copies := s.copies.filter fun x => x.id != id }
          else s.modCopy c.id fun _ => { c with done := true }).freeLocks c.core c.id)))
    ∧ (∀ t, (s.ctx ctx).state = .blocked (.waitt t) → (tget s.ctxs ctx).isSome = true → t.toNat ≤ s.dtc.toNat →
      ∃ u, exec (.waittWake ctx) s = .next u ∧ (u.ctx ctx).state = .live ∧ (u.ctx ctx).pc = (s.ctx ctx).pc)

/-- The line of a block stands in its slice with its data (R107, R385); a block that no slice homes needs none. -/
def lineHere (s : State) (pa : Nat) : Bool :=
  match regionOf pa with
  | .lp6 => match s.llcFind pa with
    | some l => !l.filling
    | none => false
  | _ => true

/-- R170 to R174, R228 and R313 to R317 at the home of a word whose line is there, that no transaction holds and whose frame allows the access: TAKE, TRYTAKE and WAITW of a full word answer its
value, and of an empty one wait or answer 0; PUT of a full word is refused with TYPEFAULT; PUT and PUTX write and serve the waiters; AMO and RED apply their
function to the old value; counters and barriers change and answer as stated, an engine's arrival and a broken one unanswered.
The place in the agenda of the steps it posts is the model's choice (log 2). When a raised priority is given back is its reading (log 31). -/
def Obligations.HomeWordEvents : Prop :=
  ∀ (s : State) (r : Req), s.busy (r.pa / 64) = false → (∀ op w, s.fillCheck { r with op := op } w = none) → lineHere s r.pa = true →
    let old : Word := BitVec.ofNat 64 (blockBytes (s.coherent r.pa).1 (r.pa % 64) 8)
    let s1 := (s.homeTouch r.owner r.pa true false).recall r.pa
    let tag := s1.tagAt (r.pa / 64)
    let s2 := s.homeTouch r.owner r.pa false false
    let seen : Word := BitVec.ofNat 64 (blockBytes (s2.coherent r.pa).1 (r.pa % 64) 8)
    let sends (t : State) (v : Arrival) : Host.Outcome State Fault Refusal := .next (t.respond r [.producerArrive r.ctx r.pid v])
    let emptied : State := (s1.setTag (r.pa / 64) (setFullWord tag r.pa false)).setHolder r.pa (some r.ctx)
    let as (op : HomeOp) : Req := { r with op := op }
    let n := r.x.toNat % 2 ^ 24
    let bar : Word := BitVec.ofNat 64 (if n = 0 then 2 ^ 63 else n)
    let arr := (old.toNat / 2 ^ 24 + 1) % 2 ^ 24
    let ph := old.toNat / 2 ^ 48 % 2 ^ 15
    let next : Word := if arr = old.toNat % 2 ^ 24 then BitVec.ofNat 64 (old.toNat % 2 ^ 24 + 2 ^ 48 * ((ph + 1) % 2 ^ 15))
      else BitVec.ofNat 64 (old.toNat % 2 ^ 24 + 2 ^ 24 * arr + 2 ^ 48 * ph)
    let changed : State := s.homeUpdate r.owner r.pa false fun d t =>
      match amoFn r.fn r.size (blockBytes (s.coherent r.pa).1 (r.pa % 64) r.size) r.c.toNat r.x.toNat with
      | some v => (mergeBytes d (placeBytes (r.pa % 64) v) (rangeMask (r.pa % 64) r.size), t)
      | none => (d, t)
    let lowered : Word := if old = 0 then 0 else old - 1
    let put : State := ((s.lowerHolder r.pa r.ctx).putWord r.owner r.pa r.x).respond r [.producerArrive r.ctx r.pid (.word 0)]
    (isFullWord tag r.pa = true →
      (r.op = .take → exec (.homeTake r) s = sends emptied (.word (s1.homeWord r.pa)))
      ∧ exec (.homeTrytake r) s = .next (emptied.answer (as .trytake) (.pair (s1.homeWord r.pa) 1))
      ∧ exec (.homeWaitw r) s = .next (s1.answer (as .waitw) (.word (s1.homeWord r.pa))))
    ∧ (isFullWord tag r.pa = false →
      (r.op = .take → exec (.homeTake r) s = .next ((s1.raiseHolder r).benchJoin r))
      ∧ exec (.homeTrytake r) s = .next (s1.answer (as .trytake) (.pair 0 0))
      ∧ exec (.homeWaitw r) s = .next (s1.benchJoin (as .waitw)))
    ∧ (r.op = .put → isFullWord (s.coherent r.pa).2 r.pa = true → exec (.homePut r) s = sends s (.failed .typefault r.va 2))
    ∧ (r.op = .put → isFullWord (s.coherent r.pa).2 r.pa = false → exec (.homePut r) s = .next (put.ringReply r.pa))
    ∧ (r.op = .putx → exec (.homePutx r) s = .next (put.ringReply r.pa))
    ∧ (r.op = .amo → exec (.homeAmo r) s = sends (changed.checkBlock r.pa)
        (.word (BitVec.ofNat 64 (blockBytes (s.coherent r.pa).1 (r.pa % 64) r.size))))
    ∧ exec (.homeRed r) s = .next ((changed.checkBlock r.pa).storeDone r.ctx)
    ∧ (r.op = .jcinit → r.pid = 0 → exec (.homeJcinit r) s = .next ((s.storeWord r r.x).notifyZero r.pa r.x))
    ∧ (r.op = .jcinit → r.pid ≠ 0 → exec (.homeJcinit r) s = sends ((s.storeWord r r.x).notifyZero r.pa r.x) (.word 0))
    ∧ (r.op = .barinit → r.pid = 0 → exec (.homeBarinit r) s = .next (s.storeWord r bar))
    ∧ (r.op = .barinit → r.pid ≠ 0 → exec (.homeBarinit r) s = sends (s.storeWord r bar) (.word 0))
    ∧ (r.pid = 0 → exec (.homeJcdec r) s = .next ((s.storeWord r lowered).notifyZero r.pa lowered))
    ∧ (r.pid ≠ 0 → exec (.homeJcdec r) s = sends ((s.storeWord r lowered).notifyZero r.pa lowered) (.word 0))
    ∧ (seen = 0 → exec (.homeJcwait r) s = sends s2 (.word 0))
    ∧ (seen ≠ 0 → exec (.homeJcwait r) s = .next (s2.benchJoin r))
    ∧ (r.x = 1 → exec (.homeBararr r) s = .next (s.storeWord r (old ||| 0x8000000000000000)))
    ∧ (r.x ≠ 1 → r.pid ≠ 0 → old.getLsbD 63 = true → exec (.homeBararr r) s = sends s (.failed .brokenbar r.va 0))
    ∧ (r.x ≠ 1 → r.pid ≠ 0 → old.getLsbD 63 = false → exec (.homeBararr r) s = sends (s.storeWord r next) (.word (BitVec.ofNat 64 ph)))
    ∧ (r.x ≠ 1 → r.pid = 0 → exec (.homeBararr r) s = .next (if old.getLsbD 63 then s else s.storeWord r next))
    ∧ (seen.getLsbD 63 = true → exec (.homeBarwait r) s = sends s2 (.failed .brokenbar r.va 0))
    ∧ (seen.getLsbD 63 = false → seen.toNat / 2 ^ 48 % 2 ^ 15 ≠ r.c.toNat % 2 ^ 15 → exec (.homeBarwait r) s = sends s2 (.word seen))
    ∧ (seen.getLsbD 63 = false → seen.toNat / 2 ^ 48 % 2 ^ 15 = r.c.toNat % 2 ^ 15 → exec (.homeBarwait r) s = .next (s2.benchJoin r))

/-- R149, R150, R166, R178, R207, R269, R306 and R385: an operation waits at its slice while its block's line has no data; a merge writes the masked words at the home and is acknowledged; a WS block is written once, and a load of it waits
until it is; a tag is written at the home; a withdrawal takes a wait out of the home and leaves a reissue record; an acknowledgement counts a store done; a fence marker is acknowledged and
its release goes on; a result fills its register.
The place in the agenda of the steps it posts is the model's choice (log 2). Requester numbers of peers and engines are the model's own (log 14). -/
def Obligations.HomeDataEvents : Prop :=
  ∀ (s : State) (r : Req) (core w k ctx rel path pid : Nat) (va : Word) (d : Block) (t : Tag) (v : Word),
    (∀ l, (∀ x, s.fillCheck r x = none) → regionOf r.pa = .lp6 → s.llcFind r.pa = some l → l.filling = true → r.op ≠ .walk →
      exec (homeEvent r) s = .next (s.modSlice (channelOf r.pa) fun sl => { sl with fills := sl.fills ++ [(r.pa / 64, homeEvent r)] }))
    ∧ (s.busy (r.pa / 64) = false → (∀ x, s.fillCheck r x = none) → lineHere s r.pa = true →
      (r.ct ≠ .ws → exec (.homeMerge r) s = .next (((s.homeUpdate r.owner r.pa (r.mask == BitVec.allOnes 64) fun d t =>
          (mergeBytes d r.data r.mask, if r.typed then typedTag t r.tag else t)).checkBlock r.pa).respond r
        [.mergeAck r.ctx r.core (r.pa / 64) false r.va]))
      ∧ (r.ct = .ws → (s.coherent r.pa).2.getLsbD 7 = false → exec (.homeMerge r) s = .next (((s.homeUpdate r.owner r.pa true fun _ t =>
          (mergeBytes 0 r.data r.mask, t ||| 0x80)).serveReaders r.pa).respond r [.mergeAck r.ctx r.core (r.pa / 64) false r.va]))
      ∧ (r.ct = .ws → (s.coherent r.pa).2.getLsbD 7 = true → exec (.homeMerge r) s = .next (s.respond r [.mergeAck r.ctx r.core (r.pa / 64) true r.va]))
      ∧ ((s.tagAt (r.pa / 64)).getLsbD 7 = false → exec (.homeWsWrite r) s = .next (((s.homeUpdate r.owner r.pa true fun _ t =>
          (mergeBytes 0 r.data r.mask, (if r.typed then typedTag t r.tag else t) ||| 0x80)).serveReaders r.pa).storeDone r.ctx))
      ∧ (r.ctx < remoteBase → (s.tagAt (r.pa / 64)).getLsbD 7 = true → exec (.homeWsWrite r) s = .next (s.mergeAcked r.ctx true r.va))
      ∧ (r.tag.getLsbD 7 = false → r.tag &&& 0xFF000000 = 0 → exec (.homeTagWrite r) s =
        .next ((s.homeUpdate r.owner r.pa false fun d _ => (d, r.tag &&& 0xFF00FFFF)).storeDone r.ctx))
      ∧ ((s.tagAt (r.pa / 64)).getLsbD 7 = false → r.op ≠ .wsLoad ∨ r.pid ≠ 0 → exec (.homeWsLoad r) s = .next (s.benchJoin r))
      ∧ ((s.tagAt (r.pa / 64)).getLsbD 7 = true → r.op ≠ .winFill → r.pid ≠ 0 →
        let s1 := s.homeTouch r.owner r.pa false false
        let b := r.pa / 64
        exec (.homeWsLoad r) s = .next (((s1.makeRoom r.core b).setL1 r.core b { newLine .ro r.owner r.ct [] with
            data := readBlock s1.mem (64 * b), tag := s1.tagAt b }).respond r
          [.producerArrive r.ctx r.pid (loadValue (readBlock s1.mem (64 * b)) (s1.tagAt b) r.pa r.size r.typed r.keep)])))
    ∧ (exec (.mergeAck ctx core k false va) s = .next ((s.storeDone ctx).releaseCore core)
      ∧ (ctx < remoteBase → coreOf ctx = core → (∀ h, h < 16 → (s.ctx (16 * core + h)).releases = []) → ∃ u, exec (.mergeAck ctx core k true va) s = .next u
        ∧ (u.ctx ctx).owed = some ((s.ctx ctx).owed.getD ⟨.wonce, va, 0⟩) ∧ (u.ctx ctx).unacked = (s.ctx ctx).unacked - 1))
    ∧ (tget (s.core core).windows w = none → exec (.windowFill core w k d t) s = .next s)
    ∧ (∀ x, tget (s.core core).windows w = some x → x.blocks = [] → ∃ u, exec (.windowFill core w k d t) s = .next u
      ∧ u.lsBlock core (64 * (x.lblk + k)) = (d, t) ∧ tget ((tget (u.core core).windows w).map (·.blocks) |>.getD []) k = some ⟨true, 0⟩)
    ∧ (path < 1024 → s.outstanding ctx (some path) = true → exec (.fenceMarker ctx rel path) s = .next (s.postLater [.fenceMarker ctx rel path]))
    ∧ (path < 512 → s.outstanding ctx (some path) = false → exec (.fenceMarker ctx rel path) s =
        .next (s.packetBack (s.ctx ctx).owner (corePlace (coreOf ctx)) (slicePlace (path % 256)) (decide (256 ≤ path)) 1 [.markerAck ctx rel]))
    ∧ (512 ≤ path → path < 1024 → s.outstanding ctx (some path) = false → exec (.fenceMarker ctx rel path) s =
        .next (s.travel (s.ctx ctx).owner [(2, 4096 + Nat.xor (path - 512) 1)] 1 [.markerAck ctx rel]))
    ∧ ((s.ctx ctx).releases = [] → ∃ u, exec (.markerAck ctx rel) s = .next u ∧ (u.ctx ctx).releases = [])
    ∧ (∀ x, (s.ctx ctx).releases = [x] → x.id = rel → 1 < x.markers →
        exec (.markerAck ctx rel) s = .next (s.modCtx ctx fun c => { c with releases := [{ x with markers := x.markers - 1 }] }))
    ∧ (∀ x, (s.ctx ctx).releases = [x] → x.id = rel → x.markers = 1 → x.peer = none → x.hold = none → (s.ctx ctx).unacked = 0 → s.storesWaiting ctx = false →
        s.windowMerging (coreOf ctx) false = false → x.pids = [] → ∃ u, exec (.markerAck ctx rel) s = .next u ∧ (u.ctx ctx).releases = [])
    ∧ (s.benchWait pid = none → s.outstanding ctx none = false → exec (.homeWithdraw ctx pid) s = .next s)
    ∧ (∀ q, s.benchWait pid = some q → ∃ u, exec (.homeWithdraw ctx pid) s = .next u ∧ (u.slices.all fun e => e.2.bench.all fun b => b.req.pid != pid) = true
        ∧ (u.ctx ctx).producers = (s.ctx ctx).producers.filter (fun p => p.pid != pid)
        ∧ (u.ctx ctx).reissue = (s.ctx ctx).reissue ++ ((s.ctx ctx).producers.filter fun p => p.pid == pid).map fun p => (q, p))
    ∧ (∀ p q, ctx < remoteBase → q < 56 → q ≠ 0 → (s.ctx ctx).producers = [p] → p.pid = pid → p.dest = .g q → p.home = none → p.queued = false → p.acquire = false →
      (s.ctx ctx).releases = [] → ∃ u, exec (.producerArrive ctx pid (.word v)) s = .next u
      ∧ (u.ctx ctx).g.toList.getD q 0 = v ∧ (u.ctx ctx).gFull.getLsbD q = true ∧ (u.ctx ctx).producers = []
      ∧ ((s.ctx ctx).state = .blocked (.reg q) → (tget s.ctxs ctx).isSome = true → (u.ctx ctx).state = .live))

/-- R163, R183 to R186, R371 and R372 at the home of a block of LP6 memory whose line is there and whose frame allows the access: a block of a PV page is sent; an uncached block is granted exclusive, a shared one is shared or invalidated
first, an owned one is forwarded; a write-back by the owner is written and acknowledged; answers to snoops settle the block's next state, an owner's that is being written back with its write-back.
The place in the agenda of the steps it posts is the model's choice (log 2). -/
def Obligations.HomeCoherence : Prop :=
  ∀ (s : State) (r : Req) (b core : Nat) (clean : Bool), r.pa / 64 = b → regionOf r.pa = .lp6 → (∀ w, s.fillCheck r w = none) → lineHere s r.pa = true →
    let s1 := s.homeTouch r.owner r.pa false false
    let s2 := s.homeTouch r.owner r.pa true false
    let d1 := s1.dirOf b
    let d2 := s2.dirOf b
    let d := s.dirOf b
    let others := d2.sharers.filter fun c => c != r.core
    let written : State := (s.homeTouch r.owner r.pa true true).writeHome r.pa r.data r.tag
    let acked (x : State) : Host.Outcome State Fault Refusal := .next ((x.post [.l1WbAck r.core b]).respond r [])
    (r.op = .rds →
      (r.ct = .pv → exec (.homeRds r) s = .next ((s1.post [.l1Data r.core b .pv (s1.coherent r.pa).1 (s1.coherent r.pa).2]).respond r []))
      ∧ (r.ct ≠ .pv → r.ct ≠ .ws →
        (d1.st = .unc → exec (.homeRds r) s = .next ((s1.setDir b { d1 with st := .exc, owner := r.core }).sendData r .e))
        ∧ (d1.st = .shd → exec (.homeRds r) s = .next ((s1.setDir b { d1 with sharers := addNew d1.sharers r.core }).sendData r .s))
        ∧ (d1.st = .exc → d1.owner ≠ r.core → exec (.homeRds r) s =
          .next ((s1.setDir b { d1 with st := .fwd, cur := some r }).snoop r d1.owner (.l1FwdS d1.owner b r.core)))
        ∧ (d1.st = .exc → d1.owner = r.core → exec (.homeRds r) s = .next (s1.sendData r .e))
        ∧ (d1.st = .own → exec (.homeRds r) s = .next ((s1.setDir b { d1 with st := .fwd, cur := some r }).snoop r d1.owner (.l1FwdS d1.owner b r.core)))))
    ∧ (d2.st = .unc → exec (.homeRdx r) s = .next ((s2.setDir b { d2 with st := .exc, owner := r.core }).sendData r .m))
    ∧ (d2.st = .shd → others ≠ [] → exec (.homeRdx r) s =
        .next (others.foldl (fun s c => s.snoop r c (.l1Inv c b)) (s2.setDir b { d2 with st := .rdxInv, cur := some r, acks := others.length })))
    ∧ (d2.st = .exc → d2.owner ≠ r.core → exec (.homeRdx r) s =
        .next ((s2.setDir b { d2 with st := .fwd, cur := some r }).snoop r d2.owner (.l1FwdX d2.owner b r.core)))
    ∧ (d2.st = .exc → d2.owner = r.core → exec (.homeRdx r) s = .next (s2.sendData r .m))
    ∧ (d2.st = .own → exec (.homeRdx r) s =
        .next ((others.foldl (fun s c => s.snoop r c (.l1Inv c b)) (s2.setDir b { d2 with st := .rdxInv, cur := some r, acks := others.length + 1 })).snoop r
          d2.owner (.l1FwdX d2.owner b r.core)))
    ∧ (d.st = .shd → r.core ∈ d.sharers → (d.sharers.filter fun c => c != r.core) ≠ [] → exec (.homeUpg r) s =
        .next ((d.sharers.filter fun c => c != r.core).foldl (fun s c => s.snoop r c (.l1Inv c b))
          (s.setDir b { d with st := .upgGrant, cur := some r, acks := (d.sharers.filter fun c => c != r.core).length })))
    ∧ (d.st = .unc ∨ d.st = .exc → exec (.homeUpg r) s = .next (s.rdxHome { r with op := .rdx }))
    ∧ (r.op ≠ .write → r.pid = 0 →
      (d.owner ≠ r.core → exec (.homeWb r) s = acked s)
      ∧ (d.owner = r.core → d.st = .exc → r.keep = false → exec (.homeWb r) s = acked (written.stabilise b .unc 0 []))
      ∧ (d.owner = r.core → d.st = .exc → r.keep = true → exec (.homeWb r) s = acked written)
      ∧ (d.owner = r.core → d.st = .own → r.keep = true → exec (.homeWb r) s = acked (written.stabilise b .shd 0 (addNew d.sharers r.core))))
    ∧ (d.st = .rdxInv ∨ d.st = .upgGrant → 1 < d.acks →
      exec (.homeInvAck b core) s = .next (s.setDir b { d with acks := d.acks - 1, sharers := d.sharers.filter fun c => c != core }))
    ∧ (d.st ≠ .rdxInv → d.st ≠ .upgGrant → exec (.homeInvAck b core) s = .next s)
    ∧ (d.st = .rdxInv → d.owner = core → d.stale = false → exec (.homeAckStale b core) s = .next (s.setDir b { d with stale := true }))
    ∧ (∀ q, d.st = .fwd → d.cur = some q →
      (q.op = .rds → exec (.homeFwdDone b core true) s = .next (s.stabilise b .shd 0 (addNew (addNew d.sharers core) q.core))
        ∧ exec (.homeFwdDone b core false) s = .next (s.stabilise b .own core (addNew d.sharers q.core)))
      ∧ (q.op ≠ .rds → exec (.homeFwdDone b core clean) s = .next (s.stabilise b .exc q.core []))
      ∧ exec (.homeAckMiss b core) s = .next ((s.serveCur b).afterRace b false)
      ∧ exec (.homeAckStale b core) s = .next (s.setDir b { d with stale := true }))
    ∧ (d.st = .wbRace → exec (.homeAckMiss b core) s = .next (s.afterRace b d.stale) ∧ exec (.homeAckStale b core) s = .next (s.afterRace b d.stale))

/-- R183 and R371 at an L1: data and grants settle the line that waits for them; an invalidation drops a held line and is answered; a forward hands the line on, keeping it
owned or shared, or dropping it; a line that is being written back answers stale; an acknowledged write-back is gone or kept.
The place in the agenda of the steps it posts is the model's choice (log 2). -/
def Obligations.L1Coherence : Prop :=
  ∀ (s : State) (core b req : Nat) (data : Block) (tag : Tag),
    let dropped : State := s.dropL1 core b
    (s.l1 core b = none →
      exec (.l1Inv core b) s = .next (s.post [.homeAckMiss b core])
      ∧ exec (.l1FwdS core b req) s = .next (s.post [.homeAckMiss b core])
      ∧ exec (.l1FwdX core b req) s = .next (s.post [.homeAckMiss b core])
      ∧ exec (.l1Grant core b) s = .next (s.releaseCore core)
      ∧ exec (.l1WbAck core b) s = .next (s.releaseCore core))
    ∧ (∀ l, s.l1 core b = some l →
      (l.st = .isD ∨ l.st = .imD →
        (∀ g st, (g = .s ∧ st = .s) ∨ (g = .e ∧ st = .e) ∨ (g = .m ∧ st = .m) ∨ (g = .pv ∧ st = .pv ∧ regionOf (64 * b) = .lp6) → exec (.l1Data core b g data tag) s =
          .next (((s.setL1 core b { l with st := st, data := data, tag := tag, dirty := false }).settle core b).releaseCore core))
        ∧ exec (.l1Inv core b) s = .next (s.post [.homeInvAck b core])
        ∧ (s.answering core b = true → exec (.l1FwdS core b req) s = .next (s.setL1 core b { l with held := l.held ++ [.l1FwdS core b req] })
          ∧ exec (.l1FwdX core b req) s = .next (s.setL1 core b { l with held := l.held ++ [.l1FwdX core b req] }))
        ∧ (s.answering core b = false → exec (.l1FwdS core b req) s = .next (s.post [.homeAckMiss b core])
          ∧ exec (.l1FwdX core b req) s = .next (s.post [.homeAckMiss b core])))
      ∧ (l.st = .smG →
        exec (.l1Grant core b) s = .next (((s.setL1 core b { l with st := .m }).settle core b).releaseCore core)
        ∧ exec (.l1Inv core b) s = .next ((s.setL1 core b { l with st := .imD, dirty := false }).post [.homeInvAck b core])
        ∧ (l.dirty = true → s.answering core b = false → exec (.l1FwdS core b req) s = .next ((s.setL1 core b l).handOver core b req l .s false)))
      ∧ (l.st = .m ∨ l.st = .o ∨ l.st = .e ∨ l.st = .s → exec (.l1Inv core b) s = .next (dropped.post [.homeInvAck b core]))
      ∧ (l.st = .m ∨ l.st = .o → exec (.l1FwdS core b req) s =
          .next ((s.setL1 core b { l with st := .o }).handOver core b req l .s false))
      ∧ (l.st = .e → exec (.l1FwdS core b req) s =
          .next ((s.setL1 core b { l with st := .s }).handOver core b req l .s true))
      ∧ ((s.dirOf b).st ≠ .rdxInv → (l.st = .m ∨ l.st = .o → exec (.l1FwdX core b req) s =
            .next (dropped.handOver core b req l .m false))
        ∧ (l.st = .e → exec (.l1FwdX core b req) s = .next (dropped.handOver core b req l .m true)))
      ∧ ((s.dirOf b).st = .rdxInv → l.st = .m ∨ l.st = .o → exec (.l1FwdX core b req) s =
        .next ((dropped.writeHome (64 * b) l.data l.tag).post [.homeFwdDone b core false]))
      ∧ (l.st = .miA →
        exec (.l1Inv core b) s = .next ((s.setL1 core b { l with snoop := some (.l1Inv core b) }).post [.homeAckStale b core])
        ∧ exec (.l1FwdS core b req) s = .next ((s.setL1 core b { l with snoop := some (.l1FwdS core b req) }).post [.homeAckStale b core])
        ∧ (l.keep = false → l.wait = [] → exec (.l1WbAck core b) s = .next (dropped.releaseCore core))
        ∧ (l.keep = true → l.snoop = none → exec (.l1WbAck core b) s = .next (((s.setL1 core b { l with
            st := if l.fromM then .e else .s, dirty := false, snoop := none, keep := false }).settle core b).releaseCore core))))

/-- R27, R29, R32, R178, R220 to R222, R386 and R387: a peer's message waits for a slot of its port, of one unit, or of two with a tag; then a read goes to the home of what its address holds, a write or a tagged write goes to its home, an
atomic to the home of its word, and each answers with the cause of a check that fails; a marker is acknowledged behind the requests of its port; an answer reaches its
context; a remote fault is reported, up to eight at a time.
The place in the agenda of the steps it posts is the model's choice (log 2). Requester numbers are the model's own (log 14), and the causes of a
peer's checks its reading (log 15). -/
def Obligations.PeerEvents : Prop :=
  ∀ (s : State) (m : PeerMsg) (ctx dev port : Nat) (cause : BitVec 8) (op : BitVec 3) (pva : BitVec 47) (v : Arrival),
    let k := (s.peerTake m).1
    let s0 := (s.peerTake m).2
    let at_ (pa : Nat) (e : TlbEntry) (pid : Nat) : Req := { m.req with
      pa := pa, ctx := remoteBase + k, ct := PageType.ofCt e.ct, core := m.port % 16 / 4 * 256, pid := pid }
    let carried : PeerMsg := { m with landed := true }
    let joins (units : Nat) (i : Instr) : Host.Outcome State Fault Refusal :=
      .next (s.enqueue 6 (2 * m.port + 1) ⟨m.req.owner, s.dtc, units, [], [i], 0⟩)
    (m.landed = false → m.port < 16 →
      exec (.peerReadRequest m) s = joins 1 (.peerReadRequest carried)
      ∧ (m.withTag = false → exec (.peerWriteRequest m) s = joins 1 (.peerWriteRequest carried))
      ∧ exec (.peerAtomicRequest m) s = joins 1 (.peerAtomicRequest carried)
      ∧ exec (.peerTagMessage m) s = joins 2 (.peerTagMessage carried)
      ∧ (∀ x, exec (.peerResponse m (.word x)) s = joins 1 (.peerResponse carried (.word x)))
      ∧ (∀ d x, exec (.peerResponse m (.vec d x)) s = joins 2 (.peerResponse carried (.vec d x))))
    ∧ (m.withTag = true → exec (.peerWriteRequest m) s = .next s)
    ∧ (m.landed = true ∨ 16 ≤ m.port →
      (∀ pa e s1, s0.peerTranslate m .read = (.ok pa e, s1) →
        exec (.peerReadRequest m) s = .next (s1.depart { at_ pa e 1 with op := if e.ct = 3 then .wsLoad else .read }))
      ∧ (∀ c i s1, s0.peerTranslate m .read = (.cause c i, s1) → exec (.peerReadRequest m) s = .next (s1.peerReply k (.failed c m.req.va 0)))
      ∧ (∀ pa e s1, s0.peerTranslate m .write = (.ok pa e, s1) → (∀ n, regionOf pa ≠ .weight n) →
        let t := s1.depart (if m.req.op = .tagWrite then at_ pa e 0 else { at_ pa e 0 with op := if e.ct = 3 then .wsWrite else .write })
        (m.withTag = false → exec (.peerWriteRequest m) s = .next t) ∧ exec (.peerTagMessage m) s = .next t)
      ∧ (∀ pa e s1, s0.peerTranslate m .atomic = (.ok pa e, s1) → regionOf pa = .lp6 →
        (m.req.op = .amo → e.ct ≠ 3 → exec (.peerAtomicRequest m) s = .next (s1.depart (at_ pa e 1)))
        ∧ (m.req.op = .red → e.ct ≠ 3 → exec (.peerAtomicRequest m) s = .next (s1.depart (at_ pa e 0)))
        ∧ (m.req.op = .jcdec → e.ct = 2 → exec (.peerAtomicRequest m) s = .next (s1.depart (at_ pa e 1)))
        ∧ (m.req.op = .jcdec → e.ct ≠ 2 → exec (.peerAtomicRequest m) s = .next (s1.peerReply k (.failed .typefault m.req.va 0))))
      ∧ (m.req.ctx < engineBase → m.req.op = .rds → (s.peerOut.any fun e => e.msg == { m with landed := false }) = true → (∀ c x i, v ≠ .failed c x i) →
        exec (.peerResponse m v) s =
          .next (({ s with peerOut := dropFirst (fun e => e.msg == { m with landed := false }) s.peerOut } : State).arrive m.req.ctx m.req.pid v))
      ∧ (m.req.ctx < engineBase → m.req.op = .rdx → (s.peerOut.any fun e => e.msg == { m with landed := false }) = true → (∀ c x i, v ≠ .failed c x i) →
        exec (.peerResponse m v) s =
          .next (({ s with peerOut := dropFirst (fun e => e.msg == { m with landed := false }) s.peerOut } : State).storeDone m.req.ctx)))
    ∧ ((s.peerIn.any fun e => e.2.dev == dev && e.2.port == port) = false → ∃ q t, exec (.peerFenceMarker dev port) s = .next t
      ∧ t.peerSent = s.peerSent ++ [(q, .word 0)] ∧ q.dev = dev ∧ q.port = port)
    ∧ ((s.peerIn.any fun e => e.2.dev == dev && e.2.port == port) = true → exec (.peerFenceMarker dev port) s = .next (s.postLater [.peerFenceMarker dev port]))
    ∧ (let mine (e : PeerOut) : Bool := e.ctx == ctx && e.msg.port == port && e.msg.req.op == .wb
      (s.peerOut.find? mine = none → exec (.peerMarkerAck ctx port) s = .next s)
      ∧ (∀ e, s.peerOut.find? mine = some e → port < 16 → exec (.peerMarkerAck ctx port) s =
        .next (({ s with peerOut := dropFirst (fun x => x == e) s.peerOut } : State).enqueue 6 (2 * port + 1)
          ⟨e.msg.req.owner, s.dtc, 1, [], [.markerAck ctx e.msg.req.pid], 0⟩)))
    ∧ ((s.ctx ctx).state ≠ .ended → (s.ctx ctx).state ≠ .free → (s.peerOut.any fun e => e.ctx == ctx) = false →
      let e0 : Word := BitVec.ofNat 64 (cause.toNat + 2 ^ 8 * op.toNat + 2 ^ 16 * dev + 2 ^ 32 * (s.dtc.toNat % 2 ^ 32))
      let counted (x : State) : State := if op.toNat < 2 then x.storeDone ctx else x
      ((s.ctx ctx).reports.length < 8 → exec (.remoteFaultReport ctx dev cause op pva) s =
        .next (counted (s.modCtx ctx fun c => { c with reports := c.reports ++ [⟨e0, pva.setWidth 64⟩] })))
      ∧ (8 ≤ (s.ctx ctx).reports.length → exec (.remoteFaultReport ctx dev cause op pva) s =
        .next (counted (s.modCtx ctx fun c => { c with lostReports := c.lostReports + 1 }))))

/-- R139 to R146, R156 to R158: a walk waits for its entry's line, reads the entry, goes on to the next, and ends with its entry in the TLB; a reply to a fault message is taken from its word, whose full bit it
clears, and on RETRY what waits for it tries again; an invalidation drops what it names from a core's TLB; a migrated page is held for 48,000 cycles, and a hold whose time is past ends; an error in storage that
the second reading mends is counted, and one in storage drops or fences what it hits; one in local store makes its block dead.
The place in the agenda of the steps it posts is the model's choice (log 2). That a TLB error drops the whole TLB is its reading (log 66). -/
def Obligations.TranslationEvents : Prop :=
  ∀ (s : State) (cl wid o k core b : Nat) (inv : Inval) (key : PageKey),
    let walk (x : State) : Option Walk := (x.cluster cl).walks.find? fun w => w.id == wid
    (walk s = none → exec (.pageWalkRead cl wid) s = .next s)
    ∧ (∀ w, walk s = some w → regionOf w.addr = .lp6 → s.tableRefused w.owner w.addr false = none →
      (s.busy (w.addr / 64) = true → exec (.pageWalkRead cl wid) s = .next (s.defer (walkReq w)))
      ∧ (s.busy (w.addr / 64) = false → lineHere s w.addr = true →
        let t := s.respond (walkReq w) []
        exec (.pageWalkRead cl wid) s = .next (t.walkServe cl wid)
        ∧ (∀ w' s1, walk t = some w → t.walkStep w = (.go w', s1) → exec (.pageWalkRead cl wid) s =
          .next ((s1.modCluster cl fun k => { k with walks := mapIf (fun x => x.id == wid) (fun _ => w') k.walks }).walkAsk w'))
        ∧ (∀ e s1, walk t = some w → t.walkStep w = (.fin (.ok e), s1) → ∃ u, exec (.pageWalkRead cl wid) s = .next u
          ∧ (u.cluster cl).walks.all (fun x => x.id != wid) = true)))
    ∧ (∀ f e, o ≠ 16 → (s.owner o).fqFrame = some f → (s.owner o).ring.find? (fun e => e.k % 256 == k) = some e →
      let a := f + 64 * k + 56
      (isFullWord (s.coherent a).2 a = false → exec (.faultReply o k) s = .next s)
      ∧ (isFullWord (s.coherent a).2 a = true → blockBytes (s.coherent a).1 56 8 % 4 = 0 →
        let s1 := (s.slotUpdate o (8 * e.cluster) (128 * e.cluster) a false fun d t => (d, setFullWord t a false)).modOwner o fun w => { w with
          ring := w.ring.filter fun x => x.k != e.k }
        exec (.faultReply o k) s = .next ((s1.wakeIf fun m w => w == .ringFull && tableOwner (s1.ctx m).owner (s1.ctx m).level == o).retryEntry e)))
    ∧ (o ≠ 16 → (s.owner o).fqFrame = none → exec (.faultReply o k) s = .next s)
    ∧ (o = 16 → k < 2 ^ 20 → exec (.faultReply o k) s = .next (s.wakeIf fun m w => m == k && w == .faultReply))
    ∧ exec (.invalidationArrive core inv) s = .next (s.invalidateTlb core inv)
    ∧ (inv.all = true → inv.stage2 = false → ∃ t, exec (.invalidationArrive core inv) s = .next t
      ∧ ∀ e ∈ (t.core core).tlb, e.owner = inv.owner → e.space ≠ inv.space ∨ e.global = true)
    ∧ ((∀ m ∈ s.migrations, m.key ≠ key) → exec (.pageMigrationDone key) s = .next s)
    ∧ (∀ m, s.migrations = [m] → m.key = key → m.until_ = none → m.device = false →
      exec (.pageMigrationDone key) s = .next { s with migrations := [{ m with until_ := some (s.dtc + 48000) }] })
    ∧ (s.pinned key = true → exec (.hostPageRequest key) s = .next (s.report (.remoteMapping key false)))
    ∧ (s.pinned key = false → (∀ m ∈ s.migrations, m.key ≠ key) →
      exec (.hostPageRequest key) s = .next { s with migrations := s.migrations ++ [⟨key, false, none, none, s.dtc⟩] })
    ∧ (∀ m t, s.migrations = [m] → m.key = key → m.until_ = some t →
      (t ≤ s.dtc → exec (.migrationHoldExpire key) s = .next { s with migrations := [] })
      ∧ (s.dtc < t → exec (.migrationHoldExpire key) s = .next s))
    ∧ exec (.storageError (.tlb core) .good) s = .next s
    ∧ exec (.storageError (.tlb core) .corrected) s = .next ((s.countError core).modCore core fun k => { k with tlb := [] })
    ∧ exec (.storageError (.tlb core) .failed) s = .next (s.modCore core fun k => { k with tlb := [] })
    ∧ exec (.storageError (.tlb2 cl) .corrected) s = .next ((s.countError (4096 + cl)).modCluster cl fun k => { k with l2tlb := [] })
    ∧ exec (.storageError (.engineBuffer cl k) .corrected) s = .next (s.countError (4096 + cl))
    ∧ exec (.storageError (.icache core b) .corrected) s = .next ((s.countError core).modCore core fun k => { k with icache := tdel k.icache b })
    ∧ exec (.storageError (.localStore core b) .corrected) s = .next (s.countError core)
    ∧ ((s.core core).windowAt (64 * b) = none →
      exec (.storageError (.localStore core b) .failed) s = .next (s.modCore core fun k => { k with dead := addNew k.dead b }))

/-- R194, R199, R202, R205 to R210, R218, R219, R225 and R254: a head flit opens its port; a word reaches its port; a follower takes a forwarded instruction; a save is asked
for and made; a refused one is tried again; a saved context comes back to a free helper; a held trap is taken at a boundary; a wait over its limit takes WAITLIM; a
task of an aborted launch stops; an instruction line joins the cache.
The place in the agenda of the steps it posts is the model's choice (log 2). Where a saved context is kept is its choice (log 11). -/
def Obligations.ContextEvents : Prop :=
  ∀ (s : State) (ctx core id line rec : Nat) (q : BitVec 3) (w pc npc : Word) (head : BitVec 16) (tail : BitVec 96) (data : Block),
    let c := s.ctx ctx
    (∀ p, s.ports = [(id, p)] → p.receiver = ctx → p.reg = 56 + q.toNat → p.opened = false → p.discard = false →
      ∃ t, exec (.streamHeadFlit ctx q) s = .next t ∧ t.ports = [(id, { p with opened := true })])
    ∧ (∀ p, tget s.ports id = some p → p.discard = false → (s.ctx p.receiver).state ≠ .ended →
      (∃ t, exec (.streamWordArrive id false w) s = .next t ∧ t.ports = tset s.ports id { p with flight := p.flight - 1, words := p.words ++ [w] })
      ∧ (∃ t, exec (.streamWordArrive id true w) s = .next t ∧ t.ports = tset s.ports id { p with marker := true, closed := true }))
    ∧ (∀ g, c.gang = some g → exec (.gangForward ctx pc npc head tail) s = .next (s.modCtx ctx fun c =>
        if g.attached then { c with buffer := c.buffer ++ [⟨pc, npc, head, tail⟩] } else c))
    ∧ (ctx % 16 ≠ 0 → c.gang = none → c.state = .live → exec (.preemptRequest ctx) s = .next (s.modCtx ctx fun c => { c with saveReq := true }))
    ∧ (ctx % 16 = 0 → exec (.forcedSave ctx) s = .next s)
    ∧ (ctx % 16 ≠ 0 → c.state = .live → exec (.forcedSave ctx) s = .next (s.fullSave ctx))
    ∧ (c.state ≠ .saving → exec (.saveDone ctx) s = .next s ∧ exec (.saveWriteFault ctx) s = .next s)
    ∧ (c.state = .saving → c.producers = [] → s.quiet ctx = true → s.copies = [] → (c.task.map (·.acc)).getD [] = [] →
      ∀ t, s.writeRecord ctx (c.saveMask.getD (BitVec.allOnes 64, BitVec.allOnes 32)).1 (c.saveMask.getD (BitVec.allOnes 64, BitVec.allOnes 32)).2 = .ok t →
        exec (.saveDone ctx) s = .next (t.leaveSlot ctx false))
    ∧ (c.state = .saving → (s.core (coreOf ctx)).cupboard.isSome = true → ∃ t, exec (.saveWriteFault ctx) s = .next t
      ∧ (c.reissue = [] → (t.ctx ctx).state = .live ∧ (t.ctx ctx).retryAt = some (s.dtc + 2400)))
    ∧ ((∀ h, h < 16 → (s.ctx (16 * core + h)).retryAt = none) → exec (.cupboardRetry core) s = .next s)
    ∧ (tget s.saved rec = none → exec (.contextRestore rec ctx) s = .next s)
    ∧ (∀ sv, tget s.saved rec = some sv →
      (s.gangSaved rec = [] → ctx % 16 ≠ 0 → s.restorable rec ctx = true → sv.core = coreOf ctx → (∀ e ∈ s.saved, e.1 = rec ∨ (s.ctx e.1).raised = none) →
        exec (.contextRestore rec ctx) s = .next (s.restoreInto rec ctx sv))
      ∧ (s.gangSaved rec ≠ [] → s.gangRestorable rec (s.gangSaved rec) = true → exec (.contextRestore rec ctx) s =
        .next ((s.gangSaved rec).foldl (fun s e => s.restoreInto e.1 e.2.num e.2) s)))
    ∧ (c.level ≠ .f → c.ecause.getLsbD 10 = false → c.state = .live → ∀ va, c.async.memerr = some va → exec (.asyncTrap ctx) s =
        .next ((s.modCtx ctx fun c => { c with async := { c.async with memerr := none, physical := false } }).takeTrap ctx c.pc .memerr va
          (if c.async.physical then 1 else 0) true))
    ∧ (∀ r, c.state = .blocked (.queue r) → c.expired s.dtc = true → exec (.waitlimExpire ctx) s =
        .next ((s.dropWaits ctx).takeTrap ctx c.pc .waitlim (BitVec.ofNat 64 r) 0 false))
    ∧ (c.expired s.dtc = false → exec (.waitlimExpire ctx) s = .next s)
    ∧ (s.orphan ctx = false → exec (.taskAbort ctx) s = .next s)
    ∧ (ctx % 16 ≠ 0 → c.state = .live → s.orphan ctx = true → tget s.saved ctx = none → (c.task.bind (·.launch)) = none →
      exec (.taskAbort ctx) s = .next (((s.dropEngines ctx).stopAt ctx 0x100).freed c.owner))
    ∧ (∃ t, exec (.instructionLineFill core line data) s = .next t ∧ tget (t.core core).icache line = some ⟨data⟩)

/-- The model's own choice (log 10): no instruction and no step of the hardware ends in a fault. Each goes on to a next state, or reaches a
device register at level F, whose effect the spec does not give. -/
def Obligations.NeverFaults : Prop :=
  ∀ (i : Instr) (s : State), (∃ t, exec i s = .next t) ∨ ∃ pa, exec i s = .refused (.deviceRegister pa)

/-- R255, R260 and R265: decoding the words that encode a well-formed instruction gives the instruction, with every operand. -/
def Obligations.EncodeDecode : Prop :=
  ∀ (i : Instr) (w : Words), wf i = true → encode i = some w → decode w.head w.tail = some i

/-- R265, R268, R278, R281, R289, R301, R312 and R357: words written out in the spec decode to the instructions they stand for. -/
def Obligations.DecodeWords : Prop :=
  decode 0x0000 0 = some .nop
  ∧ decode 0x420A 0xFFFFF80A = some (.addi 10 ⟨10, false⟩ 0x1FFFFF)
  ∧ decode 0x4345 0x00084006 = some (.extu 5 ⟨6, false⟩ 8 4)
  ∧ decode 0x4BC5 0x00000B86 = some (.fcvtHF 5 ⟨6, false⟩ 1)
  ∧ decode 0xAA00 0x00000003_00000001000000F8 = some (.safept 0x00000001000000F8 3)
  ∧ decode 0x4C86 0x00000E0B = some (.lda 6 ⟨11, false⟩ 4 3 0)
  ∧ decode 0x7006 0x004F0123058A = some (.amoCas 6 ⟨10, false⟩ ⟨11, false⟩ ⟨12, false⟩ true 3 4)
  ∧ decode 0x7C80 0x017A2060058A = some (.mkpar ⟨10, false⟩ ⟨11, false⟩ 2 0x17A)

/-- R33, R35, R189, R202, R205 and R252 to R257: a stopped machine takes nothing but a device reset, and one in recovery nothing but that and what the management mailbox answers. A step of the hardware that is on its way runs.
With none on its way, a slot goes to the first context of the rotation that can use it, and a LIVE one executes the instruction it holds, or else the one that decodes from its program counter's line, which is counted, held with its successor's address, and
forwarded to the gang it leads; one whose operands hold it back is BLOCKED, and takes no slot. With no slot left, the cycle ends.
Which step comes next is the model's choice (log 2), as is what a stopped machine takes (log 13). -/
def Obligations.StepRunsDecoded : Prop :=
  ∀ (s : State),
    (s.stopped = true →
      (s.agenda.find? isReset = none → step s = .next s)
      ∧ (∀ i, s.agenda.find? isReset = some i → step s = exec i { s with agenda := [] }))
    ∧ (s.stopped = false → s.recovery = true →
      (s.agenda.find? (fun i => isReset i || isMailbox i) = none → step s = .next s)
      ∧ (∀ i, s.agenda.find? (fun i => isReset i || isMailbox i) = some i → step s = exec i { s with agenda := dropFirst (fun x => x == i) s.agenda }))
    ∧ (s.stopped = false → s.recovery = false → s.choice = [] →
      (∀ i r, s.agenda = i :: r → step s = exec i { s with agenda := r })
      ∧ (s.agenda = [] → s.slots = [] → step s = exec .dtcTick { s with slots := [] })
      ∧ (∀ k r n before after, s.agenda = [] → s.slots = k :: r → s.rotation k = before ++ n :: after → (∀ m ∈ before, s.offer m = none) →
        s.ready n = true → n ∉ s.tried → (s.ctx n).state = .live →
        let s1 : State := { s.modCtx n fun c => { c with state := .live } with cur := n }
        let c := s1.ctx n
        c.asyncReady = false → (c.saveReq = true → c.spcount.toNat < 4096) →
        let runs (i : Instr) (t : State) : Prop :=
          (∀ u, exec i t = .next u → (u.ctx n).state.heldBack = true → step s = .next u)
          ∧ ((∀ u, exec i t = .next u → (u.ctx n).state.heldBack = false) → step s = exec i (t.takeSlot n))
        (∀ i, c.held = some i → runs i s1)
        ∧ (∀ pa e l i, c.held = none → c.buffer = [] → s1.codeAt c.pc pa e = true → tget (s1.core (coreOf n)).icache (pa / 64) = some l →
          let h := lineHead l.data (c.pc.toNat % 64 / 2)
          let t := lineTail l.data (c.pc.toNat % 64 / 2)
          let next := nextPc l.data c.pc
          decode h t = some i →
          let s2 := s1.modCtx n fun c => { c with
            npc := next, head := h, spcount := if c.spcount = 0xFFFF then c.spcount else c.spcount + 1, held := some i }
          runs i (match c.gang with
            | some g => if g.leader && g.attached then s2.post ((s2.gangOthers n g).map fun m => .gangForward m c.pc next h t) else s2
            | none => s2))))

/-- R253 and R266: a reserved opcode, a tail length code that is not the layout's, OP 0 with a nonzero field A, and a vector register field with bit 5 set decode
to no instruction; words that decode to none take UNDEF at their issue, with EVAL holding the head, and so does a malformed line, with EVAL holding its address. -/
def Obligations.ReservedEncodings : Prop :=
  (∀ (h : BitVec 16) (t : BitVec 96),
    let op := (headOp h).toNat
    ((0x11 ≤ op ∧ op ≤ 0x1F) ∨ (0x29 ≤ op ∧ op ≤ 0x2B) ∨ (0x3D ≤ op ∧ op ≤ 0x3F) ∨ (0x47 ≤ op ∧ op ≤ 0x4F) ∨ (0x62 ≤ op ∧ op ≤ 0x67)
        ∨ (0x6D ≤ op ∧ op ≤ 0x6F) ∨ (0x75 ≤ op ∧ op ≤ 0x77) ∨ (0x79 ≤ op ∧ op ≤ 0x7B) ∨ op = 0x7F → decode h t = none)
    ∧ (headTlc h = 6 ∨ headTlc h = 7 → decode h t = none)
    ∧ (opTlc (headOp h) ≠ some (headTlc h) → decode h t = none)
    ∧ (op = 0 → headA h ≠ 0 → decode h t = none)
    ∧ (op = 0x50 → (headA h).getLsbD 5 = true → decode h t = none))
  ∧ ∀ (s : State) (pa : Nat) (e : TlbEntry) (l : ILine), s.here.held = none → s.here.buffer = [] → formOf s.here.pc = .page →
      s.pageOk s.here.pc .exec pa e = true → regionOf pa ≠ .host → tget (s.core (coreOf s.cur)).icache (pa / 64) = some l →
      let pc := s.here.pc
      let h := lineHead l.data (pc.toNat % 64 / 2)
      let s2 := s.modCtx s.cur fun c => { c with
        npc := nextPc l.data pc, head := h, spcount := if c.spcount = 0xFFFF then c.spcount else c.spcount + 1 }
      (lineMalformed l.data = true → issue s = .error .done (s.takeTrap s.cur pc .undef (lineBase pc) 0 false))
      ∧ (lineMalformed l.data = false → isHead l.data pc = false → issue s = .error .done (s.takeTrap s.cur pc .align pc 0 false))
      ∧ (lineMalformed l.data = false → isHead l.data pc = true → decode h (lineTail l.data (pc.toNat % 64 / 2)) = none →
        issue s = .error .done (s2.takeTrap s.cur pc .undef (h.setWidth 64) 0 false))

/-- R43, R191, R266, R267, R297, R353 and R365: an instruction of a group that is not accepted takes UNDEF; so does a vector instruction without a vector set or on
a channel core; a privileged one takes PRIV at a level below its own; and a load or store at an address that is not a multiple of its size takes ALIGN.
That level F is exempt from the groups is the model's reading (log 7). -/
def Obligations.ChecksAtIssue : Prop :=
  ∀ (s : State) (i : Instr),
    let takes (c : Cause) (v : Word) : Host.Outcome State Fault Refusal := .next (s.takeTrap s.cur s.here.pc c v 0 false)
    let head : Word := s.here.head.setWidth 64
    (∀ g, groupOf i = some g → s.mayUse g = false → exec i s = takes .undef head)
    ∧ (groupOf i = some .vec → s.mayUse .vec = true → s.here.vset = none ∨ 1024 ≤ coreOf s.cur → exec i s = takes .undef head)
    ∧ (∀ (a : GReg) (b c : Src), s.mayUse .base = true →
      (s.here.level ≠ .f → i ∈ [.start b, .reap a b, .tlbi2 b c] → exec i s = takes .priv head)
      ∧ (s.here.level = .u → i ∈ [.eret, .tlbi1 b c, .tlbsync, .reseed b c] → exec i s = takes .priv head))
    ∧ (∀ (a : GReg) (b : Src) (m : BitVec 21) (off : Nat), s.mayUse .base = true → s.here.gated = false →
      let va := s.gValue b.reg.toNat + m.signExtend 64
      formOf va = .page ∨ formOf va = .localView off →
      (s.readable [src b, dst a] = true →
        (va.toNat % 2 ≠ 0 → i ∈ [.ldH a b m, .ldHu a b m] → exec i s = takes .align va)
        ∧ (va.toNat % 4 ≠ 0 → i ∈ [.ldW a b m, .ldWu a b m] → exec i s = takes .align va)
        ∧ (va.toNat % 8 ≠ 0 → i = .ldD a b m → exec i s = takes .align va))
      ∧ (s.readable [src0 a, src b] = true →
        (va.toNat % 2 ≠ 0 → i = .stH a b m → exec i s = takes .align va)
        ∧ (va.toNat % 4 ≠ 0 → i = .stW a b m → exec i s = takes .align va)
        ∧ (va.toNat % 8 ≠ 0 → i = .stD a b m → exec i s = takes .align va)))

/-- R192 and R193: an instruction that reads an empty register waits for it where the mode bit of the field is 0, or where the field has none, and takes EMPTY with
the register's number where it is 1; one whose destination waits for a pending producer waits for it. -/
def Obligations.EmptyAndPending : Prop :=
  ∀ (s : State) (d : GReg) (b c : Src) (v : VReg) (y z : VSrc) (m : Src) (ty : BitVec 3) (j : BitVec 21) (i : Instr),
    let empty (r : Nat) : Prop := s.here.bound r = none ∧ s.here.marker r = none ∧ s.isFull s.here r = false
    let fate (r : Nat) (mode : Bool) : Host.Outcome State Fault Refusal :=
      if mode then .next (s.takeTrap s.cur s.here.pc .empty (BitVec.ofNat 64 r) 0 false)
      else .next (s.modCtx s.cur fun c => c.block (.reg r) s.dtc)
    (s.mayUse .base = true → i ∈ twoSources d b c ∨ i ∈ twoSourcesLater d b c →
      (empty b.reg.toNat → exec i s = fate b.reg.toNat b.mode)
      ∧ (s.srcReady b.reg.toNat = true → empty c.reg.toNat → exec i s = fate c.reg.toNat c.mode)
      ∧ (s.srcReady b.reg.toNat = true → s.srcReady c.reg.toNat = true → d ≠ 0 → s.here.bound d.toNat = none →
        s.here.pendingOn d.toNat = true → exec i s = fate d.toNat false))
    ∧ (s.mayUse .base = true → i ∈ [.stB d b j, .stH d b j, .stW d b j, .stD d b j] → empty d.toNat → exec i s = fate d.toNat false)
    ∧ (s.mayVec .vec = true → i ∈ vecTwo v y z m ty →
      (empty (64 + y.reg.toNat) → exec i s = fate (64 + y.reg.toNat) y.mode)
      ∧ (s.srcReady (64 + y.reg.toNat) = true → empty (64 + z.reg.toNat) → exec i s = fate (64 + z.reg.toNat) z.mode))

/-- R217: what a trap does at F, where a handler cannot be entered, and otherwise; and what ERET does with RAISE set and without. A member of a gang has left it first (R204); at F a return goes
to the level that PLEV holds (R213).
The return at F is the model's reading (log 35). -/
def Obligations.TrapEntry : Prop :=
  ∀ (s : State) (n : Nat) (epc val info : Word) (cause : Cause) (imprecise : Bool) (pa : Nat) (e : TlbEntry),
    let s0 := s.detach n
    let c := s0.ctx n
    let tv := (s0.owner c.owner).tvecS
    let lv : Nat := match c.level with
      | .u => 0 | .s => 1 | .f => 2
    let t := s.takeTrap n epc cause val info imprecise
    let x := t.ctx n
    (c.level = .f → x.epc = epc.setWidth 55 ∧ x.ecause = (c.ecause &&& ~~~(0xFF : Word)) ||| cause.code.setWidth 64 ∧ x.level = .f
      ∧ x.pc = s0.tvecF.setWidth 64 ∧ x.eval = c.eval ∧ x.einfo = c.einfo)
    ∧ (c.level ≠ .f → c.ecause.getLsbD 10 = true ∨ tv = 0 → t = s0.taskFault n cause.code val)
    ∧ (c.level ≠ .f → c.ecause.getLsbD 10 = false → tv ≠ 0 →
      x.epc = epc.setWidth 55 ∧ x.eval = val ∧ x.einfo = info
      ∧ x.ecause = BitVec.ofNat 64 (cause.code.toNat + lv * 2 ^ 8 + 2 ^ 10 + (if imprecise then 2 ^ 12 else 0))
      ∧ x.level = .s ∧ x.pc = tv.setWidth 64)
    ∧ (c.level = .f ∨ (c.ecause.getLsbD 10 = false ∧ tv ≠ 0) → s0.sameMemory t ∧ s0.sameOthers t n ∧ x.g = c.g ∧ x.gFull = c.gFull
      ∧ x.vset = c.vset ∧ x.bind = c.bind ∧ x.producers = c.producers ∧ x.owner = c.owner ∧ x.space = c.space)
    ∧ (s.mayUse .base = true → s.here.level ≠ .u →
      (s.here.ecause.getLsbD 11 = true → exec .eret s = .next (s.taskFault s.cur (s.here.ecause.extractLsb' 0 8) s.here.eval))
      ∧ (s.here.ecause.getLsbD 11 = false → s.codeAt (s.here.epc.setWidth 64) pa e = true → ∃ u, exec .eret s = .next u ∧
        let p := (s.here.ecause >>> 8) &&& 3
        u.here.level = (if p = 0 then .u else if p = 1 then .s else if s.here.level = .f then .f else .u)
        ∧ u.here.pc = s.here.epc.setWidth 64 ∧ u.here.ecause = s.here.ecause &&& ~~~(0x400 : Word)))

/-- R191, R196 and R271: the frame of the instructions that write one register. Each completes, and every other register, every trap register, the status of the
context, the system registers, and all of memory stand as they did; a write to g0 is discarded. -/
def Obligations.RegisterFrame : Prop :=
  ∀ (s : State) (d : GReg) (b c m : Src) (j : BitVec 21) (n pos len : BitVec 6) (rm : BitVec 2) (v : VReg) (y z : VSrc) (ty : BitVec 3) (i : Instr),
    let frame (r : Nat) : Prop := ∃ t, exec i s = .next t ∧ t.cur = s.cur ∧ s.sameMemory t ∧ s.sameOthers t s.cur ∧ s.sameBeside t s.cur [r]
      ∧ (t.ctx s.cur).g.toList.getD 0 0 = (s.ctx s.cur).g.toList.getD 0 0
    (s.mayUse .base = true → s.readable [src b, src c, dst d] = true → i ∈ twoSources d b c ∨ i ∈ twoSourcesLater d b c → frame d.toNat)
    ∧ (s.mayUse .base = true → s.readable [src b, dst d] = true → i ∈ oneSource d b j n pos len rm ∨ i = .fsqrt d b → frame d.toNat)
    ∧ (s.mayVec .vec = true → s.readable ([vsrc y, vsrc z] ++ maskOp m ++ [vdst v]) = true → i ∈ vecTwo v y z m ty → frame (64 + v.toNat))

/-- R299, R300 and R302: the frame of a store to the context's own local store. Its bytes hold the low bytes of A, least significant first; every other byte of
that local store, every other memory, every tag and every register stand as they did. -/
def Obligations.StoreFrame : Prop :=
  ∀ (s : State) (a : GReg) (b : Src) (m : BitVec 21) (off : Nat) (i : Instr),
    let va := s.gValue b.reg.toNat + m.signExtend 64
    let k := coreOf s.cur
    let frame (n : Nat) : Prop := ∃ t, exec i s = .next t ∧ t.cur = s.cur ∧ s.sameBeside t s.cur [] ∧ s.sameOthers t s.cur
      ∧ (∀ p, mget t.mem p = mget s.mem p) ∧ (∀ p, t.tagAt p = s.tagAt p) ∧ (t.core k).lsTag = (s.core k).lsTag
      ∧ (∀ q, q ≠ k → (t.core q).ls = (s.core q).ls)
      ∧ (∀ p, p < off ∨ off + n ≤ p → mget (t.core k).ls p = mget (s.core k).ls p)
      ∧ (∀ p, p < n → mget (t.core k).ls (off + p) = (s.gValue a.toNat).extractLsb' (8 * p) 8)
    s.mayUse .base = true → s.readable [src0 a, src b] = true → Memory.wf (s.core k).ls = true →
      (s.localOk va 1 off true = true → i = .stB a b m → frame 1)
      ∧ (s.localOk va 2 off true = true → i = .stH a b m → frame 2)
      ∧ (s.localOk va 4 off true = true → i = .stW a b m → frame 4)
      ∧ (s.localOk va 8 off true = true → i = .stD a b m → frame 8)

/-- R163, R164, R299 and R300: a load from a PV or RC page whose block stands in the L1 takes its bytes from the line; a load that misses asks the home for the block in a new line; a store
to a line in M, E or of a PV page writes its bytes there and makes the line dirty, and M.
The place in the agenda of the steps it posts is the model's choice (log 2). -/
def Obligations.PageAccesses : Prop :=
  ∀ (s : State) (a : GReg) (b : Src) (m : BitVec 21) (pa : Nat) (e : TlbEntry), s.mayUse .base = true →
    let va := s.gValue b.reg.toNat + m.signExtend 64
    let k := coreOf s.cur
    let line := s.l1 k (pa / 64)
    let value (l : L1Line) : Word := BitVec.ofNat 64 (l.data.toNat / 2 ^ (8 * (pa % 64)) % 2 ^ 64)
    let written (l : L1Line) : Block := mergeBytes l.data (placeBytes (va.toNat % 64) (s.gValue a.toNat).toNat) (rangeMask (va.toNat % 64) 8)
    regionOf pa = .lp6 → e.ct = 0 ∨ e.ct = 1 → s.blockFree pa = true →
    (s.readable [src b, dst a] = true → s.memAt va 8 .read pa e = true →
      (∀ l, line = some l → l.wait = [] → l.st ∈ [.pv, .ro, .m, .o, .e, .s] →
        ∃ t, exec (.ldD a b m) s = .next t ∧ .producerArrive s.cur s.nextId (.word (value l)) ∈ t.agenda ∧ t.here.pc = s.here.npc)
      ∧ (line = none → (s.core k).l1 = [] →
        ∃ t, exec (.ldD a b m) s = .next t ∧ (t.l1 k (pa / 64)).map (·.st) = some .isD ∧ t.here.pc = s.here.npc))
    ∧ (s.readable [src0 a, src b] = true → s.memAt va 8 .write pa e = true →
      ∀ l, line = some l → l.wait = [] → l.st ∈ [.pv, .m, .e] →
        ∃ t l', exec (.stD a b m) s = .next t ∧ t.l1 k (pa / 64) = some l' ∧ t.here.pc = s.here.npc
          ∧ l'.data = written l ∧ l'.dirty = true ∧ l'.tag = l.tag ∧ l'.st = (if l.st = .pv then .pv else .m))

/-- R35, R43, R63, R187, R188, R240 and R383: after boot owner 0 holds the device with the values of the boot layout as shipped, no other owner is enabled, the eleven groups are offered and none accepted,
every control context is at F and waits for its inbox, every helper is FREE, every tag is 0, and no cache, no TLB, no queue and no window holds anything.
The values that the spec does not give for reset are the model's choice: the micro-kernel's place and wait (log 4), FEAT_OFFER and the other boot
values (log 6), registers (log 3), and an empty schedule (log 2). -/
def Obligations.ResetState : Prop :=
  let s := State.reset
  let r := (s.owner 0).active
  r.en = true ∧ r.nvcp = 64 ∧ r.cores = BitVec.allOnes 1024 ∧ r.lpframes = 0xF00000 ∧ r.wsframes = 32768
  ∧ (∀ k, k < 4 → r.dies[k]? = some DieRec.boot)
  ∧ DieRec.boot.setbase = 0 ∧ DieRec.boot.pw = 11 ∧ DieRec.boot.waymask = 3 ∧ DieRec.boot.tagq = 64 ∧ DieRec.boot.chctx = 15
  ∧ DieRec.boot.copyq = 4096 ∧ DieRec.boot.dieq = 0x40404040404040
  ∧ (∀ o, o ≠ 0 → (s.owner o).active.en = false)
  ∧ (s.owner 0).offer = 0x7FF ∧ (s.owner 0).accept = 0 ∧ (s.owner 0).featState = 0
  ∧ (∀ k, k < 1280 → s.ctx (16 * k) = Ctx.control ∧ (∀ j, 0 < j → j < 16 → s.ctx (16 * k + j) = Ctx.free))
  ∧ Ctx.control.level = .f ∧ Ctx.control.state = .blocked .inbox ∧ Ctx.free.state = .free
  ∧ (∀ b, s.tagAt b = 0)
  ∧ (∀ k, (s.core k).l1 = [] ∧ (s.core k).tlb = [] ∧ (s.core k).icache = [] ∧ (s.core k).windows = [] ∧ (s.core k).inbox = [] ∧ (s.core k).lsTag = [])
  ∧ s.launches = [] ∧ s.vcps = [] ∧ s.dtc = 0 ∧ s.memOk = true

/-- The model's own invariant (log 5): what writes device memory or a local store keeps its canonical form, in which equal memories are equal lists. -/
def Obligations.MemoryForm : Prop :=
  ∀ (s : State), s.memOk = true → ∀ (pa k off f n : Nat) (d : Block) (t : Tag) (mask : BitVec 64) (tag : Option Tag) (e : BitVec 16) (w : Word),
    (s.writeHome pa d t).memOk = true
    ∧ (s.localWrite k off d mask tag).memOk = true
    ∧ (s.setFot f e).memOk = true
    ∧ (s.poison pa).memOk = true
    ∧ (∀ c : Ctx, (s.setCtx n c).memOk = true)
    ∧ (∀ x : Core, Memory.wf x.ls = true → (s.setCore k x).memOk = true)
    ∧ (s.advanceCtx n).memOk = true
    ∧ (∀ r : GReg, (s.wrote r w).memOk = true)
end

