-- ==== Sys2Proof/Laws/Memory.lean ====
section
/-!
SUPPORT. Tables and memories: reading after writing, and the canonical form, which every operation on memory keeps.
-/

set_option Elab.async false

namespace Sys2Proof.Machine

@[simp] theorem tget_nil {α : Type} (k : Nat) : tget ([] : Tbl α) k = none := rfl

theorem tget_tset_same {α : Type} (t : Tbl α) (k : Nat) (v : α) : tget (tset t k v) k = some v := by
  induction t with
  | nil => simp [tset, tget]
  | cons e r ih =>
    obtain ⟨a, w⟩ := e
    simp only [tset]
    split
    · simp [tget]
    · split
      · simp [tget]
      · rename_i h1 h2
        simp [tget, ih, Ne.symm h2]

theorem tget_tset_other {α : Type} (t : Tbl α) (k j : Nat) (v : α) (h : j ≠ k) : tget (tset t k v) j = tget t j := by
  induction t with
  | nil => simp [tset, tget, Ne.symm h]
  | cons e r ih =>
    obtain ⟨a, w⟩ := e
    simp only [tset]
    split
    · simp [tget, Ne.symm h]
    · split
      · rename_i h2
        subst h2
        simp [tget, Ne.symm h]
      · simp only [tget, ih]

/-- A table read after an entry is set. -/
theorem tget_tset {α : Type} (t : Tbl α) (k j : Nat) (v : α) : tget (tset t k v) j = if j = k then some v else tget t j := by
  by_cases h : j = k
  · subst h; simp [tget_tset_same]
  · simp [h, tget_tset_other t k j v h]

theorem tsorted_le {α : Type} (t : Tbl α) (lo hi : Nat) (h : hi ≤ lo) (ht : tsorted t lo = true) : tsorted t hi = true := by
  cases t with
  | nil => rfl
  | cons e r =>
    obtain ⟨a, w⟩ := e
    simp only [tsorted, Bool.and_eq_true, decide_eq_true_eq] at ht ⊢
    exact ⟨Nat.le_trans h ht.1, ht.2⟩

/-- Keys below the bound of a sorted table have no entry. -/
theorem tget_below {α : Type} (t : Tbl α) (lo k : Nat) (ht : tsorted t lo = true) (h : k < lo) : tget t k = none := by
  induction t generalizing lo with
  | nil => rfl
  | cons e r ih =>
    obtain ⟨a, w⟩ := e
    simp only [tsorted, Bool.and_eq_true, decide_eq_true_eq] at ht
    have hne : a ≠ k := by omega
    simp only [tget, if_neg hne]
    exact ih (a + 1) ht.2 (by omega)

theorem tget_tdel_same {α : Type} (t : Tbl α) (lo k : Nat) (ht : tsorted t lo = true) : tget (tdel t k) k = none := by
  induction t generalizing lo with
  | nil => rfl
  | cons e r ih =>
    obtain ⟨a, w⟩ := e
    simp only [tsorted, Bool.and_eq_true, decide_eq_true_eq] at ht
    simp only [tdel]
    split
    · rename_i h
      exact tget_below r (a + 1) k ht.2 (by omega)
    · rename_i h
      simp only [tget, if_neg (Ne.symm h)]
      exact ih (a + 1) ht.2

theorem tget_tdel_other {α : Type} (t : Tbl α) (k j : Nat) (h : j ≠ k) : tget (tdel t k) j = tget t j := by
  induction t with
  | nil => rfl
  | cons e r ih =>
    obtain ⟨a, w⟩ := e
    simp only [tdel]
    split
    · rename_i h2
      subst h2
      simp [tget, Ne.symm h]
    · simp only [tget, ih]

theorem tsorted_tset {α : Type} (t : Tbl α) (lo k : Nat) (v : α) (ht : tsorted t lo = true) (h : lo ≤ k) :
    tsorted (tset t k v) lo = true := by
  induction t generalizing lo with
  | nil => simp [tset, tsorted, h]
  | cons e r ih =>
    obtain ⟨a, w⟩ := e
    simp only [tsorted, Bool.and_eq_true, decide_eq_true_eq] at ht
    simp only [tset]
    split
    · simp only [tsorted, Bool.and_eq_true, decide_eq_true_eq]
      exact ⟨h, by omega, ht.2⟩
    · split
      · rename_i h2
        simp only [tsorted, Bool.and_eq_true, decide_eq_true_eq]
        exact ⟨h, h2 ▸ ht.2⟩
      · simp only [tsorted, Bool.and_eq_true, decide_eq_true_eq]
        exact ⟨ht.1, ih (a + 1) ht.2 (by omega)⟩

theorem tsorted_tdel {α : Type} (t : Tbl α) (lo k : Nat) (ht : tsorted t lo = true) : tsorted (tdel t k) lo = true := by
  induction t generalizing lo with
  | nil => rfl
  | cons e r ih =>
    obtain ⟨a, w⟩ := e
    simp only [tsorted, Bool.and_eq_true, decide_eq_true_eq] at ht
    simp only [tdel]
    split
    · exact tsorted_le r (a + 1) lo (by omega) ht.2
    · simp only [tsorted, Bool.and_eq_true, decide_eq_true_eq]
      exact ⟨ht.1, ih (a + 1) ht.2⟩

theorem tset_mem {α : Type} (t : Tbl α) (k : Nat) (v : α) (e : Nat × α) (h : e ∈ tset t k v) : e = (k, v) ∨ e ∈ t := by
  induction t with
  | nil =>
    simp only [tset, List.mem_singleton] at h
    exact .inl h
  | cons f r ih =>
    obtain ⟨a, w⟩ := f
    simp only [tset] at h
    split at h
    · exact List.mem_cons.1 h
    · split at h
      · rcases List.mem_cons.1 h with h | h
        · exact .inl h
        · exact .inr (List.mem_cons_of_mem _ h)
      · rcases List.mem_cons.1 h with h | h
        · exact .inr (h ▸ List.mem_cons_self ..)
        · rcases ih h with h | h
          · exact .inl h
          · exact .inr (List.mem_cons_of_mem _ h)

theorem tdel_mem {α : Type} (t : Tbl α) (k : Nat) (e : Nat × α) (h : e ∈ tdel t k) : e ∈ t := by
  induction t with
  | nil => exact absurd h (by simp [tdel])
  | cons f r ih =>
    obtain ⟨a, w⟩ := f
    simp only [tdel] at h
    split at h
    · exact List.mem_cons_of_mem _ h
    · rcases List.mem_cons.1 h with h | h
      · exact h ▸ List.mem_cons_self ..
      · exact List.mem_cons_of_mem _ (ih h)

theorem memory_wf_iff (m : List Host.Cell) : Memory.wf m = true ↔ tsorted m 0 = true ∧ ∀ c ∈ m, c.2 ≠ unlisted := by
  simp [Memory.wf]

/-- Writing a byte keeps the canonical form. -/
theorem mset_wf (m : List Host.Cell) (a : Nat) (b : Byte) (h : Memory.wf m = true) : Memory.wf (mset m a b) = true := by
  rw [memory_wf_iff] at h ⊢
  unfold mset
  split
  · exact ⟨tsorted_tdel m 0 a h.1, fun c hc => h.2 c (tdel_mem m a c hc)⟩
  · rename_i hb
    refine ⟨tsorted_tset m 0 a b h.1 (Nat.zero_le _), fun c hc => ?_⟩
    rcases tset_mem m a b c hc with rfl | hc
    · exact hb
    · exact h.2 c hc

/-- Writing bytes keeps the canonical form. -/
theorem writeN_wf (m : List Host.Cell) (a n v : Nat) (h : Memory.wf m = true) : Memory.wf (writeN m a n v) = true := by
  induction n generalizing m a v with
  | zero => exact h
  | succ n ih => exact ih _ _ _ (mset_wf m a _ h)

/-- Writing a block keeps the canonical form. -/
theorem writeBlock_wf (m : List Host.Cell) (a : Nat) (d : Block) (h : Memory.wf m = true) : Memory.wf (writeBlock m a d) = true :=
  writeN_wf m a 64 d.toNat h

/-- A byte read after a write to its address is the byte written. -/
theorem mget_mset_same (m : List Host.Cell) (a : Nat) (b : Byte) (h : Memory.wf m = true) : mget (mset m a b) a = b := by
  rw [memory_wf_iff] at h
  unfold mset mget
  split
  · rename_i hb
    rw [tget_tdel_same m 0 a h.1, hb]
    rfl
  · rw [tget_tset_same]
    rfl

/-- A write leaves every other byte alone. -/
theorem mget_mset_other (m : List Host.Cell) (a j : Nat) (b : Byte) (h : j ≠ a) : mget (mset m a b) j = mget m j := by
  unfold mset mget
  split
  · rw [tget_tdel_other m a j h]
  · rw [tget_tset_other m a j b h]

/-- Bytes outside a range that is written read as before. -/
theorem mget_writeN_other (m : List Host.Cell) (a n v j : Nat) (h : j < a ∨ a + n ≤ j) : mget (writeN m a n v) j = mget m j := by
  induction n generalizing m a v with
  | zero => rfl
  | succ n ih =>
    simp only [writeN]
    rw [ih _ _ _ (by omega), mget_mset_other _ _ _ _ (by omega)]

/-- A byte of a range that is written reads as its place in the number says (R6). -/
theorem mget_writeN (m : List Host.Cell) (a n v i : Nat) (hm : Memory.wf m = true) (h : i < n) :
    mget (writeN m a n v) (a + i) = BitVec.ofNat 8 (v / 256 ^ i) := by
  induction n generalizing m a v i with
  | zero => omega
  | succ n ih =>
    simp only [writeN]
    cases i with
    | zero =>
      rw [mget_writeN_other _ _ _ _ _ (by omega)]
      simp [mget_mset_same _ _ _ hm]
    | succ i =>
      have := ih (mset m a (BitVec.ofNat 8 v)) (a + 1) (v / 256) i (mset_wf m a _ hm) (by omega)
      rw [show a + (i + 1) = a + 1 + i by omega, this, Nat.div_div_eq_div_mul, Nat.pow_succ, Nat.mul_comm]

/-- Bytes read after they are written give the number back, cut to their count (R6). -/
theorem readN_writeN (m : List Host.Cell) (a n v : Nat) (hm : Memory.wf m = true) : readN (writeN m a n v) a n = v % 256 ^ n := by
  induction n generalizing m a v with
  | zero => simp [readN, Nat.mod_one]
  | succ n ih =>
    have h0 : mget (writeN m a (n + 1) v) a = BitVec.ofNat 8 v := by
      have := mget_writeN m a (n + 1) v 0 hm (by omega)
      simpa using this
    simp only [readN, h0]
    simp only [writeN]
    rw [ih _ _ _ (mset_wf m a _ hm), BitVec.toNat_ofNat, show 256 ^ (n + 1) = 256 * 256 ^ n by rw [Nat.pow_succ, Nat.mul_comm], Nat.mod_mul]

end Sys2Proof.Machine
end

