-- ==== Sys2Proof/Laws/State.lean ====
section
/-!
SUPPORT. What the named updates of the state leave alone and what they write: one lemma for each field and update, true by computation,
and reading a unit after it is written.
-/

namespace Sys2Proof.Machine

section
variable (s : State)

@[simp] theorem State.setCtx_dtc (n : Nat) (c : Ctx) : (s.setCtx n c).dtc = s.dtc := rfl
@[simp] theorem State.setCtx_agenda (n : Nat) (c : Ctx) : (s.setCtx n c).agenda = s.agenda := rfl
@[simp] theorem State.setCtx_later (n : Nat) (c : Ctx) : (s.setCtx n c).later = s.later := rfl
@[simp] theorem State.setCtx_choice (n : Nat) (c : Ctx) : (s.setCtx n c).choice = s.choice := rfl
@[simp] theorem State.setCtx_slots (n : Nat) (c : Ctx) : (s.setCtx n c).slots = s.slots := rfl
@[simp] theorem State.setCtx_cur (n : Nat) (c : Ctx) : (s.setCtx n c).cur = s.cur := rfl
@[simp] theorem State.setCtx_fresh (n : Nat) (c : Ctx) : (s.setCtx n c).fresh = s.fresh := rfl
@[simp] theorem State.setCtx_nextId (n : Nat) (c : Ctx) : (s.setCtx n c).nextId = s.nextId := rfl
@[simp] theorem State.setCtx_cores (n : Nat) (c : Ctx) : (s.setCtx n c).cores = s.cores := rfl
@[simp] theorem State.setCtx_clusters (n : Nat) (c : Ctx) : (s.setCtx n c).clusters = s.clusters := rfl
@[simp] theorem State.setCtx_porters (n : Nat) (c : Ctx) : (s.setCtx n c).porters = s.porters := rfl
@[simp] theorem State.setCtx_slices (n : Nat) (c : Ctx) : (s.setCtx n c).slices = s.slices := rfl
@[simp] theorem State.setCtx_dir (n : Nat) (c : Ctx) : (s.setCtx n c).dir = s.dir := rfl
@[simp] theorem State.setCtx_resources (n : Nat) (c : Ctx) : (s.setCtx n c).resources = s.resources := rfl
@[simp] theorem State.setCtx_streams (n : Nat) (c : Ctx) : (s.setCtx n c).streams = s.streams := rfl
@[simp] theorem State.setCtx_mem (n : Nat) (c : Ctx) : (s.setCtx n c).mem = s.mem := rfl
@[simp] theorem State.setCtx_tags (n : Nat) (c : Ctx) : (s.setCtx n c).tags = s.tags := rfl
@[simp] theorem State.setCtx_tagBuf (n : Nat) (c : Ctx) : (s.setCtx n c).tagBuf = s.tagBuf := rfl
@[simp] theorem State.setCtx_fotBase (n : Nat) (c : Ctx) : (s.setCtx n c).fotBase = s.fotBase := rfl
@[simp] theorem State.setCtx_owners (n : Nat) (c : Ctx) : (s.setCtx n c).owners = s.owners := rfl
@[simp] theorem State.setCtx_tvecF (n : Nat) (c : Ctx) : (s.setCtx n c).tvecF = s.tvecF := rfl
@[simp] theorem State.setCtx_bins (n : Nat) (c : Ctx) : (s.setCtx n c).bins = s.bins := rfl
@[simp] theorem State.setCtx_launches (n : Nat) (c : Ctx) : (s.setCtx n c).launches = s.launches := rfl
@[simp] theorem State.setCtx_nodes (n : Nat) (c : Ctx) : (s.setCtx n c).nodes = s.nodes := rfl
@[simp] theorem State.setCtx_faults (n : Nat) (c : Ctx) : (s.setCtx n c).faults = s.faults := rfl
@[simp] theorem State.setCtx_copies (n : Nat) (c : Ctx) : (s.setCtx n c).copies = s.copies := rfl
@[simp] theorem State.setCtx_ports (n : Nat) (c : Ctx) : (s.setCtx n c).ports = s.ports := rfl
@[simp] theorem State.setCtx_gtq (n : Nat) (c : Ctx) : (s.setCtx n c).gtq = s.gtq := rfl
@[simp] theorem State.setCtx_gtqNext (n : Nat) (c : Ctx) : (s.setCtx n c).gtqNext = s.gtqNext := rfl
@[simp] theorem State.setCtx_saved (n : Nat) (c : Ctx) : (s.setCtx n c).saved = s.saved := rfl
@[simp] theorem State.setCtx_invals (n : Nat) (c : Ctx) : (s.setCtx n c).invals = s.invals := rfl
@[simp] theorem State.setCtx_vcps (n : Nat) (c : Ctx) : (s.setCtx n c).vcps = s.vcps := rfl
@[simp] theorem State.setCtx_completions (n : Nat) (c : Ctx) : (s.setCtx n c).completions = s.completions := rfl
@[simp] theorem State.setCtx_irqs (n : Nat) (c : Ctx) : (s.setCtx n c).irqs = s.irqs := rfl
@[simp] theorem State.setCtx_links (n : Nat) (c : Ctx) : (s.setCtx n c).links = s.links := rfl
@[simp] theorem State.setCtx_linkErrors (n : Nat) (c : Ctx) : (s.setCtx n c).linkErrors = s.linkErrors := rfl
@[simp] theorem State.setCtx_unitErrors (n : Nat) (c : Ctx) : (s.setCtx n c).unitErrors = s.unitErrors := rfl
@[simp] theorem State.setCtx_peermap (n : Nat) (c : Ctx) : (s.setCtx n c).peermap = s.peermap := rfl
@[simp] theorem State.setCtx_peerOut (n : Nat) (c : Ctx) : (s.setCtx n c).peerOut = s.peerOut := rfl
@[simp] theorem State.setCtx_peerIn (n : Nat) (c : Ctx) : (s.setCtx n c).peerIn = s.peerIn := rfl
@[simp] theorem State.setCtx_peerSent (n : Nat) (c : Ctx) : (s.setCtx n c).peerSent = s.peerSent := rfl
@[simp] theorem State.setCtx_peerJobs (n : Nat) (c : Ctx) : (s.setCtx n c).peerJobs = s.peerJobs := rfl
@[simp] theorem State.setCtx_deviceIndex (n : Nat) (c : Ctx) : (s.setCtx n c).deviceIndex = s.deviceIndex := rfl
@[simp] theorem State.setCtx_tried (n : Nat) (c : Ctx) : (s.setCtx n c).tried = s.tried := rfl
@[simp] theorem State.setCtx_boot (n : Nat) (c : Ctx) : (s.setCtx n c).boot = s.boot := rfl
@[simp] theorem State.setCtx_mld (n : Nat) (c : Ctx) : (s.setCtx n c).mld = s.mld := rfl
@[simp] theorem State.setCtx_powerHold (n : Nat) (c : Ctx) : (s.setCtx n c).powerHold = s.powerHold := rfl
@[simp] theorem State.setCtx_stopped (n : Nat) (c : Ctx) : (s.setCtx n c).stopped = s.stopped := rfl
@[simp] theorem State.setCtx_recovery (n : Nat) (c : Ctx) : (s.setCtx n c).recovery = s.recovery := rfl
@[simp] theorem State.setCtx_fuses (n : Nat) (c : Ctx) : (s.setCtx n c).fuses = s.fuses := rfl
@[simp] theorem State.setCtx_identity (n : Nat) (c : Ctx) : (s.setCtx n c).identity = s.identity := rfl
@[simp] theorem State.setCtx_measurements (n : Nat) (c : Ctx) : (s.setCtx n c).measurements = s.measurements := rfl
@[simp] theorem State.setCtx_functions (n : Nat) (c : Ctx) : (s.setCtx n c).functions = s.functions := rfl
@[simp] theorem State.setCtx_absent (n : Nat) (c : Ctx) : (s.setCtx n c).absent = s.absent := rfl
@[simp] theorem State.setCtx_events (n : Nat) (c : Ctx) : (s.setCtx n c).events = s.events := rfl
@[simp] theorem State.setCtx_barSize (n : Nat) (c : Ctx) : (s.setCtx n c).barSize = s.barSize := rfl
@[simp] theorem State.setCtx_hostAnswer (n : Nat) (c : Ctx) : (s.setCtx n c).hostAnswer = s.hostAnswer := rfl
@[simp] theorem State.setCtx_layout (n : Nat) (c : Ctx) : (s.setCtx n c).layout = s.layout := rfl
@[simp] theorem State.setCtx_pools (n : Nat) (c : Ctx) : (s.setCtx n c).pools = s.pools := rfl
@[simp] theorem State.setCtx_poolWindows (n : Nat) (c : Ctx) : (s.setCtx n c).poolWindows = s.poolWindows := rfl
@[simp] theorem State.setCtx_migrations (n : Nat) (c : Ctx) : (s.setCtx n c).migrations = s.migrations := rfl
@[simp] theorem State.setCtx_backoffs (n : Nat) (c : Ctx) : (s.setCtx n c).backoffs = s.backoffs := rfl

@[simp] theorem State.modCtx_dtc (n : Nat) (f : Ctx → Ctx) : (s.modCtx n f).dtc = s.dtc := rfl
@[simp] theorem State.modCtx_agenda (n : Nat) (f : Ctx → Ctx) : (s.modCtx n f).agenda = s.agenda := rfl
@[simp] theorem State.modCtx_later (n : Nat) (f : Ctx → Ctx) : (s.modCtx n f).later = s.later := rfl
@[simp] theorem State.modCtx_choice (n : Nat) (f : Ctx → Ctx) : (s.modCtx n f).choice = s.choice := rfl
@[simp] theorem State.modCtx_slots (n : Nat) (f : Ctx → Ctx) : (s.modCtx n f).slots = s.slots := rfl
@[simp] theorem State.modCtx_cur (n : Nat) (f : Ctx → Ctx) : (s.modCtx n f).cur = s.cur := rfl
@[simp] theorem State.modCtx_fresh (n : Nat) (f : Ctx → Ctx) : (s.modCtx n f).fresh = s.fresh := rfl
@[simp] theorem State.modCtx_nextId (n : Nat) (f : Ctx → Ctx) : (s.modCtx n f).nextId = s.nextId := rfl
@[simp] theorem State.modCtx_cores (n : Nat) (f : Ctx → Ctx) : (s.modCtx n f).cores = s.cores := rfl
@[simp] theorem State.modCtx_clusters (n : Nat) (f : Ctx → Ctx) : (s.modCtx n f).clusters = s.clusters := rfl
@[simp] theorem State.modCtx_porters (n : Nat) (f : Ctx → Ctx) : (s.modCtx n f).porters = s.porters := rfl
@[simp] theorem State.modCtx_slices (n : Nat) (f : Ctx → Ctx) : (s.modCtx n f).slices = s.slices := rfl
@[simp] theorem State.modCtx_dir (n : Nat) (f : Ctx → Ctx) : (s.modCtx n f).dir = s.dir := rfl
@[simp] theorem State.modCtx_resources (n : Nat) (f : Ctx → Ctx) : (s.modCtx n f).resources = s.resources := rfl
@[simp] theorem State.modCtx_streams (n : Nat) (f : Ctx → Ctx) : (s.modCtx n f).streams = s.streams := rfl
@[simp] theorem State.modCtx_mem (n : Nat) (f : Ctx → Ctx) : (s.modCtx n f).mem = s.mem := rfl
@[simp] theorem State.modCtx_tags (n : Nat) (f : Ctx → Ctx) : (s.modCtx n f).tags = s.tags := rfl
@[simp] theorem State.modCtx_tagBuf (n : Nat) (f : Ctx → Ctx) : (s.modCtx n f).tagBuf = s.tagBuf := rfl
@[simp] theorem State.modCtx_fotBase (n : Nat) (f : Ctx → Ctx) : (s.modCtx n f).fotBase = s.fotBase := rfl
@[simp] theorem State.modCtx_owners (n : Nat) (f : Ctx → Ctx) : (s.modCtx n f).owners = s.owners := rfl
@[simp] theorem State.modCtx_tvecF (n : Nat) (f : Ctx → Ctx) : (s.modCtx n f).tvecF = s.tvecF := rfl
@[simp] theorem State.modCtx_bins (n : Nat) (f : Ctx → Ctx) : (s.modCtx n f).bins = s.bins := rfl
@[simp] theorem State.modCtx_launches (n : Nat) (f : Ctx → Ctx) : (s.modCtx n f).launches = s.launches := rfl
@[simp] theorem State.modCtx_nodes (n : Nat) (f : Ctx → Ctx) : (s.modCtx n f).nodes = s.nodes := rfl
@[simp] theorem State.modCtx_faults (n : Nat) (f : Ctx → Ctx) : (s.modCtx n f).faults = s.faults := rfl
@[simp] theorem State.modCtx_copies (n : Nat) (f : Ctx → Ctx) : (s.modCtx n f).copies = s.copies := rfl
@[simp] theorem State.modCtx_ports (n : Nat) (f : Ctx → Ctx) : (s.modCtx n f).ports = s.ports := rfl
@[simp] theorem State.modCtx_gtq (n : Nat) (f : Ctx → Ctx) : (s.modCtx n f).gtq = s.gtq := rfl
@[simp] theorem State.modCtx_gtqNext (n : Nat) (f : Ctx → Ctx) : (s.modCtx n f).gtqNext = s.gtqNext := rfl
@[simp] theorem State.modCtx_saved (n : Nat) (f : Ctx → Ctx) : (s.modCtx n f).saved = s.saved := rfl
@[simp] theorem State.modCtx_invals (n : Nat) (f : Ctx → Ctx) : (s.modCtx n f).invals = s.invals := rfl
@[simp] theorem State.modCtx_vcps (n : Nat) (f : Ctx → Ctx) : (s.modCtx n f).vcps = s.vcps := rfl
@[simp] theorem State.modCtx_completions (n : Nat) (f : Ctx → Ctx) : (s.modCtx n f).completions = s.completions := rfl
@[simp] theorem State.modCtx_irqs (n : Nat) (f : Ctx → Ctx) : (s.modCtx n f).irqs = s.irqs := rfl
@[simp] theorem State.modCtx_links (n : Nat) (f : Ctx → Ctx) : (s.modCtx n f).links = s.links := rfl
@[simp] theorem State.modCtx_linkErrors (n : Nat) (f : Ctx → Ctx) : (s.modCtx n f).linkErrors = s.linkErrors := rfl
@[simp] theorem State.modCtx_unitErrors (n : Nat) (f : Ctx → Ctx) : (s.modCtx n f).unitErrors = s.unitErrors := rfl
@[simp] theorem State.modCtx_peermap (n : Nat) (f : Ctx → Ctx) : (s.modCtx n f).peermap = s.peermap := rfl
@[simp] theorem State.modCtx_peerOut (n : Nat) (f : Ctx → Ctx) : (s.modCtx n f).peerOut = s.peerOut := rfl
@[simp] theorem State.modCtx_peerIn (n : Nat) (f : Ctx → Ctx) : (s.modCtx n f).peerIn = s.peerIn := rfl
@[simp] theorem State.modCtx_peerSent (n : Nat) (f : Ctx → Ctx) : (s.modCtx n f).peerSent = s.peerSent := rfl
@[simp] theorem State.modCtx_peerJobs (n : Nat) (f : Ctx → Ctx) : (s.modCtx n f).peerJobs = s.peerJobs := rfl
@[simp] theorem State.modCtx_deviceIndex (n : Nat) (f : Ctx → Ctx) : (s.modCtx n f).deviceIndex = s.deviceIndex := rfl
@[simp] theorem State.modCtx_tried (n : Nat) (f : Ctx → Ctx) : (s.modCtx n f).tried = s.tried := rfl
@[simp] theorem State.modCtx_boot (n : Nat) (f : Ctx → Ctx) : (s.modCtx n f).boot = s.boot := rfl
@[simp] theorem State.modCtx_mld (n : Nat) (f : Ctx → Ctx) : (s.modCtx n f).mld = s.mld := rfl
@[simp] theorem State.modCtx_powerHold (n : Nat) (f : Ctx → Ctx) : (s.modCtx n f).powerHold = s.powerHold := rfl
@[simp] theorem State.modCtx_stopped (n : Nat) (f : Ctx → Ctx) : (s.modCtx n f).stopped = s.stopped := rfl
@[simp] theorem State.modCtx_recovery (n : Nat) (f : Ctx → Ctx) : (s.modCtx n f).recovery = s.recovery := rfl
@[simp] theorem State.modCtx_fuses (n : Nat) (f : Ctx → Ctx) : (s.modCtx n f).fuses = s.fuses := rfl
@[simp] theorem State.modCtx_identity (n : Nat) (f : Ctx → Ctx) : (s.modCtx n f).identity = s.identity := rfl
@[simp] theorem State.modCtx_measurements (n : Nat) (f : Ctx → Ctx) : (s.modCtx n f).measurements = s.measurements := rfl
@[simp] theorem State.modCtx_functions (n : Nat) (f : Ctx → Ctx) : (s.modCtx n f).functions = s.functions := rfl
@[simp] theorem State.modCtx_absent (n : Nat) (f : Ctx → Ctx) : (s.modCtx n f).absent = s.absent := rfl
@[simp] theorem State.modCtx_events (n : Nat) (f : Ctx → Ctx) : (s.modCtx n f).events = s.events := rfl
@[simp] theorem State.modCtx_barSize (n : Nat) (f : Ctx → Ctx) : (s.modCtx n f).barSize = s.barSize := rfl
@[simp] theorem State.modCtx_hostAnswer (n : Nat) (f : Ctx → Ctx) : (s.modCtx n f).hostAnswer = s.hostAnswer := rfl
@[simp] theorem State.modCtx_layout (n : Nat) (f : Ctx → Ctx) : (s.modCtx n f).layout = s.layout := rfl
@[simp] theorem State.modCtx_pools (n : Nat) (f : Ctx → Ctx) : (s.modCtx n f).pools = s.pools := rfl
@[simp] theorem State.modCtx_poolWindows (n : Nat) (f : Ctx → Ctx) : (s.modCtx n f).poolWindows = s.poolWindows := rfl
@[simp] theorem State.modCtx_migrations (n : Nat) (f : Ctx → Ctx) : (s.modCtx n f).migrations = s.migrations := rfl
@[simp] theorem State.modCtx_backoffs (n : Nat) (f : Ctx → Ctx) : (s.modCtx n f).backoffs = s.backoffs := rfl

@[simp] theorem State.setCore_dtc (n : Nat) (c : Core) : (s.setCore n c).dtc = s.dtc := rfl
@[simp] theorem State.setCore_agenda (n : Nat) (c : Core) : (s.setCore n c).agenda = s.agenda := rfl
@[simp] theorem State.setCore_later (n : Nat) (c : Core) : (s.setCore n c).later = s.later := rfl
@[simp] theorem State.setCore_choice (n : Nat) (c : Core) : (s.setCore n c).choice = s.choice := rfl
@[simp] theorem State.setCore_slots (n : Nat) (c : Core) : (s.setCore n c).slots = s.slots := rfl
@[simp] theorem State.setCore_cur (n : Nat) (c : Core) : (s.setCore n c).cur = s.cur := rfl
@[simp] theorem State.setCore_fresh (n : Nat) (c : Core) : (s.setCore n c).fresh = s.fresh := rfl
@[simp] theorem State.setCore_nextId (n : Nat) (c : Core) : (s.setCore n c).nextId = s.nextId := rfl
@[simp] theorem State.setCore_ctxs (n : Nat) (c : Core) : (s.setCore n c).ctxs = s.ctxs := rfl
@[simp] theorem State.setCore_clusters (n : Nat) (c : Core) : (s.setCore n c).clusters = s.clusters := rfl
@[simp] theorem State.setCore_porters (n : Nat) (c : Core) : (s.setCore n c).porters = s.porters := rfl
@[simp] theorem State.setCore_slices (n : Nat) (c : Core) : (s.setCore n c).slices = s.slices := rfl
@[simp] theorem State.setCore_dir (n : Nat) (c : Core) : (s.setCore n c).dir = s.dir := rfl
@[simp] theorem State.setCore_resources (n : Nat) (c : Core) : (s.setCore n c).resources = s.resources := rfl
@[simp] theorem State.setCore_streams (n : Nat) (c : Core) : (s.setCore n c).streams = s.streams := rfl
@[simp] theorem State.setCore_mem (n : Nat) (c : Core) : (s.setCore n c).mem = s.mem := rfl
@[simp] theorem State.setCore_tags (n : Nat) (c : Core) : (s.setCore n c).tags = s.tags := rfl
@[simp] theorem State.setCore_tagBuf (n : Nat) (c : Core) : (s.setCore n c).tagBuf = s.tagBuf := rfl
@[simp] theorem State.setCore_fotBase (n : Nat) (c : Core) : (s.setCore n c).fotBase = s.fotBase := rfl
@[simp] theorem State.setCore_owners (n : Nat) (c : Core) : (s.setCore n c).owners = s.owners := rfl
@[simp] theorem State.setCore_tvecF (n : Nat) (c : Core) : (s.setCore n c).tvecF = s.tvecF := rfl
@[simp] theorem State.setCore_bins (n : Nat) (c : Core) : (s.setCore n c).bins = s.bins := rfl
@[simp] theorem State.setCore_launches (n : Nat) (c : Core) : (s.setCore n c).launches = s.launches := rfl
@[simp] theorem State.setCore_nodes (n : Nat) (c : Core) : (s.setCore n c).nodes = s.nodes := rfl
@[simp] theorem State.setCore_faults (n : Nat) (c : Core) : (s.setCore n c).faults = s.faults := rfl
@[simp] theorem State.setCore_copies (n : Nat) (c : Core) : (s.setCore n c).copies = s.copies := rfl
@[simp] theorem State.setCore_ports (n : Nat) (c : Core) : (s.setCore n c).ports = s.ports := rfl
@[simp] theorem State.setCore_gtq (n : Nat) (c : Core) : (s.setCore n c).gtq = s.gtq := rfl
@[simp] theorem State.setCore_gtqNext (n : Nat) (c : Core) : (s.setCore n c).gtqNext = s.gtqNext := rfl
@[simp] theorem State.setCore_saved (n : Nat) (c : Core) : (s.setCore n c).saved = s.saved := rfl
@[simp] theorem State.setCore_invals (n : Nat) (c : Core) : (s.setCore n c).invals = s.invals := rfl
@[simp] theorem State.setCore_vcps (n : Nat) (c : Core) : (s.setCore n c).vcps = s.vcps := rfl
@[simp] theorem State.setCore_completions (n : Nat) (c : Core) : (s.setCore n c).completions = s.completions := rfl
@[simp] theorem State.setCore_irqs (n : Nat) (c : Core) : (s.setCore n c).irqs = s.irqs := rfl
@[simp] theorem State.setCore_links (n : Nat) (c : Core) : (s.setCore n c).links = s.links := rfl
@[simp] theorem State.setCore_linkErrors (n : Nat) (c : Core) : (s.setCore n c).linkErrors = s.linkErrors := rfl
@[simp] theorem State.setCore_unitErrors (n : Nat) (c : Core) : (s.setCore n c).unitErrors = s.unitErrors := rfl
@[simp] theorem State.setCore_peermap (n : Nat) (c : Core) : (s.setCore n c).peermap = s.peermap := rfl
@[simp] theorem State.setCore_peerOut (n : Nat) (c : Core) : (s.setCore n c).peerOut = s.peerOut := rfl
@[simp] theorem State.setCore_peerIn (n : Nat) (c : Core) : (s.setCore n c).peerIn = s.peerIn := rfl
@[simp] theorem State.setCore_peerSent (n : Nat) (c : Core) : (s.setCore n c).peerSent = s.peerSent := rfl
@[simp] theorem State.setCore_peerJobs (n : Nat) (c : Core) : (s.setCore n c).peerJobs = s.peerJobs := rfl
@[simp] theorem State.setCore_deviceIndex (n : Nat) (c : Core) : (s.setCore n c).deviceIndex = s.deviceIndex := rfl
@[simp] theorem State.setCore_tried (n : Nat) (c : Core) : (s.setCore n c).tried = s.tried := rfl
@[simp] theorem State.setCore_boot (n : Nat) (c : Core) : (s.setCore n c).boot = s.boot := rfl
@[simp] theorem State.setCore_mld (n : Nat) (c : Core) : (s.setCore n c).mld = s.mld := rfl
@[simp] theorem State.setCore_powerHold (n : Nat) (c : Core) : (s.setCore n c).powerHold = s.powerHold := rfl
@[simp] theorem State.setCore_stopped (n : Nat) (c : Core) : (s.setCore n c).stopped = s.stopped := rfl
@[simp] theorem State.setCore_recovery (n : Nat) (c : Core) : (s.setCore n c).recovery = s.recovery := rfl
@[simp] theorem State.setCore_fuses (n : Nat) (c : Core) : (s.setCore n c).fuses = s.fuses := rfl
@[simp] theorem State.setCore_identity (n : Nat) (c : Core) : (s.setCore n c).identity = s.identity := rfl
@[simp] theorem State.setCore_measurements (n : Nat) (c : Core) : (s.setCore n c).measurements = s.measurements := rfl
@[simp] theorem State.setCore_functions (n : Nat) (c : Core) : (s.setCore n c).functions = s.functions := rfl
@[simp] theorem State.setCore_absent (n : Nat) (c : Core) : (s.setCore n c).absent = s.absent := rfl
@[simp] theorem State.setCore_events (n : Nat) (c : Core) : (s.setCore n c).events = s.events := rfl
@[simp] theorem State.setCore_barSize (n : Nat) (c : Core) : (s.setCore n c).barSize = s.barSize := rfl
@[simp] theorem State.setCore_hostAnswer (n : Nat) (c : Core) : (s.setCore n c).hostAnswer = s.hostAnswer := rfl
@[simp] theorem State.setCore_layout (n : Nat) (c : Core) : (s.setCore n c).layout = s.layout := rfl
@[simp] theorem State.setCore_pools (n : Nat) (c : Core) : (s.setCore n c).pools = s.pools := rfl
@[simp] theorem State.setCore_poolWindows (n : Nat) (c : Core) : (s.setCore n c).poolWindows = s.poolWindows := rfl
@[simp] theorem State.setCore_migrations (n : Nat) (c : Core) : (s.setCore n c).migrations = s.migrations := rfl
@[simp] theorem State.setCore_backoffs (n : Nat) (c : Core) : (s.setCore n c).backoffs = s.backoffs := rfl

@[simp] theorem State.modCore_dtc (n : Nat) (f : Core → Core) : (s.modCore n f).dtc = s.dtc := rfl
@[simp] theorem State.modCore_agenda (n : Nat) (f : Core → Core) : (s.modCore n f).agenda = s.agenda := rfl
@[simp] theorem State.modCore_later (n : Nat) (f : Core → Core) : (s.modCore n f).later = s.later := rfl
@[simp] theorem State.modCore_choice (n : Nat) (f : Core → Core) : (s.modCore n f).choice = s.choice := rfl
@[simp] theorem State.modCore_slots (n : Nat) (f : Core → Core) : (s.modCore n f).slots = s.slots := rfl
@[simp] theorem State.modCore_cur (n : Nat) (f : Core → Core) : (s.modCore n f).cur = s.cur := rfl
@[simp] theorem State.modCore_fresh (n : Nat) (f : Core → Core) : (s.modCore n f).fresh = s.fresh := rfl
@[simp] theorem State.modCore_nextId (n : Nat) (f : Core → Core) : (s.modCore n f).nextId = s.nextId := rfl
@[simp] theorem State.modCore_ctxs (n : Nat) (f : Core → Core) : (s.modCore n f).ctxs = s.ctxs := rfl
@[simp] theorem State.modCore_clusters (n : Nat) (f : Core → Core) : (s.modCore n f).clusters = s.clusters := rfl
@[simp] theorem State.modCore_porters (n : Nat) (f : Core → Core) : (s.modCore n f).porters = s.porters := rfl
@[simp] theorem State.modCore_slices (n : Nat) (f : Core → Core) : (s.modCore n f).slices = s.slices := rfl
@[simp] theorem State.modCore_dir (n : Nat) (f : Core → Core) : (s.modCore n f).dir = s.dir := rfl
@[simp] theorem State.modCore_resources (n : Nat) (f : Core → Core) : (s.modCore n f).resources = s.resources := rfl
@[simp] theorem State.modCore_streams (n : Nat) (f : Core → Core) : (s.modCore n f).streams = s.streams := rfl
@[simp] theorem State.modCore_mem (n : Nat) (f : Core → Core) : (s.modCore n f).mem = s.mem := rfl
@[simp] theorem State.modCore_tags (n : Nat) (f : Core → Core) : (s.modCore n f).tags = s.tags := rfl
@[simp] theorem State.modCore_tagBuf (n : Nat) (f : Core → Core) : (s.modCore n f).tagBuf = s.tagBuf := rfl
@[simp] theorem State.modCore_fotBase (n : Nat) (f : Core → Core) : (s.modCore n f).fotBase = s.fotBase := rfl
@[simp] theorem State.modCore_owners (n : Nat) (f : Core → Core) : (s.modCore n f).owners = s.owners := rfl
@[simp] theorem State.modCore_tvecF (n : Nat) (f : Core → Core) : (s.modCore n f).tvecF = s.tvecF := rfl
@[simp] theorem State.modCore_bins (n : Nat) (f : Core → Core) : (s.modCore n f).bins = s.bins := rfl
@[simp] theorem State.modCore_launches (n : Nat) (f : Core → Core) : (s.modCore n f).launches = s.launches := rfl
@[simp] theorem State.modCore_nodes (n : Nat) (f : Core → Core) : (s.modCore n f).nodes = s.nodes := rfl
@[simp] theorem State.modCore_faults (n : Nat) (f : Core → Core) : (s.modCore n f).faults = s.faults := rfl
@[simp] theorem State.modCore_copies (n : Nat) (f : Core → Core) : (s.modCore n f).copies = s.copies := rfl
@[simp] theorem State.modCore_ports (n : Nat) (f : Core → Core) : (s.modCore n f).ports = s.ports := rfl
@[simp] theorem State.modCore_gtq (n : Nat) (f : Core → Core) : (s.modCore n f).gtq = s.gtq := rfl
@[simp] theorem State.modCore_gtqNext (n : Nat) (f : Core → Core) : (s.modCore n f).gtqNext = s.gtqNext := rfl
@[simp] theorem State.modCore_saved (n : Nat) (f : Core → Core) : (s.modCore n f).saved = s.saved := rfl
@[simp] theorem State.modCore_invals (n : Nat) (f : Core → Core) : (s.modCore n f).invals = s.invals := rfl
@[simp] theorem State.modCore_vcps (n : Nat) (f : Core → Core) : (s.modCore n f).vcps = s.vcps := rfl
@[simp] theorem State.modCore_completions (n : Nat) (f : Core → Core) : (s.modCore n f).completions = s.completions := rfl
@[simp] theorem State.modCore_irqs (n : Nat) (f : Core → Core) : (s.modCore n f).irqs = s.irqs := rfl
@[simp] theorem State.modCore_links (n : Nat) (f : Core → Core) : (s.modCore n f).links = s.links := rfl
@[simp] theorem State.modCore_linkErrors (n : Nat) (f : Core → Core) : (s.modCore n f).linkErrors = s.linkErrors := rfl
@[simp] theorem State.modCore_unitErrors (n : Nat) (f : Core → Core) : (s.modCore n f).unitErrors = s.unitErrors := rfl
@[simp] theorem State.modCore_peermap (n : Nat) (f : Core → Core) : (s.modCore n f).peermap = s.peermap := rfl
@[simp] theorem State.modCore_peerOut (n : Nat) (f : Core → Core) : (s.modCore n f).peerOut = s.peerOut := rfl
@[simp] theorem State.modCore_peerIn (n : Nat) (f : Core → Core) : (s.modCore n f).peerIn = s.peerIn := rfl
@[simp] theorem State.modCore_peerSent (n : Nat) (f : Core → Core) : (s.modCore n f).peerSent = s.peerSent := rfl
@[simp] theorem State.modCore_peerJobs (n : Nat) (f : Core → Core) : (s.modCore n f).peerJobs = s.peerJobs := rfl
@[simp] theorem State.modCore_deviceIndex (n : Nat) (f : Core → Core) : (s.modCore n f).deviceIndex = s.deviceIndex := rfl
@[simp] theorem State.modCore_tried (n : Nat) (f : Core → Core) : (s.modCore n f).tried = s.tried := rfl
@[simp] theorem State.modCore_boot (n : Nat) (f : Core → Core) : (s.modCore n f).boot = s.boot := rfl
@[simp] theorem State.modCore_mld (n : Nat) (f : Core → Core) : (s.modCore n f).mld = s.mld := rfl
@[simp] theorem State.modCore_powerHold (n : Nat) (f : Core → Core) : (s.modCore n f).powerHold = s.powerHold := rfl
@[simp] theorem State.modCore_stopped (n : Nat) (f : Core → Core) : (s.modCore n f).stopped = s.stopped := rfl
@[simp] theorem State.modCore_recovery (n : Nat) (f : Core → Core) : (s.modCore n f).recovery = s.recovery := rfl
@[simp] theorem State.modCore_fuses (n : Nat) (f : Core → Core) : (s.modCore n f).fuses = s.fuses := rfl
@[simp] theorem State.modCore_identity (n : Nat) (f : Core → Core) : (s.modCore n f).identity = s.identity := rfl
@[simp] theorem State.modCore_measurements (n : Nat) (f : Core → Core) : (s.modCore n f).measurements = s.measurements := rfl
@[simp] theorem State.modCore_functions (n : Nat) (f : Core → Core) : (s.modCore n f).functions = s.functions := rfl
@[simp] theorem State.modCore_absent (n : Nat) (f : Core → Core) : (s.modCore n f).absent = s.absent := rfl
@[simp] theorem State.modCore_events (n : Nat) (f : Core → Core) : (s.modCore n f).events = s.events := rfl
@[simp] theorem State.modCore_barSize (n : Nat) (f : Core → Core) : (s.modCore n f).barSize = s.barSize := rfl
@[simp] theorem State.modCore_hostAnswer (n : Nat) (f : Core → Core) : (s.modCore n f).hostAnswer = s.hostAnswer := rfl
@[simp] theorem State.modCore_layout (n : Nat) (f : Core → Core) : (s.modCore n f).layout = s.layout := rfl
@[simp] theorem State.modCore_pools (n : Nat) (f : Core → Core) : (s.modCore n f).pools = s.pools := rfl
@[simp] theorem State.modCore_poolWindows (n : Nat) (f : Core → Core) : (s.modCore n f).poolWindows = s.poolWindows := rfl
@[simp] theorem State.modCore_migrations (n : Nat) (f : Core → Core) : (s.modCore n f).migrations = s.migrations := rfl
@[simp] theorem State.modCore_backoffs (n : Nat) (f : Core → Core) : (s.modCore n f).backoffs = s.backoffs := rfl

@[simp] theorem State.modCluster_dtc (n : Nat) (f : Cluster → Cluster) : (s.modCluster n f).dtc = s.dtc := rfl
@[simp] theorem State.modCluster_agenda (n : Nat) (f : Cluster → Cluster) : (s.modCluster n f).agenda = s.agenda := rfl
@[simp] theorem State.modCluster_later (n : Nat) (f : Cluster → Cluster) : (s.modCluster n f).later = s.later := rfl
@[simp] theorem State.modCluster_choice (n : Nat) (f : Cluster → Cluster) : (s.modCluster n f).choice = s.choice := rfl
@[simp] theorem State.modCluster_slots (n : Nat) (f : Cluster → Cluster) : (s.modCluster n f).slots = s.slots := rfl
@[simp] theorem State.modCluster_cur (n : Nat) (f : Cluster → Cluster) : (s.modCluster n f).cur = s.cur := rfl
@[simp] theorem State.modCluster_fresh (n : Nat) (f : Cluster → Cluster) : (s.modCluster n f).fresh = s.fresh := rfl
@[simp] theorem State.modCluster_nextId (n : Nat) (f : Cluster → Cluster) : (s.modCluster n f).nextId = s.nextId := rfl
@[simp] theorem State.modCluster_ctxs (n : Nat) (f : Cluster → Cluster) : (s.modCluster n f).ctxs = s.ctxs := rfl
@[simp] theorem State.modCluster_cores (n : Nat) (f : Cluster → Cluster) : (s.modCluster n f).cores = s.cores := rfl
@[simp] theorem State.modCluster_porters (n : Nat) (f : Cluster → Cluster) : (s.modCluster n f).porters = s.porters := rfl
@[simp] theorem State.modCluster_slices (n : Nat) (f : Cluster → Cluster) : (s.modCluster n f).slices = s.slices := rfl
@[simp] theorem State.modCluster_dir (n : Nat) (f : Cluster → Cluster) : (s.modCluster n f).dir = s.dir := rfl
@[simp] theorem State.modCluster_resources (n : Nat) (f : Cluster → Cluster) : (s.modCluster n f).resources = s.resources := rfl
@[simp] theorem State.modCluster_streams (n : Nat) (f : Cluster → Cluster) : (s.modCluster n f).streams = s.streams := rfl
@[simp] theorem State.modCluster_mem (n : Nat) (f : Cluster → Cluster) : (s.modCluster n f).mem = s.mem := rfl
@[simp] theorem State.modCluster_tags (n : Nat) (f : Cluster → Cluster) : (s.modCluster n f).tags = s.tags := rfl
@[simp] theorem State.modCluster_tagBuf (n : Nat) (f : Cluster → Cluster) : (s.modCluster n f).tagBuf = s.tagBuf := rfl
@[simp] theorem State.modCluster_fotBase (n : Nat) (f : Cluster → Cluster) : (s.modCluster n f).fotBase = s.fotBase := rfl
@[simp] theorem State.modCluster_owners (n : Nat) (f : Cluster → Cluster) : (s.modCluster n f).owners = s.owners := rfl
@[simp] theorem State.modCluster_tvecF (n : Nat) (f : Cluster → Cluster) : (s.modCluster n f).tvecF = s.tvecF := rfl
@[simp] theorem State.modCluster_bins (n : Nat) (f : Cluster → Cluster) : (s.modCluster n f).bins = s.bins := rfl
@[simp] theorem State.modCluster_launches (n : Nat) (f : Cluster → Cluster) : (s.modCluster n f).launches = s.launches := rfl
@[simp] theorem State.modCluster_nodes (n : Nat) (f : Cluster → Cluster) : (s.modCluster n f).nodes = s.nodes := rfl
@[simp] theorem State.modCluster_faults (n : Nat) (f : Cluster → Cluster) : (s.modCluster n f).faults = s.faults := rfl
@[simp] theorem State.modCluster_copies (n : Nat) (f : Cluster → Cluster) : (s.modCluster n f).copies = s.copies := rfl
@[simp] theorem State.modCluster_ports (n : Nat) (f : Cluster → Cluster) : (s.modCluster n f).ports = s.ports := rfl
@[simp] theorem State.modCluster_gtq (n : Nat) (f : Cluster → Cluster) : (s.modCluster n f).gtq = s.gtq := rfl
@[simp] theorem State.modCluster_gtqNext (n : Nat) (f : Cluster → Cluster) : (s.modCluster n f).gtqNext = s.gtqNext := rfl
@[simp] theorem State.modCluster_saved (n : Nat) (f : Cluster → Cluster) : (s.modCluster n f).saved = s.saved := rfl
@[simp] theorem State.modCluster_invals (n : Nat) (f : Cluster → Cluster) : (s.modCluster n f).invals = s.invals := rfl
@[simp] theorem State.modCluster_vcps (n : Nat) (f : Cluster → Cluster) : (s.modCluster n f).vcps = s.vcps := rfl
@[simp] theorem State.modCluster_completions (n : Nat) (f : Cluster → Cluster) : (s.modCluster n f).completions = s.completions := rfl
@[simp] theorem State.modCluster_irqs (n : Nat) (f : Cluster → Cluster) : (s.modCluster n f).irqs = s.irqs := rfl
@[simp] theorem State.modCluster_links (n : Nat) (f : Cluster → Cluster) : (s.modCluster n f).links = s.links := rfl
@[simp] theorem State.modCluster_linkErrors (n : Nat) (f : Cluster → Cluster) : (s.modCluster n f).linkErrors = s.linkErrors := rfl
@[simp] theorem State.modCluster_unitErrors (n : Nat) (f : Cluster → Cluster) : (s.modCluster n f).unitErrors = s.unitErrors := rfl
@[simp] theorem State.modCluster_peermap (n : Nat) (f : Cluster → Cluster) : (s.modCluster n f).peermap = s.peermap := rfl
@[simp] theorem State.modCluster_peerOut (n : Nat) (f : Cluster → Cluster) : (s.modCluster n f).peerOut = s.peerOut := rfl
@[simp] theorem State.modCluster_peerIn (n : Nat) (f : Cluster → Cluster) : (s.modCluster n f).peerIn = s.peerIn := rfl
@[simp] theorem State.modCluster_peerSent (n : Nat) (f : Cluster → Cluster) : (s.modCluster n f).peerSent = s.peerSent := rfl
@[simp] theorem State.modCluster_peerJobs (n : Nat) (f : Cluster → Cluster) : (s.modCluster n f).peerJobs = s.peerJobs := rfl
@[simp] theorem State.modCluster_deviceIndex (n : Nat) (f : Cluster → Cluster) : (s.modCluster n f).deviceIndex = s.deviceIndex := rfl
@[simp] theorem State.modCluster_tried (n : Nat) (f : Cluster → Cluster) : (s.modCluster n f).tried = s.tried := rfl
@[simp] theorem State.modCluster_boot (n : Nat) (f : Cluster → Cluster) : (s.modCluster n f).boot = s.boot := rfl
@[simp] theorem State.modCluster_mld (n : Nat) (f : Cluster → Cluster) : (s.modCluster n f).mld = s.mld := rfl
@[simp] theorem State.modCluster_powerHold (n : Nat) (f : Cluster → Cluster) : (s.modCluster n f).powerHold = s.powerHold := rfl
@[simp] theorem State.modCluster_stopped (n : Nat) (f : Cluster → Cluster) : (s.modCluster n f).stopped = s.stopped := rfl
@[simp] theorem State.modCluster_recovery (n : Nat) (f : Cluster → Cluster) : (s.modCluster n f).recovery = s.recovery := rfl
@[simp] theorem State.modCluster_fuses (n : Nat) (f : Cluster → Cluster) : (s.modCluster n f).fuses = s.fuses := rfl
@[simp] theorem State.modCluster_identity (n : Nat) (f : Cluster → Cluster) : (s.modCluster n f).identity = s.identity := rfl
@[simp] theorem State.modCluster_measurements (n : Nat) (f : Cluster → Cluster) : (s.modCluster n f).measurements = s.measurements := rfl
@[simp] theorem State.modCluster_functions (n : Nat) (f : Cluster → Cluster) : (s.modCluster n f).functions = s.functions := rfl
@[simp] theorem State.modCluster_absent (n : Nat) (f : Cluster → Cluster) : (s.modCluster n f).absent = s.absent := rfl
@[simp] theorem State.modCluster_events (n : Nat) (f : Cluster → Cluster) : (s.modCluster n f).events = s.events := rfl
@[simp] theorem State.modCluster_barSize (n : Nat) (f : Cluster → Cluster) : (s.modCluster n f).barSize = s.barSize := rfl
@[simp] theorem State.modCluster_hostAnswer (n : Nat) (f : Cluster → Cluster) : (s.modCluster n f).hostAnswer = s.hostAnswer := rfl
@[simp] theorem State.modCluster_layout (n : Nat) (f : Cluster → Cluster) : (s.modCluster n f).layout = s.layout := rfl
@[simp] theorem State.modCluster_pools (n : Nat) (f : Cluster → Cluster) : (s.modCluster n f).pools = s.pools := rfl
@[simp] theorem State.modCluster_poolWindows (n : Nat) (f : Cluster → Cluster) : (s.modCluster n f).poolWindows = s.poolWindows := rfl
@[simp] theorem State.modCluster_migrations (n : Nat) (f : Cluster → Cluster) : (s.modCluster n f).migrations = s.migrations := rfl
@[simp] theorem State.modCluster_backoffs (n : Nat) (f : Cluster → Cluster) : (s.modCluster n f).backoffs = s.backoffs := rfl

@[simp] theorem State.modPorter_dtc (n : Nat) (f : Porter → Porter) : (s.modPorter n f).dtc = s.dtc := rfl
@[simp] theorem State.modPorter_agenda (n : Nat) (f : Porter → Porter) : (s.modPorter n f).agenda = s.agenda := rfl
@[simp] theorem State.modPorter_later (n : Nat) (f : Porter → Porter) : (s.modPorter n f).later = s.later := rfl
@[simp] theorem State.modPorter_choice (n : Nat) (f : Porter → Porter) : (s.modPorter n f).choice = s.choice := rfl
@[simp] theorem State.modPorter_slots (n : Nat) (f : Porter → Porter) : (s.modPorter n f).slots = s.slots := rfl
@[simp] theorem State.modPorter_cur (n : Nat) (f : Porter → Porter) : (s.modPorter n f).cur = s.cur := rfl
@[simp] theorem State.modPorter_fresh (n : Nat) (f : Porter → Porter) : (s.modPorter n f).fresh = s.fresh := rfl
@[simp] theorem State.modPorter_nextId (n : Nat) (f : Porter → Porter) : (s.modPorter n f).nextId = s.nextId := rfl
@[simp] theorem State.modPorter_ctxs (n : Nat) (f : Porter → Porter) : (s.modPorter n f).ctxs = s.ctxs := rfl
@[simp] theorem State.modPorter_cores (n : Nat) (f : Porter → Porter) : (s.modPorter n f).cores = s.cores := rfl
@[simp] theorem State.modPorter_clusters (n : Nat) (f : Porter → Porter) : (s.modPorter n f).clusters = s.clusters := rfl
@[simp] theorem State.modPorter_slices (n : Nat) (f : Porter → Porter) : (s.modPorter n f).slices = s.slices := rfl
@[simp] theorem State.modPorter_dir (n : Nat) (f : Porter → Porter) : (s.modPorter n f).dir = s.dir := rfl
@[simp] theorem State.modPorter_resources (n : Nat) (f : Porter → Porter) : (s.modPorter n f).resources = s.resources := rfl
@[simp] theorem State.modPorter_streams (n : Nat) (f : Porter → Porter) : (s.modPorter n f).streams = s.streams := rfl
@[simp] theorem State.modPorter_mem (n : Nat) (f : Porter → Porter) : (s.modPorter n f).mem = s.mem := rfl
@[simp] theorem State.modPorter_tags (n : Nat) (f : Porter → Porter) : (s.modPorter n f).tags = s.tags := rfl
@[simp] theorem State.modPorter_tagBuf (n : Nat) (f : Porter → Porter) : (s.modPorter n f).tagBuf = s.tagBuf := rfl
@[simp] theorem State.modPorter_fotBase (n : Nat) (f : Porter → Porter) : (s.modPorter n f).fotBase = s.fotBase := rfl
@[simp] theorem State.modPorter_owners (n : Nat) (f : Porter → Porter) : (s.modPorter n f).owners = s.owners := rfl
@[simp] theorem State.modPorter_tvecF (n : Nat) (f : Porter → Porter) : (s.modPorter n f).tvecF = s.tvecF := rfl
@[simp] theorem State.modPorter_bins (n : Nat) (f : Porter → Porter) : (s.modPorter n f).bins = s.bins := rfl
@[simp] theorem State.modPorter_launches (n : Nat) (f : Porter → Porter) : (s.modPorter n f).launches = s.launches := rfl
@[simp] theorem State.modPorter_nodes (n : Nat) (f : Porter → Porter) : (s.modPorter n f).nodes = s.nodes := rfl
@[simp] theorem State.modPorter_faults (n : Nat) (f : Porter → Porter) : (s.modPorter n f).faults = s.faults := rfl
@[simp] theorem State.modPorter_copies (n : Nat) (f : Porter → Porter) : (s.modPorter n f).copies = s.copies := rfl
@[simp] theorem State.modPorter_ports (n : Nat) (f : Porter → Porter) : (s.modPorter n f).ports = s.ports := rfl
@[simp] theorem State.modPorter_gtq (n : Nat) (f : Porter → Porter) : (s.modPorter n f).gtq = s.gtq := rfl
@[simp] theorem State.modPorter_gtqNext (n : Nat) (f : Porter → Porter) : (s.modPorter n f).gtqNext = s.gtqNext := rfl
@[simp] theorem State.modPorter_saved (n : Nat) (f : Porter → Porter) : (s.modPorter n f).saved = s.saved := rfl
@[simp] theorem State.modPorter_invals (n : Nat) (f : Porter → Porter) : (s.modPorter n f).invals = s.invals := rfl
@[simp] theorem State.modPorter_vcps (n : Nat) (f : Porter → Porter) : (s.modPorter n f).vcps = s.vcps := rfl
@[simp] theorem State.modPorter_completions (n : Nat) (f : Porter → Porter) : (s.modPorter n f).completions = s.completions := rfl
@[simp] theorem State.modPorter_irqs (n : Nat) (f : Porter → Porter) : (s.modPorter n f).irqs = s.irqs := rfl
@[simp] theorem State.modPorter_links (n : Nat) (f : Porter → Porter) : (s.modPorter n f).links = s.links := rfl
@[simp] theorem State.modPorter_linkErrors (n : Nat) (f : Porter → Porter) : (s.modPorter n f).linkErrors = s.linkErrors := rfl
@[simp] theorem State.modPorter_unitErrors (n : Nat) (f : Porter → Porter) : (s.modPorter n f).unitErrors = s.unitErrors := rfl
@[simp] theorem State.modPorter_peermap (n : Nat) (f : Porter → Porter) : (s.modPorter n f).peermap = s.peermap := rfl
@[simp] theorem State.modPorter_peerOut (n : Nat) (f : Porter → Porter) : (s.modPorter n f).peerOut = s.peerOut := rfl
@[simp] theorem State.modPorter_peerIn (n : Nat) (f : Porter → Porter) : (s.modPorter n f).peerIn = s.peerIn := rfl
@[simp] theorem State.modPorter_peerSent (n : Nat) (f : Porter → Porter) : (s.modPorter n f).peerSent = s.peerSent := rfl
@[simp] theorem State.modPorter_peerJobs (n : Nat) (f : Porter → Porter) : (s.modPorter n f).peerJobs = s.peerJobs := rfl
@[simp] theorem State.modPorter_deviceIndex (n : Nat) (f : Porter → Porter) : (s.modPorter n f).deviceIndex = s.deviceIndex := rfl
@[simp] theorem State.modPorter_tried (n : Nat) (f : Porter → Porter) : (s.modPorter n f).tried = s.tried := rfl
@[simp] theorem State.modPorter_boot (n : Nat) (f : Porter → Porter) : (s.modPorter n f).boot = s.boot := rfl
@[simp] theorem State.modPorter_mld (n : Nat) (f : Porter → Porter) : (s.modPorter n f).mld = s.mld := rfl
@[simp] theorem State.modPorter_powerHold (n : Nat) (f : Porter → Porter) : (s.modPorter n f).powerHold = s.powerHold := rfl
@[simp] theorem State.modPorter_stopped (n : Nat) (f : Porter → Porter) : (s.modPorter n f).stopped = s.stopped := rfl
@[simp] theorem State.modPorter_recovery (n : Nat) (f : Porter → Porter) : (s.modPorter n f).recovery = s.recovery := rfl
@[simp] theorem State.modPorter_fuses (n : Nat) (f : Porter → Porter) : (s.modPorter n f).fuses = s.fuses := rfl
@[simp] theorem State.modPorter_identity (n : Nat) (f : Porter → Porter) : (s.modPorter n f).identity = s.identity := rfl
@[simp] theorem State.modPorter_measurements (n : Nat) (f : Porter → Porter) : (s.modPorter n f).measurements = s.measurements := rfl
@[simp] theorem State.modPorter_functions (n : Nat) (f : Porter → Porter) : (s.modPorter n f).functions = s.functions := rfl
@[simp] theorem State.modPorter_absent (n : Nat) (f : Porter → Porter) : (s.modPorter n f).absent = s.absent := rfl
@[simp] theorem State.modPorter_events (n : Nat) (f : Porter → Porter) : (s.modPorter n f).events = s.events := rfl
@[simp] theorem State.modPorter_barSize (n : Nat) (f : Porter → Porter) : (s.modPorter n f).barSize = s.barSize := rfl
@[simp] theorem State.modPorter_hostAnswer (n : Nat) (f : Porter → Porter) : (s.modPorter n f).hostAnswer = s.hostAnswer := rfl
@[simp] theorem State.modPorter_layout (n : Nat) (f : Porter → Porter) : (s.modPorter n f).layout = s.layout := rfl
@[simp] theorem State.modPorter_pools (n : Nat) (f : Porter → Porter) : (s.modPorter n f).pools = s.pools := rfl
@[simp] theorem State.modPorter_poolWindows (n : Nat) (f : Porter → Porter) : (s.modPorter n f).poolWindows = s.poolWindows := rfl
@[simp] theorem State.modPorter_migrations (n : Nat) (f : Porter → Porter) : (s.modPorter n f).migrations = s.migrations := rfl
@[simp] theorem State.modPorter_backoffs (n : Nat) (f : Porter → Porter) : (s.modPorter n f).backoffs = s.backoffs := rfl

@[simp] theorem State.modSlice_dtc (n : Nat) (f : Slice → Slice) : (s.modSlice n f).dtc = s.dtc := rfl
@[simp] theorem State.modSlice_agenda (n : Nat) (f : Slice → Slice) : (s.modSlice n f).agenda = s.agenda := rfl
@[simp] theorem State.modSlice_later (n : Nat) (f : Slice → Slice) : (s.modSlice n f).later = s.later := rfl
@[simp] theorem State.modSlice_choice (n : Nat) (f : Slice → Slice) : (s.modSlice n f).choice = s.choice := rfl
@[simp] theorem State.modSlice_slots (n : Nat) (f : Slice → Slice) : (s.modSlice n f).slots = s.slots := rfl
@[simp] theorem State.modSlice_cur (n : Nat) (f : Slice → Slice) : (s.modSlice n f).cur = s.cur := rfl
@[simp] theorem State.modSlice_fresh (n : Nat) (f : Slice → Slice) : (s.modSlice n f).fresh = s.fresh := rfl
@[simp] theorem State.modSlice_nextId (n : Nat) (f : Slice → Slice) : (s.modSlice n f).nextId = s.nextId := rfl
@[simp] theorem State.modSlice_ctxs (n : Nat) (f : Slice → Slice) : (s.modSlice n f).ctxs = s.ctxs := rfl
@[simp] theorem State.modSlice_cores (n : Nat) (f : Slice → Slice) : (s.modSlice n f).cores = s.cores := rfl
@[simp] theorem State.modSlice_clusters (n : Nat) (f : Slice → Slice) : (s.modSlice n f).clusters = s.clusters := rfl
@[simp] theorem State.modSlice_porters (n : Nat) (f : Slice → Slice) : (s.modSlice n f).porters = s.porters := rfl
@[simp] theorem State.modSlice_dir (n : Nat) (f : Slice → Slice) : (s.modSlice n f).dir = s.dir := rfl
@[simp] theorem State.modSlice_resources (n : Nat) (f : Slice → Slice) : (s.modSlice n f).resources = s.resources := rfl
@[simp] theorem State.modSlice_streams (n : Nat) (f : Slice → Slice) : (s.modSlice n f).streams = s.streams := rfl
@[simp] theorem State.modSlice_mem (n : Nat) (f : Slice → Slice) : (s.modSlice n f).mem = s.mem := rfl
@[simp] theorem State.modSlice_tags (n : Nat) (f : Slice → Slice) : (s.modSlice n f).tags = s.tags := rfl
@[simp] theorem State.modSlice_tagBuf (n : Nat) (f : Slice → Slice) : (s.modSlice n f).tagBuf = s.tagBuf := rfl
@[simp] theorem State.modSlice_fotBase (n : Nat) (f : Slice → Slice) : (s.modSlice n f).fotBase = s.fotBase := rfl
@[simp] theorem State.modSlice_owners (n : Nat) (f : Slice → Slice) : (s.modSlice n f).owners = s.owners := rfl
@[simp] theorem State.modSlice_tvecF (n : Nat) (f : Slice → Slice) : (s.modSlice n f).tvecF = s.tvecF := rfl
@[simp] theorem State.modSlice_bins (n : Nat) (f : Slice → Slice) : (s.modSlice n f).bins = s.bins := rfl
@[simp] theorem State.modSlice_launches (n : Nat) (f : Slice → Slice) : (s.modSlice n f).launches = s.launches := rfl
@[simp] theorem State.modSlice_nodes (n : Nat) (f : Slice → Slice) : (s.modSlice n f).nodes = s.nodes := rfl
@[simp] theorem State.modSlice_faults (n : Nat) (f : Slice → Slice) : (s.modSlice n f).faults = s.faults := rfl
@[simp] theorem State.modSlice_copies (n : Nat) (f : Slice → Slice) : (s.modSlice n f).copies = s.copies := rfl
@[simp] theorem State.modSlice_ports (n : Nat) (f : Slice → Slice) : (s.modSlice n f).ports = s.ports := rfl
@[simp] theorem State.modSlice_gtq (n : Nat) (f : Slice → Slice) : (s.modSlice n f).gtq = s.gtq := rfl
@[simp] theorem State.modSlice_gtqNext (n : Nat) (f : Slice → Slice) : (s.modSlice n f).gtqNext = s.gtqNext := rfl
@[simp] theorem State.modSlice_saved (n : Nat) (f : Slice → Slice) : (s.modSlice n f).saved = s.saved := rfl
@[simp] theorem State.modSlice_invals (n : Nat) (f : Slice → Slice) : (s.modSlice n f).invals = s.invals := rfl
@[simp] theorem State.modSlice_vcps (n : Nat) (f : Slice → Slice) : (s.modSlice n f).vcps = s.vcps := rfl
@[simp] theorem State.modSlice_completions (n : Nat) (f : Slice → Slice) : (s.modSlice n f).completions = s.completions := rfl
@[simp] theorem State.modSlice_irqs (n : Nat) (f : Slice → Slice) : (s.modSlice n f).irqs = s.irqs := rfl
@[simp] theorem State.modSlice_links (n : Nat) (f : Slice → Slice) : (s.modSlice n f).links = s.links := rfl
@[simp] theorem State.modSlice_linkErrors (n : Nat) (f : Slice → Slice) : (s.modSlice n f).linkErrors = s.linkErrors := rfl
@[simp] theorem State.modSlice_unitErrors (n : Nat) (f : Slice → Slice) : (s.modSlice n f).unitErrors = s.unitErrors := rfl
@[simp] theorem State.modSlice_peermap (n : Nat) (f : Slice → Slice) : (s.modSlice n f).peermap = s.peermap := rfl
@[simp] theorem State.modSlice_peerOut (n : Nat) (f : Slice → Slice) : (s.modSlice n f).peerOut = s.peerOut := rfl
@[simp] theorem State.modSlice_peerIn (n : Nat) (f : Slice → Slice) : (s.modSlice n f).peerIn = s.peerIn := rfl
@[simp] theorem State.modSlice_peerSent (n : Nat) (f : Slice → Slice) : (s.modSlice n f).peerSent = s.peerSent := rfl
@[simp] theorem State.modSlice_peerJobs (n : Nat) (f : Slice → Slice) : (s.modSlice n f).peerJobs = s.peerJobs := rfl
@[simp] theorem State.modSlice_deviceIndex (n : Nat) (f : Slice → Slice) : (s.modSlice n f).deviceIndex = s.deviceIndex := rfl
@[simp] theorem State.modSlice_tried (n : Nat) (f : Slice → Slice) : (s.modSlice n f).tried = s.tried := rfl
@[simp] theorem State.modSlice_boot (n : Nat) (f : Slice → Slice) : (s.modSlice n f).boot = s.boot := rfl
@[simp] theorem State.modSlice_mld (n : Nat) (f : Slice → Slice) : (s.modSlice n f).mld = s.mld := rfl
@[simp] theorem State.modSlice_powerHold (n : Nat) (f : Slice → Slice) : (s.modSlice n f).powerHold = s.powerHold := rfl
@[simp] theorem State.modSlice_stopped (n : Nat) (f : Slice → Slice) : (s.modSlice n f).stopped = s.stopped := rfl
@[simp] theorem State.modSlice_recovery (n : Nat) (f : Slice → Slice) : (s.modSlice n f).recovery = s.recovery := rfl
@[simp] theorem State.modSlice_fuses (n : Nat) (f : Slice → Slice) : (s.modSlice n f).fuses = s.fuses := rfl
@[simp] theorem State.modSlice_identity (n : Nat) (f : Slice → Slice) : (s.modSlice n f).identity = s.identity := rfl
@[simp] theorem State.modSlice_measurements (n : Nat) (f : Slice → Slice) : (s.modSlice n f).measurements = s.measurements := rfl
@[simp] theorem State.modSlice_functions (n : Nat) (f : Slice → Slice) : (s.modSlice n f).functions = s.functions := rfl
@[simp] theorem State.modSlice_absent (n : Nat) (f : Slice → Slice) : (s.modSlice n f).absent = s.absent := rfl
@[simp] theorem State.modSlice_events (n : Nat) (f : Slice → Slice) : (s.modSlice n f).events = s.events := rfl
@[simp] theorem State.modSlice_barSize (n : Nat) (f : Slice → Slice) : (s.modSlice n f).barSize = s.barSize := rfl
@[simp] theorem State.modSlice_hostAnswer (n : Nat) (f : Slice → Slice) : (s.modSlice n f).hostAnswer = s.hostAnswer := rfl
@[simp] theorem State.modSlice_layout (n : Nat) (f : Slice → Slice) : (s.modSlice n f).layout = s.layout := rfl
@[simp] theorem State.modSlice_pools (n : Nat) (f : Slice → Slice) : (s.modSlice n f).pools = s.pools := rfl
@[simp] theorem State.modSlice_poolWindows (n : Nat) (f : Slice → Slice) : (s.modSlice n f).poolWindows = s.poolWindows := rfl
@[simp] theorem State.modSlice_migrations (n : Nat) (f : Slice → Slice) : (s.modSlice n f).migrations = s.migrations := rfl
@[simp] theorem State.modSlice_backoffs (n : Nat) (f : Slice → Slice) : (s.modSlice n f).backoffs = s.backoffs := rfl

@[simp] theorem State.modOwner_dtc (n : Nat) (f : Owner → Owner) : (s.modOwner n f).dtc = s.dtc := rfl
@[simp] theorem State.modOwner_agenda (n : Nat) (f : Owner → Owner) : (s.modOwner n f).agenda = s.agenda := rfl
@[simp] theorem State.modOwner_later (n : Nat) (f : Owner → Owner) : (s.modOwner n f).later = s.later := rfl
@[simp] theorem State.modOwner_choice (n : Nat) (f : Owner → Owner) : (s.modOwner n f).choice = s.choice := rfl
@[simp] theorem State.modOwner_slots (n : Nat) (f : Owner → Owner) : (s.modOwner n f).slots = s.slots := rfl
@[simp] theorem State.modOwner_cur (n : Nat) (f : Owner → Owner) : (s.modOwner n f).cur = s.cur := rfl
@[simp] theorem State.modOwner_fresh (n : Nat) (f : Owner → Owner) : (s.modOwner n f).fresh = s.fresh := rfl
@[simp] theorem State.modOwner_nextId (n : Nat) (f : Owner → Owner) : (s.modOwner n f).nextId = s.nextId := rfl
@[simp] theorem State.modOwner_ctxs (n : Nat) (f : Owner → Owner) : (s.modOwner n f).ctxs = s.ctxs := rfl
@[simp] theorem State.modOwner_cores (n : Nat) (f : Owner → Owner) : (s.modOwner n f).cores = s.cores := rfl
@[simp] theorem State.modOwner_clusters (n : Nat) (f : Owner → Owner) : (s.modOwner n f).clusters = s.clusters := rfl
@[simp] theorem State.modOwner_porters (n : Nat) (f : Owner → Owner) : (s.modOwner n f).porters = s.porters := rfl
@[simp] theorem State.modOwner_slices (n : Nat) (f : Owner → Owner) : (s.modOwner n f).slices = s.slices := rfl
@[simp] theorem State.modOwner_dir (n : Nat) (f : Owner → Owner) : (s.modOwner n f).dir = s.dir := rfl
@[simp] theorem State.modOwner_resources (n : Nat) (f : Owner → Owner) : (s.modOwner n f).resources = s.resources := rfl
@[simp] theorem State.modOwner_streams (n : Nat) (f : Owner → Owner) : (s.modOwner n f).streams = s.streams := rfl
@[simp] theorem State.modOwner_mem (n : Nat) (f : Owner → Owner) : (s.modOwner n f).mem = s.mem := rfl
@[simp] theorem State.modOwner_tags (n : Nat) (f : Owner → Owner) : (s.modOwner n f).tags = s.tags := rfl
@[simp] theorem State.modOwner_tagBuf (n : Nat) (f : Owner → Owner) : (s.modOwner n f).tagBuf = s.tagBuf := rfl
@[simp] theorem State.modOwner_fotBase (n : Nat) (f : Owner → Owner) : (s.modOwner n f).fotBase = s.fotBase := rfl
@[simp] theorem State.modOwner_tvecF (n : Nat) (f : Owner → Owner) : (s.modOwner n f).tvecF = s.tvecF := rfl
@[simp] theorem State.modOwner_bins (n : Nat) (f : Owner → Owner) : (s.modOwner n f).bins = s.bins := rfl
@[simp] theorem State.modOwner_launches (n : Nat) (f : Owner → Owner) : (s.modOwner n f).launches = s.launches := rfl
@[simp] theorem State.modOwner_nodes (n : Nat) (f : Owner → Owner) : (s.modOwner n f).nodes = s.nodes := rfl
@[simp] theorem State.modOwner_faults (n : Nat) (f : Owner → Owner) : (s.modOwner n f).faults = s.faults := rfl
@[simp] theorem State.modOwner_copies (n : Nat) (f : Owner → Owner) : (s.modOwner n f).copies = s.copies := rfl
@[simp] theorem State.modOwner_ports (n : Nat) (f : Owner → Owner) : (s.modOwner n f).ports = s.ports := rfl
@[simp] theorem State.modOwner_gtq (n : Nat) (f : Owner → Owner) : (s.modOwner n f).gtq = s.gtq := rfl
@[simp] theorem State.modOwner_gtqNext (n : Nat) (f : Owner → Owner) : (s.modOwner n f).gtqNext = s.gtqNext := rfl
@[simp] theorem State.modOwner_saved (n : Nat) (f : Owner → Owner) : (s.modOwner n f).saved = s.saved := rfl
@[simp] theorem State.modOwner_invals (n : Nat) (f : Owner → Owner) : (s.modOwner n f).invals = s.invals := rfl
@[simp] theorem State.modOwner_vcps (n : Nat) (f : Owner → Owner) : (s.modOwner n f).vcps = s.vcps := rfl
@[simp] theorem State.modOwner_completions (n : Nat) (f : Owner → Owner) : (s.modOwner n f).completions = s.completions := rfl
@[simp] theorem State.modOwner_irqs (n : Nat) (f : Owner → Owner) : (s.modOwner n f).irqs = s.irqs := rfl
@[simp] theorem State.modOwner_links (n : Nat) (f : Owner → Owner) : (s.modOwner n f).links = s.links := rfl
@[simp] theorem State.modOwner_linkErrors (n : Nat) (f : Owner → Owner) : (s.modOwner n f).linkErrors = s.linkErrors := rfl
@[simp] theorem State.modOwner_unitErrors (n : Nat) (f : Owner → Owner) : (s.modOwner n f).unitErrors = s.unitErrors := rfl
@[simp] theorem State.modOwner_peermap (n : Nat) (f : Owner → Owner) : (s.modOwner n f).peermap = s.peermap := rfl
@[simp] theorem State.modOwner_peerOut (n : Nat) (f : Owner → Owner) : (s.modOwner n f).peerOut = s.peerOut := rfl
@[simp] theorem State.modOwner_peerIn (n : Nat) (f : Owner → Owner) : (s.modOwner n f).peerIn = s.peerIn := rfl
@[simp] theorem State.modOwner_peerSent (n : Nat) (f : Owner → Owner) : (s.modOwner n f).peerSent = s.peerSent := rfl
@[simp] theorem State.modOwner_peerJobs (n : Nat) (f : Owner → Owner) : (s.modOwner n f).peerJobs = s.peerJobs := rfl
@[simp] theorem State.modOwner_deviceIndex (n : Nat) (f : Owner → Owner) : (s.modOwner n f).deviceIndex = s.deviceIndex := rfl
@[simp] theorem State.modOwner_tried (n : Nat) (f : Owner → Owner) : (s.modOwner n f).tried = s.tried := rfl
@[simp] theorem State.modOwner_boot (n : Nat) (f : Owner → Owner) : (s.modOwner n f).boot = s.boot := rfl
@[simp] theorem State.modOwner_mld (n : Nat) (f : Owner → Owner) : (s.modOwner n f).mld = s.mld := rfl
@[simp] theorem State.modOwner_powerHold (n : Nat) (f : Owner → Owner) : (s.modOwner n f).powerHold = s.powerHold := rfl
@[simp] theorem State.modOwner_stopped (n : Nat) (f : Owner → Owner) : (s.modOwner n f).stopped = s.stopped := rfl
@[simp] theorem State.modOwner_recovery (n : Nat) (f : Owner → Owner) : (s.modOwner n f).recovery = s.recovery := rfl
@[simp] theorem State.modOwner_fuses (n : Nat) (f : Owner → Owner) : (s.modOwner n f).fuses = s.fuses := rfl
@[simp] theorem State.modOwner_identity (n : Nat) (f : Owner → Owner) : (s.modOwner n f).identity = s.identity := rfl
@[simp] theorem State.modOwner_measurements (n : Nat) (f : Owner → Owner) : (s.modOwner n f).measurements = s.measurements := rfl
@[simp] theorem State.modOwner_functions (n : Nat) (f : Owner → Owner) : (s.modOwner n f).functions = s.functions := rfl
@[simp] theorem State.modOwner_absent (n : Nat) (f : Owner → Owner) : (s.modOwner n f).absent = s.absent := rfl
@[simp] theorem State.modOwner_events (n : Nat) (f : Owner → Owner) : (s.modOwner n f).events = s.events := rfl
@[simp] theorem State.modOwner_barSize (n : Nat) (f : Owner → Owner) : (s.modOwner n f).barSize = s.barSize := rfl
@[simp] theorem State.modOwner_hostAnswer (n : Nat) (f : Owner → Owner) : (s.modOwner n f).hostAnswer = s.hostAnswer := rfl
@[simp] theorem State.modOwner_layout (n : Nat) (f : Owner → Owner) : (s.modOwner n f).layout = s.layout := rfl
@[simp] theorem State.modOwner_pools (n : Nat) (f : Owner → Owner) : (s.modOwner n f).pools = s.pools := rfl
@[simp] theorem State.modOwner_poolWindows (n : Nat) (f : Owner → Owner) : (s.modOwner n f).poolWindows = s.poolWindows := rfl
@[simp] theorem State.modOwner_migrations (n : Nat) (f : Owner → Owner) : (s.modOwner n f).migrations = s.migrations := rfl
@[simp] theorem State.modOwner_backoffs (n : Nat) (f : Owner → Owner) : (s.modOwner n f).backoffs = s.backoffs := rfl

@[simp] theorem State.setDir_dtc (n : Nat) (d : Dir) : (s.setDir n d).dtc = s.dtc := rfl
@[simp] theorem State.setDir_agenda (n : Nat) (d : Dir) : (s.setDir n d).agenda = s.agenda := rfl
@[simp] theorem State.setDir_later (n : Nat) (d : Dir) : (s.setDir n d).later = s.later := rfl
@[simp] theorem State.setDir_choice (n : Nat) (d : Dir) : (s.setDir n d).choice = s.choice := rfl
@[simp] theorem State.setDir_slots (n : Nat) (d : Dir) : (s.setDir n d).slots = s.slots := rfl
@[simp] theorem State.setDir_cur (n : Nat) (d : Dir) : (s.setDir n d).cur = s.cur := rfl
@[simp] theorem State.setDir_fresh (n : Nat) (d : Dir) : (s.setDir n d).fresh = s.fresh := rfl
@[simp] theorem State.setDir_nextId (n : Nat) (d : Dir) : (s.setDir n d).nextId = s.nextId := rfl
@[simp] theorem State.setDir_ctxs (n : Nat) (d : Dir) : (s.setDir n d).ctxs = s.ctxs := rfl
@[simp] theorem State.setDir_cores (n : Nat) (d : Dir) : (s.setDir n d).cores = s.cores := rfl
@[simp] theorem State.setDir_clusters (n : Nat) (d : Dir) : (s.setDir n d).clusters = s.clusters := rfl
@[simp] theorem State.setDir_porters (n : Nat) (d : Dir) : (s.setDir n d).porters = s.porters := rfl
@[simp] theorem State.setDir_slices (n : Nat) (d : Dir) : (s.setDir n d).slices = s.slices := rfl
@[simp] theorem State.setDir_resources (n : Nat) (d : Dir) : (s.setDir n d).resources = s.resources := rfl
@[simp] theorem State.setDir_streams (n : Nat) (d : Dir) : (s.setDir n d).streams = s.streams := rfl
@[simp] theorem State.setDir_mem (n : Nat) (d : Dir) : (s.setDir n d).mem = s.mem := rfl
@[simp] theorem State.setDir_tags (n : Nat) (d : Dir) : (s.setDir n d).tags = s.tags := rfl
@[simp] theorem State.setDir_tagBuf (n : Nat) (d : Dir) : (s.setDir n d).tagBuf = s.tagBuf := rfl
@[simp] theorem State.setDir_fotBase (n : Nat) (d : Dir) : (s.setDir n d).fotBase = s.fotBase := rfl
@[simp] theorem State.setDir_owners (n : Nat) (d : Dir) : (s.setDir n d).owners = s.owners := rfl
@[simp] theorem State.setDir_tvecF (n : Nat) (d : Dir) : (s.setDir n d).tvecF = s.tvecF := rfl
@[simp] theorem State.setDir_bins (n : Nat) (d : Dir) : (s.setDir n d).bins = s.bins := rfl
@[simp] theorem State.setDir_launches (n : Nat) (d : Dir) : (s.setDir n d).launches = s.launches := rfl
@[simp] theorem State.setDir_nodes (n : Nat) (d : Dir) : (s.setDir n d).nodes = s.nodes := rfl
@[simp] theorem State.setDir_faults (n : Nat) (d : Dir) : (s.setDir n d).faults = s.faults := rfl
@[simp] theorem State.setDir_copies (n : Nat) (d : Dir) : (s.setDir n d).copies = s.copies := rfl
@[simp] theorem State.setDir_ports (n : Nat) (d : Dir) : (s.setDir n d).ports = s.ports := rfl
@[simp] theorem State.setDir_gtq (n : Nat) (d : Dir) : (s.setDir n d).gtq = s.gtq := rfl
@[simp] theorem State.setDir_gtqNext (n : Nat) (d : Dir) : (s.setDir n d).gtqNext = s.gtqNext := rfl
@[simp] theorem State.setDir_saved (n : Nat) (d : Dir) : (s.setDir n d).saved = s.saved := rfl
@[simp] theorem State.setDir_invals (n : Nat) (d : Dir) : (s.setDir n d).invals = s.invals := rfl
@[simp] theorem State.setDir_vcps (n : Nat) (d : Dir) : (s.setDir n d).vcps = s.vcps := rfl
@[simp] theorem State.setDir_completions (n : Nat) (d : Dir) : (s.setDir n d).completions = s.completions := rfl
@[simp] theorem State.setDir_irqs (n : Nat) (d : Dir) : (s.setDir n d).irqs = s.irqs := rfl
@[simp] theorem State.setDir_links (n : Nat) (d : Dir) : (s.setDir n d).links = s.links := rfl
@[simp] theorem State.setDir_linkErrors (n : Nat) (d : Dir) : (s.setDir n d).linkErrors = s.linkErrors := rfl
@[simp] theorem State.setDir_unitErrors (n : Nat) (d : Dir) : (s.setDir n d).unitErrors = s.unitErrors := rfl
@[simp] theorem State.setDir_peermap (n : Nat) (d : Dir) : (s.setDir n d).peermap = s.peermap := rfl
@[simp] theorem State.setDir_peerOut (n : Nat) (d : Dir) : (s.setDir n d).peerOut = s.peerOut := rfl
@[simp] theorem State.setDir_peerIn (n : Nat) (d : Dir) : (s.setDir n d).peerIn = s.peerIn := rfl
@[simp] theorem State.setDir_peerSent (n : Nat) (d : Dir) : (s.setDir n d).peerSent = s.peerSent := rfl
@[simp] theorem State.setDir_peerJobs (n : Nat) (d : Dir) : (s.setDir n d).peerJobs = s.peerJobs := rfl
@[simp] theorem State.setDir_deviceIndex (n : Nat) (d : Dir) : (s.setDir n d).deviceIndex = s.deviceIndex := rfl
@[simp] theorem State.setDir_tried (n : Nat) (d : Dir) : (s.setDir n d).tried = s.tried := rfl
@[simp] theorem State.setDir_boot (n : Nat) (d : Dir) : (s.setDir n d).boot = s.boot := rfl
@[simp] theorem State.setDir_mld (n : Nat) (d : Dir) : (s.setDir n d).mld = s.mld := rfl
@[simp] theorem State.setDir_powerHold (n : Nat) (d : Dir) : (s.setDir n d).powerHold = s.powerHold := rfl
@[simp] theorem State.setDir_stopped (n : Nat) (d : Dir) : (s.setDir n d).stopped = s.stopped := rfl
@[simp] theorem State.setDir_recovery (n : Nat) (d : Dir) : (s.setDir n d).recovery = s.recovery := rfl
@[simp] theorem State.setDir_fuses (n : Nat) (d : Dir) : (s.setDir n d).fuses = s.fuses := rfl
@[simp] theorem State.setDir_identity (n : Nat) (d : Dir) : (s.setDir n d).identity = s.identity := rfl
@[simp] theorem State.setDir_measurements (n : Nat) (d : Dir) : (s.setDir n d).measurements = s.measurements := rfl
@[simp] theorem State.setDir_functions (n : Nat) (d : Dir) : (s.setDir n d).functions = s.functions := rfl
@[simp] theorem State.setDir_absent (n : Nat) (d : Dir) : (s.setDir n d).absent = s.absent := rfl
@[simp] theorem State.setDir_events (n : Nat) (d : Dir) : (s.setDir n d).events = s.events := rfl
@[simp] theorem State.setDir_barSize (n : Nat) (d : Dir) : (s.setDir n d).barSize = s.barSize := rfl
@[simp] theorem State.setDir_hostAnswer (n : Nat) (d : Dir) : (s.setDir n d).hostAnswer = s.hostAnswer := rfl
@[simp] theorem State.setDir_layout (n : Nat) (d : Dir) : (s.setDir n d).layout = s.layout := rfl
@[simp] theorem State.setDir_pools (n : Nat) (d : Dir) : (s.setDir n d).pools = s.pools := rfl
@[simp] theorem State.setDir_poolWindows (n : Nat) (d : Dir) : (s.setDir n d).poolWindows = s.poolWindows := rfl
@[simp] theorem State.setDir_migrations (n : Nat) (d : Dir) : (s.setDir n d).migrations = s.migrations := rfl
@[simp] theorem State.setDir_backoffs (n : Nat) (d : Dir) : (s.setDir n d).backoffs = s.backoffs := rfl

@[simp] theorem State.modVcp_dtc (n v : Nat) (f : Vcp → Vcp) : (s.modVcp n v f).dtc = s.dtc := rfl
@[simp] theorem State.modVcp_agenda (n v : Nat) (f : Vcp → Vcp) : (s.modVcp n v f).agenda = s.agenda := rfl
@[simp] theorem State.modVcp_later (n v : Nat) (f : Vcp → Vcp) : (s.modVcp n v f).later = s.later := rfl
@[simp] theorem State.modVcp_choice (n v : Nat) (f : Vcp → Vcp) : (s.modVcp n v f).choice = s.choice := rfl
@[simp] theorem State.modVcp_slots (n v : Nat) (f : Vcp → Vcp) : (s.modVcp n v f).slots = s.slots := rfl
@[simp] theorem State.modVcp_cur (n v : Nat) (f : Vcp → Vcp) : (s.modVcp n v f).cur = s.cur := rfl
@[simp] theorem State.modVcp_fresh (n v : Nat) (f : Vcp → Vcp) : (s.modVcp n v f).fresh = s.fresh := rfl
@[simp] theorem State.modVcp_nextId (n v : Nat) (f : Vcp → Vcp) : (s.modVcp n v f).nextId = s.nextId := rfl
@[simp] theorem State.modVcp_ctxs (n v : Nat) (f : Vcp → Vcp) : (s.modVcp n v f).ctxs = s.ctxs := rfl
@[simp] theorem State.modVcp_cores (n v : Nat) (f : Vcp → Vcp) : (s.modVcp n v f).cores = s.cores := rfl
@[simp] theorem State.modVcp_clusters (n v : Nat) (f : Vcp → Vcp) : (s.modVcp n v f).clusters = s.clusters := rfl
@[simp] theorem State.modVcp_porters (n v : Nat) (f : Vcp → Vcp) : (s.modVcp n v f).porters = s.porters := rfl
@[simp] theorem State.modVcp_slices (n v : Nat) (f : Vcp → Vcp) : (s.modVcp n v f).slices = s.slices := rfl
@[simp] theorem State.modVcp_dir (n v : Nat) (f : Vcp → Vcp) : (s.modVcp n v f).dir = s.dir := rfl
@[simp] theorem State.modVcp_resources (n v : Nat) (f : Vcp → Vcp) : (s.modVcp n v f).resources = s.resources := rfl
@[simp] theorem State.modVcp_streams (n v : Nat) (f : Vcp → Vcp) : (s.modVcp n v f).streams = s.streams := rfl
@[simp] theorem State.modVcp_mem (n v : Nat) (f : Vcp → Vcp) : (s.modVcp n v f).mem = s.mem := rfl
@[simp] theorem State.modVcp_tags (n v : Nat) (f : Vcp → Vcp) : (s.modVcp n v f).tags = s.tags := rfl
@[simp] theorem State.modVcp_tagBuf (n v : Nat) (f : Vcp → Vcp) : (s.modVcp n v f).tagBuf = s.tagBuf := rfl
@[simp] theorem State.modVcp_fotBase (n v : Nat) (f : Vcp → Vcp) : (s.modVcp n v f).fotBase = s.fotBase := rfl
@[simp] theorem State.modVcp_owners (n v : Nat) (f : Vcp → Vcp) : (s.modVcp n v f).owners = s.owners := rfl
@[simp] theorem State.modVcp_tvecF (n v : Nat) (f : Vcp → Vcp) : (s.modVcp n v f).tvecF = s.tvecF := rfl
@[simp] theorem State.modVcp_bins (n v : Nat) (f : Vcp → Vcp) : (s.modVcp n v f).bins = s.bins := rfl
@[simp] theorem State.modVcp_launches (n v : Nat) (f : Vcp → Vcp) : (s.modVcp n v f).launches = s.launches := rfl
@[simp] theorem State.modVcp_nodes (n v : Nat) (f : Vcp → Vcp) : (s.modVcp n v f).nodes = s.nodes := rfl
@[simp] theorem State.modVcp_faults (n v : Nat) (f : Vcp → Vcp) : (s.modVcp n v f).faults = s.faults := rfl
@[simp] theorem State.modVcp_copies (n v : Nat) (f : Vcp → Vcp) : (s.modVcp n v f).copies = s.copies := rfl
@[simp] theorem State.modVcp_ports (n v : Nat) (f : Vcp → Vcp) : (s.modVcp n v f).ports = s.ports := rfl
@[simp] theorem State.modVcp_gtq (n v : Nat) (f : Vcp → Vcp) : (s.modVcp n v f).gtq = s.gtq := rfl
@[simp] theorem State.modVcp_gtqNext (n v : Nat) (f : Vcp → Vcp) : (s.modVcp n v f).gtqNext = s.gtqNext := rfl
@[simp] theorem State.modVcp_saved (n v : Nat) (f : Vcp → Vcp) : (s.modVcp n v f).saved = s.saved := rfl
@[simp] theorem State.modVcp_invals (n v : Nat) (f : Vcp → Vcp) : (s.modVcp n v f).invals = s.invals := rfl
@[simp] theorem State.modVcp_completions (n v : Nat) (f : Vcp → Vcp) : (s.modVcp n v f).completions = s.completions := rfl
@[simp] theorem State.modVcp_irqs (n v : Nat) (f : Vcp → Vcp) : (s.modVcp n v f).irqs = s.irqs := rfl
@[simp] theorem State.modVcp_links (n v : Nat) (f : Vcp → Vcp) : (s.modVcp n v f).links = s.links := rfl
@[simp] theorem State.modVcp_linkErrors (n v : Nat) (f : Vcp → Vcp) : (s.modVcp n v f).linkErrors = s.linkErrors := rfl
@[simp] theorem State.modVcp_unitErrors (n v : Nat) (f : Vcp → Vcp) : (s.modVcp n v f).unitErrors = s.unitErrors := rfl
@[simp] theorem State.modVcp_peermap (n v : Nat) (f : Vcp → Vcp) : (s.modVcp n v f).peermap = s.peermap := rfl
@[simp] theorem State.modVcp_peerOut (n v : Nat) (f : Vcp → Vcp) : (s.modVcp n v f).peerOut = s.peerOut := rfl
@[simp] theorem State.modVcp_peerIn (n v : Nat) (f : Vcp → Vcp) : (s.modVcp n v f).peerIn = s.peerIn := rfl
@[simp] theorem State.modVcp_peerSent (n v : Nat) (f : Vcp → Vcp) : (s.modVcp n v f).peerSent = s.peerSent := rfl
@[simp] theorem State.modVcp_peerJobs (n v : Nat) (f : Vcp → Vcp) : (s.modVcp n v f).peerJobs = s.peerJobs := rfl
@[simp] theorem State.modVcp_deviceIndex (n v : Nat) (f : Vcp → Vcp) : (s.modVcp n v f).deviceIndex = s.deviceIndex := rfl
@[simp] theorem State.modVcp_tried (n v : Nat) (f : Vcp → Vcp) : (s.modVcp n v f).tried = s.tried := rfl
@[simp] theorem State.modVcp_boot (n v : Nat) (f : Vcp → Vcp) : (s.modVcp n v f).boot = s.boot := rfl
@[simp] theorem State.modVcp_mld (n v : Nat) (f : Vcp → Vcp) : (s.modVcp n v f).mld = s.mld := rfl
@[simp] theorem State.modVcp_powerHold (n v : Nat) (f : Vcp → Vcp) : (s.modVcp n v f).powerHold = s.powerHold := rfl
@[simp] theorem State.modVcp_stopped (n v : Nat) (f : Vcp → Vcp) : (s.modVcp n v f).stopped = s.stopped := rfl
@[simp] theorem State.modVcp_recovery (n v : Nat) (f : Vcp → Vcp) : (s.modVcp n v f).recovery = s.recovery := rfl
@[simp] theorem State.modVcp_fuses (n v : Nat) (f : Vcp → Vcp) : (s.modVcp n v f).fuses = s.fuses := rfl
@[simp] theorem State.modVcp_identity (n v : Nat) (f : Vcp → Vcp) : (s.modVcp n v f).identity = s.identity := rfl
@[simp] theorem State.modVcp_measurements (n v : Nat) (f : Vcp → Vcp) : (s.modVcp n v f).measurements = s.measurements := rfl
@[simp] theorem State.modVcp_functions (n v : Nat) (f : Vcp → Vcp) : (s.modVcp n v f).functions = s.functions := rfl
@[simp] theorem State.modVcp_absent (n v : Nat) (f : Vcp → Vcp) : (s.modVcp n v f).absent = s.absent := rfl
@[simp] theorem State.modVcp_events (n v : Nat) (f : Vcp → Vcp) : (s.modVcp n v f).events = s.events := rfl
@[simp] theorem State.modVcp_barSize (n v : Nat) (f : Vcp → Vcp) : (s.modVcp n v f).barSize = s.barSize := rfl
@[simp] theorem State.modVcp_hostAnswer (n v : Nat) (f : Vcp → Vcp) : (s.modVcp n v f).hostAnswer = s.hostAnswer := rfl
@[simp] theorem State.modVcp_layout (n v : Nat) (f : Vcp → Vcp) : (s.modVcp n v f).layout = s.layout := rfl
@[simp] theorem State.modVcp_pools (n v : Nat) (f : Vcp → Vcp) : (s.modVcp n v f).pools = s.pools := rfl
@[simp] theorem State.modVcp_poolWindows (n v : Nat) (f : Vcp → Vcp) : (s.modVcp n v f).poolWindows = s.poolWindows := rfl
@[simp] theorem State.modVcp_migrations (n v : Nat) (f : Vcp → Vcp) : (s.modVcp n v f).migrations = s.migrations := rfl
@[simp] theorem State.modVcp_backoffs (n v : Nat) (f : Vcp → Vcp) : (s.modVcp n v f).backoffs = s.backoffs := rfl

@[simp] theorem State.modPool_dtc (n : Nat) (f : Pool → Pool) : (s.modPool n f).dtc = s.dtc := rfl
@[simp] theorem State.modPool_agenda (n : Nat) (f : Pool → Pool) : (s.modPool n f).agenda = s.agenda := rfl
@[simp] theorem State.modPool_later (n : Nat) (f : Pool → Pool) : (s.modPool n f).later = s.later := rfl
@[simp] theorem State.modPool_choice (n : Nat) (f : Pool → Pool) : (s.modPool n f).choice = s.choice := rfl
@[simp] theorem State.modPool_slots (n : Nat) (f : Pool → Pool) : (s.modPool n f).slots = s.slots := rfl
@[simp] theorem State.modPool_cur (n : Nat) (f : Pool → Pool) : (s.modPool n f).cur = s.cur := rfl
@[simp] theorem State.modPool_fresh (n : Nat) (f : Pool → Pool) : (s.modPool n f).fresh = s.fresh := rfl
@[simp] theorem State.modPool_nextId (n : Nat) (f : Pool → Pool) : (s.modPool n f).nextId = s.nextId := rfl
@[simp] theorem State.modPool_ctxs (n : Nat) (f : Pool → Pool) : (s.modPool n f).ctxs = s.ctxs := rfl
@[simp] theorem State.modPool_cores (n : Nat) (f : Pool → Pool) : (s.modPool n f).cores = s.cores := rfl
@[simp] theorem State.modPool_clusters (n : Nat) (f : Pool → Pool) : (s.modPool n f).clusters = s.clusters := rfl
@[simp] theorem State.modPool_porters (n : Nat) (f : Pool → Pool) : (s.modPool n f).porters = s.porters := rfl
@[simp] theorem State.modPool_slices (n : Nat) (f : Pool → Pool) : (s.modPool n f).slices = s.slices := rfl
@[simp] theorem State.modPool_dir (n : Nat) (f : Pool → Pool) : (s.modPool n f).dir = s.dir := rfl
@[simp] theorem State.modPool_resources (n : Nat) (f : Pool → Pool) : (s.modPool n f).resources = s.resources := rfl
@[simp] theorem State.modPool_streams (n : Nat) (f : Pool → Pool) : (s.modPool n f).streams = s.streams := rfl
@[simp] theorem State.modPool_mem (n : Nat) (f : Pool → Pool) : (s.modPool n f).mem = s.mem := rfl
@[simp] theorem State.modPool_tags (n : Nat) (f : Pool → Pool) : (s.modPool n f).tags = s.tags := rfl
@[simp] theorem State.modPool_tagBuf (n : Nat) (f : Pool → Pool) : (s.modPool n f).tagBuf = s.tagBuf := rfl
@[simp] theorem State.modPool_fotBase (n : Nat) (f : Pool → Pool) : (s.modPool n f).fotBase = s.fotBase := rfl
@[simp] theorem State.modPool_owners (n : Nat) (f : Pool → Pool) : (s.modPool n f).owners = s.owners := rfl
@[simp] theorem State.modPool_tvecF (n : Nat) (f : Pool → Pool) : (s.modPool n f).tvecF = s.tvecF := rfl
@[simp] theorem State.modPool_bins (n : Nat) (f : Pool → Pool) : (s.modPool n f).bins = s.bins := rfl
@[simp] theorem State.modPool_launches (n : Nat) (f : Pool → Pool) : (s.modPool n f).launches = s.launches := rfl
@[simp] theorem State.modPool_nodes (n : Nat) (f : Pool → Pool) : (s.modPool n f).nodes = s.nodes := rfl
@[simp] theorem State.modPool_faults (n : Nat) (f : Pool → Pool) : (s.modPool n f).faults = s.faults := rfl
@[simp] theorem State.modPool_copies (n : Nat) (f : Pool → Pool) : (s.modPool n f).copies = s.copies := rfl
@[simp] theorem State.modPool_ports (n : Nat) (f : Pool → Pool) : (s.modPool n f).ports = s.ports := rfl
@[simp] theorem State.modPool_gtq (n : Nat) (f : Pool → Pool) : (s.modPool n f).gtq = s.gtq := rfl
@[simp] theorem State.modPool_gtqNext (n : Nat) (f : Pool → Pool) : (s.modPool n f).gtqNext = s.gtqNext := rfl
@[simp] theorem State.modPool_saved (n : Nat) (f : Pool → Pool) : (s.modPool n f).saved = s.saved := rfl
@[simp] theorem State.modPool_invals (n : Nat) (f : Pool → Pool) : (s.modPool n f).invals = s.invals := rfl
@[simp] theorem State.modPool_vcps (n : Nat) (f : Pool → Pool) : (s.modPool n f).vcps = s.vcps := rfl
@[simp] theorem State.modPool_completions (n : Nat) (f : Pool → Pool) : (s.modPool n f).completions = s.completions := rfl
@[simp] theorem State.modPool_irqs (n : Nat) (f : Pool → Pool) : (s.modPool n f).irqs = s.irqs := rfl
@[simp] theorem State.modPool_links (n : Nat) (f : Pool → Pool) : (s.modPool n f).links = s.links := rfl
@[simp] theorem State.modPool_linkErrors (n : Nat) (f : Pool → Pool) : (s.modPool n f).linkErrors = s.linkErrors := rfl
@[simp] theorem State.modPool_unitErrors (n : Nat) (f : Pool → Pool) : (s.modPool n f).unitErrors = s.unitErrors := rfl
@[simp] theorem State.modPool_peermap (n : Nat) (f : Pool → Pool) : (s.modPool n f).peermap = s.peermap := rfl
@[simp] theorem State.modPool_peerOut (n : Nat) (f : Pool → Pool) : (s.modPool n f).peerOut = s.peerOut := rfl
@[simp] theorem State.modPool_peerIn (n : Nat) (f : Pool → Pool) : (s.modPool n f).peerIn = s.peerIn := rfl
@[simp] theorem State.modPool_peerSent (n : Nat) (f : Pool → Pool) : (s.modPool n f).peerSent = s.peerSent := rfl
@[simp] theorem State.modPool_peerJobs (n : Nat) (f : Pool → Pool) : (s.modPool n f).peerJobs = s.peerJobs := rfl
@[simp] theorem State.modPool_deviceIndex (n : Nat) (f : Pool → Pool) : (s.modPool n f).deviceIndex = s.deviceIndex := rfl
@[simp] theorem State.modPool_tried (n : Nat) (f : Pool → Pool) : (s.modPool n f).tried = s.tried := rfl
@[simp] theorem State.modPool_boot (n : Nat) (f : Pool → Pool) : (s.modPool n f).boot = s.boot := rfl
@[simp] theorem State.modPool_mld (n : Nat) (f : Pool → Pool) : (s.modPool n f).mld = s.mld := rfl
@[simp] theorem State.modPool_powerHold (n : Nat) (f : Pool → Pool) : (s.modPool n f).powerHold = s.powerHold := rfl
@[simp] theorem State.modPool_stopped (n : Nat) (f : Pool → Pool) : (s.modPool n f).stopped = s.stopped := rfl
@[simp] theorem State.modPool_recovery (n : Nat) (f : Pool → Pool) : (s.modPool n f).recovery = s.recovery := rfl
@[simp] theorem State.modPool_fuses (n : Nat) (f : Pool → Pool) : (s.modPool n f).fuses = s.fuses := rfl
@[simp] theorem State.modPool_identity (n : Nat) (f : Pool → Pool) : (s.modPool n f).identity = s.identity := rfl
@[simp] theorem State.modPool_measurements (n : Nat) (f : Pool → Pool) : (s.modPool n f).measurements = s.measurements := rfl
@[simp] theorem State.modPool_functions (n : Nat) (f : Pool → Pool) : (s.modPool n f).functions = s.functions := rfl
@[simp] theorem State.modPool_absent (n : Nat) (f : Pool → Pool) : (s.modPool n f).absent = s.absent := rfl
@[simp] theorem State.modPool_events (n : Nat) (f : Pool → Pool) : (s.modPool n f).events = s.events := rfl
@[simp] theorem State.modPool_barSize (n : Nat) (f : Pool → Pool) : (s.modPool n f).barSize = s.barSize := rfl
@[simp] theorem State.modPool_hostAnswer (n : Nat) (f : Pool → Pool) : (s.modPool n f).hostAnswer = s.hostAnswer := rfl
@[simp] theorem State.modPool_layout (n : Nat) (f : Pool → Pool) : (s.modPool n f).layout = s.layout := rfl
@[simp] theorem State.modPool_poolWindows (n : Nat) (f : Pool → Pool) : (s.modPool n f).poolWindows = s.poolWindows := rfl
@[simp] theorem State.modPool_migrations (n : Nat) (f : Pool → Pool) : (s.modPool n f).migrations = s.migrations := rfl
@[simp] theorem State.modPool_backoffs (n : Nat) (f : Pool → Pool) : (s.modPool n f).backoffs = s.backoffs := rfl

@[simp] theorem State.setTag_dtc (n : Nat) (t : Tag) : (s.setTag n t).dtc = s.dtc := rfl
@[simp] theorem State.setTag_agenda (n : Nat) (t : Tag) : (s.setTag n t).agenda = s.agenda := rfl
@[simp] theorem State.setTag_later (n : Nat) (t : Tag) : (s.setTag n t).later = s.later := rfl
@[simp] theorem State.setTag_choice (n : Nat) (t : Tag) : (s.setTag n t).choice = s.choice := rfl
@[simp] theorem State.setTag_slots (n : Nat) (t : Tag) : (s.setTag n t).slots = s.slots := rfl
@[simp] theorem State.setTag_cur (n : Nat) (t : Tag) : (s.setTag n t).cur = s.cur := rfl
@[simp] theorem State.setTag_fresh (n : Nat) (t : Tag) : (s.setTag n t).fresh = s.fresh := rfl
@[simp] theorem State.setTag_nextId (n : Nat) (t : Tag) : (s.setTag n t).nextId = s.nextId := rfl
@[simp] theorem State.setTag_ctxs (n : Nat) (t : Tag) : (s.setTag n t).ctxs = s.ctxs := rfl
@[simp] theorem State.setTag_cores (n : Nat) (t : Tag) : (s.setTag n t).cores = s.cores := rfl
@[simp] theorem State.setTag_clusters (n : Nat) (t : Tag) : (s.setTag n t).clusters = s.clusters := rfl
@[simp] theorem State.setTag_porters (n : Nat) (t : Tag) : (s.setTag n t).porters = s.porters := rfl
@[simp] theorem State.setTag_slices (n : Nat) (t : Tag) : (s.setTag n t).slices = s.slices := rfl
@[simp] theorem State.setTag_dir (n : Nat) (t : Tag) : (s.setTag n t).dir = s.dir := rfl
@[simp] theorem State.setTag_resources (n : Nat) (t : Tag) : (s.setTag n t).resources = s.resources := rfl
@[simp] theorem State.setTag_streams (n : Nat) (t : Tag) : (s.setTag n t).streams = s.streams := rfl
@[simp] theorem State.setTag_mem (n : Nat) (t : Tag) : (s.setTag n t).mem = s.mem := rfl
@[simp] theorem State.setTag_tagBuf (n : Nat) (t : Tag) : (s.setTag n t).tagBuf = s.tagBuf := rfl
@[simp] theorem State.setTag_fotBase (n : Nat) (t : Tag) : (s.setTag n t).fotBase = s.fotBase := rfl
@[simp] theorem State.setTag_owners (n : Nat) (t : Tag) : (s.setTag n t).owners = s.owners := rfl
@[simp] theorem State.setTag_tvecF (n : Nat) (t : Tag) : (s.setTag n t).tvecF = s.tvecF := rfl
@[simp] theorem State.setTag_bins (n : Nat) (t : Tag) : (s.setTag n t).bins = s.bins := rfl
@[simp] theorem State.setTag_launches (n : Nat) (t : Tag) : (s.setTag n t).launches = s.launches := rfl
@[simp] theorem State.setTag_nodes (n : Nat) (t : Tag) : (s.setTag n t).nodes = s.nodes := rfl
@[simp] theorem State.setTag_faults (n : Nat) (t : Tag) : (s.setTag n t).faults = s.faults := rfl
@[simp] theorem State.setTag_copies (n : Nat) (t : Tag) : (s.setTag n t).copies = s.copies := rfl
@[simp] theorem State.setTag_ports (n : Nat) (t : Tag) : (s.setTag n t).ports = s.ports := rfl
@[simp] theorem State.setTag_gtq (n : Nat) (t : Tag) : (s.setTag n t).gtq = s.gtq := rfl
@[simp] theorem State.setTag_gtqNext (n : Nat) (t : Tag) : (s.setTag n t).gtqNext = s.gtqNext := rfl
@[simp] theorem State.setTag_saved (n : Nat) (t : Tag) : (s.setTag n t).saved = s.saved := rfl
@[simp] theorem State.setTag_invals (n : Nat) (t : Tag) : (s.setTag n t).invals = s.invals := rfl
@[simp] theorem State.setTag_vcps (n : Nat) (t : Tag) : (s.setTag n t).vcps = s.vcps := rfl
@[simp] theorem State.setTag_completions (n : Nat) (t : Tag) : (s.setTag n t).completions = s.completions := rfl
@[simp] theorem State.setTag_irqs (n : Nat) (t : Tag) : (s.setTag n t).irqs = s.irqs := rfl
@[simp] theorem State.setTag_links (n : Nat) (t : Tag) : (s.setTag n t).links = s.links := rfl
@[simp] theorem State.setTag_linkErrors (n : Nat) (t : Tag) : (s.setTag n t).linkErrors = s.linkErrors := rfl
@[simp] theorem State.setTag_unitErrors (n : Nat) (t : Tag) : (s.setTag n t).unitErrors = s.unitErrors := rfl
@[simp] theorem State.setTag_peermap (n : Nat) (t : Tag) : (s.setTag n t).peermap = s.peermap := rfl
@[simp] theorem State.setTag_peerOut (n : Nat) (t : Tag) : (s.setTag n t).peerOut = s.peerOut := rfl
@[simp] theorem State.setTag_peerIn (n : Nat) (t : Tag) : (s.setTag n t).peerIn = s.peerIn := rfl
@[simp] theorem State.setTag_peerSent (n : Nat) (t : Tag) : (s.setTag n t).peerSent = s.peerSent := rfl
@[simp] theorem State.setTag_peerJobs (n : Nat) (t : Tag) : (s.setTag n t).peerJobs = s.peerJobs := rfl
@[simp] theorem State.setTag_deviceIndex (n : Nat) (t : Tag) : (s.setTag n t).deviceIndex = s.deviceIndex := rfl
@[simp] theorem State.setTag_tried (n : Nat) (t : Tag) : (s.setTag n t).tried = s.tried := rfl
@[simp] theorem State.setTag_boot (n : Nat) (t : Tag) : (s.setTag n t).boot = s.boot := rfl
@[simp] theorem State.setTag_mld (n : Nat) (t : Tag) : (s.setTag n t).mld = s.mld := rfl
@[simp] theorem State.setTag_powerHold (n : Nat) (t : Tag) : (s.setTag n t).powerHold = s.powerHold := rfl
@[simp] theorem State.setTag_stopped (n : Nat) (t : Tag) : (s.setTag n t).stopped = s.stopped := rfl
@[simp] theorem State.setTag_recovery (n : Nat) (t : Tag) : (s.setTag n t).recovery = s.recovery := rfl
@[simp] theorem State.setTag_fuses (n : Nat) (t : Tag) : (s.setTag n t).fuses = s.fuses := rfl
@[simp] theorem State.setTag_identity (n : Nat) (t : Tag) : (s.setTag n t).identity = s.identity := rfl
@[simp] theorem State.setTag_measurements (n : Nat) (t : Tag) : (s.setTag n t).measurements = s.measurements := rfl
@[simp] theorem State.setTag_functions (n : Nat) (t : Tag) : (s.setTag n t).functions = s.functions := rfl
@[simp] theorem State.setTag_absent (n : Nat) (t : Tag) : (s.setTag n t).absent = s.absent := rfl
@[simp] theorem State.setTag_events (n : Nat) (t : Tag) : (s.setTag n t).events = s.events := rfl
@[simp] theorem State.setTag_barSize (n : Nat) (t : Tag) : (s.setTag n t).barSize = s.barSize := rfl
@[simp] theorem State.setTag_hostAnswer (n : Nat) (t : Tag) : (s.setTag n t).hostAnswer = s.hostAnswer := rfl
@[simp] theorem State.setTag_layout (n : Nat) (t : Tag) : (s.setTag n t).layout = s.layout := rfl
@[simp] theorem State.setTag_pools (n : Nat) (t : Tag) : (s.setTag n t).pools = s.pools := rfl
@[simp] theorem State.setTag_poolWindows (n : Nat) (t : Tag) : (s.setTag n t).poolWindows = s.poolWindows := rfl
@[simp] theorem State.setTag_migrations (n : Nat) (t : Tag) : (s.setTag n t).migrations = s.migrations := rfl
@[simp] theorem State.setTag_backoffs (n : Nat) (t : Tag) : (s.setTag n t).backoffs = s.backoffs := rfl

@[simp] theorem State.post_dtc (l : List Instr) : (s.post l).dtc = s.dtc := rfl
@[simp] theorem State.post_later (l : List Instr) : (s.post l).later = s.later := rfl
@[simp] theorem State.post_choice (l : List Instr) : (s.post l).choice = s.choice := rfl
@[simp] theorem State.post_slots (l : List Instr) : (s.post l).slots = s.slots := rfl
@[simp] theorem State.post_cur (l : List Instr) : (s.post l).cur = s.cur := rfl
@[simp] theorem State.post_fresh (l : List Instr) : (s.post l).fresh = s.fresh := rfl
@[simp] theorem State.post_nextId (l : List Instr) : (s.post l).nextId = s.nextId := rfl
@[simp] theorem State.post_ctxs (l : List Instr) : (s.post l).ctxs = s.ctxs := rfl
@[simp] theorem State.post_cores (l : List Instr) : (s.post l).cores = s.cores := rfl
@[simp] theorem State.post_clusters (l : List Instr) : (s.post l).clusters = s.clusters := rfl
@[simp] theorem State.post_porters (l : List Instr) : (s.post l).porters = s.porters := rfl
@[simp] theorem State.post_slices (l : List Instr) : (s.post l).slices = s.slices := rfl
@[simp] theorem State.post_dir (l : List Instr) : (s.post l).dir = s.dir := rfl
@[simp] theorem State.post_resources (l : List Instr) : (s.post l).resources = s.resources := rfl
@[simp] theorem State.post_streams (l : List Instr) : (s.post l).streams = s.streams := rfl
@[simp] theorem State.post_mem (l : List Instr) : (s.post l).mem = s.mem := rfl
@[simp] theorem State.post_tags (l : List Instr) : (s.post l).tags = s.tags := rfl
@[simp] theorem State.post_tagBuf (l : List Instr) : (s.post l).tagBuf = s.tagBuf := rfl
@[simp] theorem State.post_fotBase (l : List Instr) : (s.post l).fotBase = s.fotBase := rfl
@[simp] theorem State.post_owners (l : List Instr) : (s.post l).owners = s.owners := rfl
@[simp] theorem State.post_tvecF (l : List Instr) : (s.post l).tvecF = s.tvecF := rfl
@[simp] theorem State.post_bins (l : List Instr) : (s.post l).bins = s.bins := rfl
@[simp] theorem State.post_launches (l : List Instr) : (s.post l).launches = s.launches := rfl
@[simp] theorem State.post_nodes (l : List Instr) : (s.post l).nodes = s.nodes := rfl
@[simp] theorem State.post_faults (l : List Instr) : (s.post l).faults = s.faults := rfl
@[simp] theorem State.post_copies (l : List Instr) : (s.post l).copies = s.copies := rfl
@[simp] theorem State.post_ports (l : List Instr) : (s.post l).ports = s.ports := rfl
@[simp] theorem State.post_gtq (l : List Instr) : (s.post l).gtq = s.gtq := rfl
@[simp] theorem State.post_gtqNext (l : List Instr) : (s.post l).gtqNext = s.gtqNext := rfl
@[simp] theorem State.post_saved (l : List Instr) : (s.post l).saved = s.saved := rfl
@[simp] theorem State.post_invals (l : List Instr) : (s.post l).invals = s.invals := rfl
@[simp] theorem State.post_vcps (l : List Instr) : (s.post l).vcps = s.vcps := rfl
@[simp] theorem State.post_completions (l : List Instr) : (s.post l).completions = s.completions := rfl
@[simp] theorem State.post_irqs (l : List Instr) : (s.post l).irqs = s.irqs := rfl
@[simp] theorem State.post_links (l : List Instr) : (s.post l).links = s.links := rfl
@[simp] theorem State.post_linkErrors (l : List Instr) : (s.post l).linkErrors = s.linkErrors := rfl
@[simp] theorem State.post_unitErrors (l : List Instr) : (s.post l).unitErrors = s.unitErrors := rfl
@[simp] theorem State.post_peermap (l : List Instr) : (s.post l).peermap = s.peermap := rfl
@[simp] theorem State.post_peerOut (l : List Instr) : (s.post l).peerOut = s.peerOut := rfl
@[simp] theorem State.post_peerIn (l : List Instr) : (s.post l).peerIn = s.peerIn := rfl
@[simp] theorem State.post_peerSent (l : List Instr) : (s.post l).peerSent = s.peerSent := rfl
@[simp] theorem State.post_peerJobs (l : List Instr) : (s.post l).peerJobs = s.peerJobs := rfl
@[simp] theorem State.post_deviceIndex (l : List Instr) : (s.post l).deviceIndex = s.deviceIndex := rfl
@[simp] theorem State.post_tried (l : List Instr) : (s.post l).tried = s.tried := rfl
@[simp] theorem State.post_boot (l : List Instr) : (s.post l).boot = s.boot := rfl
@[simp] theorem State.post_mld (l : List Instr) : (s.post l).mld = s.mld := rfl
@[simp] theorem State.post_powerHold (l : List Instr) : (s.post l).powerHold = s.powerHold := rfl
@[simp] theorem State.post_stopped (l : List Instr) : (s.post l).stopped = s.stopped := rfl
@[simp] theorem State.post_recovery (l : List Instr) : (s.post l).recovery = s.recovery := rfl
@[simp] theorem State.post_fuses (l : List Instr) : (s.post l).fuses = s.fuses := rfl
@[simp] theorem State.post_identity (l : List Instr) : (s.post l).identity = s.identity := rfl
@[simp] theorem State.post_measurements (l : List Instr) : (s.post l).measurements = s.measurements := rfl
@[simp] theorem State.post_functions (l : List Instr) : (s.post l).functions = s.functions := rfl
@[simp] theorem State.post_absent (l : List Instr) : (s.post l).absent = s.absent := rfl
@[simp] theorem State.post_events (l : List Instr) : (s.post l).events = s.events := rfl
@[simp] theorem State.post_barSize (l : List Instr) : (s.post l).barSize = s.barSize := rfl
@[simp] theorem State.post_hostAnswer (l : List Instr) : (s.post l).hostAnswer = s.hostAnswer := rfl
@[simp] theorem State.post_layout (l : List Instr) : (s.post l).layout = s.layout := rfl
@[simp] theorem State.post_pools (l : List Instr) : (s.post l).pools = s.pools := rfl
@[simp] theorem State.post_poolWindows (l : List Instr) : (s.post l).poolWindows = s.poolWindows := rfl
@[simp] theorem State.post_migrations (l : List Instr) : (s.post l).migrations = s.migrations := rfl
@[simp] theorem State.post_backoffs (l : List Instr) : (s.post l).backoffs = s.backoffs := rfl

@[simp] theorem State.postLater_dtc (l : List Instr) : (s.postLater l).dtc = s.dtc := rfl
@[simp] theorem State.postLater_agenda (l : List Instr) : (s.postLater l).agenda = s.agenda := rfl
@[simp] theorem State.postLater_choice (l : List Instr) : (s.postLater l).choice = s.choice := rfl
@[simp] theorem State.postLater_slots (l : List Instr) : (s.postLater l).slots = s.slots := rfl
@[simp] theorem State.postLater_cur (l : List Instr) : (s.postLater l).cur = s.cur := rfl
@[simp] theorem State.postLater_fresh (l : List Instr) : (s.postLater l).fresh = s.fresh := rfl
@[simp] theorem State.postLater_nextId (l : List Instr) : (s.postLater l).nextId = s.nextId := rfl
@[simp] theorem State.postLater_ctxs (l : List Instr) : (s.postLater l).ctxs = s.ctxs := rfl
@[simp] theorem State.postLater_cores (l : List Instr) : (s.postLater l).cores = s.cores := rfl
@[simp] theorem State.postLater_clusters (l : List Instr) : (s.postLater l).clusters = s.clusters := rfl
@[simp] theorem State.postLater_porters (l : List Instr) : (s.postLater l).porters = s.porters := rfl
@[simp] theorem State.postLater_slices (l : List Instr) : (s.postLater l).slices = s.slices := rfl
@[simp] theorem State.postLater_dir (l : List Instr) : (s.postLater l).dir = s.dir := rfl
@[simp] theorem State.postLater_resources (l : List Instr) : (s.postLater l).resources = s.resources := rfl
@[simp] theorem State.postLater_streams (l : List Instr) : (s.postLater l).streams = s.streams := rfl
@[simp] theorem State.postLater_mem (l : List Instr) : (s.postLater l).mem = s.mem := rfl
@[simp] theorem State.postLater_tags (l : List Instr) : (s.postLater l).tags = s.tags := rfl
@[simp] theorem State.postLater_tagBuf (l : List Instr) : (s.postLater l).tagBuf = s.tagBuf := rfl
@[simp] theorem State.postLater_fotBase (l : List Instr) : (s.postLater l).fotBase = s.fotBase := rfl
@[simp] theorem State.postLater_owners (l : List Instr) : (s.postLater l).owners = s.owners := rfl
@[simp] theorem State.postLater_tvecF (l : List Instr) : (s.postLater l).tvecF = s.tvecF := rfl
@[simp] theorem State.postLater_bins (l : List Instr) : (s.postLater l).bins = s.bins := rfl
@[simp] theorem State.postLater_launches (l : List Instr) : (s.postLater l).launches = s.launches := rfl
@[simp] theorem State.postLater_nodes (l : List Instr) : (s.postLater l).nodes = s.nodes := rfl
@[simp] theorem State.postLater_faults (l : List Instr) : (s.postLater l).faults = s.faults := rfl
@[simp] theorem State.postLater_copies (l : List Instr) : (s.postLater l).copies = s.copies := rfl
@[simp] theorem State.postLater_ports (l : List Instr) : (s.postLater l).ports = s.ports := rfl
@[simp] theorem State.postLater_gtq (l : List Instr) : (s.postLater l).gtq = s.gtq := rfl
@[simp] theorem State.postLater_gtqNext (l : List Instr) : (s.postLater l).gtqNext = s.gtqNext := rfl
@[simp] theorem State.postLater_saved (l : List Instr) : (s.postLater l).saved = s.saved := rfl
@[simp] theorem State.postLater_invals (l : List Instr) : (s.postLater l).invals = s.invals := rfl
@[simp] theorem State.postLater_vcps (l : List Instr) : (s.postLater l).vcps = s.vcps := rfl
@[simp] theorem State.postLater_completions (l : List Instr) : (s.postLater l).completions = s.completions := rfl
@[simp] theorem State.postLater_irqs (l : List Instr) : (s.postLater l).irqs = s.irqs := rfl
@[simp] theorem State.postLater_links (l : List Instr) : (s.postLater l).links = s.links := rfl
@[simp] theorem State.postLater_linkErrors (l : List Instr) : (s.postLater l).linkErrors = s.linkErrors := rfl
@[simp] theorem State.postLater_unitErrors (l : List Instr) : (s.postLater l).unitErrors = s.unitErrors := rfl
@[simp] theorem State.postLater_peermap (l : List Instr) : (s.postLater l).peermap = s.peermap := rfl
@[simp] theorem State.postLater_peerOut (l : List Instr) : (s.postLater l).peerOut = s.peerOut := rfl
@[simp] theorem State.postLater_peerIn (l : List Instr) : (s.postLater l).peerIn = s.peerIn := rfl
@[simp] theorem State.postLater_peerSent (l : List Instr) : (s.postLater l).peerSent = s.peerSent := rfl
@[simp] theorem State.postLater_peerJobs (l : List Instr) : (s.postLater l).peerJobs = s.peerJobs := rfl
@[simp] theorem State.postLater_deviceIndex (l : List Instr) : (s.postLater l).deviceIndex = s.deviceIndex := rfl
@[simp] theorem State.postLater_tried (l : List Instr) : (s.postLater l).tried = s.tried := rfl
@[simp] theorem State.postLater_boot (l : List Instr) : (s.postLater l).boot = s.boot := rfl
@[simp] theorem State.postLater_mld (l : List Instr) : (s.postLater l).mld = s.mld := rfl
@[simp] theorem State.postLater_powerHold (l : List Instr) : (s.postLater l).powerHold = s.powerHold := rfl
@[simp] theorem State.postLater_stopped (l : List Instr) : (s.postLater l).stopped = s.stopped := rfl
@[simp] theorem State.postLater_recovery (l : List Instr) : (s.postLater l).recovery = s.recovery := rfl
@[simp] theorem State.postLater_fuses (l : List Instr) : (s.postLater l).fuses = s.fuses := rfl
@[simp] theorem State.postLater_identity (l : List Instr) : (s.postLater l).identity = s.identity := rfl
@[simp] theorem State.postLater_measurements (l : List Instr) : (s.postLater l).measurements = s.measurements := rfl
@[simp] theorem State.postLater_functions (l : List Instr) : (s.postLater l).functions = s.functions := rfl
@[simp] theorem State.postLater_absent (l : List Instr) : (s.postLater l).absent = s.absent := rfl
@[simp] theorem State.postLater_events (l : List Instr) : (s.postLater l).events = s.events := rfl
@[simp] theorem State.postLater_barSize (l : List Instr) : (s.postLater l).barSize = s.barSize := rfl
@[simp] theorem State.postLater_hostAnswer (l : List Instr) : (s.postLater l).hostAnswer = s.hostAnswer := rfl
@[simp] theorem State.postLater_layout (l : List Instr) : (s.postLater l).layout = s.layout := rfl
@[simp] theorem State.postLater_pools (l : List Instr) : (s.postLater l).pools = s.pools := rfl
@[simp] theorem State.postLater_poolWindows (l : List Instr) : (s.postLater l).poolWindows = s.poolWindows := rfl
@[simp] theorem State.postLater_migrations (l : List Instr) : (s.postLater l).migrations = s.migrations := rfl
@[simp] theorem State.postLater_backoffs (l : List Instr) : (s.postLater l).backoffs = s.backoffs := rfl

@[simp] theorem State.postFirst_dtc (l : List Instr) : (s.postFirst l).dtc = s.dtc := rfl
@[simp] theorem State.postFirst_later (l : List Instr) : (s.postFirst l).later = s.later := rfl
@[simp] theorem State.postFirst_choice (l : List Instr) : (s.postFirst l).choice = s.choice := rfl
@[simp] theorem State.postFirst_slots (l : List Instr) : (s.postFirst l).slots = s.slots := rfl
@[simp] theorem State.postFirst_cur (l : List Instr) : (s.postFirst l).cur = s.cur := rfl
@[simp] theorem State.postFirst_fresh (l : List Instr) : (s.postFirst l).fresh = s.fresh := rfl
@[simp] theorem State.postFirst_nextId (l : List Instr) : (s.postFirst l).nextId = s.nextId := rfl
@[simp] theorem State.postFirst_ctxs (l : List Instr) : (s.postFirst l).ctxs = s.ctxs := rfl
@[simp] theorem State.postFirst_cores (l : List Instr) : (s.postFirst l).cores = s.cores := rfl
@[simp] theorem State.postFirst_clusters (l : List Instr) : (s.postFirst l).clusters = s.clusters := rfl
@[simp] theorem State.postFirst_porters (l : List Instr) : (s.postFirst l).porters = s.porters := rfl
@[simp] theorem State.postFirst_slices (l : List Instr) : (s.postFirst l).slices = s.slices := rfl
@[simp] theorem State.postFirst_dir (l : List Instr) : (s.postFirst l).dir = s.dir := rfl
@[simp] theorem State.postFirst_resources (l : List Instr) : (s.postFirst l).resources = s.resources := rfl
@[simp] theorem State.postFirst_streams (l : List Instr) : (s.postFirst l).streams = s.streams := rfl
@[simp] theorem State.postFirst_mem (l : List Instr) : (s.postFirst l).mem = s.mem := rfl
@[simp] theorem State.postFirst_tags (l : List Instr) : (s.postFirst l).tags = s.tags := rfl
@[simp] theorem State.postFirst_tagBuf (l : List Instr) : (s.postFirst l).tagBuf = s.tagBuf := rfl
@[simp] theorem State.postFirst_fotBase (l : List Instr) : (s.postFirst l).fotBase = s.fotBase := rfl
@[simp] theorem State.postFirst_owners (l : List Instr) : (s.postFirst l).owners = s.owners := rfl
@[simp] theorem State.postFirst_tvecF (l : List Instr) : (s.postFirst l).tvecF = s.tvecF := rfl
@[simp] theorem State.postFirst_bins (l : List Instr) : (s.postFirst l).bins = s.bins := rfl
@[simp] theorem State.postFirst_launches (l : List Instr) : (s.postFirst l).launches = s.launches := rfl
@[simp] theorem State.postFirst_nodes (l : List Instr) : (s.postFirst l).nodes = s.nodes := rfl
@[simp] theorem State.postFirst_faults (l : List Instr) : (s.postFirst l).faults = s.faults := rfl
@[simp] theorem State.postFirst_copies (l : List Instr) : (s.postFirst l).copies = s.copies := rfl
@[simp] theorem State.postFirst_ports (l : List Instr) : (s.postFirst l).ports = s.ports := rfl
@[simp] theorem State.postFirst_gtq (l : List Instr) : (s.postFirst l).gtq = s.gtq := rfl
@[simp] theorem State.postFirst_gtqNext (l : List Instr) : (s.postFirst l).gtqNext = s.gtqNext := rfl
@[simp] theorem State.postFirst_saved (l : List Instr) : (s.postFirst l).saved = s.saved := rfl
@[simp] theorem State.postFirst_invals (l : List Instr) : (s.postFirst l).invals = s.invals := rfl
@[simp] theorem State.postFirst_vcps (l : List Instr) : (s.postFirst l).vcps = s.vcps := rfl
@[simp] theorem State.postFirst_completions (l : List Instr) : (s.postFirst l).completions = s.completions := rfl
@[simp] theorem State.postFirst_irqs (l : List Instr) : (s.postFirst l).irqs = s.irqs := rfl
@[simp] theorem State.postFirst_links (l : List Instr) : (s.postFirst l).links = s.links := rfl
@[simp] theorem State.postFirst_linkErrors (l : List Instr) : (s.postFirst l).linkErrors = s.linkErrors := rfl
@[simp] theorem State.postFirst_unitErrors (l : List Instr) : (s.postFirst l).unitErrors = s.unitErrors := rfl
@[simp] theorem State.postFirst_peermap (l : List Instr) : (s.postFirst l).peermap = s.peermap := rfl
@[simp] theorem State.postFirst_peerOut (l : List Instr) : (s.postFirst l).peerOut = s.peerOut := rfl
@[simp] theorem State.postFirst_peerIn (l : List Instr) : (s.postFirst l).peerIn = s.peerIn := rfl
@[simp] theorem State.postFirst_peerSent (l : List Instr) : (s.postFirst l).peerSent = s.peerSent := rfl
@[simp] theorem State.postFirst_peerJobs (l : List Instr) : (s.postFirst l).peerJobs = s.peerJobs := rfl
@[simp] theorem State.postFirst_deviceIndex (l : List Instr) : (s.postFirst l).deviceIndex = s.deviceIndex := rfl
@[simp] theorem State.postFirst_tried (l : List Instr) : (s.postFirst l).tried = s.tried := rfl
@[simp] theorem State.postFirst_boot (l : List Instr) : (s.postFirst l).boot = s.boot := rfl
@[simp] theorem State.postFirst_mld (l : List Instr) : (s.postFirst l).mld = s.mld := rfl
@[simp] theorem State.postFirst_powerHold (l : List Instr) : (s.postFirst l).powerHold = s.powerHold := rfl
@[simp] theorem State.postFirst_stopped (l : List Instr) : (s.postFirst l).stopped = s.stopped := rfl
@[simp] theorem State.postFirst_recovery (l : List Instr) : (s.postFirst l).recovery = s.recovery := rfl
@[simp] theorem State.postFirst_fuses (l : List Instr) : (s.postFirst l).fuses = s.fuses := rfl
@[simp] theorem State.postFirst_identity (l : List Instr) : (s.postFirst l).identity = s.identity := rfl
@[simp] theorem State.postFirst_measurements (l : List Instr) : (s.postFirst l).measurements = s.measurements := rfl
@[simp] theorem State.postFirst_functions (l : List Instr) : (s.postFirst l).functions = s.functions := rfl
@[simp] theorem State.postFirst_absent (l : List Instr) : (s.postFirst l).absent = s.absent := rfl
@[simp] theorem State.postFirst_events (l : List Instr) : (s.postFirst l).events = s.events := rfl
@[simp] theorem State.postFirst_barSize (l : List Instr) : (s.postFirst l).barSize = s.barSize := rfl
@[simp] theorem State.postFirst_hostAnswer (l : List Instr) : (s.postFirst l).hostAnswer = s.hostAnswer := rfl
@[simp] theorem State.postFirst_layout (l : List Instr) : (s.postFirst l).layout = s.layout := rfl
@[simp] theorem State.postFirst_pools (l : List Instr) : (s.postFirst l).pools = s.pools := rfl
@[simp] theorem State.postFirst_poolWindows (l : List Instr) : (s.postFirst l).poolWindows = s.poolWindows := rfl
@[simp] theorem State.postFirst_migrations (l : List Instr) : (s.postFirst l).migrations = s.migrations := rfl
@[simp] theorem State.postFirst_backoffs (l : List Instr) : (s.postFirst l).backoffs = s.backoffs := rfl

@[simp] theorem State.report_dtc (e : Event) : (s.report e).dtc = s.dtc := rfl
@[simp] theorem State.report_agenda (e : Event) : (s.report e).agenda = s.agenda := rfl
@[simp] theorem State.report_later (e : Event) : (s.report e).later = s.later := rfl
@[simp] theorem State.report_choice (e : Event) : (s.report e).choice = s.choice := rfl
@[simp] theorem State.report_slots (e : Event) : (s.report e).slots = s.slots := rfl
@[simp] theorem State.report_cur (e : Event) : (s.report e).cur = s.cur := rfl
@[simp] theorem State.report_fresh (e : Event) : (s.report e).fresh = s.fresh := rfl
@[simp] theorem State.report_nextId (e : Event) : (s.report e).nextId = s.nextId := rfl
@[simp] theorem State.report_ctxs (e : Event) : (s.report e).ctxs = s.ctxs := rfl
@[simp] theorem State.report_cores (e : Event) : (s.report e).cores = s.cores := rfl
@[simp] theorem State.report_clusters (e : Event) : (s.report e).clusters = s.clusters := rfl
@[simp] theorem State.report_porters (e : Event) : (s.report e).porters = s.porters := rfl
@[simp] theorem State.report_slices (e : Event) : (s.report e).slices = s.slices := rfl
@[simp] theorem State.report_dir (e : Event) : (s.report e).dir = s.dir := rfl
@[simp] theorem State.report_resources (e : Event) : (s.report e).resources = s.resources := rfl
@[simp] theorem State.report_streams (e : Event) : (s.report e).streams = s.streams := rfl
@[simp] theorem State.report_mem (e : Event) : (s.report e).mem = s.mem := rfl
@[simp] theorem State.report_tags (e : Event) : (s.report e).tags = s.tags := rfl
@[simp] theorem State.report_tagBuf (e : Event) : (s.report e).tagBuf = s.tagBuf := rfl
@[simp] theorem State.report_fotBase (e : Event) : (s.report e).fotBase = s.fotBase := rfl
@[simp] theorem State.report_owners (e : Event) : (s.report e).owners = s.owners := rfl
@[simp] theorem State.report_tvecF (e : Event) : (s.report e).tvecF = s.tvecF := rfl
@[simp] theorem State.report_bins (e : Event) : (s.report e).bins = s.bins := rfl
@[simp] theorem State.report_launches (e : Event) : (s.report e).launches = s.launches := rfl
@[simp] theorem State.report_nodes (e : Event) : (s.report e).nodes = s.nodes := rfl
@[simp] theorem State.report_faults (e : Event) : (s.report e).faults = s.faults := rfl
@[simp] theorem State.report_copies (e : Event) : (s.report e).copies = s.copies := rfl
@[simp] theorem State.report_ports (e : Event) : (s.report e).ports = s.ports := rfl
@[simp] theorem State.report_gtq (e : Event) : (s.report e).gtq = s.gtq := rfl
@[simp] theorem State.report_gtqNext (e : Event) : (s.report e).gtqNext = s.gtqNext := rfl
@[simp] theorem State.report_saved (e : Event) : (s.report e).saved = s.saved := rfl
@[simp] theorem State.report_invals (e : Event) : (s.report e).invals = s.invals := rfl
@[simp] theorem State.report_vcps (e : Event) : (s.report e).vcps = s.vcps := rfl
@[simp] theorem State.report_completions (e : Event) : (s.report e).completions = s.completions := rfl
@[simp] theorem State.report_irqs (e : Event) : (s.report e).irqs = s.irqs := rfl
@[simp] theorem State.report_links (e : Event) : (s.report e).links = s.links := rfl
@[simp] theorem State.report_linkErrors (e : Event) : (s.report e).linkErrors = s.linkErrors := rfl
@[simp] theorem State.report_unitErrors (e : Event) : (s.report e).unitErrors = s.unitErrors := rfl
@[simp] theorem State.report_peermap (e : Event) : (s.report e).peermap = s.peermap := rfl
@[simp] theorem State.report_peerOut (e : Event) : (s.report e).peerOut = s.peerOut := rfl
@[simp] theorem State.report_peerIn (e : Event) : (s.report e).peerIn = s.peerIn := rfl
@[simp] theorem State.report_peerSent (e : Event) : (s.report e).peerSent = s.peerSent := rfl
@[simp] theorem State.report_peerJobs (e : Event) : (s.report e).peerJobs = s.peerJobs := rfl
@[simp] theorem State.report_deviceIndex (e : Event) : (s.report e).deviceIndex = s.deviceIndex := rfl
@[simp] theorem State.report_tried (e : Event) : (s.report e).tried = s.tried := rfl
@[simp] theorem State.report_boot (e : Event) : (s.report e).boot = s.boot := rfl
@[simp] theorem State.report_mld (e : Event) : (s.report e).mld = s.mld := rfl
@[simp] theorem State.report_powerHold (e : Event) : (s.report e).powerHold = s.powerHold := rfl
@[simp] theorem State.report_stopped (e : Event) : (s.report e).stopped = s.stopped := rfl
@[simp] theorem State.report_recovery (e : Event) : (s.report e).recovery = s.recovery := rfl
@[simp] theorem State.report_fuses (e : Event) : (s.report e).fuses = s.fuses := rfl
@[simp] theorem State.report_identity (e : Event) : (s.report e).identity = s.identity := rfl
@[simp] theorem State.report_measurements (e : Event) : (s.report e).measurements = s.measurements := rfl
@[simp] theorem State.report_functions (e : Event) : (s.report e).functions = s.functions := rfl
@[simp] theorem State.report_absent (e : Event) : (s.report e).absent = s.absent := rfl
@[simp] theorem State.report_barSize (e : Event) : (s.report e).barSize = s.barSize := rfl
@[simp] theorem State.report_hostAnswer (e : Event) : (s.report e).hostAnswer = s.hostAnswer := rfl
@[simp] theorem State.report_layout (e : Event) : (s.report e).layout = s.layout := rfl
@[simp] theorem State.report_pools (e : Event) : (s.report e).pools = s.pools := rfl
@[simp] theorem State.report_poolWindows (e : Event) : (s.report e).poolWindows = s.poolWindows := rfl
@[simp] theorem State.report_migrations (e : Event) : (s.report e).migrations = s.migrations := rfl
@[simp] theorem State.report_backoffs (e : Event) : (s.report e).backoffs = s.backoffs := rfl

@[simp] theorem State.setL1_dtc (k n : Nat) (l : L1Line) : (s.setL1 k n l).dtc = s.dtc := rfl
@[simp] theorem State.setL1_agenda (k n : Nat) (l : L1Line) : (s.setL1 k n l).agenda = s.agenda := rfl
@[simp] theorem State.setL1_later (k n : Nat) (l : L1Line) : (s.setL1 k n l).later = s.later := rfl
@[simp] theorem State.setL1_choice (k n : Nat) (l : L1Line) : (s.setL1 k n l).choice = s.choice := rfl
@[simp] theorem State.setL1_slots (k n : Nat) (l : L1Line) : (s.setL1 k n l).slots = s.slots := rfl
@[simp] theorem State.setL1_cur (k n : Nat) (l : L1Line) : (s.setL1 k n l).cur = s.cur := rfl
@[simp] theorem State.setL1_fresh (k n : Nat) (l : L1Line) : (s.setL1 k n l).fresh = s.fresh := rfl
@[simp] theorem State.setL1_nextId (k n : Nat) (l : L1Line) : (s.setL1 k n l).nextId = s.nextId := rfl
@[simp] theorem State.setL1_ctxs (k n : Nat) (l : L1Line) : (s.setL1 k n l).ctxs = s.ctxs := rfl
@[simp] theorem State.setL1_clusters (k n : Nat) (l : L1Line) : (s.setL1 k n l).clusters = s.clusters := rfl
@[simp] theorem State.setL1_porters (k n : Nat) (l : L1Line) : (s.setL1 k n l).porters = s.porters := rfl
@[simp] theorem State.setL1_slices (k n : Nat) (l : L1Line) : (s.setL1 k n l).slices = s.slices := rfl
@[simp] theorem State.setL1_dir (k n : Nat) (l : L1Line) : (s.setL1 k n l).dir = s.dir := rfl
@[simp] theorem State.setL1_resources (k n : Nat) (l : L1Line) : (s.setL1 k n l).resources = s.resources := rfl
@[simp] theorem State.setL1_streams (k n : Nat) (l : L1Line) : (s.setL1 k n l).streams = s.streams := rfl
@[simp] theorem State.setL1_mem (k n : Nat) (l : L1Line) : (s.setL1 k n l).mem = s.mem := rfl
@[simp] theorem State.setL1_tags (k n : Nat) (l : L1Line) : (s.setL1 k n l).tags = s.tags := rfl
@[simp] theorem State.setL1_tagBuf (k n : Nat) (l : L1Line) : (s.setL1 k n l).tagBuf = s.tagBuf := rfl
@[simp] theorem State.setL1_fotBase (k n : Nat) (l : L1Line) : (s.setL1 k n l).fotBase = s.fotBase := rfl
@[simp] theorem State.setL1_owners (k n : Nat) (l : L1Line) : (s.setL1 k n l).owners = s.owners := rfl
@[simp] theorem State.setL1_tvecF (k n : Nat) (l : L1Line) : (s.setL1 k n l).tvecF = s.tvecF := rfl
@[simp] theorem State.setL1_bins (k n : Nat) (l : L1Line) : (s.setL1 k n l).bins = s.bins := rfl
@[simp] theorem State.setL1_launches (k n : Nat) (l : L1Line) : (s.setL1 k n l).launches = s.launches := rfl
@[simp] theorem State.setL1_nodes (k n : Nat) (l : L1Line) : (s.setL1 k n l).nodes = s.nodes := rfl
@[simp] theorem State.setL1_faults (k n : Nat) (l : L1Line) : (s.setL1 k n l).faults = s.faults := rfl
@[simp] theorem State.setL1_copies (k n : Nat) (l : L1Line) : (s.setL1 k n l).copies = s.copies := rfl
@[simp] theorem State.setL1_ports (k n : Nat) (l : L1Line) : (s.setL1 k n l).ports = s.ports := rfl
@[simp] theorem State.setL1_gtq (k n : Nat) (l : L1Line) : (s.setL1 k n l).gtq = s.gtq := rfl
@[simp] theorem State.setL1_gtqNext (k n : Nat) (l : L1Line) : (s.setL1 k n l).gtqNext = s.gtqNext := rfl
@[simp] theorem State.setL1_saved (k n : Nat) (l : L1Line) : (s.setL1 k n l).saved = s.saved := rfl
@[simp] theorem State.setL1_invals (k n : Nat) (l : L1Line) : (s.setL1 k n l).invals = s.invals := rfl
@[simp] theorem State.setL1_vcps (k n : Nat) (l : L1Line) : (s.setL1 k n l).vcps = s.vcps := rfl
@[simp] theorem State.setL1_completions (k n : Nat) (l : L1Line) : (s.setL1 k n l).completions = s.completions := rfl
@[simp] theorem State.setL1_irqs (k n : Nat) (l : L1Line) : (s.setL1 k n l).irqs = s.irqs := rfl
@[simp] theorem State.setL1_links (k n : Nat) (l : L1Line) : (s.setL1 k n l).links = s.links := rfl
@[simp] theorem State.setL1_linkErrors (k n : Nat) (l : L1Line) : (s.setL1 k n l).linkErrors = s.linkErrors := rfl
@[simp] theorem State.setL1_unitErrors (k n : Nat) (l : L1Line) : (s.setL1 k n l).unitErrors = s.unitErrors := rfl
@[simp] theorem State.setL1_peermap (k n : Nat) (l : L1Line) : (s.setL1 k n l).peermap = s.peermap := rfl
@[simp] theorem State.setL1_peerOut (k n : Nat) (l : L1Line) : (s.setL1 k n l).peerOut = s.peerOut := rfl
@[simp] theorem State.setL1_peerIn (k n : Nat) (l : L1Line) : (s.setL1 k n l).peerIn = s.peerIn := rfl
@[simp] theorem State.setL1_peerSent (k n : Nat) (l : L1Line) : (s.setL1 k n l).peerSent = s.peerSent := rfl
@[simp] theorem State.setL1_peerJobs (k n : Nat) (l : L1Line) : (s.setL1 k n l).peerJobs = s.peerJobs := rfl
@[simp] theorem State.setL1_deviceIndex (k n : Nat) (l : L1Line) : (s.setL1 k n l).deviceIndex = s.deviceIndex := rfl
@[simp] theorem State.setL1_tried (k n : Nat) (l : L1Line) : (s.setL1 k n l).tried = s.tried := rfl
@[simp] theorem State.setL1_boot (k n : Nat) (l : L1Line) : (s.setL1 k n l).boot = s.boot := rfl
@[simp] theorem State.setL1_mld (k n : Nat) (l : L1Line) : (s.setL1 k n l).mld = s.mld := rfl
@[simp] theorem State.setL1_powerHold (k n : Nat) (l : L1Line) : (s.setL1 k n l).powerHold = s.powerHold := rfl
@[simp] theorem State.setL1_stopped (k n : Nat) (l : L1Line) : (s.setL1 k n l).stopped = s.stopped := rfl
@[simp] theorem State.setL1_recovery (k n : Nat) (l : L1Line) : (s.setL1 k n l).recovery = s.recovery := rfl
@[simp] theorem State.setL1_fuses (k n : Nat) (l : L1Line) : (s.setL1 k n l).fuses = s.fuses := rfl
@[simp] theorem State.setL1_identity (k n : Nat) (l : L1Line) : (s.setL1 k n l).identity = s.identity := rfl
@[simp] theorem State.setL1_measurements (k n : Nat) (l : L1Line) : (s.setL1 k n l).measurements = s.measurements := rfl
@[simp] theorem State.setL1_functions (k n : Nat) (l : L1Line) : (s.setL1 k n l).functions = s.functions := rfl
@[simp] theorem State.setL1_absent (k n : Nat) (l : L1Line) : (s.setL1 k n l).absent = s.absent := rfl
@[simp] theorem State.setL1_events (k n : Nat) (l : L1Line) : (s.setL1 k n l).events = s.events := rfl
@[simp] theorem State.setL1_barSize (k n : Nat) (l : L1Line) : (s.setL1 k n l).barSize = s.barSize := rfl
@[simp] theorem State.setL1_hostAnswer (k n : Nat) (l : L1Line) : (s.setL1 k n l).hostAnswer = s.hostAnswer := rfl
@[simp] theorem State.setL1_layout (k n : Nat) (l : L1Line) : (s.setL1 k n l).layout = s.layout := rfl
@[simp] theorem State.setL1_pools (k n : Nat) (l : L1Line) : (s.setL1 k n l).pools = s.pools := rfl
@[simp] theorem State.setL1_poolWindows (k n : Nat) (l : L1Line) : (s.setL1 k n l).poolWindows = s.poolWindows := rfl
@[simp] theorem State.setL1_migrations (k n : Nat) (l : L1Line) : (s.setL1 k n l).migrations = s.migrations := rfl
@[simp] theorem State.setL1_backoffs (k n : Nat) (l : L1Line) : (s.setL1 k n l).backoffs = s.backoffs := rfl

@[simp] theorem State.dropL1_dtc (k n : Nat) : (s.dropL1 k n).dtc = s.dtc := rfl
@[simp] theorem State.dropL1_agenda (k n : Nat) : (s.dropL1 k n).agenda = s.agenda := rfl
@[simp] theorem State.dropL1_later (k n : Nat) : (s.dropL1 k n).later = s.later := rfl
@[simp] theorem State.dropL1_choice (k n : Nat) : (s.dropL1 k n).choice = s.choice := rfl
@[simp] theorem State.dropL1_slots (k n : Nat) : (s.dropL1 k n).slots = s.slots := rfl
@[simp] theorem State.dropL1_cur (k n : Nat) : (s.dropL1 k n).cur = s.cur := rfl
@[simp] theorem State.dropL1_fresh (k n : Nat) : (s.dropL1 k n).fresh = s.fresh := rfl
@[simp] theorem State.dropL1_nextId (k n : Nat) : (s.dropL1 k n).nextId = s.nextId := rfl
@[simp] theorem State.dropL1_ctxs (k n : Nat) : (s.dropL1 k n).ctxs = s.ctxs := rfl
@[simp] theorem State.dropL1_clusters (k n : Nat) : (s.dropL1 k n).clusters = s.clusters := rfl
@[simp] theorem State.dropL1_porters (k n : Nat) : (s.dropL1 k n).porters = s.porters := rfl
@[simp] theorem State.dropL1_slices (k n : Nat) : (s.dropL1 k n).slices = s.slices := rfl
@[simp] theorem State.dropL1_dir (k n : Nat) : (s.dropL1 k n).dir = s.dir := rfl
@[simp] theorem State.dropL1_resources (k n : Nat) : (s.dropL1 k n).resources = s.resources := rfl
@[simp] theorem State.dropL1_streams (k n : Nat) : (s.dropL1 k n).streams = s.streams := rfl
@[simp] theorem State.dropL1_mem (k n : Nat) : (s.dropL1 k n).mem = s.mem := rfl
@[simp] theorem State.dropL1_tags (k n : Nat) : (s.dropL1 k n).tags = s.tags := rfl
@[simp] theorem State.dropL1_tagBuf (k n : Nat) : (s.dropL1 k n).tagBuf = s.tagBuf := rfl
@[simp] theorem State.dropL1_fotBase (k n : Nat) : (s.dropL1 k n).fotBase = s.fotBase := rfl
@[simp] theorem State.dropL1_owners (k n : Nat) : (s.dropL1 k n).owners = s.owners := rfl
@[simp] theorem State.dropL1_tvecF (k n : Nat) : (s.dropL1 k n).tvecF = s.tvecF := rfl
@[simp] theorem State.dropL1_bins (k n : Nat) : (s.dropL1 k n).bins = s.bins := rfl
@[simp] theorem State.dropL1_launches (k n : Nat) : (s.dropL1 k n).launches = s.launches := rfl
@[simp] theorem State.dropL1_nodes (k n : Nat) : (s.dropL1 k n).nodes = s.nodes := rfl
@[simp] theorem State.dropL1_faults (k n : Nat) : (s.dropL1 k n).faults = s.faults := rfl
@[simp] theorem State.dropL1_copies (k n : Nat) : (s.dropL1 k n).copies = s.copies := rfl
@[simp] theorem State.dropL1_ports (k n : Nat) : (s.dropL1 k n).ports = s.ports := rfl
@[simp] theorem State.dropL1_gtq (k n : Nat) : (s.dropL1 k n).gtq = s.gtq := rfl
@[simp] theorem State.dropL1_gtqNext (k n : Nat) : (s.dropL1 k n).gtqNext = s.gtqNext := rfl
@[simp] theorem State.dropL1_saved (k n : Nat) : (s.dropL1 k n).saved = s.saved := rfl
@[simp] theorem State.dropL1_invals (k n : Nat) : (s.dropL1 k n).invals = s.invals := rfl
@[simp] theorem State.dropL1_vcps (k n : Nat) : (s.dropL1 k n).vcps = s.vcps := rfl
@[simp] theorem State.dropL1_completions (k n : Nat) : (s.dropL1 k n).completions = s.completions := rfl
@[simp] theorem State.dropL1_irqs (k n : Nat) : (s.dropL1 k n).irqs = s.irqs := rfl
@[simp] theorem State.dropL1_links (k n : Nat) : (s.dropL1 k n).links = s.links := rfl
@[simp] theorem State.dropL1_linkErrors (k n : Nat) : (s.dropL1 k n).linkErrors = s.linkErrors := rfl
@[simp] theorem State.dropL1_unitErrors (k n : Nat) : (s.dropL1 k n).unitErrors = s.unitErrors := rfl
@[simp] theorem State.dropL1_peermap (k n : Nat) : (s.dropL1 k n).peermap = s.peermap := rfl
@[simp] theorem State.dropL1_peerOut (k n : Nat) : (s.dropL1 k n).peerOut = s.peerOut := rfl
@[simp] theorem State.dropL1_peerIn (k n : Nat) : (s.dropL1 k n).peerIn = s.peerIn := rfl
@[simp] theorem State.dropL1_peerSent (k n : Nat) : (s.dropL1 k n).peerSent = s.peerSent := rfl
@[simp] theorem State.dropL1_peerJobs (k n : Nat) : (s.dropL1 k n).peerJobs = s.peerJobs := rfl
@[simp] theorem State.dropL1_deviceIndex (k n : Nat) : (s.dropL1 k n).deviceIndex = s.deviceIndex := rfl
@[simp] theorem State.dropL1_tried (k n : Nat) : (s.dropL1 k n).tried = s.tried := rfl
@[simp] theorem State.dropL1_boot (k n : Nat) : (s.dropL1 k n).boot = s.boot := rfl
@[simp] theorem State.dropL1_mld (k n : Nat) : (s.dropL1 k n).mld = s.mld := rfl
@[simp] theorem State.dropL1_powerHold (k n : Nat) : (s.dropL1 k n).powerHold = s.powerHold := rfl
@[simp] theorem State.dropL1_stopped (k n : Nat) : (s.dropL1 k n).stopped = s.stopped := rfl
@[simp] theorem State.dropL1_recovery (k n : Nat) : (s.dropL1 k n).recovery = s.recovery := rfl
@[simp] theorem State.dropL1_fuses (k n : Nat) : (s.dropL1 k n).fuses = s.fuses := rfl
@[simp] theorem State.dropL1_identity (k n : Nat) : (s.dropL1 k n).identity = s.identity := rfl
@[simp] theorem State.dropL1_measurements (k n : Nat) : (s.dropL1 k n).measurements = s.measurements := rfl
@[simp] theorem State.dropL1_functions (k n : Nat) : (s.dropL1 k n).functions = s.functions := rfl
@[simp] theorem State.dropL1_absent (k n : Nat) : (s.dropL1 k n).absent = s.absent := rfl
@[simp] theorem State.dropL1_events (k n : Nat) : (s.dropL1 k n).events = s.events := rfl
@[simp] theorem State.dropL1_barSize (k n : Nat) : (s.dropL1 k n).barSize = s.barSize := rfl
@[simp] theorem State.dropL1_hostAnswer (k n : Nat) : (s.dropL1 k n).hostAnswer = s.hostAnswer := rfl
@[simp] theorem State.dropL1_layout (k n : Nat) : (s.dropL1 k n).layout = s.layout := rfl
@[simp] theorem State.dropL1_pools (k n : Nat) : (s.dropL1 k n).pools = s.pools := rfl
@[simp] theorem State.dropL1_poolWindows (k n : Nat) : (s.dropL1 k n).poolWindows = s.poolWindows := rfl
@[simp] theorem State.dropL1_migrations (k n : Nat) : (s.dropL1 k n).migrations = s.migrations := rfl
@[simp] theorem State.dropL1_backoffs (k n : Nat) : (s.dropL1 k n).backoffs = s.backoffs := rfl

@[simp] theorem State.advanceCtx_dtc (n : Nat) : (s.advanceCtx n).dtc = s.dtc := rfl
@[simp] theorem State.advanceCtx_agenda (n : Nat) : (s.advanceCtx n).agenda = s.agenda := rfl
@[simp] theorem State.advanceCtx_later (n : Nat) : (s.advanceCtx n).later = s.later := rfl
@[simp] theorem State.advanceCtx_choice (n : Nat) : (s.advanceCtx n).choice = s.choice := rfl
@[simp] theorem State.advanceCtx_slots (n : Nat) : (s.advanceCtx n).slots = s.slots := rfl
@[simp] theorem State.advanceCtx_cur (n : Nat) : (s.advanceCtx n).cur = s.cur := rfl
@[simp] theorem State.advanceCtx_fresh (n : Nat) : (s.advanceCtx n).fresh = s.fresh := rfl
@[simp] theorem State.advanceCtx_nextId (n : Nat) : (s.advanceCtx n).nextId = s.nextId := rfl
@[simp] theorem State.advanceCtx_cores (n : Nat) : (s.advanceCtx n).cores = s.cores := rfl
@[simp] theorem State.advanceCtx_clusters (n : Nat) : (s.advanceCtx n).clusters = s.clusters := rfl
@[simp] theorem State.advanceCtx_porters (n : Nat) : (s.advanceCtx n).porters = s.porters := rfl
@[simp] theorem State.advanceCtx_slices (n : Nat) : (s.advanceCtx n).slices = s.slices := rfl
@[simp] theorem State.advanceCtx_dir (n : Nat) : (s.advanceCtx n).dir = s.dir := rfl
@[simp] theorem State.advanceCtx_resources (n : Nat) : (s.advanceCtx n).resources = s.resources := rfl
@[simp] theorem State.advanceCtx_streams (n : Nat) : (s.advanceCtx n).streams = s.streams := rfl
@[simp] theorem State.advanceCtx_mem (n : Nat) : (s.advanceCtx n).mem = s.mem := rfl
@[simp] theorem State.advanceCtx_tags (n : Nat) : (s.advanceCtx n).tags = s.tags := rfl
@[simp] theorem State.advanceCtx_tagBuf (n : Nat) : (s.advanceCtx n).tagBuf = s.tagBuf := rfl
@[simp] theorem State.advanceCtx_fotBase (n : Nat) : (s.advanceCtx n).fotBase = s.fotBase := rfl
@[simp] theorem State.advanceCtx_owners (n : Nat) : (s.advanceCtx n).owners = s.owners := rfl
@[simp] theorem State.advanceCtx_tvecF (n : Nat) : (s.advanceCtx n).tvecF = s.tvecF := rfl
@[simp] theorem State.advanceCtx_bins (n : Nat) : (s.advanceCtx n).bins = s.bins := rfl
@[simp] theorem State.advanceCtx_launches (n : Nat) : (s.advanceCtx n).launches = s.launches := rfl
@[simp] theorem State.advanceCtx_nodes (n : Nat) : (s.advanceCtx n).nodes = s.nodes := rfl
@[simp] theorem State.advanceCtx_faults (n : Nat) : (s.advanceCtx n).faults = s.faults := rfl
@[simp] theorem State.advanceCtx_copies (n : Nat) : (s.advanceCtx n).copies = s.copies := rfl
@[simp] theorem State.advanceCtx_ports (n : Nat) : (s.advanceCtx n).ports = s.ports := rfl
@[simp] theorem State.advanceCtx_gtq (n : Nat) : (s.advanceCtx n).gtq = s.gtq := rfl
@[simp] theorem State.advanceCtx_gtqNext (n : Nat) : (s.advanceCtx n).gtqNext = s.gtqNext := rfl
@[simp] theorem State.advanceCtx_saved (n : Nat) : (s.advanceCtx n).saved = s.saved := rfl
@[simp] theorem State.advanceCtx_invals (n : Nat) : (s.advanceCtx n).invals = s.invals := rfl
@[simp] theorem State.advanceCtx_vcps (n : Nat) : (s.advanceCtx n).vcps = s.vcps := rfl
@[simp] theorem State.advanceCtx_completions (n : Nat) : (s.advanceCtx n).completions = s.completions := rfl
@[simp] theorem State.advanceCtx_irqs (n : Nat) : (s.advanceCtx n).irqs = s.irqs := rfl
@[simp] theorem State.advanceCtx_links (n : Nat) : (s.advanceCtx n).links = s.links := rfl
@[simp] theorem State.advanceCtx_linkErrors (n : Nat) : (s.advanceCtx n).linkErrors = s.linkErrors := rfl
@[simp] theorem State.advanceCtx_unitErrors (n : Nat) : (s.advanceCtx n).unitErrors = s.unitErrors := rfl
@[simp] theorem State.advanceCtx_peermap (n : Nat) : (s.advanceCtx n).peermap = s.peermap := rfl
@[simp] theorem State.advanceCtx_peerOut (n : Nat) : (s.advanceCtx n).peerOut = s.peerOut := rfl
@[simp] theorem State.advanceCtx_peerIn (n : Nat) : (s.advanceCtx n).peerIn = s.peerIn := rfl
@[simp] theorem State.advanceCtx_peerSent (n : Nat) : (s.advanceCtx n).peerSent = s.peerSent := rfl
@[simp] theorem State.advanceCtx_peerJobs (n : Nat) : (s.advanceCtx n).peerJobs = s.peerJobs := rfl
@[simp] theorem State.advanceCtx_deviceIndex (n : Nat) : (s.advanceCtx n).deviceIndex = s.deviceIndex := rfl
@[simp] theorem State.advanceCtx_tried (n : Nat) : (s.advanceCtx n).tried = s.tried := rfl
@[simp] theorem State.advanceCtx_boot (n : Nat) : (s.advanceCtx n).boot = s.boot := rfl
@[simp] theorem State.advanceCtx_mld (n : Nat) : (s.advanceCtx n).mld = s.mld := rfl
@[simp] theorem State.advanceCtx_powerHold (n : Nat) : (s.advanceCtx n).powerHold = s.powerHold := rfl
@[simp] theorem State.advanceCtx_stopped (n : Nat) : (s.advanceCtx n).stopped = s.stopped := rfl
@[simp] theorem State.advanceCtx_recovery (n : Nat) : (s.advanceCtx n).recovery = s.recovery := rfl
@[simp] theorem State.advanceCtx_fuses (n : Nat) : (s.advanceCtx n).fuses = s.fuses := rfl
@[simp] theorem State.advanceCtx_identity (n : Nat) : (s.advanceCtx n).identity = s.identity := rfl
@[simp] theorem State.advanceCtx_measurements (n : Nat) : (s.advanceCtx n).measurements = s.measurements := rfl
@[simp] theorem State.advanceCtx_functions (n : Nat) : (s.advanceCtx n).functions = s.functions := rfl
@[simp] theorem State.advanceCtx_absent (n : Nat) : (s.advanceCtx n).absent = s.absent := rfl
@[simp] theorem State.advanceCtx_events (n : Nat) : (s.advanceCtx n).events = s.events := rfl
@[simp] theorem State.advanceCtx_barSize (n : Nat) : (s.advanceCtx n).barSize = s.barSize := rfl
@[simp] theorem State.advanceCtx_hostAnswer (n : Nat) : (s.advanceCtx n).hostAnswer = s.hostAnswer := rfl
@[simp] theorem State.advanceCtx_layout (n : Nat) : (s.advanceCtx n).layout = s.layout := rfl
@[simp] theorem State.advanceCtx_pools (n : Nat) : (s.advanceCtx n).pools = s.pools := rfl
@[simp] theorem State.advanceCtx_poolWindows (n : Nat) : (s.advanceCtx n).poolWindows = s.poolWindows := rfl
@[simp] theorem State.advanceCtx_migrations (n : Nat) : (s.advanceCtx n).migrations = s.migrations := rfl
@[simp] theorem State.advanceCtx_backoffs (n : Nat) : (s.advanceCtx n).backoffs = s.backoffs := rfl

@[simp] theorem State.post_agenda (l : List Instr) : (s.post l).agenda = s.agenda ++ l := rfl
@[simp] theorem State.postLater_later (l : List Instr) : (s.postLater l).later = s.later ++ l := rfl
@[simp] theorem State.postFirst_agenda (l : List Instr) : (s.postFirst l).agenda = l ++ s.agenda := rfl
@[simp] theorem State.report_events (e : Event) : (s.report e).events = s.events ++ [e] := rfl

@[simp] theorem State.setCore_ctx (n : Nat) (c : Core) (m : Nat) : (s.setCore n c).ctx m = s.ctx m := rfl
@[simp] theorem State.modCore_ctx (n : Nat) (f : Core → Core) (m : Nat) : (s.modCore n f).ctx m = s.ctx m := rfl
@[simp] theorem State.modCluster_ctx (n : Nat) (f : Cluster → Cluster) (m : Nat) : (s.modCluster n f).ctx m = s.ctx m := rfl
@[simp] theorem State.modPorter_ctx (n : Nat) (f : Porter → Porter) (m : Nat) : (s.modPorter n f).ctx m = s.ctx m := rfl
@[simp] theorem State.modSlice_ctx (n : Nat) (f : Slice → Slice) (m : Nat) : (s.modSlice n f).ctx m = s.ctx m := rfl
@[simp] theorem State.modOwner_ctx (n : Nat) (f : Owner → Owner) (m : Nat) : (s.modOwner n f).ctx m = s.ctx m := rfl
@[simp] theorem State.setDir_ctx (n : Nat) (d : Dir) (m : Nat) : (s.setDir n d).ctx m = s.ctx m := rfl
@[simp] theorem State.modVcp_ctx (n v : Nat) (f : Vcp → Vcp) (m : Nat) : (s.modVcp n v f).ctx m = s.ctx m := rfl
@[simp] theorem State.modPool_ctx (n : Nat) (f : Pool → Pool) (m : Nat) : (s.modPool n f).ctx m = s.ctx m := rfl
@[simp] theorem State.setTag_ctx (n : Nat) (t : Tag) (m : Nat) : (s.setTag n t).ctx m = s.ctx m := rfl
@[simp] theorem State.post_ctx (l : List Instr) (m : Nat) : (s.post l).ctx m = s.ctx m := rfl
@[simp] theorem State.postLater_ctx (l : List Instr) (m : Nat) : (s.postLater l).ctx m = s.ctx m := rfl
@[simp] theorem State.postFirst_ctx (l : List Instr) (m : Nat) : (s.postFirst l).ctx m = s.ctx m := rfl
@[simp] theorem State.report_ctx (e : Event) (m : Nat) : (s.report e).ctx m = s.ctx m := rfl
@[simp] theorem State.setL1_ctx (k n : Nat) (l : L1Line) (m : Nat) : (s.setL1 k n l).ctx m = s.ctx m := rfl
@[simp] theorem State.dropL1_ctx (k n : Nat) (m : Nat) : (s.dropL1 k n).ctx m = s.ctx m := rfl
@[simp] theorem State.setCtx_core (n : Nat) (c : Ctx) (m : Nat) : (s.setCtx n c).core m = s.core m := rfl
@[simp] theorem State.modCtx_core (n : Nat) (f : Ctx → Ctx) (m : Nat) : (s.modCtx n f).core m = s.core m := rfl
@[simp] theorem State.modCluster_core (n : Nat) (f : Cluster → Cluster) (m : Nat) : (s.modCluster n f).core m = s.core m := rfl
@[simp] theorem State.modPorter_core (n : Nat) (f : Porter → Porter) (m : Nat) : (s.modPorter n f).core m = s.core m := rfl
@[simp] theorem State.modSlice_core (n : Nat) (f : Slice → Slice) (m : Nat) : (s.modSlice n f).core m = s.core m := rfl
@[simp] theorem State.modOwner_core (n : Nat) (f : Owner → Owner) (m : Nat) : (s.modOwner n f).core m = s.core m := rfl
@[simp] theorem State.setDir_core (n : Nat) (d : Dir) (m : Nat) : (s.setDir n d).core m = s.core m := rfl
@[simp] theorem State.modVcp_core (n v : Nat) (f : Vcp → Vcp) (m : Nat) : (s.modVcp n v f).core m = s.core m := rfl
@[simp] theorem State.modPool_core (n : Nat) (f : Pool → Pool) (m : Nat) : (s.modPool n f).core m = s.core m := rfl
@[simp] theorem State.setTag_core (n : Nat) (t : Tag) (m : Nat) : (s.setTag n t).core m = s.core m := rfl
@[simp] theorem State.post_core (l : List Instr) (m : Nat) : (s.post l).core m = s.core m := rfl
@[simp] theorem State.postLater_core (l : List Instr) (m : Nat) : (s.postLater l).core m = s.core m := rfl
@[simp] theorem State.postFirst_core (l : List Instr) (m : Nat) : (s.postFirst l).core m = s.core m := rfl
@[simp] theorem State.report_core (e : Event) (m : Nat) : (s.report e).core m = s.core m := rfl
@[simp] theorem State.advanceCtx_core (n : Nat) (m : Nat) : (s.advanceCtx n).core m = s.core m := rfl
@[simp] theorem State.setCtx_owner (n : Nat) (c : Ctx) (m : Nat) : (s.setCtx n c).owner m = s.owner m := rfl
@[simp] theorem State.modCtx_owner (n : Nat) (f : Ctx → Ctx) (m : Nat) : (s.modCtx n f).owner m = s.owner m := rfl
@[simp] theorem State.setCore_owner (n : Nat) (c : Core) (m : Nat) : (s.setCore n c).owner m = s.owner m := rfl
@[simp] theorem State.modCore_owner (n : Nat) (f : Core → Core) (m : Nat) : (s.modCore n f).owner m = s.owner m := rfl
@[simp] theorem State.modCluster_owner (n : Nat) (f : Cluster → Cluster) (m : Nat) : (s.modCluster n f).owner m = s.owner m := rfl
@[simp] theorem State.modPorter_owner (n : Nat) (f : Porter → Porter) (m : Nat) : (s.modPorter n f).owner m = s.owner m := rfl
@[simp] theorem State.modSlice_owner (n : Nat) (f : Slice → Slice) (m : Nat) : (s.modSlice n f).owner m = s.owner m := rfl
@[simp] theorem State.setDir_owner (n : Nat) (d : Dir) (m : Nat) : (s.setDir n d).owner m = s.owner m := rfl
@[simp] theorem State.modVcp_owner (n v : Nat) (f : Vcp → Vcp) (m : Nat) : (s.modVcp n v f).owner m = s.owner m := rfl
@[simp] theorem State.modPool_owner (n : Nat) (f : Pool → Pool) (m : Nat) : (s.modPool n f).owner m = s.owner m := rfl
@[simp] theorem State.setTag_owner (n : Nat) (t : Tag) (m : Nat) : (s.setTag n t).owner m = s.owner m := rfl
@[simp] theorem State.post_owner (l : List Instr) (m : Nat) : (s.post l).owner m = s.owner m := rfl
@[simp] theorem State.postLater_owner (l : List Instr) (m : Nat) : (s.postLater l).owner m = s.owner m := rfl
@[simp] theorem State.postFirst_owner (l : List Instr) (m : Nat) : (s.postFirst l).owner m = s.owner m := rfl
@[simp] theorem State.report_owner (e : Event) (m : Nat) : (s.report e).owner m = s.owner m := rfl
@[simp] theorem State.setL1_owner (k n : Nat) (l : L1Line) (m : Nat) : (s.setL1 k n l).owner m = s.owner m := rfl
@[simp] theorem State.dropL1_owner (k n : Nat) (m : Nat) : (s.dropL1 k n).owner m = s.owner m := rfl
@[simp] theorem State.advanceCtx_owner (n : Nat) (m : Nat) : (s.advanceCtx n).owner m = s.owner m := rfl
@[simp] theorem State.setCtx_slice (n : Nat) (c : Ctx) (m : Nat) : (s.setCtx n c).slice m = s.slice m := rfl
@[simp] theorem State.modCtx_slice (n : Nat) (f : Ctx → Ctx) (m : Nat) : (s.modCtx n f).slice m = s.slice m := rfl
@[simp] theorem State.setCore_slice (n : Nat) (c : Core) (m : Nat) : (s.setCore n c).slice m = s.slice m := rfl
@[simp] theorem State.modCore_slice (n : Nat) (f : Core → Core) (m : Nat) : (s.modCore n f).slice m = s.slice m := rfl
@[simp] theorem State.modCluster_slice (n : Nat) (f : Cluster → Cluster) (m : Nat) : (s.modCluster n f).slice m = s.slice m := rfl
@[simp] theorem State.modPorter_slice (n : Nat) (f : Porter → Porter) (m : Nat) : (s.modPorter n f).slice m = s.slice m := rfl
@[simp] theorem State.modOwner_slice (n : Nat) (f : Owner → Owner) (m : Nat) : (s.modOwner n f).slice m = s.slice m := rfl
@[simp] theorem State.setDir_slice (n : Nat) (d : Dir) (m : Nat) : (s.setDir n d).slice m = s.slice m := rfl
@[simp] theorem State.modVcp_slice (n v : Nat) (f : Vcp → Vcp) (m : Nat) : (s.modVcp n v f).slice m = s.slice m := rfl
@[simp] theorem State.modPool_slice (n : Nat) (f : Pool → Pool) (m : Nat) : (s.modPool n f).slice m = s.slice m := rfl
@[simp] theorem State.setTag_slice (n : Nat) (t : Tag) (m : Nat) : (s.setTag n t).slice m = s.slice m := rfl
@[simp] theorem State.post_slice (l : List Instr) (m : Nat) : (s.post l).slice m = s.slice m := rfl
@[simp] theorem State.postLater_slice (l : List Instr) (m : Nat) : (s.postLater l).slice m = s.slice m := rfl
@[simp] theorem State.postFirst_slice (l : List Instr) (m : Nat) : (s.postFirst l).slice m = s.slice m := rfl
@[simp] theorem State.report_slice (e : Event) (m : Nat) : (s.report e).slice m = s.slice m := rfl
@[simp] theorem State.setL1_slice (k n : Nat) (l : L1Line) (m : Nat) : (s.setL1 k n l).slice m = s.slice m := rfl
@[simp] theorem State.dropL1_slice (k n : Nat) (m : Nat) : (s.dropL1 k n).slice m = s.slice m := rfl
@[simp] theorem State.advanceCtx_slice (n : Nat) (m : Nat) : (s.advanceCtx n).slice m = s.slice m := rfl
@[simp] theorem State.setCtx_cluster (n : Nat) (c : Ctx) (m : Nat) : (s.setCtx n c).cluster m = s.cluster m := rfl
@[simp] theorem State.modCtx_cluster (n : Nat) (f : Ctx → Ctx) (m : Nat) : (s.modCtx n f).cluster m = s.cluster m := rfl
@[simp] theorem State.setCore_cluster (n : Nat) (c : Core) (m : Nat) : (s.setCore n c).cluster m = s.cluster m := rfl
@[simp] theorem State.modCore_cluster (n : Nat) (f : Core → Core) (m : Nat) : (s.modCore n f).cluster m = s.cluster m := rfl
@[simp] theorem State.modPorter_cluster (n : Nat) (f : Porter → Porter) (m : Nat) : (s.modPorter n f).cluster m = s.cluster m := rfl
@[simp] theorem State.modSlice_cluster (n : Nat) (f : Slice → Slice) (m : Nat) : (s.modSlice n f).cluster m = s.cluster m := rfl
@[simp] theorem State.modOwner_cluster (n : Nat) (f : Owner → Owner) (m : Nat) : (s.modOwner n f).cluster m = s.cluster m := rfl
@[simp] theorem State.setDir_cluster (n : Nat) (d : Dir) (m : Nat) : (s.setDir n d).cluster m = s.cluster m := rfl
@[simp] theorem State.modVcp_cluster (n v : Nat) (f : Vcp → Vcp) (m : Nat) : (s.modVcp n v f).cluster m = s.cluster m := rfl
@[simp] theorem State.modPool_cluster (n : Nat) (f : Pool → Pool) (m : Nat) : (s.modPool n f).cluster m = s.cluster m := rfl
@[simp] theorem State.setTag_cluster (n : Nat) (t : Tag) (m : Nat) : (s.setTag n t).cluster m = s.cluster m := rfl
@[simp] theorem State.post_cluster (l : List Instr) (m : Nat) : (s.post l).cluster m = s.cluster m := rfl
@[simp] theorem State.postLater_cluster (l : List Instr) (m : Nat) : (s.postLater l).cluster m = s.cluster m := rfl
@[simp] theorem State.postFirst_cluster (l : List Instr) (m : Nat) : (s.postFirst l).cluster m = s.cluster m := rfl
@[simp] theorem State.report_cluster (e : Event) (m : Nat) : (s.report e).cluster m = s.cluster m := rfl
@[simp] theorem State.setL1_cluster (k n : Nat) (l : L1Line) (m : Nat) : (s.setL1 k n l).cluster m = s.cluster m := rfl
@[simp] theorem State.dropL1_cluster (k n : Nat) (m : Nat) : (s.dropL1 k n).cluster m = s.cluster m := rfl
@[simp] theorem State.advanceCtx_cluster (n : Nat) (m : Nat) : (s.advanceCtx n).cluster m = s.cluster m := rfl
@[simp] theorem State.setCtx_dirOf (n : Nat) (c : Ctx) (m : Nat) : (s.setCtx n c).dirOf m = s.dirOf m := rfl
@[simp] theorem State.modCtx_dirOf (n : Nat) (f : Ctx → Ctx) (m : Nat) : (s.modCtx n f).dirOf m = s.dirOf m := rfl
@[simp] theorem State.setCore_dirOf (n : Nat) (c : Core) (m : Nat) : (s.setCore n c).dirOf m = s.dirOf m := rfl
@[simp] theorem State.modCore_dirOf (n : Nat) (f : Core → Core) (m : Nat) : (s.modCore n f).dirOf m = s.dirOf m := rfl
@[simp] theorem State.modCluster_dirOf (n : Nat) (f : Cluster → Cluster) (m : Nat) : (s.modCluster n f).dirOf m = s.dirOf m := rfl
@[simp] theorem State.modPorter_dirOf (n : Nat) (f : Porter → Porter) (m : Nat) : (s.modPorter n f).dirOf m = s.dirOf m := rfl
@[simp] theorem State.modSlice_dirOf (n : Nat) (f : Slice → Slice) (m : Nat) : (s.modSlice n f).dirOf m = s.dirOf m := rfl
@[simp] theorem State.modOwner_dirOf (n : Nat) (f : Owner → Owner) (m : Nat) : (s.modOwner n f).dirOf m = s.dirOf m := rfl
@[simp] theorem State.modVcp_dirOf (n v : Nat) (f : Vcp → Vcp) (m : Nat) : (s.modVcp n v f).dirOf m = s.dirOf m := rfl
@[simp] theorem State.modPool_dirOf (n : Nat) (f : Pool → Pool) (m : Nat) : (s.modPool n f).dirOf m = s.dirOf m := rfl
@[simp] theorem State.setTag_dirOf (n : Nat) (t : Tag) (m : Nat) : (s.setTag n t).dirOf m = s.dirOf m := rfl
@[simp] theorem State.post_dirOf (l : List Instr) (m : Nat) : (s.post l).dirOf m = s.dirOf m := rfl
@[simp] theorem State.postLater_dirOf (l : List Instr) (m : Nat) : (s.postLater l).dirOf m = s.dirOf m := rfl
@[simp] theorem State.postFirst_dirOf (l : List Instr) (m : Nat) : (s.postFirst l).dirOf m = s.dirOf m := rfl
@[simp] theorem State.report_dirOf (e : Event) (m : Nat) : (s.report e).dirOf m = s.dirOf m := rfl
@[simp] theorem State.setL1_dirOf (k n : Nat) (l : L1Line) (m : Nat) : (s.setL1 k n l).dirOf m = s.dirOf m := rfl
@[simp] theorem State.dropL1_dirOf (k n : Nat) (m : Nat) : (s.dropL1 k n).dirOf m = s.dirOf m := rfl
@[simp] theorem State.advanceCtx_dirOf (n : Nat) (m : Nat) : (s.advanceCtx n).dirOf m = s.dirOf m := rfl
@[simp] theorem State.setCtx_pool (n : Nat) (c : Ctx) (m : Nat) : (s.setCtx n c).pool m = s.pool m := rfl
@[simp] theorem State.modCtx_pool (n : Nat) (f : Ctx → Ctx) (m : Nat) : (s.modCtx n f).pool m = s.pool m := rfl
@[simp] theorem State.setCore_pool (n : Nat) (c : Core) (m : Nat) : (s.setCore n c).pool m = s.pool m := rfl
@[simp] theorem State.modCore_pool (n : Nat) (f : Core → Core) (m : Nat) : (s.modCore n f).pool m = s.pool m := rfl
@[simp] theorem State.modCluster_pool (n : Nat) (f : Cluster → Cluster) (m : Nat) : (s.modCluster n f).pool m = s.pool m := rfl
@[simp] theorem State.modPorter_pool (n : Nat) (f : Porter → Porter) (m : Nat) : (s.modPorter n f).pool m = s.pool m := rfl
@[simp] theorem State.modSlice_pool (n : Nat) (f : Slice → Slice) (m : Nat) : (s.modSlice n f).pool m = s.pool m := rfl
@[simp] theorem State.modOwner_pool (n : Nat) (f : Owner → Owner) (m : Nat) : (s.modOwner n f).pool m = s.pool m := rfl
@[simp] theorem State.setDir_pool (n : Nat) (d : Dir) (m : Nat) : (s.setDir n d).pool m = s.pool m := rfl
@[simp] theorem State.modVcp_pool (n v : Nat) (f : Vcp → Vcp) (m : Nat) : (s.modVcp n v f).pool m = s.pool m := rfl
@[simp] theorem State.setTag_pool (n : Nat) (t : Tag) (m : Nat) : (s.setTag n t).pool m = s.pool m := rfl
@[simp] theorem State.post_pool (l : List Instr) (m : Nat) : (s.post l).pool m = s.pool m := rfl
@[simp] theorem State.postLater_pool (l : List Instr) (m : Nat) : (s.postLater l).pool m = s.pool m := rfl
@[simp] theorem State.postFirst_pool (l : List Instr) (m : Nat) : (s.postFirst l).pool m = s.pool m := rfl
@[simp] theorem State.report_pool (e : Event) (m : Nat) : (s.report e).pool m = s.pool m := rfl
@[simp] theorem State.setL1_pool (k n : Nat) (l : L1Line) (m : Nat) : (s.setL1 k n l).pool m = s.pool m := rfl
@[simp] theorem State.dropL1_pool (k n : Nat) (m : Nat) : (s.dropL1 k n).pool m = s.pool m := rfl
@[simp] theorem State.advanceCtx_pool (n : Nat) (m : Nat) : (s.advanceCtx n).pool m = s.pool m := rfl
@[simp] theorem State.setCtx_tagAt (n : Nat) (c : Ctx) (m : Nat) : (s.setCtx n c).tagAt m = s.tagAt m := rfl
@[simp] theorem State.modCtx_tagAt (n : Nat) (f : Ctx → Ctx) (m : Nat) : (s.modCtx n f).tagAt m = s.tagAt m := rfl
@[simp] theorem State.setCore_tagAt (n : Nat) (c : Core) (m : Nat) : (s.setCore n c).tagAt m = s.tagAt m := rfl
@[simp] theorem State.modCore_tagAt (n : Nat) (f : Core → Core) (m : Nat) : (s.modCore n f).tagAt m = s.tagAt m := rfl
@[simp] theorem State.modCluster_tagAt (n : Nat) (f : Cluster → Cluster) (m : Nat) : (s.modCluster n f).tagAt m = s.tagAt m := rfl
@[simp] theorem State.modPorter_tagAt (n : Nat) (f : Porter → Porter) (m : Nat) : (s.modPorter n f).tagAt m = s.tagAt m := rfl
@[simp] theorem State.modSlice_tagAt (n : Nat) (f : Slice → Slice) (m : Nat) : (s.modSlice n f).tagAt m = s.tagAt m := rfl
@[simp] theorem State.modOwner_tagAt (n : Nat) (f : Owner → Owner) (m : Nat) : (s.modOwner n f).tagAt m = s.tagAt m := rfl
@[simp] theorem State.setDir_tagAt (n : Nat) (d : Dir) (m : Nat) : (s.setDir n d).tagAt m = s.tagAt m := rfl
@[simp] theorem State.modVcp_tagAt (n v : Nat) (f : Vcp → Vcp) (m : Nat) : (s.modVcp n v f).tagAt m = s.tagAt m := rfl
@[simp] theorem State.modPool_tagAt (n : Nat) (f : Pool → Pool) (m : Nat) : (s.modPool n f).tagAt m = s.tagAt m := rfl
@[simp] theorem State.post_tagAt (l : List Instr) (m : Nat) : (s.post l).tagAt m = s.tagAt m := rfl
@[simp] theorem State.postLater_tagAt (l : List Instr) (m : Nat) : (s.postLater l).tagAt m = s.tagAt m := rfl
@[simp] theorem State.postFirst_tagAt (l : List Instr) (m : Nat) : (s.postFirst l).tagAt m = s.tagAt m := rfl
@[simp] theorem State.report_tagAt (e : Event) (m : Nat) : (s.report e).tagAt m = s.tagAt m := rfl
@[simp] theorem State.setL1_tagAt (k n : Nat) (l : L1Line) (m : Nat) : (s.setL1 k n l).tagAt m = s.tagAt m := rfl
@[simp] theorem State.dropL1_tagAt (k n : Nat) (m : Nat) : (s.dropL1 k n).tagAt m = s.tagAt m := rfl
@[simp] theorem State.advanceCtx_tagAt (n : Nat) (m : Nat) : (s.advanceCtx n).tagAt m = s.tagAt m := rfl
@[simp] theorem State.setCtx_resource (n : Nat) (c : Ctx) (i j : Nat) : (s.setCtx n c).resource i j = s.resource i j := rfl
@[simp] theorem State.modCtx_resource (n : Nat) (f : Ctx → Ctx) (i j : Nat) : (s.modCtx n f).resource i j = s.resource i j := rfl
@[simp] theorem State.setCore_resource (n : Nat) (c : Core) (i j : Nat) : (s.setCore n c).resource i j = s.resource i j := rfl
@[simp] theorem State.modCore_resource (n : Nat) (f : Core → Core) (i j : Nat) : (s.modCore n f).resource i j = s.resource i j := rfl
@[simp] theorem State.modCluster_resource (n : Nat) (f : Cluster → Cluster) (i j : Nat) : (s.modCluster n f).resource i j = s.resource i j := rfl
@[simp] theorem State.modPorter_resource (n : Nat) (f : Porter → Porter) (i j : Nat) : (s.modPorter n f).resource i j = s.resource i j := rfl
@[simp] theorem State.modSlice_resource (n : Nat) (f : Slice → Slice) (i j : Nat) : (s.modSlice n f).resource i j = s.resource i j := rfl
@[simp] theorem State.modOwner_resource (n : Nat) (f : Owner → Owner) (i j : Nat) : (s.modOwner n f).resource i j = s.resource i j := rfl
@[simp] theorem State.setDir_resource (n : Nat) (d : Dir) (i j : Nat) : (s.setDir n d).resource i j = s.resource i j := rfl
@[simp] theorem State.modVcp_resource (n v : Nat) (f : Vcp → Vcp) (i j : Nat) : (s.modVcp n v f).resource i j = s.resource i j := rfl
@[simp] theorem State.modPool_resource (n : Nat) (f : Pool → Pool) (i j : Nat) : (s.modPool n f).resource i j = s.resource i j := rfl
@[simp] theorem State.setTag_resource (n : Nat) (t : Tag) (i j : Nat) : (s.setTag n t).resource i j = s.resource i j := rfl
@[simp] theorem State.post_resource (l : List Instr) (i j : Nat) : (s.post l).resource i j = s.resource i j := rfl
@[simp] theorem State.postLater_resource (l : List Instr) (i j : Nat) : (s.postLater l).resource i j = s.resource i j := rfl
@[simp] theorem State.postFirst_resource (l : List Instr) (i j : Nat) : (s.postFirst l).resource i j = s.resource i j := rfl
@[simp] theorem State.report_resource (e : Event) (i j : Nat) : (s.report e).resource i j = s.resource i j := rfl
@[simp] theorem State.setL1_resource (k n : Nat) (l : L1Line) (i j : Nat) : (s.setL1 k n l).resource i j = s.resource i j := rfl
@[simp] theorem State.dropL1_resource (k n : Nat) (i j : Nat) : (s.dropL1 k n).resource i j = s.resource i j := rfl
@[simp] theorem State.advanceCtx_resource (n : Nat) (i j : Nat) : (s.advanceCtx n).resource i j = s.resource i j := rfl

/-- A unit read after it is written, and the others. -/
@[simp] theorem State.setCtx_ctx_same (n : Nat) (c : Ctx) : (s.setCtx n c).ctx n = c := by simp [State.setCtx, State.ctx, tget_tset]
theorem State.setCtx_ctx_other (n m : Nat) (c : Ctx) (h : m ≠ n) : (s.setCtx n c).ctx m = s.ctx m := by
  simp [State.setCtx, State.ctx, tget_tset, h]
@[simp] theorem State.modCtx_ctx_same (n : Nat) (f : Ctx → Ctx) : (s.modCtx n f).ctx n = f (s.ctx n) := by simp [State.modCtx]
theorem State.modCtx_ctx_other (n m : Nat) (f : Ctx → Ctx) (h : m ≠ n) : (s.modCtx n f).ctx m = s.ctx m := by
  simp [State.modCtx, State.setCtx_ctx_other, h]
@[simp] theorem State.setCore_core_same (n : Nat) (c : Core) : (s.setCore n c).core n = c := by
  simp [State.setCore, State.core, tget_tset]
theorem State.setCore_core_other (n m : Nat) (c : Core) (h : m ≠ n) : (s.setCore n c).core m = s.core m := by
  simp [State.setCore, State.core, tget_tset, h]
@[simp] theorem State.modCore_core_same (n : Nat) (f : Core → Core) : (s.modCore n f).core n = f (s.core n) := by simp [State.modCore]
theorem State.modCore_core_other (n m : Nat) (f : Core → Core) (h : m ≠ n) : (s.modCore n f).core m = s.core m := by
  simp [State.modCore, State.setCore_core_other, h]
@[simp] theorem State.modOwner_owner_same (n : Nat) (f : Owner → Owner) : (s.modOwner n f).owner n = f (s.owner n) := by
  simp [State.modOwner, State.owner, tget_tset]
@[simp] theorem State.modSlice_slice_same (n : Nat) (f : Slice → Slice) : (s.modSlice n f).slice n = f (s.slice n) := by
  simp [State.modSlice, State.slice, tget_tset]

end

end Sys2Proof.Machine
end

