-- ==== Sys2Proof/Laws/Ops.lean ====
section
/-!
SUPPORT. What the shared operations of an instruction do: how an effect runs, the checks that pass, the operands that are read, and the
results that are given.
-/

set_option Elab.async false

namespace Sys2Proof.Machine

section
variable {α β : Type} (s : State)

/-- How an effect runs, step by step. -/
theorem Ex.bind_apply (x : Ex α) (f : α → Ex β) : (x >>= f) s = match x s with
    | .ok a t => f a t
    | .error e t => .error e t := by
  simp only [bind, EStateM.bind]
  split <;> simp_all
@[simp] theorem Ex.map_apply (f : α → β) (x : Ex α) : (f <$> x) s = match x s with
    | .ok a t => .ok (f a) t
    | .error e t => .error e t := by
  simp only [Functor.map, EStateM.map]
  split <;> simp_all
/-- A choice between effects is a choice between their outcomes. -/
@[simp] theorem Ex.ite_apply (c : Prop) [Decidable c] (x y : Ex α) : (if c then x else y) s = if c then x s else y s := by
  split <;> rfl
theorem Ex.bind_ok (x : Ex α) (f : α → Ex β) (a : α) (t : State) (h : x s = .ok a t) : (x >>= f) s = f a t := by
  simp [Ex.bind_apply, h]
theorem Ex.bind_error (x : Ex α) (f : α → Ex β) (e : Stop) (t : State) (h : x s = .error e t) : (x >>= f) s = .error e t := by
  simp [Ex.bind_apply, h]
@[simp] theorem Ex.pure_apply (a : α) : (pure a : Ex α) s = .ok a s := rfl
@[simp] theorem Ex.get_apply : (get : Ex State) s = .ok s s := rfl
@[simp] theorem Ex.set_apply (t : State) : (set t : Ex PUnit) s = .ok ⟨⟩ t := rfl
@[simp] theorem Ex.modify_apply (f : State → State) : (modify f : Ex PUnit) s = .ok ⟨⟩ (f s) := rfl
@[simp] theorem Ex.throw_apply (e : Stop) : (throw e : Ex α) s = .error e s := rfl
@[simp] theorem Ex.me_apply : me s = .ok s.here s := rfl
@[simp] theorem Ex.modMe_apply (f : Ctx → Ctx) : modMe f s = .ok ⟨⟩ (s.modCtx s.cur f) := rfl
@[simp] theorem Ex.stop_apply : (stop : Ex α) s = .error .done s := rfl
@[simp] theorem Ex.wr_apply (r : GReg) (v : Word) : wr r v s = .ok ⟨⟩ (s.wrote r v) := rfl
@[simp] theorem Ex.wrV_apply (r : VReg) (d : BitVec 512) (t : Tag) : wrV r d t s = .ok ⟨⟩ (s.setV s.cur r.toNat d t) := rfl
@[simp] theorem Ex.advance_apply : advance s = .ok ⟨⟩ s.done := rfl
@[simp] theorem Ex.goTo_apply (t : Word) : goTo t s = .ok ⟨⟩ (s.modCtx s.cur fun c => c.goOn t) := rfl
@[simp] theorem Ex.pop_apply (ops : List Opnd) : pop ops s = .ok ⟨⟩ (s.popAll ops) := rfl
@[simp] theorem Ex.produce_apply (d : Dest) (h : Option Req) (acq : Bool) :
    produce d h acq s = .ok s.nextId (s.began d h acq) := rfl
@[simp] theorem Ex.arriveLater_apply (pid : Nat) (v : Arrival) :
    arriveLater pid v s = .ok ⟨⟩ (s.post [.producerArrive s.cur pid v]) := rfl

/-- A trap ends the instruction with the trap taken (R216, R217). -/
@[simp] theorem Ex.trap_apply (c : Cause) (v i : Word) :
    (trap c v i : Ex α) s = .error .done (s.takeTrap s.cur s.here.pc c v i false) := rfl
/-- A wait ends the instruction with the context BLOCKED (R188). -/
@[simp] theorem Ex.blockOn_apply (w : Wait) : (blockOn w : Ex α) s = .error .done (s.modCtx s.cur fun c => c.block w s.dtc) := rfl

end

/-- An effect that runs to its end gives a next state; so does one that ends early; only a device register refuses. -/
theorem runEx_ok (m : Ex Unit) (s t : State) (h : m s = .ok () t) : runEx m s = .next t := by simp [runEx, h]
theorem runEx_done (m : Ex Unit) (s t : State) (h : m s = .error .done t) : runEx m s = .next t := by simp [runEx, h]
theorem runEx_outcome (m : Ex Unit) (s : State) : (∃ t, runEx m s = .next t) ∨ ∃ pa, runEx m s = .refused (.deviceRegister pa) := by
  unfold runEx
  split
  · exact .inl ⟨_, rfl⟩
  · exact .inl ⟨_, rfl⟩
  · exact .inr ⟨_, rfl⟩

section
variable (s : State)

theorem needGroup_ok (g : Group) (h : s.mayUse g = true) : needGroup g s = .ok () s := by
  simp only [State.mayUse, Bool.or_eq_true] at h
  simp [needGroup, Ex.bind_apply, h]
theorem needGroup_undef (g : Group) (h : s.mayUse g = false) :
    needGroup g s = .error .done (s.takeTrap s.cur s.here.pc .undef (s.here.head.setWidth 64) 0 false) := by
  simp only [State.mayUse, Bool.or_eq_false_iff] at h
  simp [needGroup, undef, Ex.bind_apply, h]

theorem vecChecks_ok (g : Group) (h : s.mayVec g = true) : vecChecks g s = .ok () s := by
  simp only [State.mayVec, Bool.and_eq_true] at h
  have h2 : isChannel (coreOf s.cur) = false := by simpa using h.2
  simp [vecChecks, Ex.bind_apply, needGroup_ok s g h.1.1, needVector, h.1.2, h2]

theorem checkSource_ok (r : Nat) (m : Bool) (h : s.srcReady r = true) : checkSource r m s = .ok () s := by
  simp only [State.srcReady, Bool.and_eq_true, Option.isNone_iff_eq_none, beq_iff_eq] at h
  simp [checkSource, Ex.bind_apply, h.1.1, h.1.2, h.2]

theorem checkDest_ok (r : Nat) (h : s.dstReady r = true) : checkDest r s = .ok () s := by
  unfold State.dstReady at h
  simp only [checkDest, Ex.bind_apply, Ex.get_apply, Ex.me_apply]
  by_cases h0 : r = 0
  · simp [h0]
  · simp only [h0, if_false]
    cases hb : s.here.bound r with
    | none => simp [h0, hb] at h; simp [h]
    | some b => simp [h0, hb] at h; simp [h.1, Nat.not_le.2 h.2]

/-- The reading checks pass when every operand can be read or written, and change nothing (R267 step 4). -/
theorem checkOpnds_ok (ops : List Opnd) (h : s.readable ops = true) : checkOpnds ops s = .ok () s := by
  induction ops with
  | nil => rfl
  | cons o r ih =>
    simp only [State.readable, List.all_cons, Bool.and_eq_true] at h
    cases o with
    | src k m => simp [checkOpnds, Ex.bind_apply, checkSource_ok s k m h.1, ih h.2]
    | dst k => simp [checkOpnds, Ex.bind_apply, checkDest_ok s k h.1, ih h.2]

/-- A source's value: the register's, or the word at the head of its queue (R191, R196). -/
def Opnd.valueIn (s : State) : Opnd → Word
  | .src r _ => if r < 64 then s.gValue r else 0
  | .dst _ => 0

theorem peekAll_ok (ops : List Opnd) (h : s.readable ops = true) : peekAll ops s = .ok (ops.map (Opnd.valueIn s)) s := by
  simp only [peekAll, Ex.bind_apply, checkOpnds_ok s ops h, Ex.get_apply, Ex.pure_apply]
  congr 1

@[simp] theorem src_valueIn (x : Src) : (src x).valueIn s = s.gValue x.reg.toNat := by
  have : x.reg.toNat < 64 := x.reg.isLt
  simp [src, Opnd.valueIn, this]
@[simp] theorem src0_valueIn (r : GReg) : (src0 r).valueIn s = s.gValue r.toNat := by
  have : r.toNat < 64 := r.isLt
  simp [src0, Opnd.valueIn, this]

theorem pk1_ok (b : Opnd) (ds : List Opnd) (h : s.readable (b :: ds) = true) : pk1 b ds s = .ok (b.valueIn s) s := by
  simp [pk1, Ex.bind_apply, peekAll_ok s _ h, Opnd.valueIn]
theorem pk2_ok (b c : Opnd) (ds : List Opnd) (h : s.readable (b :: c :: ds) = true) :
    pk2 b c ds s = .ok (b.valueIn s, c.valueIn s) s := by
  simp [pk2, Ex.bind_apply, peekAll_ok s _ h, Opnd.valueIn]
theorem pk3_ok (b c d : Opnd) (ds : List Opnd) (h : s.readable (b :: c :: d :: ds) = true) :
    pk3 b c d ds s = .ok (b.valueIn s, c.valueIn s, d.valueIn s) s := by
  simp [pk3, Ex.bind_apply, peekAll_ok s _ h, Opnd.valueIn]
theorem rd1_ok (b : Opnd) (ds : List Opnd) (h : s.readable (b :: ds) = true) :
    rd1 b ds s = .ok (b.valueIn s) (s.popAll (b :: ds)) := by
  simp [rd1, Ex.bind_apply, pk1_ok s b ds h]
theorem rd2_ok (b c : Opnd) (ds : List Opnd) (h : s.readable (b :: c :: ds) = true) :
    rd2 b c ds s = .ok (b.valueIn s, c.valueIn s) (s.popAll (b :: c :: ds)) := by
  simp [rd2, Ex.bind_apply, pk2_ok s b c ds h]
theorem rd3_ok (b c d : Opnd) (ds : List Opnd) (h : s.readable (b :: c :: d :: ds) = true) :
    rd3 b c d ds s = .ok (b.valueIn s, c.valueIn s, d.valueIn s) (s.popAll (b :: c :: d :: ds)) := by
  simp [rd3, Ex.bind_apply, pk3_ok s b c d ds h]

/-- An operation on two registers whose checks pass (R275). -/
theorem op2_ok (d : GReg) (b c : Src) (f : Word → Word → Word) (hg : s.mayUse .base = true)
    (h : s.readable [src b, src c, dst d] = true) :
    op2 d b c f s = .ok () (s.givesG [src b, src c, dst d] d (f (s.gValue b.reg.toNat) (s.gValue c.reg.toNat))) := by
  simp [op2, Ex.bind_apply, needGroup_ok s _ hg, rd2_ok s _ _ _ h, State.givesG]
/-- An operation on one register whose checks pass (R278, R280, R281). -/
theorem op1_ok (d : GReg) (b : Src) (f : Word → Word) (hg : s.mayUse .base = true) (h : s.readable [src b, dst d] = true) :
    op1 d b f s = .ok () (s.givesG [src b, dst d] d (f (s.gValue b.reg.toNat))) := by
  simp [op1, Ex.bind_apply, needGroup_ok s _ hg, rd1_ok s _ _ h, State.givesG]
theorem opConst_ok (d : GReg) (v : Word) (hg : s.mayUse .base = true) (h : s.dstReady d.toNat = true) :
    opConst d v s = .ok () ((s.wrote d v).done) := by
  simp [opConst, Ex.bind_apply, needGroup_ok s _ hg, checkDest_ok s _ h]
/-- A long-latency operation whose checks pass (R269). -/
theorem long2_ok (d : GReg) (b c : Src) (f : Word → Word → Word) (hg : s.mayUse .base = true)
    (h : s.readable [src b, src c, dst d] = true) :
    long2 d b c f s = .ok () (s.givesLater [src b, src c, dst d] (.g d.toNat)
      (.word (f (s.gValue b.reg.toNat) (s.gValue c.reg.toNat)))) := by
  simp [long2, Ex.bind_apply, needGroup_ok s _ hg, rd2_ok s _ _ _ h, State.givesLater]
theorem long1_ok (d : GReg) (b : Src) (f : Word → Word) (hg : s.mayUse .base = true) (h : s.readable [src b, dst d] = true) :
    long1 d b f s = .ok () (s.givesLater [src b, dst d] (.g d.toNat) (.word (f (s.gValue b.reg.toNat)))) := by
  simp [long1, Ex.bind_apply, needGroup_ok s _ hg, rd1_ok s _ _ h, State.givesLater]

end

end Sys2Proof.Machine
end

