-- ==== Sys2Proof/Laws/Access.lean ====
section
/-!
SUPPORT. What the checks of an access come to when they pass: the gate, translation, the target, the order of a context's own accesses, and
the checks on the target of a transfer.
-/

set_option Elab.async false

namespace Sys2Proof.Machine

section
variable (s : State)

theorem gate_ok (h : s.here.gated = false) : gate s = .ok () s := by
  simp [gate, Ex.bind_apply, h]

theorem translate_ok (va : Word) (acc : Acc) (n pa : Nat) (e : TlbEntry) (h : s.pageOk va acc pa e = true) :
    translate va acc n s = .ok (pa, e) s := by
  unfold State.pageOk at h
  split at h
  · rename_i f hf
    simp only [Bool.and_eq_true, Bool.or_eq_true, Bool.not_eq_true', beq_iff_eq] at h
    obtain ⟨⟨hd, hp⟩, hr⟩ := h
    have hw : ¬(acc.writes = true ∧ f.dirty = false) := by
      rcases hd with hd | hd <;> simp [hd]
    simp only [translate, Ex.bind_apply, Ex.get_apply, Ex.me_apply, hf, if_neg hw]
    split at hr
    all_goals first | exact absurd hr (by decide) | (rename_i hq; simp [hp])
  · cases h

/-- An access to the context's own local store (R297, R299). -/
theorem resolve_local (va : Word) (n off : Nat) (acc : Acc) (h : s.localOk va n off acc.writes = true) :
    resolve va n n acc s = .ok (.store (coreOf s.cur) off) s := by
  simp only [State.localOk, Bool.and_eq_true, Bool.not_eq_true', beq_iff_eq, Option.isNone_iff_eq_none] at h
  obtain ⟨⟨⟨⟨⟨⟨_, hf⟩, ha⟩, hl⟩, hd⟩, hh⟩, hw⟩ := h
  simp [resolve, Ex.bind_apply, hf, ha, hl, hd, localAccess, hh, State.localTarget, hw]
theorem localOk_gate (va : Word) (n off : Nat) (w : Bool) (h : s.localOk va n off w = true) : gate s = .ok () s := by
  simp only [State.localOk, Bool.and_eq_true, Bool.not_eq_true'] at h
  exact gate_ok s h.1.1.1.1.1.1

/-- An access to memory (R297, R299). -/
theorem resolve_page (va : Word) (n pa : Nat) (acc : Acc) (e : TlbEntry) (h : s.memAt va n acc pa e = true) :
    resolve va n n acc s = .ok (.mem pa e) s := by
  simp only [State.memAt, Bool.and_eq_true, Bool.not_eq_true', beq_iff_eq, Option.isNone_iff_eq_none] at h
  obtain ⟨⟨⟨⟨_, hf⟩, ha⟩, hl⟩, hp⟩ := h
  simp [resolve, Ex.bind_apply, hf, ha, hl, translate_ok s va acc n pa e hp]
theorem memAt_gate (va : Word) (n pa : Nat) (acc : Acc) (e : TlbEntry) (h : s.memAt va n acc pa e = true) : gate s = .ok () s := by
  simp only [State.memAt, Bool.and_eq_true, Bool.not_eq_true'] at h
  exact gate_ok s h.1.1.1.1

theorem ordered_ok (pa : Nat) (h : s.blockFree pa = true) : ordered pa s = .ok () s := by
  simp only [State.blockFree, Bool.and_eq_true, Bool.not_eq_true'] at h
  obtain ⟨⟨hw, hb⟩, _⟩ := h
  have : s.flushWs s.cur pa = s := if_pos hw
  simp [ordered, Ex.bind_apply, this, hb]
theorem orderedHome_ok (pa : Nat) (h : s.blockFree pa = true) : orderedHome pa s = .ok () s := by
  have h0 := ordered_ok s pa h
  simp only [State.blockFree, Bool.and_eq_true, Bool.not_eq_true'] at h
  simp only [orderedHome, Ex.bind_apply, h0, Ex.get_apply]
  cases hl : s.l1 (coreOf s.cur) (pa / 64) with
  | none => rfl
  | some l =>
    have h2 : (l.wait.any fun w => w.ctx == s.cur) = false := by simpa [hl] using h.2
    simp only [h2, Bool.false_eq_true, if_false, Ex.pure_apply]
theorem typeGate_ok (ct : PageType) (h : ct = .rc ∨ ct = .sc → s.scGated s.cur = false) : typeGate ct s = .ok () s := by
  have hn : ¬((ct = .rc ∨ ct = .sc) ∧ s.scGated s.cur = true) := fun hc => by simp [h hc.1] at hc
  simp only [typeGate, Ex.bind_apply, Ex.get_apply, if_neg hn, Ex.pure_apply]
theorem scWait_sc (h : s.scReady = true) : scWait .sc s = .ok () s := by
  simp only [State.scReady, Bool.and_eq_true, Bool.not_eq_true'] at h
  obtain ⟨⟨⟨h1, h2⟩, h3⟩, h4⟩ := h
  have h5 : ((s.ctx s.cur).producers.any fun p => (p.home.map ordersSc).getD false) = false := h4
  simp only [scWait, if_true, Ex.bind_apply, typeGate_ok s .sc (fun _ => h1), Ex.get_apply, h2, h3, h5, Bool.or_false, Bool.false_eq_true,
    if_false, Ex.pure_apply]
theorem scWait_other (ct : PageType) (h : ct ≠ .sc) (h2 : ct = .rc → s.scGated s.cur = false) : scWait ct s = .ok () s := by
  simp [scWait, h, Ex.bind_apply, typeGate_ok s ct (fun hc => h2 (hc.resolve_right h))]

/-- A load from the context's own local store (R299, R300). -/
theorem loadTo_local (dst : Dest) (va : Word) (n off : Nat) (sg vec nt acq : Bool) (ops : List Opnd) (h : s.localOk va n off false = true) :
    loadTo dst va n sg vec nt acq (pop ops) s = .ok () (s.givesLoad ops dst (s.localReq va n) acq
      (loadValue (s.ownBlock off).1 (s.ownBlock off).2 off n sg vec)) := by
  have h2 : s.localOk va n off (Acc.writes .read) = true := h
  simp only [loadTo, Ex.bind_apply, localOk_gate s _ _ _ _ h, resolve_local s _ _ _ _ h2, mkReq, beginLoad, State.givesLoad, State.localReq,
    State.ownBlock, Ex.get_apply, Ex.me_apply, Ex.pure_apply, Ex.pop_apply, Ex.set_apply, Ex.advance_apply, Ex.arriveLater_apply]

/-- A store to the context's own local store (R299, R300). -/
theorem storeTo_local (va : Word) (n off : Nat) (st : Stored) (k : StoreKind) (ops : List Opnd) (h : s.localOk va n off true = true) :
    storeTo va n st k none (pop ops) s = .ok () (s.storesLocal ops off st) := by
  have h2 : s.localOk va n off (Acc.writes .write) = true := h
  simp only [storeTo, Ex.bind_apply, localOk_gate s _ _ _ _ h, resolve_local s _ _ _ _ h2, mkReq, State.storesLocal, Option.isSome,
    Bool.false_eq_true, if_false, Ex.get_apply, Ex.me_apply, Ex.pure_apply, Ex.pop_apply, Ex.modify_apply, Ex.advance_apply]

theorem takeOwed_ok (h : s.here.owed = none) : takeOwed s = .ok () s := by simp [takeOwed, Ex.bind_apply, h]

/-- A release on a core that binds no window (R178). -/
theorem release_ok (sc : BitVec 3) (g : Bool) (q : Option Req) (hw : (s.core (coreOf s.cur)).windows = [])
    (hm : s.windowMerging (coreOf s.cur) true = false) (ho : s.here.owed = none) : release sc g q s = .ok () (s.startRelease s.cur sc g q) := by
  simp [release, releaseWindows, Ex.bind_apply, hw, flushWindows, hm, takeOwed_ok s ho]

/-- A releasing store to the context's own local store (R301). -/
theorem storeTo_local_rel (va : Word) (n off : Nat) (st : Stored) (sc : BitVec 3) (ops : List Opnd) (h : s.localOk va n off true = true)
    (ht : st.tag = none) (hw : (s.core (coreOf s.cur)).windows = []) (hm : s.windowMerging (coreOf s.cur) true = false) (ho : s.here.owed = none) :
    storeTo va n st .plain (some sc) (pop ops) s = .ok () ((s.startRelease s.cur sc false (some { s.localReq va n with
      op := .winFill, c := w64 off, data := st.data, mask := st.mask })).popAll ops).done := by
  have h2 : s.localOk va n off (Acc.writes .write) = true := h
  simp only [storeTo, Ex.bind_apply, localOk_gate s _ _ _ _ h, resolve_local s _ _ _ _ h2, mkReq, takeOwed_ok s ho, Option.isSome, if_true,
    release_ok s _ _ _ hw hm ho, Ex.get_apply, Ex.me_apply, Ex.pure_apply, Ex.pop_apply, Ex.advance_apply, State.localReq, ht, Option.getD_none]

theorem needScope_ok (sc : BitVec 3) (h : (sc = 5 ∨ sc = 6) → s.mayUse .peer = true) : needScope sc s = .ok () s := by
  unfold needScope
  split
  · exact needGroup_ok s _ (h (by assumption))
  · rfl

/-- The home of a word (R299, R172, R174). -/
theorem homeTarget_ok (op : HomeOp) (va : Word) (acc : Acc) (fe : Bool) (pa : Nat) (e : TlbEntry) (h : s.homeAt va acc fe pa e = true) :
    homeTarget op va acc fe s = .ok (none, s.homeReq op pa va) s := by
  simp only [State.homeAt, Bool.and_eq_true, beq_iff_eq, Bool.or_eq_true, Bool.not_eq_true'] at h
  obtain ⟨⟨⟨⟨⟨hm, hr⟩, hc⟩, hf⟩, hs⟩, hb⟩ := h
  have hf' : ¬(fe = true ∧ e.fe = false) := by rcases hf with hf | hf <;> simp [hf]
  simp [homeTarget, Ex.bind_apply, memAt_gate s _ _ _ _ _ hm, resolve_page s _ _ _ _ _ hm, hr, hc, hf', scWait_sc s hs, orderedHome_ok s _ hb,
    mkReq, State.homeReq]

/-- The checks on a target pass (R258). -/
theorem checkTarget_ok (t : Word) (pa : Nat) (e : TlbEntry) (h : s.codeAt t pa e = true) : checkTarget t s = .ok () s := by
  simp only [State.codeAt, Bool.and_eq_true, beq_iff_eq, bne_iff_ne] at h
  obtain ⟨⟨⟨hf, hp⟩, hr⟩, hl⟩ := h
  split at hl
  · rename_i l hl2
    simp only [Bool.and_eq_true, Bool.not_eq_true'] at hl
    simp [checkTarget, fetchLine, Ex.bind_apply, hf, translate_ok s _ _ _ _ _ hp, hr, hl2, hl.1, hl.2]
  · cases hl

end

end Sys2Proof.Machine
end

