-- ==== Sys2Proof/Laws/Atomics.lean ====
section
/-!
SUPPORT. What AMO and RED do on the context's own local store (R170, R312).
-/

set_option Elab.async false

namespace Sys2Proof.Machine

variable (s : State)

theorem amo_local (d : GReg) (b c : Src) (x : Option Src) (fn : BitVec 4) (wide acq : Bool) (sc : BitVec 3) (off : Nat)
    (hg : s.mayUse .base = true) (hp : (sc = 5 ∨ sc = 6) → s.mayUse .peer = true)
    (hr : s.readable ([src b, src c] ++ (x.map src).toList ++ [dst d]) = true)
    (hl : s.localOk (s.gValue b.reg.toNat) (if wide then 8 else 4) off true = true) :
    atomicOp (some d) b c x fn wide acq false sc s = .ok () (
      let n := if wide then 8 else 4
      let old := blockBytes (s.ownBlock off).1 (off % 64) n
      let t := s.givesLoad ([src b, src c] ++ (x.map src).toList) (.g d.toNat) { s.localReq (s.gValue b.reg.toNat) n with op := .amo }
        (acq && sc != 0) (.word (w64 old))
      match amoFn fn n old (s.gValue c.reg.toNat).toNat ((x.map fun x => s.gValue x.reg.toNat).getD 0).toNat with
      | some v => t.localWrite (coreOf s.cur) off (placeBytes (off % 64) v) (rangeMask (off % 64) n) none
      | none => t) := by
  have h2 : s.localOk (s.gValue b.reg.toNat) (if wide then 8 else 4) off (Acc.writes .atomic) = true := hl
  have hr' : s.readable ([src b, src c] ++ (x.map src).toList ++ (some (dst d)).toList) = true := hr
  simp only [atomicOp, Ex.bind_apply, needGroup_ok s _ hg, needScope_ok s _ hp, Option.map_some, checkOpnds_ok s _ hr', Ex.get_apply,
    localOk_gate s _ _ _ _ hl, Bool.false_eq_true, if_false, Ex.pure_apply, resolve_local s _ _ _ _ h2, releaseFirst, mkReq, Ex.me_apply,
    Option.isSome, if_true, beginLoad, Ex.pop_apply, Ex.set_apply, Ex.advance_apply, Ex.arriveLater_apply]
  cases wide <;> simp only [State.ownBlock, Bool.false_eq_true, if_false, if_true] <;> generalize amoFn _ _ _ _ _ = o <;> cases o <;> rfl

theorem red_local (b c : Src) (fn : BitVec 4) (wide : Bool) (sc : BitVec 3) (off : Nat) (hg : s.mayUse .base = true)
    (hp : (sc = 5 ∨ sc = 6) → s.mayUse .peer = true) (hr : s.readable [src b, src c] = true)
    (hl : s.localOk (s.gValue b.reg.toNat) (if wide then 8 else 4) off true = true) :
    red b c fn wide false sc s = .ok () (
      let n := if wide then 8 else 4
      let old := blockBytes (s.ownBlock off).1 (off % 64) n
      let t := (s.popAll [src b, src c]).done
      match amoFn fn n old (s.gValue c.reg.toNat).toNat 0 with
      | some v => t.localWrite (coreOf s.cur) off (placeBytes (off % 64) v) (rangeMask (off % 64) n) none
      | none => t) := by
  have h2 : s.localOk (s.gValue b.reg.toNat) (if wide then 8 else 4) off (Acc.writes .atomic) = true := hl
  have hr' : s.readable ([src b, src c] ++ (none : Option Opnd).toList ++ (none : Option Opnd).toList) = true := hr
  simp only [red, atomicOp, Ex.bind_apply, needGroup_ok s _ hg, needScope_ok s _ hp, Option.map_none, checkOpnds_ok s _ hr', Ex.get_apply,
    localOk_gate s _ _ _ _ hl, Bool.false_eq_true, if_false, Ex.pure_apply, resolve_local s _ _ _ _ h2, releaseFirst, mkReq, Ex.me_apply,
    Option.isSome, Ex.pop_apply, Ex.advance_apply]
  cases wide <;> simp only [State.ownBlock, Bool.false_eq_true, if_false, if_true, Option.getD_none, BitVec.ofNat_eq_ofNat, BitVec.toNat_ofNat, Nat.zero_mod] <;>
    generalize amoFn _ _ _ _ _ = o <;> cases o <;> rfl

end Sys2Proof.Machine
end

