-- ==== Sys2Proof/Laws/Encoding.lean ====
section
/-!
SUPPORT. The fields of a head and of a tail read back as they were written (R255, R260), field by field.
-/

set_option Elab.async false

namespace Sys2Proof

theorem add_sub_index (a b i : Nat) (h : b ≤ a) : a + i - b = (a - b) + i := by omega
theorem add_lt_index (a b i : Nat) (h : b ≤ a) : (a + i < b) = False := by simp; omega
theorem decide_and_of {p : Prop} [Decidable p] (b : Bool) (h : p) : (decide p && b) = b := by simp [h]
theorem not_decide_and_of {p : Prop} [Decidable p] (b : Bool) (h : ¬p) : ((!decide p) && b) = b := by simp [h]
theorem headOp_mk (t : BitVec 3) (o : BitVec 7) (a : GReg) : headOp (mkHead t o a) = o := by
  ext i hi; simp only [headOp, mkHead, BitVec.getElem_extractLsb', BitVec.getLsbD_setWidth, BitVec.getLsbD_append]
  simp (disch := omega) [add_sub_index, add_lt_index, hi]; omega
theorem headTlc_mk (t : BitVec 3) (o : BitVec 7) (a : GReg) : headTlc (mkHead t o a) = t := by
  ext i hi; simp only [headTlc, mkHead, BitVec.getElem_extractLsb', BitVec.getLsbD_setWidth, BitVec.getLsbD_append]
  simp (disch := omega) [add_sub_index, add_lt_index, hi]; omega
theorem headA_mk (t : BitVec 3) (o : BitVec 7) (a : GReg) : headA (mkHead t o a) = a := by
  ext i hi; simp only [headA, mkHead, BitVec.getElem_extractLsb', BitVec.getLsbD_setWidth, BitVec.getLsbD_append]
  simp (disch := omega) [add_sub_index, add_lt_index, hi]; omega
theorem srcAt_of_bits (k : Nat) (t : BitVec 96) (s : Src) (h : t.extractLsb' k 7 = srcBits s) : srcAt t k = s := by
  obtain ⟨r, m⟩ := s
  simp only [srcAt, Src.mk.injEq]
  have g (i : Nat) (hi : i < 7) : t.getLsbD (k + i) = (srcBits ⟨r, m⟩).getLsbD i := by rw [← h]; simp [hi]
  refine ⟨?_, ?_⟩
  · ext i hi
    simp only [BitVec.getElem_extractLsb', g i (by omega), srcBits, BitVec.getLsbD_setWidth, BitVec.getLsbD_append]
    simp [hi]; omega
  · simp only [g 6 (by omega), srcBits, BitVec.getLsbD_setWidth, BitVec.getLsbD_append]
    simp
theorem T2R.ofTail_toTail (x : T2R) : T2R.ofTail (T2R.toTail x) = x := by
  obtain ⟨b, c, f⟩ := x
  simp only [T2R.ofTail, T2R.toTail, T2R.mk.injEq]
  refine ⟨srcAt_of_bits _ _ _ ?_, srcAt_of_bits _ _ _ ?_, ?_⟩
  all_goals (ext i hi; simp only [BitVec.getElem_extractLsb', BitVec.getLsbD_setWidth, BitVec.getLsbD_append]; simp (disch := omega) [add_sub_index, add_lt_index, hi]; try omega)
theorem T4I.ofTail_toTail (x : T4I) : T4I.ofTail (T4I.toTail x) = x := by
  obtain ⟨b, c, f⟩ := x
  simp only [T4I.ofTail, T4I.toTail, T4I.mk.injEq]
  refine ⟨srcAt_of_bits _ _ _ ?_, ?_, ?_⟩
  all_goals (ext i hi; simp only [BitVec.getElem_extractLsb', BitVec.getLsbD_setWidth, BitVec.getLsbD_append]; simp (disch := omega) [add_sub_index, add_lt_index, hi]; try omega)
theorem T4B.ofTail_toTail (x : T4B) : T4B.ofTail (T4B.toTail x) = x := by
  obtain ⟨b, c, f⟩ := x
  simp only [T4B.ofTail, T4B.toTail, T4B.mk.injEq]
  refine ⟨srcAt_of_bits _ _ _ ?_, ?_, ?_⟩
  · ext i hi; simp only [BitVec.getElem_extractLsb', BitVec.getLsbD_setWidth, BitVec.getLsbD_append]; simp (disch := omega) [add_sub_index, add_lt_index, hi]; try omega
  · simp only [BitVec.getLsbD_setWidth, BitVec.getLsbD_append]; simp
  · ext i hi; simp only [BitVec.getElem_extractLsb', BitVec.getLsbD_setWidth, BitVec.getLsbD_append]; simp (disch := omega) [add_sub_index, add_lt_index, hi]; try omega
theorem T4S.ofTail_toTail (x : T4S) : T4S.ofTail (T4S.toTail x) = x := by
  obtain ⟨b, sc, w, z, f⟩ := x
  simp only [T4S.ofTail, T4S.toTail, T4S.mk.injEq]
  refine ⟨srcAt_of_bits _ _ _ ?_, ?_, ?_, ?_, ?_⟩
  case refine_4 => simp only [BitVec.getLsbD_setWidth, BitVec.getLsbD_append]; simp
  all_goals (ext i hi; simp only [BitVec.getElem_extractLsb', BitVec.getLsbD_setWidth, BitVec.getLsbD_append]; simp (disch := omega) [add_sub_index, add_lt_index, decide_and_of, not_decide_and_of, hi]; try omega)
theorem T6.ofTail_toTail (x : T6) : T6.ofTail (T6.toTail x) = x := by
  obtain ⟨b, c, d, f, ty, sc, z, x16⟩ := x
  simp only [T6.ofTail, T6.toTail, T6.mk.injEq]
  refine ⟨srcAt_of_bits _ _ _ ?_, srcAt_of_bits _ _ _ ?_, srcAt_of_bits _ _ _ ?_, ?_, ?_, ?_, ?_, ?_⟩
  case refine_7 => simp only [BitVec.getLsbD_setWidth, BitVec.getLsbD_append]; simp
  all_goals (ext i hi; simp only [BitVec.getElem_extractLsb', BitVec.getLsbD_setWidth, BitVec.getLsbD_append]; simp (disch := omega) [add_sub_index, add_lt_index, hi]; try omega)
theorem decode_mk (tlc : BitVec 3) (op : BitVec 7) (a : GReg) (t : BitVec 96) (h : opTlc op = some tlc) :
    decode (mkHead tlc op a) t = if op.toNat < 0x30 then decodeLow op.toNat a t else decodeHigh op.toNat a t := by
  simp [decode, headOp_mk, headTlc_mk, headA_mk, h]
theorem Src.none_z : Src.none z = true := rfl
theorem vA_vg (v : VReg) : vA (vg v) = v := by
  ext i hi; simp [vA, vg, hi]; omega
theorem vAok_vg (v : VReg) : vAok (vg v) = true := by simp [vAok, vg]
theorem Src.v_g (s : VSrc) : Src.v s.g = s := by
  obtain ⟨r, m⟩ := s
  simp only [Src.v, VSrc.g, VSrc.mk.injEq, and_true]
  ext i hi; simp [hi]; omega
theorem Src.vok_g (s : VSrc) : Src.vok s.g = true := by simp [Src.vok, VSrc.g]
theorem qNum_qg (q : BitVec 3) : qNum (qg q) = q := by
  ext i hi; simp only [qNum, qg, BitVec.getElem_extractLsb', BitVec.getLsbD_setWidth, BitVec.getLsbD_append]; simp [hi]; omega
theorem qOk_qg (q : BitVec 3) : qOk (qg q) = true := by revert q; decide
theorem rmSc_low (r : BitVec 2) : (rmSc r).extractLsb' 0 2 = r := by revert r; decide
theorem rmSc_high (r : BitVec 2) : (rmSc r).getLsbD 2 = false := by revert r; decide
theorem setWidth_low {n m : Nat} (x : BitVec n) (h : n ≤ m) : (x.setWidth m).extractLsb' 0 n = x := by
  ext i hi; simp [hi]; omega
theorem setWidth_high {n m k j : Nat} (x : BitVec n) (h : n ≤ k) : (x.setWidth m).extractLsb' k j = 0#j := by
  ext i hi; simp; intro _; exact BitVec.getLsbD_of_ge _ _ (by omega)
theorem fieldImm_pos (p l : BitVec 6) : (fieldImm p l).extractLsb' 0 6 = p := by
  ext i hi; simp only [fieldImm, BitVec.getElem_extractLsb', BitVec.getLsbD_setWidth, BitVec.getLsbD_append]; simp [hi]; omega
theorem fieldImm_len (p l : BitVec 6) : (fieldImm p l).extractLsb' 6 6 = l := by
  ext i hi; simp only [fieldImm, BitVec.getElem_extractLsb', BitVec.getLsbD_setWidth, BitVec.getLsbD_append]; simp (disch := omega) [hi, add_sub_index, add_lt_index]; omega
theorem fieldImm_high (p l : BitVec 6) : (fieldImm p l).extractLsb' 12 9 = 0#9 := by
  ext i hi; simp only [fieldImm, BitVec.getElem_extractLsb', BitVec.getLsbD_setWidth, BitVec.getLsbD_append]
  simp (disch := omega) [hi, add_sub_index, add_lt_index]
theorem fcvtImm_rm (c : GReg) (r : BitVec 2) : (fcvtImm c r).extractLsb' 0 2 = r := by
  ext i hi; simp only [fcvtImm, BitVec.getElem_extractLsb', BitVec.getLsbD_setWidth, BitVec.getLsbD_append]; simp [hi]; omega
theorem fcvtImm_c (c : GReg) (r : BitVec 2) : (fcvtImm c r).extractLsb' 2 6 = c := by
  ext i hi; simp only [fcvtImm, BitVec.getElem_extractLsb', BitVec.getLsbD_setWidth, BitVec.getLsbD_append]; simp (disch := omega) [hi, add_sub_index, add_lt_index, decide_and_of, not_decide_and_of] <;> omega
theorem fcvtImm_high (c : GReg) (r : BitVec 2) : (fcvtImm c r).extractLsb' 8 13 = 0#13 := by
  ext i hi; simp only [fcvtImm, BitVec.getElem_extractLsb', BitVec.getLsbD_setWidth, BitVec.getLsbD_append]
  simp (disch := omega) [hi, add_sub_index, add_lt_index]
theorem amoX_fields : ∀ (w : Bool) (o : BitVec 2) (sc : BitVec 3), (amoX w o sc).getLsbD 0 = w ∧ (amoX w o sc).getLsbD 1 = true
    ∧ (amoX w o sc).extractLsb' 2 2 = o ∧ (amoX w o sc).extractLsb' 4 3 = sc ∧ (amoX w o sc).extractLsb' 7 9 = 0#9
    ∧ (amoX w o sc).getLsbD 2 = o.getLsbD 0 ∧ (amoX w o sc).getLsbD 3 = o.getLsbD 1 := by decide

end Sys2Proof
end

