-- ==== Sys2Proof/Laws/Units.lean ====
section
/-!
SUPPORT. Reading a unit after it has been written: tables, contexts and cores.
-/

set_option Elab.async false

namespace Sys2Proof.Machine

theorem tset_tset {α : Type} (t : Tbl α) (k : Nat) (v w : α) : tset (tset t k v) k w = tset t k w := by
  induction t with
  | nil => simp [tset]
  | cons e t ih =>
    obtain ⟨j, x⟩ := e
    simp only [tset]
    split
    · simp [tset]
    · split
      · simp [tset]
      · rename_i h1 h2
        simp [tset, h1, h2, ih]

variable (s : State) (n m : Nat)

@[simp] theorem State.ctx_setCtx (c : Ctx) : (s.setCtx n c).ctx n = c := by simp [State.setCtx, State.ctx, tget_tset_same]
theorem State.ctx_setCtx_other (c : Ctx) (h : m ≠ n) : (s.setCtx n c).ctx m = s.ctx m := by
  simp [State.setCtx, State.ctx, tget_tset_other _ _ _ _ h]
@[simp] theorem State.ctx_modCtx (f : Ctx → Ctx) : (s.modCtx n f).ctx n = f (s.ctx n) := by simp [State.modCtx]
theorem State.ctx_modCtx_other (f : Ctx → Ctx) (h : m ≠ n) : (s.modCtx n f).ctx m = s.ctx m := s.ctx_setCtx_other n m _ h
@[simp] theorem State.core_setCore (c : Core) : (s.setCore n c).core n = c := by simp [State.setCore, State.core, tget_tset_same]
theorem State.core_setCore_other (c : Core) (h : m ≠ n) : (s.setCore n c).core m = s.core m := by
  simp [State.setCore, State.core, tget_tset_other _ _ _ _ h]
@[simp] theorem State.core_modCore (f : Core → Core) : (s.modCore n f).core n = f (s.core n) := by simp [State.modCore]
theorem State.core_modCore_other (f : Core → Core) (h : m ≠ n) : (s.modCore n f).core m = s.core m := s.core_setCore_other n m _ h
@[simp] theorem State.core_modCtx (f : Ctx → Ctx) : (s.modCtx n f).core m = s.core m := rfl
@[simp] theorem State.ctx_modCore (f : Core → Core) : (s.modCore n f).ctx m = s.ctx m := rfl
@[simp] theorem State.here_modCtx (f : Ctx → Ctx) : (s.modCtx s.cur f).ctx s.cur = f (s.ctx s.cur) := s.ctx_modCtx s.cur f

/-- Two changes of one context are one change. -/
theorem State.modCtx_modCtx (f g : Ctx → Ctx) : (s.modCtx n f).modCtx n g = s.modCtx n fun c => g (f c) := by
  simp [State.modCtx, State.setCtx, State.ctx, tget_tset_same, tset_tset]
/-- Changes that agree on the context are one change. -/
theorem State.modCtx_congr (f g : Ctx → Ctx) (h : f (s.ctx n) = g (s.ctx n)) : s.modCtx n f = s.modCtx n g := by
  simp [State.modCtx, h]

end Sys2Proof.Machine
end

