-- ==== Sys2Proof/Laws/Issue.lean ====
section
/-!
SUPPORT. What the checks of R267 do where they fail, and what issue does where they pass.
-/

set_option Elab.async false

namespace Sys2Proof.Machine

variable (s : State)

theorem undef_apply : (undef : Ex Unit) s = .error .done (s.takeTrap s.cur s.here.pc .undef (s.here.head.setWidth 64) 0 false) := by
  simp [undef, Ex.bind_apply]

theorem needLevel_ok (p : Level → Bool) (h : p s.here.level = true) : needLevel p s = .ok () s := by
  simp [needLevel, Ex.bind_apply, h]
theorem needLevel_priv (p : Level → Bool) (h : p s.here.level = false) :
    needLevel p s = .error .done (s.takeTrap s.cur s.here.pc .priv (s.here.head.setWidth 64) 0 false) := by
  simp [needLevel, priv, Ex.bind_apply, h]

/-- R192: an empty source traps in mode 1 and blocks in mode 0. -/
theorem checkSource_empty (r : Nat) (mode : Bool) (h1 : s.here.bound r = none) (h2 : s.here.marker r = none) (h3 : s.isFull s.here r = false) :
    checkSource r mode s = .error .done (if mode then s.takeTrap s.cur s.here.pc .empty (BitVec.ofNat 64 r) 0 false
      else s.modCtx s.cur fun c => c.block (.reg r) s.dtc) := by
  have h1' : (s.ctx s.cur).bound r = none := h1
  have h3' : s.isFull (s.ctx s.cur) r = false := h3
  have hr : s.sourceReady r = .empty := by simp [State.sourceReady, h1', h3']
  simp only [checkSource, Ex.bind_apply, Ex.get_apply, Ex.me_apply]
  rw [h2]
  simp only [hr]
  cases mode <;> simp [blockOn, Ex.bind_apply, h1, w64]

/-- R193: a destination with a pending producer blocks. -/
theorem checkDest_pending (r : Nat) (h0 : r ≠ 0) (h1 : s.here.bound r = none) (h2 : s.here.pendingOn r = true) :
    checkDest r s = .error .done (s.modCtx s.cur fun c => c.block (.reg r) s.dtc) := by
  simp [checkDest, h0, Ex.bind_apply, h1, h2, blockOn]

theorem fetchLine_ok (t : Word) (pa : Nat) (e : TlbEntry) (l : ILine) (h1 : formOf t = .page) (h2 : s.pageOk t .exec pa e = true)
    (h3 : regionOf pa ≠ .host) (hl : tget (s.core (coreOf s.cur)).icache (pa / 64) = some l) : fetchLine t s = .ok l.data s := by
  have ht := translate_ok s t .exec 2 pa e h2
  simp [fetchLine, Ex.bind_apply, h1, ht, h3, hl]

/-- R252, R256: the words at the program counter. -/
theorem fetchWords_ok (pa : Nat) (e : TlbEntry) (l : ILine) (hcode : s.codeAt s.here.pc pa e = true)
    (hl : tget (s.core (coreOf s.cur)).icache (pa / 64) = some l) :
    fetchWords s = .ok (nextPc l.data s.here.pc, lineHead l.data (s.here.pc.toNat % 64 / 2), lineTail l.data (s.here.pc.toNat % 64 / 2)) s := by
  simp only [State.codeAt, hl, Bool.and_eq_true, beq_iff_eq, bne_iff_ne, ne_eq, Bool.not_eq_true'] at hcode
  obtain ⟨⟨⟨h1, h2⟩, h3⟩, h4, h5⟩ := hcode
  simp [fetchWords, Ex.bind_apply, fetchLine_ok s _ pa e l h1 h2 h3 hl, h4, h5]

/-- R202, R205, R252 to R257: the instruction at the program counter issues. -/
theorem issue_ok (pa : Nat) (e : TlbEntry) (l : ILine) (i : Instr) (hb : s.here.buffer = []) (hcode : s.codeAt s.here.pc pa e = true)
    (hl : tget (s.core (coreOf s.cur)).icache (pa / 64) = some l)
    (hd : decode (lineHead l.data (s.here.pc.toNat % 64 / 2)) (lineTail l.data (s.here.pc.toNat % 64 / 2)) = some i) :
    let c := s.here
    let h := lineHead l.data (c.pc.toNat % 64 / 2)
    let t := lineTail l.data (c.pc.toNat % 64 / 2)
    let next := nextPc l.data c.pc
    let s2 := s.modCtx s.cur fun c => { c with
      npc := next, head := h, spcount := if c.spcount = 0xFFFF then c.spcount else c.spcount + 1, held := some i }
    issue s = .ok i (match c.gang with
      | some g => if g.leader && g.attached then s2.post ((s2.gangOthers s.cur g).map fun m => .gangForward m c.pc next h t) else s2
      | none => s2) := by
  intro c h t next s2
  have hfo : s.here.forwarded = none := by
    simp only [Ctx.forwarded, hb]; cases s.here.gang <;> rfl
  have hfw := fetchWords_ok s pa e l hcode hl
  simp [issue, Ex.bind_apply, hfo, hb, hfw]
  rw [show decode h t = some i from hd]
  simp [Ex.bind_apply, State.modCtx_modCtx, State.here]
  rfl

end Sys2Proof.Machine
end

