-- ==== Sys2Proof/Laws/PerInstr.lean ====
section
/-!
SUPPORT. HeadMatches: what encodes an instruction has, in its head, the tail length code that the layout of its opcode has (R255, R265). A step
of the hardware has no encoding.
-/

set_option Elab.async false

/-- The head that encodes an instruction carries the tail length code of its opcode's layout (R255). -/
def Sys2Proof.Laws.HeadMatches.Statement (i : Sys2Proof.Instr) : Prop :=
  ∀ w, Sys2Proof.encode i = some w → Sys2Proof.opTlc (Sys2Proof.headOp w.head) = some (Sys2Proof.headTlc w.head)

open Sys2Proof

theorem Sys2Proof.Laws.headMatches_of_mk (i : Instr) (t : BitVec 3) (o : BitVec 7) (a : GReg) (x : BitVec 96) (h : opTlc o = some t)
    (he : encode i = some ⟨mkHead t o a, x⟩) : Sys2Proof.Laws.HeadMatches.Statement i := by
  intro w hw
  cases hw.symm.trans he
  simp [headOp_mk, headTlc_mk, h]
theorem Sys2Proof.Laws.headMatches_of_none (i : Instr) (he : encode i = none) : Sys2Proof.Laws.HeadMatches.Statement i := by
  intro w hw
  cases hw.symm.trans he

theorem Sys2Proof.Laws.HeadMatches.dtcTick : Sys2Proof.Laws.HeadMatches.Statement .dtcTick := Sys2Proof.Laws.headMatches_of_none _ rfl
theorem Sys2Proof.Laws.HeadMatches.deviceReset (b : BootOutcome) : Sys2Proof.Laws.HeadMatches.Statement (.deviceReset b) := Sys2Proof.Laws.headMatches_of_none _ rfl
theorem Sys2Proof.Laws.HeadMatches.linkCrcReplay (l : Nat) : Sys2Proof.Laws.HeadMatches.Statement (.linkCrcReplay l) := Sys2Proof.Laws.headMatches_of_none _ rfl
theorem Sys2Proof.Laws.HeadMatches.linkRetrain (l : Nat) : Sys2Proof.Laws.HeadMatches.Statement (.linkRetrain l) := Sys2Proof.Laws.headMatches_of_none _ rfl
theorem Sys2Proof.Laws.HeadMatches.linkRetrainEnd (l : Nat) (ok : Bool) : Sys2Proof.Laws.HeadMatches.Statement (.linkRetrainEnd l ok) := Sys2Proof.Laws.headMatches_of_none _ rfl
theorem Sys2Proof.Laws.HeadMatches.powerCapHold (on : Bool) : Sys2Proof.Laws.HeadMatches.Statement (.powerCapHold on) := Sys2Proof.Laws.headMatches_of_none _ rfl
theorem Sys2Proof.Laws.HeadMatches.thermalEvent : Sys2Proof.Laws.HeadMatches.Statement .thermalEvent := Sys2Proof.Laws.headMatches_of_none _ rfl
theorem Sys2Proof.Laws.HeadMatches.thermalStop : Sys2Proof.Laws.HeadMatches.Statement .thermalStop := Sys2Proof.Laws.headMatches_of_none _ rfl
theorem Sys2Proof.Laws.HeadMatches.channelSlot (j : Nat) (slot : Nat) (err : ReadError) : Sys2Proof.Laws.HeadMatches.Statement (.channelSlot j slot err) := Sys2Proof.Laws.headMatches_of_none _ rfl
theorem Sys2Proof.Laws.HeadMatches.channelRefreshSlot (j : Nat) : Sys2Proof.Laws.HeadMatches.Statement (.channelRefreshSlot j) := Sys2Proof.Laws.headMatches_of_none _ rfl
theorem Sys2Proof.Laws.HeadMatches.lp6ReadRepeat (j : Nat) (r : ChanReq) (err : ReadError) : Sys2Proof.Laws.HeadMatches.Statement (.lp6ReadRepeat j r err) := Sys2Proof.Laws.headMatches_of_none _ rfl
theorem Sys2Proof.Laws.HeadMatches.wstoreRefresh (die bank : Nat) : Sys2Proof.Laws.HeadMatches.Statement (.wstoreRefresh die bank) := Sys2Proof.Laws.headMatches_of_none _ rfl
theorem Sys2Proof.Laws.HeadMatches.notify (o v : Nat) : Sys2Proof.Laws.HeadMatches.Statement (.notify o v) := Sys2Proof.Laws.headMatches_of_none _ rfl
theorem Sys2Proof.Laws.HeadMatches.vcpTakeRecord (o v : Nat) : Sys2Proof.Laws.HeadMatches.Statement (.vcpTakeRecord o v) := Sys2Proof.Laws.headMatches_of_none _ rfl
theorem Sys2Proof.Laws.HeadMatches.launch (c : Cmd) : Sys2Proof.Laws.HeadMatches.Statement (.launch c) := Sys2Proof.Laws.headMatches_of_none _ rfl
theorem Sys2Proof.Laws.HeadMatches.cmdCopy (c : Cmd) : Sys2Proof.Laws.HeadMatches.Statement (.cmdCopy c) := Sys2Proof.Laws.headMatches_of_none _ rfl
theorem Sys2Proof.Laws.HeadMatches.wait (c : Cmd) : Sys2Proof.Laws.HeadMatches.Statement (.wait c) := Sys2Proof.Laws.headMatches_of_none _ rfl
theorem Sys2Proof.Laws.HeadMatches.waitMet (c : Cmd) : Sys2Proof.Laws.HeadMatches.Statement (.waitMet c) := Sys2Proof.Laws.headMatches_of_none _ rfl
theorem Sys2Proof.Laws.HeadMatches.waitTimeout (c : Cmd) : Sys2Proof.Laws.HeadMatches.Statement (.waitTimeout c) := Sys2Proof.Laws.headMatches_of_none _ rfl
theorem Sys2Proof.Laws.HeadMatches.signal (c : Cmd) : Sys2Proof.Laws.HeadMatches.Statement (.signal c) := Sys2Proof.Laws.headMatches_of_none _ rfl
theorem Sys2Proof.Laws.HeadMatches.wsopen (c : Cmd) : Sys2Proof.Laws.HeadMatches.Statement (.wsopen c) := Sys2Proof.Laws.headMatches_of_none _ rfl
theorem Sys2Proof.Laws.HeadMatches.wsopenComplete (c : Cmd) : Sys2Proof.Laws.HeadMatches.Statement (.wsopenComplete c) := Sys2Proof.Laws.headMatches_of_none _ rfl
theorem Sys2Proof.Laws.HeadMatches.wsclose (c : Cmd) : Sys2Proof.Laws.HeadMatches.Statement (.wsclose c) := Sys2Proof.Laws.headMatches_of_none _ rfl
theorem Sys2Proof.Laws.HeadMatches.indirect (c : Cmd) : Sys2Proof.Laws.HeadMatches.Statement (.indirect c) := Sys2Proof.Laws.headMatches_of_none _ rfl
theorem Sys2Proof.Laws.HeadMatches.recordComplete (id : Nat) : Sys2Proof.Laws.HeadMatches.Statement (.recordComplete id) := Sys2Proof.Laws.headMatches_of_none _ rfl
theorem Sys2Proof.Laws.HeadMatches.shadowQcbWrite (o v word : Nat) (val : Word) : Sys2Proof.Laws.HeadMatches.Statement (.shadowQcbWrite o v word val) := Sys2Proof.Laws.headMatches_of_none _ rfl
theorem Sys2Proof.Laws.HeadMatches.featCommit (o : Nat) (val : Word) : Sys2Proof.Laws.HeadMatches.Statement (.featCommit o val) := Sys2Proof.Laws.headMatches_of_none _ rfl
theorem Sys2Proof.Laws.HeadMatches.functionLevelReset (o : Nat) : Sys2Proof.Laws.HeadMatches.Statement (.functionLevelReset o) := Sys2Proof.Laws.headMatches_of_none _ rfl
theorem Sys2Proof.Laws.HeadMatches.hostBar2Access (a : HostAccess) : Sys2Proof.Laws.HeadMatches.Statement (.hostBar2Access a) := Sys2Proof.Laws.headMatches_of_none _ rfl
theorem Sys2Proof.Laws.HeadMatches.registerWrite (fn bar off : Nat) (val : Word) : Sys2Proof.Laws.HeadMatches.Statement (.registerWrite fn bar off val) := Sys2Proof.Laws.headMatches_of_none _ rfl
theorem Sys2Proof.Laws.HeadMatches.layoutCommit : Sys2Proof.Laws.HeadMatches.Statement .layoutCommit := Sys2Proof.Laws.headMatches_of_none _ rfl
theorem Sys2Proof.Laws.HeadMatches.layoutDiscard : Sys2Proof.Laws.HeadMatches.Statement .layoutDiscard := Sys2Proof.Laws.headMatches_of_none _ rfl
theorem Sys2Proof.Laws.HeadMatches.layoutQuiesceDone : Sys2Proof.Laws.HeadMatches.Statement .layoutQuiesceDone := Sys2Proof.Laws.headMatches_of_none _ rfl
theorem Sys2Proof.Laws.HeadMatches.layoutSweepDone : Sys2Proof.Laws.HeadMatches.Statement .layoutSweepDone := Sys2Proof.Laws.headMatches_of_none _ rfl
theorem Sys2Proof.Laws.HeadMatches.layoutSwap : Sys2Proof.Laws.HeadMatches.Statement .layoutSwap := Sys2Proof.Laws.headMatches_of_none _ rfl
theorem Sys2Proof.Laws.HeadMatches.poolSliceEnd (p : Nat) : Sys2Proof.Laws.HeadMatches.Statement (.poolSliceEnd p) := Sys2Proof.Laws.headMatches_of_none _ rfl
theorem Sys2Proof.Laws.HeadMatches.sliceendForceSave (ctx : Nat) : Sys2Proof.Laws.HeadMatches.Statement (.sliceendForceSave ctx) := Sys2Proof.Laws.headMatches_of_none _ rfl
theorem Sys2Proof.Laws.HeadMatches.poolSwitchDone (p : Nat) : Sys2Proof.Laws.HeadMatches.Statement (.poolSwitchDone p) := Sys2Proof.Laws.headMatches_of_none _ rfl
theorem Sys2Proof.Laws.HeadMatches.launchAge (id : Nat) : Sys2Proof.Laws.HeadMatches.Statement (.launchAge id) := Sys2Proof.Laws.headMatches_of_none _ rfl
theorem Sys2Proof.Laws.HeadMatches.launchDeadlineExpire (id : Nat) : Sys2Proof.Laws.HeadMatches.Statement (.launchDeadlineExpire id) := Sys2Proof.Laws.headMatches_of_none _ rfl
theorem Sys2Proof.Laws.HeadMatches.porterSelect (die : Nat) : Sys2Proof.Laws.HeadMatches.Statement (.porterSelect die) := Sys2Proof.Laws.headMatches_of_none _ rfl
theorem Sys2Proof.Laws.HeadMatches.reserveComplete (die : Nat) : Sys2Proof.Laws.HeadMatches.Statement (.reserveComplete die) := Sys2Proof.Laws.headMatches_of_none _ rfl
theorem Sys2Proof.Laws.HeadMatches.reserveRollback (die : Nat) : Sys2Proof.Laws.HeadMatches.Statement (.reserveRollback die) := Sys2Proof.Laws.headMatches_of_none _ rfl
theorem Sys2Proof.Laws.HeadMatches.launchRetry (die o : Nat) : Sys2Proof.Laws.HeadMatches.Statement (.launchRetry die o) := Sys2Proof.Laws.headMatches_of_none _ rfl
theorem Sys2Proof.Laws.HeadMatches.foreignReserveRequest (die coordinator : Nat) : Sys2Proof.Laws.HeadMatches.Statement (.foreignReserveRequest die coordinator) := Sys2Proof.Laws.headMatches_of_none _ rfl
theorem Sys2Proof.Laws.HeadMatches.commitDone (die : Nat) : Sys2Proof.Laws.HeadMatches.Statement (.commitDone die) := Sys2Proof.Laws.headMatches_of_none _ rfl
theorem Sys2Proof.Laws.HeadMatches.preemptSavesDone (id : Nat) : Sys2Proof.Laws.HeadMatches.Statement (.preemptSavesDone id) := Sys2Proof.Laws.headMatches_of_none _ rfl
theorem Sys2Proof.Laws.HeadMatches.inboxRecordArrive (core : Nat) (r : TaskRec) : Sys2Proof.Laws.HeadMatches.Statement (.inboxRecordArrive core r) := Sys2Proof.Laws.headMatches_of_none _ rfl
theorem Sys2Proof.Laws.HeadMatches.compositeInstantiate (node child : Nat) : Sys2Proof.Laws.HeadMatches.Statement (.compositeInstantiate node child) := Sys2Proof.Laws.headMatches_of_none _ rfl
theorem Sys2Proof.Laws.HeadMatches.peerLaunch (die : Nat) (owner : Nat) (space : BitVec 16) (level : Level) (cidx : Nat) (g3 g4 g5 g6 : Word) : Sys2Proof.Laws.HeadMatches.Statement (.peerLaunch die owner space level cidx g3 g4 g5 g6) := Sys2Proof.Laws.headMatches_of_none _ rfl
theorem Sys2Proof.Laws.HeadMatches.gtqSegmentTake (core o : Nat) : Sys2Proof.Laws.HeadMatches.Statement (.gtqSegmentTake core o) := Sys2Proof.Laws.headMatches_of_none _ rfl
theorem Sys2Proof.Laws.HeadMatches.diffusionTick : Sys2Proof.Laws.HeadMatches.Statement .diffusionTick := Sys2Proof.Laws.headMatches_of_none _ rfl
theorem Sys2Proof.Laws.HeadMatches.diffusionRecordArrive (core : Nat) (r : TaskRec) : Sys2Proof.Laws.HeadMatches.Statement (.diffusionRecordArrive core r) := Sys2Proof.Laws.headMatches_of_none _ rfl
theorem Sys2Proof.Laws.HeadMatches.tileJcNotify (cl : Nat) (pa : Nat) : Sys2Proof.Laws.HeadMatches.Statement (.tileJcNotify cl pa) := Sys2Proof.Laws.headMatches_of_none _ rfl
theorem Sys2Proof.Laws.HeadMatches.tileSlot (cl : Nat) (o : Nat) : Sys2Proof.Laws.HeadMatches.Statement (.tileSlot cl o) := Sys2Proof.Laws.headMatches_of_none _ rfl
theorem Sys2Proof.Laws.HeadMatches.tileKStep (cl e : Nat) : Sys2Proof.Laws.HeadMatches.Statement (.tileKStep cl e) := Sys2Proof.Laws.headMatches_of_none _ rfl
theorem Sys2Proof.Laws.HeadMatches.tileOverrun (cl e : Nat) : Sys2Proof.Laws.HeadMatches.Statement (.tileOverrun cl e) := Sys2Proof.Laws.headMatches_of_none _ rfl
theorem Sys2Proof.Laws.HeadMatches.tileTaskComplete (cl e : Nat) : Sys2Proof.Laws.HeadMatches.Statement (.tileTaskComplete cl e) := Sys2Proof.Laws.headMatches_of_none _ rfl
theorem Sys2Proof.Laws.HeadMatches.accSlotSave (cl slot : Nat) : Sys2Proof.Laws.HeadMatches.Statement (.accSlotSave cl slot) := Sys2Proof.Laws.headMatches_of_none _ rfl
theorem Sys2Proof.Laws.HeadMatches.frameStart (k j : Nat) : Sys2Proof.Laws.HeadMatches.Statement (.frameStart k j) := Sys2Proof.Laws.headMatches_of_none _ rfl
theorem Sys2Proof.Laws.HeadMatches.slotServe (k j slot : Nat) : Sys2Proof.Laws.HeadMatches.Statement (.slotServe k j slot) := Sys2Proof.Laws.headMatches_of_none _ rfl
theorem Sys2Proof.Laws.HeadMatches.sliceRequestArrive (c owner : Nat) (rs : List Req) : Sys2Proof.Laws.HeadMatches.Statement (.sliceRequestArrive c owner rs) := Sys2Proof.Laws.headMatches_of_none _ rfl
theorem Sys2Proof.Laws.HeadMatches.sweepStep (c o : Nat) : Sys2Proof.Laws.HeadMatches.Statement (.sweepStep c o) := Sys2Proof.Laws.headMatches_of_none _ rfl
theorem Sys2Proof.Laws.HeadMatches.benchBackoffRetry (r : Req) : Sys2Proof.Laws.HeadMatches.Statement (.benchBackoffRetry r) := Sys2Proof.Laws.headMatches_of_none _ rfl
theorem Sys2Proof.Laws.HeadMatches.peerReadRequest (m : PeerMsg) : Sys2Proof.Laws.HeadMatches.Statement (.peerReadRequest m) := Sys2Proof.Laws.headMatches_of_none _ rfl
theorem Sys2Proof.Laws.HeadMatches.peerWriteRequest (m : PeerMsg) : Sys2Proof.Laws.HeadMatches.Statement (.peerWriteRequest m) := Sys2Proof.Laws.headMatches_of_none _ rfl
theorem Sys2Proof.Laws.HeadMatches.peerAtomicRequest (m : PeerMsg) : Sys2Proof.Laws.HeadMatches.Statement (.peerAtomicRequest m) := Sys2Proof.Laws.headMatches_of_none _ rfl
theorem Sys2Proof.Laws.HeadMatches.peerTagMessage (m : PeerMsg) : Sys2Proof.Laws.HeadMatches.Statement (.peerTagMessage m) := Sys2Proof.Laws.headMatches_of_none _ rfl
theorem Sys2Proof.Laws.HeadMatches.peerFenceMarker (dev port : Nat) : Sys2Proof.Laws.HeadMatches.Statement (.peerFenceMarker dev port) := Sys2Proof.Laws.headMatches_of_none _ rfl
theorem Sys2Proof.Laws.HeadMatches.peerMarkerAck (ctx port : Nat) : Sys2Proof.Laws.HeadMatches.Statement (.peerMarkerAck ctx port) := Sys2Proof.Laws.headMatches_of_none _ rfl
theorem Sys2Proof.Laws.HeadMatches.peerResponse (m : PeerMsg) (v : Arrival) : Sys2Proof.Laws.HeadMatches.Statement (.peerResponse m v) := Sys2Proof.Laws.headMatches_of_none _ rfl
theorem Sys2Proof.Laws.HeadMatches.remoteFaultReport (ctx : Nat) (dev : Nat) (cause : BitVec 8) (op : BitVec 3) (pva : BitVec 47) : Sys2Proof.Laws.HeadMatches.Statement (.remoteFaultReport ctx dev cause op pva) := Sys2Proof.Laws.headMatches_of_none _ rfl
theorem Sys2Proof.Laws.HeadMatches.pageWalkRead (cl wid : Nat) : Sys2Proof.Laws.HeadMatches.Statement (.pageWalkRead cl wid) := Sys2Proof.Laws.headMatches_of_none _ rfl
theorem Sys2Proof.Laws.HeadMatches.faultReply (o k : Nat) : Sys2Proof.Laws.HeadMatches.Statement (.faultReply o k) := Sys2Proof.Laws.headMatches_of_none _ rfl
theorem Sys2Proof.Laws.HeadMatches.invalidationArrive (core : Nat) (inv : Inval) : Sys2Proof.Laws.HeadMatches.Statement (.invalidationArrive core inv) := Sys2Proof.Laws.headMatches_of_none _ rfl
theorem Sys2Proof.Laws.HeadMatches.pageMigrationDone (key : PageKey) : Sys2Proof.Laws.HeadMatches.Statement (.pageMigrationDone key) := Sys2Proof.Laws.headMatches_of_none _ rfl
theorem Sys2Proof.Laws.HeadMatches.hostPageRequest (key : PageKey) : Sys2Proof.Laws.HeadMatches.Statement (.hostPageRequest key) := Sys2Proof.Laws.headMatches_of_none _ rfl
theorem Sys2Proof.Laws.HeadMatches.migrationHoldExpire (key : PageKey) : Sys2Proof.Laws.HeadMatches.Statement (.migrationHoldExpire key) := Sys2Proof.Laws.headMatches_of_none _ rfl
theorem Sys2Proof.Laws.HeadMatches.homeRds (r : Req) : Sys2Proof.Laws.HeadMatches.Statement (.homeRds r) := Sys2Proof.Laws.headMatches_of_none _ rfl
theorem Sys2Proof.Laws.HeadMatches.homeRdx (r : Req) : Sys2Proof.Laws.HeadMatches.Statement (.homeRdx r) := Sys2Proof.Laws.headMatches_of_none _ rfl
theorem Sys2Proof.Laws.HeadMatches.homeUpg (r : Req) : Sys2Proof.Laws.HeadMatches.Statement (.homeUpg r) := Sys2Proof.Laws.headMatches_of_none _ rfl
theorem Sys2Proof.Laws.HeadMatches.homeWb (r : Req) : Sys2Proof.Laws.HeadMatches.Statement (.homeWb r) := Sys2Proof.Laws.headMatches_of_none _ rfl
theorem Sys2Proof.Laws.HeadMatches.homeInvAck (block core : Nat) : Sys2Proof.Laws.HeadMatches.Statement (.homeInvAck block core) := Sys2Proof.Laws.headMatches_of_none _ rfl
theorem Sys2Proof.Laws.HeadMatches.homeFwdDone (block core : Nat) (clean : Bool) : Sys2Proof.Laws.HeadMatches.Statement (.homeFwdDone block core clean) := Sys2Proof.Laws.headMatches_of_none _ rfl
theorem Sys2Proof.Laws.HeadMatches.homeAckMiss (block core : Nat) : Sys2Proof.Laws.HeadMatches.Statement (.homeAckMiss block core) := Sys2Proof.Laws.headMatches_of_none _ rfl
theorem Sys2Proof.Laws.HeadMatches.homeAckStale (block core : Nat) : Sys2Proof.Laws.HeadMatches.Statement (.homeAckStale block core) := Sys2Proof.Laws.headMatches_of_none _ rfl
theorem Sys2Proof.Laws.HeadMatches.l1Data (core block : Nat) (grant : Grant) (data : Block) (tag : Tag) : Sys2Proof.Laws.HeadMatches.Statement (.l1Data core block grant data tag) := Sys2Proof.Laws.headMatches_of_none _ rfl
theorem Sys2Proof.Laws.HeadMatches.l1Grant (core block : Nat) : Sys2Proof.Laws.HeadMatches.Statement (.l1Grant core block) := Sys2Proof.Laws.headMatches_of_none _ rfl
theorem Sys2Proof.Laws.HeadMatches.l1Inv (core block : Nat) : Sys2Proof.Laws.HeadMatches.Statement (.l1Inv core block) := Sys2Proof.Laws.headMatches_of_none _ rfl
theorem Sys2Proof.Laws.HeadMatches.l1FwdS (core block req : Nat) : Sys2Proof.Laws.HeadMatches.Statement (.l1FwdS core block req) := Sys2Proof.Laws.headMatches_of_none _ rfl
theorem Sys2Proof.Laws.HeadMatches.l1FwdX (core block req : Nat) : Sys2Proof.Laws.HeadMatches.Statement (.l1FwdX core block req) := Sys2Proof.Laws.headMatches_of_none _ rfl
theorem Sys2Proof.Laws.HeadMatches.l1WbAck (core block : Nat) : Sys2Proof.Laws.HeadMatches.Statement (.l1WbAck core block) := Sys2Proof.Laws.headMatches_of_none _ rfl
theorem Sys2Proof.Laws.HeadMatches.homeMerge (r : Req) : Sys2Proof.Laws.HeadMatches.Statement (.homeMerge r) := Sys2Proof.Laws.headMatches_of_none _ rfl
theorem Sys2Proof.Laws.HeadMatches.mergeAck (ctx core block : Nat) (wonce : Bool) (va : Word) : Sys2Proof.Laws.HeadMatches.Statement (.mergeAck ctx core block wonce va) := Sys2Proof.Laws.headMatches_of_none _ rfl
theorem Sys2Proof.Laws.HeadMatches.windowFill (core : Nat) (w b : Nat) (data : Block) (tag : Tag) : Sys2Proof.Laws.HeadMatches.Statement (.windowFill core w b data tag) := Sys2Proof.Laws.headMatches_of_none _ rfl
theorem Sys2Proof.Laws.HeadMatches.homeAmo (r : Req) : Sys2Proof.Laws.HeadMatches.Statement (.homeAmo r) := Sys2Proof.Laws.headMatches_of_none _ rfl
theorem Sys2Proof.Laws.HeadMatches.homeRed (r : Req) : Sys2Proof.Laws.HeadMatches.Statement (.homeRed r) := Sys2Proof.Laws.headMatches_of_none _ rfl
theorem Sys2Proof.Laws.HeadMatches.homeTake (r : Req) : Sys2Proof.Laws.HeadMatches.Statement (.homeTake r) := Sys2Proof.Laws.headMatches_of_none _ rfl
theorem Sys2Proof.Laws.HeadMatches.homeTrytake (r : Req) : Sys2Proof.Laws.HeadMatches.Statement (.homeTrytake r) := Sys2Proof.Laws.headMatches_of_none _ rfl
theorem Sys2Proof.Laws.HeadMatches.homeWaitw (r : Req) : Sys2Proof.Laws.HeadMatches.Statement (.homeWaitw r) := Sys2Proof.Laws.headMatches_of_none _ rfl
theorem Sys2Proof.Laws.HeadMatches.homePut (r : Req) : Sys2Proof.Laws.HeadMatches.Statement (.homePut r) := Sys2Proof.Laws.headMatches_of_none _ rfl
theorem Sys2Proof.Laws.HeadMatches.homePutx (r : Req) : Sys2Proof.Laws.HeadMatches.Statement (.homePutx r) := Sys2Proof.Laws.headMatches_of_none _ rfl
theorem Sys2Proof.Laws.HeadMatches.homeJcdec (r : Req) : Sys2Proof.Laws.HeadMatches.Statement (.homeJcdec r) := Sys2Proof.Laws.headMatches_of_none _ rfl
theorem Sys2Proof.Laws.HeadMatches.homeJcwait (r : Req) : Sys2Proof.Laws.HeadMatches.Statement (.homeJcwait r) := Sys2Proof.Laws.headMatches_of_none _ rfl
theorem Sys2Proof.Laws.HeadMatches.homeBararr (r : Req) : Sys2Proof.Laws.HeadMatches.Statement (.homeBararr r) := Sys2Proof.Laws.headMatches_of_none _ rfl
theorem Sys2Proof.Laws.HeadMatches.homeBarwait (r : Req) : Sys2Proof.Laws.HeadMatches.Statement (.homeBarwait r) := Sys2Proof.Laws.headMatches_of_none _ rfl
theorem Sys2Proof.Laws.HeadMatches.homeWsWrite (r : Req) : Sys2Proof.Laws.HeadMatches.Statement (.homeWsWrite r) := Sys2Proof.Laws.headMatches_of_none _ rfl
theorem Sys2Proof.Laws.HeadMatches.homeWsLoad (r : Req) : Sys2Proof.Laws.HeadMatches.Statement (.homeWsLoad r) := Sys2Proof.Laws.headMatches_of_none _ rfl
theorem Sys2Proof.Laws.HeadMatches.homeWithdraw (ctx pid : Nat) : Sys2Proof.Laws.HeadMatches.Statement (.homeWithdraw ctx pid) := Sys2Proof.Laws.headMatches_of_none _ rfl
theorem Sys2Proof.Laws.HeadMatches.fenceMarker (ctx rel path : Nat) : Sys2Proof.Laws.HeadMatches.Statement (.fenceMarker ctx rel path) := Sys2Proof.Laws.headMatches_of_none _ rfl
theorem Sys2Proof.Laws.HeadMatches.markerAck (ctx rel : Nat) : Sys2Proof.Laws.HeadMatches.Statement (.markerAck ctx rel) := Sys2Proof.Laws.headMatches_of_none _ rfl
theorem Sys2Proof.Laws.HeadMatches.storageError (e : Storage) (err : ReadError) : Sys2Proof.Laws.HeadMatches.Statement (.storageError e err) := Sys2Proof.Laws.headMatches_of_none _ rfl
theorem Sys2Proof.Laws.HeadMatches.producerArrive (ctx pid : Nat) (v : Arrival) : Sys2Proof.Laws.HeadMatches.Statement (.producerArrive ctx pid v) := Sys2Proof.Laws.headMatches_of_none _ rfl
theorem Sys2Proof.Laws.HeadMatches.waitlimExpire (ctx : Nat) : Sys2Proof.Laws.HeadMatches.Statement (.waitlimExpire ctx) := Sys2Proof.Laws.headMatches_of_none _ rfl
theorem Sys2Proof.Laws.HeadMatches.streamHeadFlit (ctx : Nat) (q : BitVec 3) : Sys2Proof.Laws.HeadMatches.Statement (.streamHeadFlit ctx q) := Sys2Proof.Laws.headMatches_of_none _ rfl
theorem Sys2Proof.Laws.HeadMatches.streamWordArrive (id : Nat) (marker : Bool) (w : Word) : Sys2Proof.Laws.HeadMatches.Statement (.streamWordArrive id marker w) := Sys2Proof.Laws.headMatches_of_none _ rfl
theorem Sys2Proof.Laws.HeadMatches.gangForward (follower : Nat) (pc npc : Word) (head : BitVec 16) (tail : BitVec 96) : Sys2Proof.Laws.HeadMatches.Statement (.gangForward follower pc npc head tail) := Sys2Proof.Laws.headMatches_of_none _ rfl
theorem Sys2Proof.Laws.HeadMatches.preemptRequest (ctx : Nat) : Sys2Proof.Laws.HeadMatches.Statement (.preemptRequest ctx) := Sys2Proof.Laws.headMatches_of_none _ rfl
theorem Sys2Proof.Laws.HeadMatches.forcedSave (ctx : Nat) : Sys2Proof.Laws.HeadMatches.Statement (.forcedSave ctx) := Sys2Proof.Laws.headMatches_of_none _ rfl
theorem Sys2Proof.Laws.HeadMatches.saveDone (ctx : Nat) : Sys2Proof.Laws.HeadMatches.Statement (.saveDone ctx) := Sys2Proof.Laws.headMatches_of_none _ rfl
theorem Sys2Proof.Laws.HeadMatches.saveWriteFault (ctx : Nat) : Sys2Proof.Laws.HeadMatches.Statement (.saveWriteFault ctx) := Sys2Proof.Laws.headMatches_of_none _ rfl
theorem Sys2Proof.Laws.HeadMatches.cupboardRetry (core : Nat) : Sys2Proof.Laws.HeadMatches.Statement (.cupboardRetry core) := Sys2Proof.Laws.headMatches_of_none _ rfl
theorem Sys2Proof.Laws.HeadMatches.contextRestore (rec ctx : Nat) : Sys2Proof.Laws.HeadMatches.Statement (.contextRestore rec ctx) := Sys2Proof.Laws.headMatches_of_none _ rfl
theorem Sys2Proof.Laws.HeadMatches.asyncTrap (ctx : Nat) : Sys2Proof.Laws.HeadMatches.Statement (.asyncTrap ctx) := Sys2Proof.Laws.headMatches_of_none _ rfl
theorem Sys2Proof.Laws.HeadMatches.taskAbort (ctx : Nat) : Sys2Proof.Laws.HeadMatches.Statement (.taskAbort ctx) := Sys2Proof.Laws.headMatches_of_none _ rfl
theorem Sys2Proof.Laws.HeadMatches.copyComplete (die e : Nat) (id : Nat) : Sys2Proof.Laws.HeadMatches.Statement (.copyComplete die e id) := Sys2Proof.Laws.headMatches_of_none _ rfl
theorem Sys2Proof.Laws.HeadMatches.waittWake (ctx : Nat) : Sys2Proof.Laws.HeadMatches.Statement (.waittWake ctx) := Sys2Proof.Laws.headMatches_of_none _ rfl
theorem Sys2Proof.Laws.HeadMatches.instructionLineFill (core : Nat) (line : Nat) (data : Block) : Sys2Proof.Laws.HeadMatches.Statement (.instructionLineFill core line data) := Sys2Proof.Laws.headMatches_of_none _ rfl
theorem Sys2Proof.Laws.HeadMatches.homeJcinit (r : Req) : Sys2Proof.Laws.HeadMatches.Statement (.homeJcinit r) := Sys2Proof.Laws.headMatches_of_none _ rfl
theorem Sys2Proof.Laws.HeadMatches.homeBarinit (r : Req) : Sys2Proof.Laws.HeadMatches.Statement (.homeBarinit r) := Sys2Proof.Laws.headMatches_of_none _ rfl
theorem Sys2Proof.Laws.HeadMatches.homeTagWrite (r : Req) : Sys2Proof.Laws.HeadMatches.Statement (.homeTagWrite r) := Sys2Proof.Laws.headMatches_of_none _ rfl
theorem Sys2Proof.Laws.HeadMatches.nop : Sys2Proof.Laws.HeadMatches.Statement .nop := by
  intro w h
  cases h
  rfl
theorem Sys2Proof.Laws.HeadMatches.add (d : GReg) (b c : Src) : Sys2Proof.Laws.HeadMatches.Statement (.add d b c) := Sys2Proof.Laws.headMatches_of_mk _ _ _ _ _ rfl rfl
theorem Sys2Proof.Laws.HeadMatches.sub (d : GReg) (b c : Src) : Sys2Proof.Laws.HeadMatches.Statement (.sub d b c) := Sys2Proof.Laws.headMatches_of_mk _ _ _ _ _ rfl rfl
theorem Sys2Proof.Laws.HeadMatches.addw (d : GReg) (b c : Src) : Sys2Proof.Laws.HeadMatches.Statement (.addw d b c) := Sys2Proof.Laws.headMatches_of_mk _ _ _ _ _ rfl rfl
theorem Sys2Proof.Laws.HeadMatches.subw (d : GReg) (b c : Src) : Sys2Proof.Laws.HeadMatches.Statement (.subw d b c) := Sys2Proof.Laws.headMatches_of_mk _ _ _ _ _ rfl rfl
theorem Sys2Proof.Laws.HeadMatches.and (d : GReg) (b c : Src) : Sys2Proof.Laws.HeadMatches.Statement (.and d b c) := Sys2Proof.Laws.headMatches_of_mk _ _ _ _ _ rfl rfl
theorem Sys2Proof.Laws.HeadMatches.or (d : GReg) (b c : Src) : Sys2Proof.Laws.HeadMatches.Statement (.or d b c) := Sys2Proof.Laws.headMatches_of_mk _ _ _ _ _ rfl rfl
theorem Sys2Proof.Laws.HeadMatches.xor (d : GReg) (b c : Src) : Sys2Proof.Laws.HeadMatches.Statement (.xor d b c) := Sys2Proof.Laws.headMatches_of_mk _ _ _ _ _ rfl rfl
theorem Sys2Proof.Laws.HeadMatches.andn (d : GReg) (b c : Src) : Sys2Proof.Laws.HeadMatches.Statement (.andn d b c) := Sys2Proof.Laws.headMatches_of_mk _ _ _ _ _ rfl rfl
theorem Sys2Proof.Laws.HeadMatches.shl (d : GReg) (b c : Src) : Sys2Proof.Laws.HeadMatches.Statement (.shl d b c) := Sys2Proof.Laws.headMatches_of_mk _ _ _ _ _ rfl rfl
theorem Sys2Proof.Laws.HeadMatches.shr (d : GReg) (b c : Src) : Sys2Proof.Laws.HeadMatches.Statement (.shr d b c) := Sys2Proof.Laws.headMatches_of_mk _ _ _ _ _ rfl rfl
theorem Sys2Proof.Laws.HeadMatches.sar (d : GReg) (b c : Src) : Sys2Proof.Laws.HeadMatches.Statement (.sar d b c) := Sys2Proof.Laws.headMatches_of_mk _ _ _ _ _ rfl rfl
theorem Sys2Proof.Laws.HeadMatches.rol (d : GReg) (b c : Src) : Sys2Proof.Laws.HeadMatches.Statement (.rol d b c) := Sys2Proof.Laws.headMatches_of_mk _ _ _ _ _ rfl rfl
theorem Sys2Proof.Laws.HeadMatches.seq (d : GReg) (b c : Src) : Sys2Proof.Laws.HeadMatches.Statement (.seq d b c) := Sys2Proof.Laws.headMatches_of_mk _ _ _ _ _ rfl rfl
theorem Sys2Proof.Laws.HeadMatches.sne (d : GReg) (b c : Src) : Sys2Proof.Laws.HeadMatches.Statement (.sne d b c) := Sys2Proof.Laws.headMatches_of_mk _ _ _ _ _ rfl rfl
theorem Sys2Proof.Laws.HeadMatches.slt (d : GReg) (b c : Src) : Sys2Proof.Laws.HeadMatches.Statement (.slt d b c) := Sys2Proof.Laws.headMatches_of_mk _ _ _ _ _ rfl rfl
theorem Sys2Proof.Laws.HeadMatches.sltu (d : GReg) (b c : Src) : Sys2Proof.Laws.HeadMatches.Statement (.sltu d b c) := Sys2Proof.Laws.headMatches_of_mk _ _ _ _ _ rfl rfl
theorem Sys2Proof.Laws.HeadMatches.min (d : GReg) (b c : Src) : Sys2Proof.Laws.HeadMatches.Statement (.min d b c) := Sys2Proof.Laws.headMatches_of_mk _ _ _ _ _ rfl rfl
theorem Sys2Proof.Laws.HeadMatches.max (d : GReg) (b c : Src) : Sys2Proof.Laws.HeadMatches.Statement (.max d b c) := Sys2Proof.Laws.headMatches_of_mk _ _ _ _ _ rfl rfl
theorem Sys2Proof.Laws.HeadMatches.minu (d : GReg) (b c : Src) : Sys2Proof.Laws.HeadMatches.Statement (.minu d b c) := Sys2Proof.Laws.headMatches_of_mk _ _ _ _ _ rfl rfl
theorem Sys2Proof.Laws.HeadMatches.maxu (d : GReg) (b c : Src) : Sys2Proof.Laws.HeadMatches.Statement (.maxu d b c) := Sys2Proof.Laws.headMatches_of_mk _ _ _ _ _ rfl rfl
theorem Sys2Proof.Laws.HeadMatches.mul (d : GReg) (b c : Src) : Sys2Proof.Laws.HeadMatches.Statement (.mul d b c) := Sys2Proof.Laws.headMatches_of_mk _ _ _ _ _ rfl rfl
theorem Sys2Proof.Laws.HeadMatches.mulh (d : GReg) (b c : Src) : Sys2Proof.Laws.HeadMatches.Statement (.mulh d b c) := Sys2Proof.Laws.headMatches_of_mk _ _ _ _ _ rfl rfl
theorem Sys2Proof.Laws.HeadMatches.mulhu (d : GReg) (b c : Src) : Sys2Proof.Laws.HeadMatches.Statement (.mulhu d b c) := Sys2Proof.Laws.headMatches_of_mk _ _ _ _ _ rfl rfl
theorem Sys2Proof.Laws.HeadMatches.mulw (d : GReg) (b c : Src) : Sys2Proof.Laws.HeadMatches.Statement (.mulw d b c) := Sys2Proof.Laws.headMatches_of_mk _ _ _ _ _ rfl rfl
theorem Sys2Proof.Laws.HeadMatches.div (d : GReg) (b c : Src) : Sys2Proof.Laws.HeadMatches.Statement (.div d b c) := Sys2Proof.Laws.headMatches_of_mk _ _ _ _ _ rfl rfl
theorem Sys2Proof.Laws.HeadMatches.divu (d : GReg) (b c : Src) : Sys2Proof.Laws.HeadMatches.Statement (.divu d b c) := Sys2Proof.Laws.headMatches_of_mk _ _ _ _ _ rfl rfl
theorem Sys2Proof.Laws.HeadMatches.rem (d : GReg) (b c : Src) : Sys2Proof.Laws.HeadMatches.Statement (.rem d b c) := Sys2Proof.Laws.headMatches_of_mk _ _ _ _ _ rfl rfl
theorem Sys2Proof.Laws.HeadMatches.remu (d : GReg) (b c : Src) : Sys2Proof.Laws.HeadMatches.Statement (.remu d b c) := Sys2Proof.Laws.headMatches_of_mk _ _ _ _ _ rfl rfl
theorem Sys2Proof.Laws.HeadMatches.addi (d : GReg) (b : Src) (imm : BitVec 21) : Sys2Proof.Laws.HeadMatches.Statement (.addi d b imm) := Sys2Proof.Laws.headMatches_of_mk _ _ _ _ _ rfl rfl
theorem Sys2Proof.Laws.HeadMatches.andi (d : GReg) (b : Src) (imm : BitVec 21) : Sys2Proof.Laws.HeadMatches.Statement (.andi d b imm) := Sys2Proof.Laws.headMatches_of_mk _ _ _ _ _ rfl rfl
theorem Sys2Proof.Laws.HeadMatches.ori (d : GReg) (b : Src) (imm : BitVec 21) : Sys2Proof.Laws.HeadMatches.Statement (.ori d b imm) := Sys2Proof.Laws.headMatches_of_mk _ _ _ _ _ rfl rfl
theorem Sys2Proof.Laws.HeadMatches.xori (d : GReg) (b : Src) (imm : BitVec 21) : Sys2Proof.Laws.HeadMatches.Statement (.xori d b imm) := Sys2Proof.Laws.headMatches_of_mk _ _ _ _ _ rfl rfl
theorem Sys2Proof.Laws.HeadMatches.slti (d : GReg) (b : Src) (imm : BitVec 21) : Sys2Proof.Laws.HeadMatches.Statement (.slti d b imm) := Sys2Proof.Laws.headMatches_of_mk _ _ _ _ _ rfl rfl
theorem Sys2Proof.Laws.HeadMatches.sltiu (d : GReg) (b : Src) (imm : BitVec 21) : Sys2Proof.Laws.HeadMatches.Statement (.sltiu d b imm) := Sys2Proof.Laws.headMatches_of_mk _ _ _ _ _ rfl rfl
theorem Sys2Proof.Laws.HeadMatches.shli (d : GReg) (b : Src) (n : BitVec 6) : Sys2Proof.Laws.HeadMatches.Statement (.shli d b n) := Sys2Proof.Laws.headMatches_of_mk _ _ _ _ _ rfl rfl
theorem Sys2Proof.Laws.HeadMatches.shri (d : GReg) (b : Src) (n : BitVec 6) : Sys2Proof.Laws.HeadMatches.Statement (.shri d b n) := Sys2Proof.Laws.headMatches_of_mk _ _ _ _ _ rfl rfl
theorem Sys2Proof.Laws.HeadMatches.sari (d : GReg) (b : Src) (n : BitVec 6) : Sys2Proof.Laws.HeadMatches.Statement (.sari d b n) := Sys2Proof.Laws.headMatches_of_mk _ _ _ _ _ rfl rfl
theorem Sys2Proof.Laws.HeadMatches.addwi (d : GReg) (b : Src) (imm : BitVec 21) : Sys2Proof.Laws.HeadMatches.Statement (.addwi d b imm) := Sys2Proof.Laws.headMatches_of_mk _ _ _ _ _ rfl rfl
theorem Sys2Proof.Laws.HeadMatches.li (d : GReg) (imm : BitVec 16) : Sys2Proof.Laws.HeadMatches.Statement (.li d imm) := Sys2Proof.Laws.headMatches_of_mk _ _ _ _ _ rfl rfl
theorem Sys2Proof.Laws.HeadMatches.liw (d : GReg) (imm : BitVec 32) : Sys2Proof.Laws.HeadMatches.Statement (.liw d imm) := Sys2Proof.Laws.headMatches_of_mk _ _ _ _ _ rfl rfl
theorem Sys2Proof.Laws.HeadMatches.lid (d : GReg) (imm : BitVec 64) : Sys2Proof.Laws.HeadMatches.Statement (.lid d imm) := Sys2Proof.Laws.headMatches_of_mk _ _ _ _ _ rfl rfl
theorem Sys2Proof.Laws.HeadMatches.clz (d : GReg) (b : Src) : Sys2Proof.Laws.HeadMatches.Statement (.clz d b) := Sys2Proof.Laws.headMatches_of_mk _ _ _ _ _ rfl rfl
theorem Sys2Proof.Laws.HeadMatches.ctz (d : GReg) (b : Src) : Sys2Proof.Laws.HeadMatches.Statement (.ctz d b) := Sys2Proof.Laws.headMatches_of_mk _ _ _ _ _ rfl rfl
theorem Sys2Proof.Laws.HeadMatches.popc (d : GReg) (b : Src) : Sys2Proof.Laws.HeadMatches.Statement (.popc d b) := Sys2Proof.Laws.headMatches_of_mk _ _ _ _ _ rfl rfl
theorem Sys2Proof.Laws.HeadMatches.bswap (d : GReg) (b : Src) : Sys2Proof.Laws.HeadMatches.Statement (.bswap d b) := Sys2Proof.Laws.headMatches_of_mk _ _ _ _ _ rfl rfl
theorem Sys2Proof.Laws.HeadMatches.sextB (d : GReg) (b : Src) : Sys2Proof.Laws.HeadMatches.Statement (.sextB d b) := Sys2Proof.Laws.headMatches_of_mk _ _ _ _ _ rfl rfl
theorem Sys2Proof.Laws.HeadMatches.sextH (d : GReg) (b : Src) : Sys2Proof.Laws.HeadMatches.Statement (.sextH d b) := Sys2Proof.Laws.headMatches_of_mk _ _ _ _ _ rfl rfl
theorem Sys2Proof.Laws.HeadMatches.sextW (d : GReg) (b : Src) : Sys2Proof.Laws.HeadMatches.Statement (.sextW d b) := Sys2Proof.Laws.headMatches_of_mk _ _ _ _ _ rfl rfl
theorem Sys2Proof.Laws.HeadMatches.zextW (d : GReg) (b : Src) : Sys2Proof.Laws.HeadMatches.Statement (.zextW d b) := Sys2Proof.Laws.headMatches_of_mk _ _ _ _ _ rfl rfl
theorem Sys2Proof.Laws.HeadMatches.extu (d : GReg) (b : Src) (pos len : BitVec 6) : Sys2Proof.Laws.HeadMatches.Statement (.extu d b pos len) := Sys2Proof.Laws.headMatches_of_mk _ _ _ _ _ rfl rfl
theorem Sys2Proof.Laws.HeadMatches.exts (d : GReg) (b : Src) (pos len : BitVec 6) : Sys2Proof.Laws.HeadMatches.Statement (.exts d b pos len) := Sys2Proof.Laws.headMatches_of_mk _ _ _ _ _ rfl rfl
theorem Sys2Proof.Laws.HeadMatches.ins (d : GReg) (b : Src) (pos len : BitVec 6) : Sys2Proof.Laws.HeadMatches.Statement (.ins d b pos len) := Sys2Proof.Laws.headMatches_of_mk _ _ _ _ _ rfl rfl
theorem Sys2Proof.Laws.HeadMatches.sel (d : GReg) (b c e : Src) : Sys2Proof.Laws.HeadMatches.Statement (.sel d b c e) := Sys2Proof.Laws.headMatches_of_mk _ _ _ _ _ rfl rfl
theorem Sys2Proof.Laws.HeadMatches.lpc (d : GReg) (disp : BitVec 24) : Sys2Proof.Laws.HeadMatches.Statement (.lpc d disp) := Sys2Proof.Laws.headMatches_of_mk _ _ _ _ _ rfl rfl
theorem Sys2Proof.Laws.HeadMatches.fadd (d : GReg) (b c : Src) : Sys2Proof.Laws.HeadMatches.Statement (.fadd d b c) := Sys2Proof.Laws.headMatches_of_mk _ _ _ _ _ rfl rfl
theorem Sys2Proof.Laws.HeadMatches.fsub (d : GReg) (b c : Src) : Sys2Proof.Laws.HeadMatches.Statement (.fsub d b c) := Sys2Proof.Laws.headMatches_of_mk _ _ _ _ _ rfl rfl
theorem Sys2Proof.Laws.HeadMatches.fmul (d : GReg) (b c : Src) : Sys2Proof.Laws.HeadMatches.Statement (.fmul d b c) := Sys2Proof.Laws.headMatches_of_mk _ _ _ _ _ rfl rfl
theorem Sys2Proof.Laws.HeadMatches.fdiv (d : GReg) (b c : Src) : Sys2Proof.Laws.HeadMatches.Statement (.fdiv d b c) := Sys2Proof.Laws.headMatches_of_mk _ _ _ _ _ rfl rfl
theorem Sys2Proof.Laws.HeadMatches.fmin (d : GReg) (b c : Src) : Sys2Proof.Laws.HeadMatches.Statement (.fmin d b c) := Sys2Proof.Laws.headMatches_of_mk _ _ _ _ _ rfl rfl
theorem Sys2Proof.Laws.HeadMatches.fmax (d : GReg) (b c : Src) : Sys2Proof.Laws.HeadMatches.Statement (.fmax d b c) := Sys2Proof.Laws.headMatches_of_mk _ _ _ _ _ rfl rfl
theorem Sys2Proof.Laws.HeadMatches.fsqrt (d : GReg) (b : Src) : Sys2Proof.Laws.HeadMatches.Statement (.fsqrt d b) := Sys2Proof.Laws.headMatches_of_mk _ _ _ _ _ rfl rfl
theorem Sys2Proof.Laws.HeadMatches.fclass (d : GReg) (b : Src) : Sys2Proof.Laws.HeadMatches.Statement (.fclass d b) := Sys2Proof.Laws.headMatches_of_mk _ _ _ _ _ rfl rfl
theorem Sys2Proof.Laws.HeadMatches.ffma (d : GReg) (b c e : Src) : Sys2Proof.Laws.HeadMatches.Statement (.ffma d b c e) := Sys2Proof.Laws.headMatches_of_mk _ _ _ _ _ rfl rfl
theorem Sys2Proof.Laws.HeadMatches.ffms (d : GReg) (b c e : Src) : Sys2Proof.Laws.HeadMatches.Statement (.ffms d b c e) := Sys2Proof.Laws.headMatches_of_mk _ _ _ _ _ rfl rfl
theorem Sys2Proof.Laws.HeadMatches.fnma (d : GReg) (b c e : Src) : Sys2Proof.Laws.HeadMatches.Statement (.fnma d b c e) := Sys2Proof.Laws.headMatches_of_mk _ _ _ _ _ rfl rfl
theorem Sys2Proof.Laws.HeadMatches.fnms (d : GReg) (b c e : Src) : Sys2Proof.Laws.HeadMatches.Statement (.fnms d b c e) := Sys2Proof.Laws.headMatches_of_mk _ _ _ _ _ rfl rfl
theorem Sys2Proof.Laws.HeadMatches.feq (d : GReg) (b : Src) (c : GReg) : Sys2Proof.Laws.HeadMatches.Statement (.feq d b c) := Sys2Proof.Laws.headMatches_of_mk _ _ _ _ _ rfl rfl
theorem Sys2Proof.Laws.HeadMatches.flt (d : GReg) (b : Src) (c : GReg) : Sys2Proof.Laws.HeadMatches.Statement (.flt d b c) := Sys2Proof.Laws.headMatches_of_mk _ _ _ _ _ rfl rfl
theorem Sys2Proof.Laws.HeadMatches.fle (d : GReg) (b : Src) (c : GReg) : Sys2Proof.Laws.HeadMatches.Statement (.fle d b c) := Sys2Proof.Laws.headMatches_of_mk _ _ _ _ _ rfl rfl
theorem Sys2Proof.Laws.HeadMatches.fcvtWF (d : GReg) (b : Src) (rm : BitVec 2) : Sys2Proof.Laws.HeadMatches.Statement (.fcvtWF d b rm) := Sys2Proof.Laws.headMatches_of_mk _ _ _ _ _ rfl rfl
theorem Sys2Proof.Laws.HeadMatches.fcvtFW (d : GReg) (b : Src) (rm : BitVec 2) : Sys2Proof.Laws.HeadMatches.Statement (.fcvtFW d b rm) := Sys2Proof.Laws.headMatches_of_mk _ _ _ _ _ rfl rfl
theorem Sys2Proof.Laws.HeadMatches.fcvtBfF (d : GReg) (b : Src) (rm : BitVec 2) : Sys2Proof.Laws.HeadMatches.Statement (.fcvtBfF d b rm) := Sys2Proof.Laws.headMatches_of_mk _ _ _ _ _ rfl rfl
theorem Sys2Proof.Laws.HeadMatches.fcvtFBf (d : GReg) (b : Src) : Sys2Proof.Laws.HeadMatches.Statement (.fcvtFBf d b) := Sys2Proof.Laws.headMatches_of_mk _ _ _ _ _ rfl rfl
theorem Sys2Proof.Laws.HeadMatches.fcvtHF (d : GReg) (b : Src) (rm : BitVec 2) : Sys2Proof.Laws.HeadMatches.Statement (.fcvtHF d b rm) := Sys2Proof.Laws.headMatches_of_mk _ _ _ _ _ rfl rfl
theorem Sys2Proof.Laws.HeadMatches.fcvtFH (d : GReg) (b : Src) : Sys2Proof.Laws.HeadMatches.Statement (.fcvtFH d b) := Sys2Proof.Laws.headMatches_of_mk _ _ _ _ _ rfl rfl
theorem Sys2Proof.Laws.HeadMatches.beq (a b : Src) (disp : BitVec 24) : Sys2Proof.Laws.HeadMatches.Statement (.beq a b disp) := Sys2Proof.Laws.headMatches_of_mk _ _ _ _ _ rfl rfl
theorem Sys2Proof.Laws.HeadMatches.bne (a b : Src) (disp : BitVec 24) : Sys2Proof.Laws.HeadMatches.Statement (.bne a b disp) := Sys2Proof.Laws.headMatches_of_mk _ _ _ _ _ rfl rfl
theorem Sys2Proof.Laws.HeadMatches.blt (a b : Src) (disp : BitVec 24) : Sys2Proof.Laws.HeadMatches.Statement (.blt a b disp) := Sys2Proof.Laws.headMatches_of_mk _ _ _ _ _ rfl rfl
theorem Sys2Proof.Laws.HeadMatches.bge (a b : Src) (disp : BitVec 24) : Sys2Proof.Laws.HeadMatches.Statement (.bge a b disp) := Sys2Proof.Laws.headMatches_of_mk _ _ _ _ _ rfl rfl
theorem Sys2Proof.Laws.HeadMatches.bltu (a b : Src) (disp : BitVec 24) : Sys2Proof.Laws.HeadMatches.Statement (.bltu a b disp) := Sys2Proof.Laws.headMatches_of_mk _ _ _ _ _ rfl rfl
theorem Sys2Proof.Laws.HeadMatches.bgeu (a b : Src) (disp : BitVec 24) : Sys2Proof.Laws.HeadMatches.Statement (.bgeu a b disp) := Sys2Proof.Laws.headMatches_of_mk _ _ _ _ _ rfl rfl
theorem Sys2Proof.Laws.HeadMatches.jal (d : GReg) (disp : BitVec 24) : Sys2Proof.Laws.HeadMatches.Statement (.jal d disp) := Sys2Proof.Laws.headMatches_of_mk _ _ _ _ _ rfl rfl
theorem Sys2Proof.Laws.HeadMatches.jalr (d : GReg) (b : Src) (imm : BitVec 21) : Sys2Proof.Laws.HeadMatches.Statement (.jalr d b imm) := Sys2Proof.Laws.headMatches_of_mk _ _ _ _ _ rfl rfl
theorem Sys2Proof.Laws.HeadMatches.safept (glive : BitVec 64) (vlive : BitVec 32) : Sys2Proof.Laws.HeadMatches.Statement (.safept glive vlive) := Sys2Proof.Laws.headMatches_of_mk _ _ _ _ _ rfl rfl
theorem Sys2Proof.Laws.HeadMatches.ldB (d : GReg) (b : Src) (imm : BitVec 21) : Sys2Proof.Laws.HeadMatches.Statement (.ldB d b imm) := Sys2Proof.Laws.headMatches_of_mk _ _ _ _ _ rfl rfl
theorem Sys2Proof.Laws.HeadMatches.ldBu (d : GReg) (b : Src) (imm : BitVec 21) : Sys2Proof.Laws.HeadMatches.Statement (.ldBu d b imm) := Sys2Proof.Laws.headMatches_of_mk _ _ _ _ _ rfl rfl
theorem Sys2Proof.Laws.HeadMatches.ldH (d : GReg) (b : Src) (imm : BitVec 21) : Sys2Proof.Laws.HeadMatches.Statement (.ldH d b imm) := Sys2Proof.Laws.headMatches_of_mk _ _ _ _ _ rfl rfl
theorem Sys2Proof.Laws.HeadMatches.ldHu (d : GReg) (b : Src) (imm : BitVec 21) : Sys2Proof.Laws.HeadMatches.Statement (.ldHu d b imm) := Sys2Proof.Laws.headMatches_of_mk _ _ _ _ _ rfl rfl
theorem Sys2Proof.Laws.HeadMatches.ldW (d : GReg) (b : Src) (imm : BitVec 21) : Sys2Proof.Laws.HeadMatches.Statement (.ldW d b imm) := Sys2Proof.Laws.headMatches_of_mk _ _ _ _ _ rfl rfl
theorem Sys2Proof.Laws.HeadMatches.ldWu (d : GReg) (b : Src) (imm : BitVec 21) : Sys2Proof.Laws.HeadMatches.Statement (.ldWu d b imm) := Sys2Proof.Laws.headMatches_of_mk _ _ _ _ _ rfl rfl
theorem Sys2Proof.Laws.HeadMatches.ldD (d : GReg) (b : Src) (imm : BitVec 21) : Sys2Proof.Laws.HeadMatches.Statement (.ldD d b imm) := Sys2Proof.Laws.headMatches_of_mk _ _ _ _ _ rfl rfl
theorem Sys2Proof.Laws.HeadMatches.stB (a : GReg) (b : Src) (imm : BitVec 21) : Sys2Proof.Laws.HeadMatches.Statement (.stB a b imm) := Sys2Proof.Laws.headMatches_of_mk _ _ _ _ _ rfl rfl
theorem Sys2Proof.Laws.HeadMatches.stH (a : GReg) (b : Src) (imm : BitVec 21) : Sys2Proof.Laws.HeadMatches.Statement (.stH a b imm) := Sys2Proof.Laws.headMatches_of_mk _ _ _ _ _ rfl rfl
theorem Sys2Proof.Laws.HeadMatches.stW (a : GReg) (b : Src) (imm : BitVec 21) : Sys2Proof.Laws.HeadMatches.Statement (.stW a b imm) := Sys2Proof.Laws.headMatches_of_mk _ _ _ _ _ rfl rfl
theorem Sys2Proof.Laws.HeadMatches.stD (a : GReg) (b : Src) (imm : BitVec 21) : Sys2Proof.Laws.HeadMatches.Statement (.stD a b imm) := Sys2Proof.Laws.headMatches_of_mk _ _ _ _ _ rfl rfl
theorem Sys2Proof.Laws.HeadMatches.lda (d : GReg) (b : Src) (scope : BitVec 3) (w : BitVec 2) (imm : BitVec 19) : Sys2Proof.Laws.HeadMatches.Statement (.lda d b scope w imm) := Sys2Proof.Laws.headMatches_of_mk _ _ _ _ _ rfl rfl
theorem Sys2Proof.Laws.HeadMatches.stl (a : GReg) (b : Src) (scope : BitVec 3) (w : BitVec 2) (imm : BitVec 19) : Sys2Proof.Laws.HeadMatches.Statement (.stl a b scope w imm) := Sys2Proof.Laws.headMatches_of_mk _ _ _ _ _ rfl rfl
theorem Sys2Proof.Laws.HeadMatches.vld (v : VReg) (b : Src) (imm : BitVec 21) : Sys2Proof.Laws.HeadMatches.Statement (.vld v b imm) := Sys2Proof.Laws.headMatches_of_mk _ _ _ _ _ rfl rfl
theorem Sys2Proof.Laws.HeadMatches.vldNt (v : VReg) (b : Src) (imm : BitVec 21) : Sys2Proof.Laws.HeadMatches.Statement (.vldNt v b imm) := Sys2Proof.Laws.headMatches_of_mk _ _ _ _ _ rfl rfl
theorem Sys2Proof.Laws.HeadMatches.vst (v : VReg) (b : Src) (imm : BitVec 21) : Sys2Proof.Laws.HeadMatches.Statement (.vst v b imm) := Sys2Proof.Laws.headMatches_of_mk _ _ _ _ _ rfl rfl
theorem Sys2Proof.Laws.HeadMatches.vstNt (v : VReg) (b : Src) (imm : BitVec 21) : Sys2Proof.Laws.HeadMatches.Statement (.vstNt v b imm) := Sys2Proof.Laws.headMatches_of_mk _ _ _ _ _ rfl rfl
theorem Sys2Proof.Laws.HeadMatches.vstKeep (v : VReg) (b : Src) (imm : BitVec 21) : Sys2Proof.Laws.HeadMatches.Statement (.vstKeep v b imm) := Sys2Proof.Laws.headMatches_of_mk _ _ _ _ _ rfl rfl
theorem Sys2Proof.Laws.HeadMatches.ldt (v : VReg) (b c m : Src) (ty : BitVec 3) (rm : BitVec 2) (inf : Bool) : Sys2Proof.Laws.HeadMatches.Statement (.ldt v b c m ty rm inf) := Sys2Proof.Laws.headMatches_of_mk _ _ _ _ _ rfl rfl
theorem Sys2Proof.Laws.HeadMatches.stt (v : VReg) (b c m : Src) (ty : BitVec 3) (rm : BitVec 2) (inf : Bool) (scale : BitVec 8) : Sys2Proof.Laws.HeadMatches.Statement (.stt v b c m ty rm inf scale) := Sys2Proof.Laws.headMatches_of_mk _ _ _ _ _ rfl rfl
theorem Sys2Proof.Laws.HeadMatches.ldtTag (d : GReg) (b : Src) : Sys2Proof.Laws.HeadMatches.Statement (.ldtTag d b) := Sys2Proof.Laws.headMatches_of_mk _ _ _ _ _ rfl rfl
theorem Sys2Proof.Laws.HeadMatches.sttTag (a : GReg) (b : Src) : Sys2Proof.Laws.HeadMatches.Statement (.sttTag a b) := Sys2Proof.Laws.headMatches_of_mk _ _ _ _ _ rfl rfl
theorem Sys2Proof.Laws.HeadMatches.prefL1 (b : Src) (imm : BitVec 21) : Sys2Proof.Laws.HeadMatches.Statement (.prefL1 b imm) := Sys2Proof.Laws.headMatches_of_mk _ _ _ _ _ rfl rfl
theorem Sys2Proof.Laws.HeadMatches.prefLlc (b : Src) (imm : BitVec 21) : Sys2Proof.Laws.HeadMatches.Statement (.prefLlc b imm) := Sys2Proof.Laws.headMatches_of_mk _ _ _ _ _ rfl rfl
theorem Sys2Proof.Laws.HeadMatches.prefWin (b : Src) (imm : BitVec 21) : Sys2Proof.Laws.HeadMatches.Statement (.prefWin b imm) := Sys2Proof.Laws.headMatches_of_mk _ _ _ _ _ rfl rfl
theorem Sys2Proof.Laws.HeadMatches.cflush (b c : Src) (sc : BitVec 3) : Sys2Proof.Laws.HeadMatches.Statement (.cflush b c sc) := Sys2Proof.Laws.headMatches_of_mk _ _ _ _ _ rfl rfl
theorem Sys2Proof.Laws.HeadMatches.cclean (b c : Src) (sc : BitVec 3) : Sys2Proof.Laws.HeadMatches.Statement (.cclean b c sc) := Sys2Proof.Laws.headMatches_of_mk _ _ _ _ _ rfl rfl
theorem Sys2Proof.Laws.HeadMatches.cinval (b c : Src) (sc : BitVec 3) : Sys2Proof.Laws.HeadMatches.Statement (.cinval b c sc) := Sys2Proof.Laws.headMatches_of_mk _ _ _ _ _ rfl rfl
theorem Sys2Proof.Laws.HeadMatches.wmap (d : GReg) (b c e : Src) : Sys2Proof.Laws.HeadMatches.Statement (.wmap d b c e) := Sys2Proof.Laws.headMatches_of_mk _ _ _ _ _ rfl rfl
theorem Sys2Proof.Laws.HeadMatches.wunmap (b : Src) : Sys2Proof.Laws.HeadMatches.Statement (.wunmap b) := Sys2Proof.Laws.headMatches_of_mk _ _ _ _ _ rfl rfl
theorem Sys2Proof.Laws.HeadMatches.wflush (b : Src) : Sys2Proof.Laws.HeadMatches.Statement (.wflush b) := Sys2Proof.Laws.headMatches_of_mk _ _ _ _ _ rfl rfl
theorem Sys2Proof.Laws.HeadMatches.wdrop (b : Src) : Sys2Proof.Laws.HeadMatches.Statement (.wdrop b) := Sys2Proof.Laws.headMatches_of_mk _ _ _ _ _ rfl rfl
theorem Sys2Proof.Laws.HeadMatches.wstat (d : GReg) (b : Src) : Sys2Proof.Laws.HeadMatches.Statement (.wstat d b) := Sys2Proof.Laws.headMatches_of_mk _ _ _ _ _ rfl rfl
theorem Sys2Proof.Laws.HeadMatches.cbld (k : BitVec 3) (b : Src) (imm : BitVec 21) : Sys2Proof.Laws.HeadMatches.Statement (.cbld k b imm) := Sys2Proof.Laws.headMatches_of_mk _ _ _ _ _ rfl rfl
theorem Sys2Proof.Laws.HeadMatches.cbst (k : BitVec 3) (b : Src) (imm : BitVec 21) : Sys2Proof.Laws.HeadMatches.Statement (.cbst k b imm) := Sys2Proof.Laws.headMatches_of_mk _ _ _ _ _ rfl rfl
theorem Sys2Proof.Laws.HeadMatches.amoAdd (d : GReg) (b c : Src) (wide : Bool) (ord : BitVec 2) (scope : BitVec 3) : Sys2Proof.Laws.HeadMatches.Statement (.amoAdd d b c wide ord scope) := Sys2Proof.Laws.headMatches_of_mk _ _ _ _ _ rfl rfl
theorem Sys2Proof.Laws.HeadMatches.amoAnd (d : GReg) (b c : Src) (wide : Bool) (ord : BitVec 2) (scope : BitVec 3) : Sys2Proof.Laws.HeadMatches.Statement (.amoAnd d b c wide ord scope) := Sys2Proof.Laws.headMatches_of_mk _ _ _ _ _ rfl rfl
theorem Sys2Proof.Laws.HeadMatches.amoOr (d : GReg) (b c : Src) (wide : Bool) (ord : BitVec 2) (scope : BitVec 3) : Sys2Proof.Laws.HeadMatches.Statement (.amoOr d b c wide ord scope) := Sys2Proof.Laws.headMatches_of_mk _ _ _ _ _ rfl rfl
theorem Sys2Proof.Laws.HeadMatches.amoXor (d : GReg) (b c : Src) (wide : Bool) (ord : BitVec 2) (scope : BitVec 3) : Sys2Proof.Laws.HeadMatches.Statement (.amoXor d b c wide ord scope) := Sys2Proof.Laws.headMatches_of_mk _ _ _ _ _ rfl rfl
theorem Sys2Proof.Laws.HeadMatches.amoMin (d : GReg) (b c : Src) (wide : Bool) (ord : BitVec 2) (scope : BitVec 3) : Sys2Proof.Laws.HeadMatches.Statement (.amoMin d b c wide ord scope) := Sys2Proof.Laws.headMatches_of_mk _ _ _ _ _ rfl rfl
theorem Sys2Proof.Laws.HeadMatches.amoMax (d : GReg) (b c : Src) (wide : Bool) (ord : BitVec 2) (scope : BitVec 3) : Sys2Proof.Laws.HeadMatches.Statement (.amoMax d b c wide ord scope) := Sys2Proof.Laws.headMatches_of_mk _ _ _ _ _ rfl rfl
theorem Sys2Proof.Laws.HeadMatches.amoMinu (d : GReg) (b c : Src) (wide : Bool) (ord : BitVec 2) (scope : BitVec 3) : Sys2Proof.Laws.HeadMatches.Statement (.amoMinu d b c wide ord scope) := Sys2Proof.Laws.headMatches_of_mk _ _ _ _ _ rfl rfl
theorem Sys2Proof.Laws.HeadMatches.amoMaxu (d : GReg) (b c : Src) (wide : Bool) (ord : BitVec 2) (scope : BitVec 3) : Sys2Proof.Laws.HeadMatches.Statement (.amoMaxu d b c wide ord scope) := Sys2Proof.Laws.headMatches_of_mk _ _ _ _ _ rfl rfl
theorem Sys2Proof.Laws.HeadMatches.amoSwap (d : GReg) (b c : Src) (wide : Bool) (ord : BitVec 2) (scope : BitVec 3) : Sys2Proof.Laws.HeadMatches.Statement (.amoSwap d b c wide ord scope) := Sys2Proof.Laws.headMatches_of_mk _ _ _ _ _ rfl rfl
theorem Sys2Proof.Laws.HeadMatches.amoCas (d : GReg) (b c e : Src) (wide : Bool) (ord : BitVec 2) (scope : BitVec 3) : Sys2Proof.Laws.HeadMatches.Statement (.amoCas d b c e wide ord scope) := Sys2Proof.Laws.headMatches_of_mk _ _ _ _ _ rfl rfl
theorem Sys2Proof.Laws.HeadMatches.amoFadd (d : GReg) (b c : Src) (ord : BitVec 2) (scope : BitVec 3) : Sys2Proof.Laws.HeadMatches.Statement (.amoFadd d b c ord scope) := Sys2Proof.Laws.headMatches_of_mk _ _ _ _ _ rfl rfl
theorem Sys2Proof.Laws.HeadMatches.redAdd (b c : Src) (wide rel : Bool) (scope : BitVec 3) : Sys2Proof.Laws.HeadMatches.Statement (.redAdd b c wide rel scope) := Sys2Proof.Laws.headMatches_of_mk _ _ _ _ _ rfl rfl
theorem Sys2Proof.Laws.HeadMatches.redAnd (b c : Src) (wide rel : Bool) (scope : BitVec 3) : Sys2Proof.Laws.HeadMatches.Statement (.redAnd b c wide rel scope) := Sys2Proof.Laws.headMatches_of_mk _ _ _ _ _ rfl rfl
theorem Sys2Proof.Laws.HeadMatches.redOr (b c : Src) (wide rel : Bool) (scope : BitVec 3) : Sys2Proof.Laws.HeadMatches.Statement (.redOr b c wide rel scope) := Sys2Proof.Laws.headMatches_of_mk _ _ _ _ _ rfl rfl
theorem Sys2Proof.Laws.HeadMatches.redXor (b c : Src) (wide rel : Bool) (scope : BitVec 3) : Sys2Proof.Laws.HeadMatches.Statement (.redXor b c wide rel scope) := Sys2Proof.Laws.headMatches_of_mk _ _ _ _ _ rfl rfl
theorem Sys2Proof.Laws.HeadMatches.redMin (b c : Src) (wide rel : Bool) (scope : BitVec 3) : Sys2Proof.Laws.HeadMatches.Statement (.redMin b c wide rel scope) := Sys2Proof.Laws.headMatches_of_mk _ _ _ _ _ rfl rfl
theorem Sys2Proof.Laws.HeadMatches.redMax (b c : Src) (wide rel : Bool) (scope : BitVec 3) : Sys2Proof.Laws.HeadMatches.Statement (.redMax b c wide rel scope) := Sys2Proof.Laws.headMatches_of_mk _ _ _ _ _ rfl rfl
theorem Sys2Proof.Laws.HeadMatches.redMinu (b c : Src) (wide rel : Bool) (scope : BitVec 3) : Sys2Proof.Laws.HeadMatches.Statement (.redMinu b c wide rel scope) := Sys2Proof.Laws.headMatches_of_mk _ _ _ _ _ rfl rfl
theorem Sys2Proof.Laws.HeadMatches.redMaxu (b c : Src) (wide rel : Bool) (scope : BitVec 3) : Sys2Proof.Laws.HeadMatches.Statement (.redMaxu b c wide rel scope) := Sys2Proof.Laws.headMatches_of_mk _ _ _ _ _ rfl rfl
theorem Sys2Proof.Laws.HeadMatches.redFadd (b c : Src) (rel : Bool) (scope : BitVec 3) : Sys2Proof.Laws.HeadMatches.Statement (.redFadd b c rel scope) := Sys2Proof.Laws.headMatches_of_mk _ _ _ _ _ rfl rfl
theorem Sys2Proof.Laws.HeadMatches.take (d : GReg) (b : Src) (imm : BitVec 21) : Sys2Proof.Laws.HeadMatches.Statement (.take d b imm) := Sys2Proof.Laws.headMatches_of_mk _ _ _ _ _ rfl rfl
theorem Sys2Proof.Laws.HeadMatches.trytake (d : GReg) (b : Src) (imm : BitVec 21) : Sys2Proof.Laws.HeadMatches.Statement (.trytake d b imm) := Sys2Proof.Laws.headMatches_of_mk _ _ _ _ _ rfl rfl
theorem Sys2Proof.Laws.HeadMatches.put (a : GReg) (b : Src) (imm : BitVec 21) : Sys2Proof.Laws.HeadMatches.Statement (.put a b imm) := Sys2Proof.Laws.headMatches_of_mk _ _ _ _ _ rfl rfl
theorem Sys2Proof.Laws.HeadMatches.putx (a : GReg) (b : Src) (imm : BitVec 21) : Sys2Proof.Laws.HeadMatches.Statement (.putx a b imm) := Sys2Proof.Laws.headMatches_of_mk _ _ _ _ _ rfl rfl
theorem Sys2Proof.Laws.HeadMatches.waitw (d : GReg) (b : Src) (imm : BitVec 21) : Sys2Proof.Laws.HeadMatches.Statement (.waitw d b imm) := Sys2Proof.Laws.headMatches_of_mk _ _ _ _ _ rfl rfl
theorem Sys2Proof.Laws.HeadMatches.fence (sc : BitVec 3) : Sys2Proof.Laws.HeadMatches.Statement (.fence sc) := Sys2Proof.Laws.headMatches_of_mk _ _ _ _ _ rfl rfl
theorem Sys2Proof.Laws.HeadMatches.acqr (b c : Src) (sc : BitVec 3) : Sys2Proof.Laws.HeadMatches.Statement (.acqr b c sc) := Sys2Proof.Laws.headMatches_of_mk _ _ _ _ _ rfl rfl
theorem Sys2Proof.Laws.HeadMatches.relr (b c : Src) (sc : BitVec 3) : Sys2Proof.Laws.HeadMatches.Statement (.relr b c sc) := Sys2Proof.Laws.headMatches_of_mk _ _ _ _ _ rfl rfl
theorem Sys2Proof.Laws.HeadMatches.migrate (b : Src) : Sys2Proof.Laws.HeadMatches.Statement (.migrate b) := Sys2Proof.Laws.headMatches_of_mk _ _ _ _ _ rfl rfl
theorem Sys2Proof.Laws.HeadMatches.rethome : Sys2Proof.Laws.HeadMatches.Statement .rethome := Sys2Proof.Laws.headMatches_of_mk _ _ _ _ _ rfl rfl
theorem Sys2Proof.Laws.HeadMatches.jcinit (b c : Src) : Sys2Proof.Laws.HeadMatches.Statement (.jcinit b c) := Sys2Proof.Laws.headMatches_of_mk _ _ _ _ _ rfl rfl
theorem Sys2Proof.Laws.HeadMatches.jcdec (b : Src) : Sys2Proof.Laws.HeadMatches.Statement (.jcdec b) := Sys2Proof.Laws.headMatches_of_mk _ _ _ _ _ rfl rfl
theorem Sys2Proof.Laws.HeadMatches.jcwait (b : Src) : Sys2Proof.Laws.HeadMatches.Statement (.jcwait b) := Sys2Proof.Laws.headMatches_of_mk _ _ _ _ _ rfl rfl
theorem Sys2Proof.Laws.HeadMatches.barinit (b c : Src) : Sys2Proof.Laws.HeadMatches.Statement (.barinit b c) := Sys2Proof.Laws.headMatches_of_mk _ _ _ _ _ rfl rfl
theorem Sys2Proof.Laws.HeadMatches.bararr (d : GReg) (b : Src) : Sys2Proof.Laws.HeadMatches.Statement (.bararr d b) := Sys2Proof.Laws.headMatches_of_mk _ _ _ _ _ rfl rfl
theorem Sys2Proof.Laws.HeadMatches.barwait (b c : Src) : Sys2Proof.Laws.HeadMatches.Statement (.barwait b c) := Sys2Proof.Laws.headMatches_of_mk _ _ _ _ _ rfl rfl
theorem Sys2Proof.Laws.HeadMatches.vadd (v : VReg) (b c : VSrc) (m : Src) (ty : BitVec 3) : Sys2Proof.Laws.HeadMatches.Statement (.vadd v b c m ty) := Sys2Proof.Laws.headMatches_of_mk _ _ _ _ _ rfl rfl
theorem Sys2Proof.Laws.HeadMatches.vsub (v : VReg) (b c : VSrc) (m : Src) (ty : BitVec 3) : Sys2Proof.Laws.HeadMatches.Statement (.vsub v b c m ty) := Sys2Proof.Laws.headMatches_of_mk _ _ _ _ _ rfl rfl
theorem Sys2Proof.Laws.HeadMatches.vmul (v : VReg) (b c : VSrc) (m : Src) (ty : BitVec 3) : Sys2Proof.Laws.HeadMatches.Statement (.vmul v b c m ty) := Sys2Proof.Laws.headMatches_of_mk _ _ _ _ _ rfl rfl
theorem Sys2Proof.Laws.HeadMatches.vfma (v : VReg) (b c : VSrc) (m : Src) (ty : BitVec 3) : Sys2Proof.Laws.HeadMatches.Statement (.vfma v b c m ty) := Sys2Proof.Laws.headMatches_of_mk _ _ _ _ _ rfl rfl
theorem Sys2Proof.Laws.HeadMatches.vmin (v : VReg) (b c : VSrc) (m : Src) (ty : BitVec 3) : Sys2Proof.Laws.HeadMatches.Statement (.vmin v b c m ty) := Sys2Proof.Laws.headMatches_of_mk _ _ _ _ _ rfl rfl
theorem Sys2Proof.Laws.HeadMatches.vmax (v : VReg) (b c : VSrc) (m : Src) (ty : BitVec 3) : Sys2Proof.Laws.HeadMatches.Statement (.vmax v b c m ty) := Sys2Proof.Laws.headMatches_of_mk _ _ _ _ _ rfl rfl
theorem Sys2Proof.Laws.HeadMatches.vrcp (v : VReg) (b : VSrc) (m : Src) (ty : BitVec 3) : Sys2Proof.Laws.HeadMatches.Statement (.vrcp v b m ty) := Sys2Proof.Laws.headMatches_of_mk _ _ _ _ _ rfl rfl
theorem Sys2Proof.Laws.HeadMatches.vrsqrt (v : VReg) (b : VSrc) (m : Src) (ty : BitVec 3) : Sys2Proof.Laws.HeadMatches.Statement (.vrsqrt v b m ty) := Sys2Proof.Laws.headMatches_of_mk _ _ _ _ _ rfl rfl
theorem Sys2Proof.Laws.HeadMatches.vexp2 (v : VReg) (b : VSrc) (m : Src) (ty : BitVec 3) : Sys2Proof.Laws.HeadMatches.Statement (.vexp2 v b m ty) := Sys2Proof.Laws.headMatches_of_mk _ _ _ _ _ rfl rfl
theorem Sys2Proof.Laws.HeadMatches.vlog2 (v : VReg) (b : VSrc) (m : Src) (ty : BitVec 3) : Sys2Proof.Laws.HeadMatches.Statement (.vlog2 v b m ty) := Sys2Proof.Laws.headMatches_of_mk _ _ _ _ _ rfl rfl
theorem Sys2Proof.Laws.HeadMatches.vabs (v : VReg) (b : VSrc) (m : Src) (ty : BitVec 3) : Sys2Proof.Laws.HeadMatches.Statement (.vabs v b m ty) := Sys2Proof.Laws.headMatches_of_mk _ _ _ _ _ rfl rfl
theorem Sys2Proof.Laws.HeadMatches.vneg (v : VReg) (b : VSrc) (m : Src) (ty : BitVec 3) : Sys2Proof.Laws.HeadMatches.Statement (.vneg v b m ty) := Sys2Proof.Laws.headMatches_of_mk _ _ _ _ _ rfl rfl
theorem Sys2Proof.Laws.HeadMatches.vcmpEq (d : GReg) (b c : VSrc) (m : Src) (ty : BitVec 3) : Sys2Proof.Laws.HeadMatches.Statement (.vcmpEq d b c m ty) := Sys2Proof.Laws.headMatches_of_mk _ _ _ _ _ rfl rfl
theorem Sys2Proof.Laws.HeadMatches.vcmpNe (d : GReg) (b c : VSrc) (m : Src) (ty : BitVec 3) : Sys2Proof.Laws.HeadMatches.Statement (.vcmpNe d b c m ty) := Sys2Proof.Laws.headMatches_of_mk _ _ _ _ _ rfl rfl
theorem Sys2Proof.Laws.HeadMatches.vcmpLt (d : GReg) (b c : VSrc) (m : Src) (ty : BitVec 3) : Sys2Proof.Laws.HeadMatches.Statement (.vcmpLt d b c m ty) := Sys2Proof.Laws.headMatches_of_mk _ _ _ _ _ rfl rfl
theorem Sys2Proof.Laws.HeadMatches.vcmpLe (d : GReg) (b c : VSrc) (m : Src) (ty : BitVec 3) : Sys2Proof.Laws.HeadMatches.Statement (.vcmpLe d b c m ty) := Sys2Proof.Laws.headMatches_of_mk _ _ _ _ _ rfl rfl
theorem Sys2Proof.Laws.HeadMatches.vsel (v : VReg) (b c : VSrc) (m : Src) (ty : BitVec 3) : Sys2Proof.Laws.HeadMatches.Statement (.vsel v b c m ty) := Sys2Proof.Laws.headMatches_of_mk _ _ _ _ _ rfl rfl
theorem Sys2Proof.Laws.HeadMatches.vand (v : VReg) (b c : VSrc) (m : Src) (ty : BitVec 3) : Sys2Proof.Laws.HeadMatches.Statement (.vand v b c m ty) := Sys2Proof.Laws.headMatches_of_mk _ _ _ _ _ rfl rfl
theorem Sys2Proof.Laws.HeadMatches.vor (v : VReg) (b c : VSrc) (m : Src) (ty : BitVec 3) : Sys2Proof.Laws.HeadMatches.Statement (.vor v b c m ty) := Sys2Proof.Laws.headMatches_of_mk _ _ _ _ _ rfl rfl
theorem Sys2Proof.Laws.HeadMatches.vxor (v : VReg) (b c : VSrc) (m : Src) (ty : BitVec 3) : Sys2Proof.Laws.HeadMatches.Statement (.vxor v b c m ty) := Sys2Proof.Laws.headMatches_of_mk _ _ _ _ _ rfl rfl
theorem Sys2Proof.Laws.HeadMatches.vandn (v : VReg) (b c : VSrc) (m : Src) (ty : BitVec 3) : Sys2Proof.Laws.HeadMatches.Statement (.vandn v b c m ty) := Sys2Proof.Laws.headMatches_of_mk _ _ _ _ _ rfl rfl
theorem Sys2Proof.Laws.HeadMatches.vshl (v : VReg) (b c : VSrc) (m : Src) (ty : BitVec 3) : Sys2Proof.Laws.HeadMatches.Statement (.vshl v b c m ty) := Sys2Proof.Laws.headMatches_of_mk _ _ _ _ _ rfl rfl
theorem Sys2Proof.Laws.HeadMatches.vshr (v : VReg) (b c : VSrc) (m : Src) (ty : BitVec 3) : Sys2Proof.Laws.HeadMatches.Statement (.vshr v b c m ty) := Sys2Proof.Laws.headMatches_of_mk _ _ _ _ _ rfl rfl
theorem Sys2Proof.Laws.HeadMatches.vsar (v : VReg) (b c : VSrc) (m : Src) (ty : BitVec 3) : Sys2Proof.Laws.HeadMatches.Statement (.vsar v b c m ty) := Sys2Proof.Laws.headMatches_of_mk _ _ _ _ _ rfl rfl
theorem Sys2Proof.Laws.HeadMatches.vcvt (v : VReg) (b : VSrc) (m : Src) (ty : BitVec 3) (rm : BitVec 2) (part : BitVec 2) (inf : Bool) : Sys2Proof.Laws.HeadMatches.Statement (.vcvt v b m ty rm part inf) := Sys2Proof.Laws.headMatches_of_mk _ _ _ _ _ rfl rfl
theorem Sys2Proof.Laws.HeadMatches.vsum (d : GReg) (b : VSrc) (m : Src) (ty : BitVec 3) : Sys2Proof.Laws.HeadMatches.Statement (.vsum d b m ty) := Sys2Proof.Laws.headMatches_of_mk _ _ _ _ _ rfl rfl
theorem Sys2Proof.Laws.HeadMatches.vrmax (d : GReg) (b : VSrc) (m : Src) (ty : BitVec 3) : Sys2Proof.Laws.HeadMatches.Statement (.vrmax d b m ty) := Sys2Proof.Laws.headMatches_of_mk _ _ _ _ _ rfl rfl
theorem Sys2Proof.Laws.HeadMatches.vrmin (d : GReg) (b : VSrc) (m : Src) (ty : BitVec 3) : Sys2Proof.Laws.HeadMatches.Statement (.vrmin d b m ty) := Sys2Proof.Laws.headMatches_of_mk _ _ _ _ _ rfl rfl
theorem Sys2Proof.Laws.HeadMatches.vperm (v : VReg) (b c : VSrc) (m : Src) (ty : BitVec 3) : Sys2Proof.Laws.HeadMatches.Statement (.vperm v b c m ty) := Sys2Proof.Laws.headMatches_of_mk _ _ _ _ _ rfl rfl
theorem Sys2Proof.Laws.HeadMatches.vbcast (v : VReg) (b : Src) (m : Src) (ty : BitVec 3) : Sys2Proof.Laws.HeadMatches.Statement (.vbcast v b m ty) := Sys2Proof.Laws.headMatches_of_mk _ _ _ _ _ rfl rfl
theorem Sys2Proof.Laws.HeadMatches.vins (v : VReg) (b c : Src) (ty : BitVec 3) : Sys2Proof.Laws.HeadMatches.Statement (.vins v b c ty) := Sys2Proof.Laws.headMatches_of_mk _ _ _ _ _ rfl rfl
theorem Sys2Proof.Laws.HeadMatches.vextr (d : GReg) (b : VSrc) (c : Src) (ty : BitVec 3) : Sys2Proof.Laws.HeadMatches.Statement (.vextr d b c ty) := Sys2Proof.Laws.headMatches_of_mk _ _ _ _ _ rfl rfl
theorem Sys2Proof.Laws.HeadMatches.vlut (v : VReg) (b : VSrc) (m : Src) (ty : BitVec 3) (rm : BitVec 2) (part : BitVec 3) (inf : Bool) : Sys2Proof.Laws.HeadMatches.Statement (.vlut v b m ty rm part inf) := Sys2Proof.Laws.headMatches_of_mk _ _ _ _ _ rfl rfl
theorem Sys2Proof.Laws.HeadMatches.vdot (d : GReg) (b c : VSrc) (m : Src) (ty : BitVec 3) : Sys2Proof.Laws.HeadMatches.Statement (.vdot d b c m ty) := Sys2Proof.Laws.headMatches_of_mk _ _ _ _ _ rfl rfl
theorem Sys2Proof.Laws.HeadMatches.vtagg (d : GReg) (b : VSrc) : Sys2Proof.Laws.HeadMatches.Statement (.vtagg d b) := Sys2Proof.Laws.headMatches_of_mk _ _ _ _ _ rfl rfl
theorem Sys2Proof.Laws.HeadMatches.vtags (v : VReg) (b : Src) : Sys2Proof.Laws.HeadMatches.Statement (.vtags v b) := Sys2Proof.Laws.headMatches_of_mk _ _ _ _ _ rfl rfl
theorem Sys2Proof.Laws.HeadMatches.vmov (v : VReg) (b : VSrc) (m : Src) (ty : BitVec 3) : Sys2Proof.Laws.HeadMatches.Statement (.vmov v b m ty) := Sys2Proof.Laws.headMatches_of_mk _ _ _ _ _ rfl rfl
theorem Sys2Proof.Laws.HeadMatches.vscale (v : VReg) (b : VSrc) (c m : Src) (ty : BitVec 3) (rm : BitVec 2) (step : BitVec 16) : Sys2Proof.Laws.HeadMatches.Statement (.vscale v b c m ty rm step) := Sys2Proof.Laws.headMatches_of_mk _ _ _ _ _ rfl rfl
theorem Sys2Proof.Laws.HeadMatches.push (d : GReg) (b : Src) : Sys2Proof.Laws.HeadMatches.Statement (.push d b) := Sys2Proof.Laws.headMatches_of_mk _ _ _ _ _ rfl rfl
theorem Sys2Proof.Laws.HeadMatches.copy (d : GReg) (b c e : Src) (sc : BitVec 3) (tags rq : Bool) (dkind : BitVec 2) : Sys2Proof.Laws.HeadMatches.Statement (.copy d b c e sc tags rq dkind) := Sys2Proof.Laws.headMatches_of_mk _ _ _ _ _ rfl rfl
theorem Sys2Proof.Laws.HeadMatches.waitt (b : Src) : Sys2Proof.Laws.HeadMatches.Statement (.waitt b) := Sys2Proof.Laws.headMatches_of_mk _ _ _ _ _ rfl rfl
theorem Sys2Proof.Laws.HeadMatches.qbind (q : BitVec 3) (b : Src) : Sys2Proof.Laws.HeadMatches.Statement (.qbind q b) := Sys2Proof.Laws.headMatches_of_mk _ _ _ _ _ rfl rfl
theorem Sys2Proof.Laws.HeadMatches.qunbind (q : BitVec 3) : Sys2Proof.Laws.HeadMatches.Statement (.qunbind q) := Sys2Proof.Laws.headMatches_of_mk _ _ _ _ _ rfl rfl
theorem Sys2Proof.Laws.HeadMatches.qstat (d : GReg) (q : BitVec 3) : Sys2Proof.Laws.HeadMatches.Statement (.qstat d q) := Sys2Proof.Laws.headMatches_of_mk _ _ _ _ _ rfl rfl
theorem Sys2Proof.Laws.HeadMatches.sopen (q : BitVec 3) (b c : Src) : Sys2Proof.Laws.HeadMatches.Statement (.sopen q b c) := Sys2Proof.Laws.headMatches_of_mk _ _ _ _ _ rfl rfl
theorem Sys2Proof.Laws.HeadMatches.sclose (q : BitVec 3) : Sys2Proof.Laws.HeadMatches.Statement (.sclose q) := Sys2Proof.Laws.headMatches_of_mk _ _ _ _ _ rfl rfl
theorem Sys2Proof.Laws.HeadMatches.start (b : Src) : Sys2Proof.Laws.HeadMatches.Statement (.start b) := Sys2Proof.Laws.headMatches_of_mk _ _ _ _ _ rfl rfl
theorem Sys2Proof.Laws.HeadMatches.reap (d : GReg) (b : Src) : Sys2Proof.Laws.HeadMatches.Statement (.reap d b) := Sys2Proof.Laws.headMatches_of_mk _ _ _ _ _ rfl rfl
theorem Sys2Proof.Laws.HeadMatches.endTask : Sys2Proof.Laws.HeadMatches.Statement .endTask := Sys2Proof.Laws.headMatches_of_mk _ _ _ _ _ rfl rfl
theorem Sys2Proof.Laws.HeadMatches.yield : Sys2Proof.Laws.HeadMatches.Statement .yield := Sys2Proof.Laws.headMatches_of_mk _ _ _ _ _ rfl rfl
theorem Sys2Proof.Laws.HeadMatches.apply (b : Src) (sc : BitVec 3) : Sys2Proof.Laws.HeadMatches.Statement (.apply b sc) := Sys2Proof.Laws.headMatches_of_mk _ _ _ _ _ rfl rfl
theorem Sys2Proof.Laws.HeadMatches.post (b c : Src) (sc : BitVec 3) : Sys2Proof.Laws.HeadMatches.Statement (.post b c sc) := Sys2Proof.Laws.headMatches_of_mk _ _ _ _ _ rfl rfl
theorem Sys2Proof.Laws.HeadMatches.mkfn (b c : Src) (sc : BitVec 3) (x : BitVec 15) : Sys2Proof.Laws.HeadMatches.Statement (.mkfn b c sc x) := Sys2Proof.Laws.headMatches_of_mk _ _ _ _ _ rfl rfl
theorem Sys2Proof.Laws.HeadMatches.mkco (b c : Src) (sc : BitVec 3) (x : BitVec 15) : Sys2Proof.Laws.HeadMatches.Statement (.mkco b c sc x) := Sys2Proof.Laws.headMatches_of_mk _ _ _ _ _ rfl rfl
theorem Sys2Proof.Laws.HeadMatches.mkseq (b c : Src) (sc : BitVec 3) (x : BitVec 15) : Sys2Proof.Laws.HeadMatches.Statement (.mkseq b c sc x) := Sys2Proof.Laws.headMatches_of_mk _ _ _ _ _ rfl rfl
theorem Sys2Proof.Laws.HeadMatches.mkpar (b c : Src) (sc : BitVec 3) (x : BitVec 15) : Sys2Proof.Laws.HeadMatches.Statement (.mkpar b c sc x) := Sys2Proof.Laws.headMatches_of_mk _ _ _ _ _ rfl rfl
theorem Sys2Proof.Laws.HeadMatches.mkpipe (b c : Src) (sc : BitVec 3) (x : BitVec 15) : Sys2Proof.Laws.HeadMatches.Statement (.mkpipe b c sc x) := Sys2Proof.Laws.headMatches_of_mk _ _ _ _ _ rfl rfl
theorem Sys2Proof.Laws.HeadMatches.mkfarm (b c : Src) (sc : BitVec 3) (x : BitVec 15) : Sys2Proof.Laws.HeadMatches.Statement (.mkfarm b c sc x) := Sys2Proof.Laws.headMatches_of_mk _ _ _ _ _ rfl rfl
theorem Sys2Proof.Laws.HeadMatches.mkloop (b c : Src) (sc : BitVec 3) (x : BitVec 15) : Sys2Proof.Laws.HeadMatches.Statement (.mkloop b c sc x) := Sys2Proof.Laws.headMatches_of_mk _ _ _ _ _ rfl rfl
theorem Sys2Proof.Laws.HeadMatches.cresume (d : GReg) (b c : Src) : Sys2Proof.Laws.HeadMatches.Statement (.cresume d b c) := Sys2Proof.Laws.headMatches_of_mk _ _ _ _ _ rfl rfl
theorem Sys2Proof.Laws.HeadMatches.cyield (d : GReg) (b : Src) : Sys2Proof.Laws.HeadMatches.Statement (.cyield d b) := Sys2Proof.Laws.headMatches_of_mk _ _ _ _ _ rfl rfl
theorem Sys2Proof.Laws.HeadMatches.gform (b : Src) : Sys2Proof.Laws.HeadMatches.Statement (.gform b) := Sys2Proof.Laws.headMatches_of_mk _ _ _ _ _ rfl rfl
theorem Sys2Proof.Laws.HeadMatches.gleave : Sys2Proof.Laws.HeadMatches.Statement .gleave := Sys2Proof.Laws.headMatches_of_mk _ _ _ _ _ rfl rfl
theorem Sys2Proof.Laws.HeadMatches.gjoin : Sys2Proof.Laws.HeadMatches.Statement .gjoin := Sys2Proof.Laws.headMatches_of_mk _ _ _ _ _ rfl rfl
theorem Sys2Proof.Laws.HeadMatches.gend : Sys2Proof.Laws.HeadMatches.Statement .gend := Sys2Proof.Laws.headMatches_of_mk _ _ _ _ _ rfl rfl
theorem Sys2Proof.Laws.HeadMatches.rand (d : GReg) (b : Src) : Sys2Proof.Laws.HeadMatches.Statement (.rand d b) := Sys2Proof.Laws.headMatches_of_mk _ _ _ _ _ rfl rfl
theorem Sys2Proof.Laws.HeadMatches.reseed (b c : Src) : Sys2Proof.Laws.HeadMatches.Statement (.reseed b c) := Sys2Proof.Laws.headMatches_of_mk _ _ _ _ _ rfl rfl
theorem Sys2Proof.Laws.HeadMatches.exq (d : GReg) (b c : Src) : Sys2Proof.Laws.HeadMatches.Statement (.exq d b c) := Sys2Proof.Laws.headMatches_of_mk _ _ _ _ _ rfl rfl
theorem Sys2Proof.Laws.HeadMatches.exh (d : GReg) (b : Src) : Sys2Proof.Laws.HeadMatches.Statement (.exh d b) := Sys2Proof.Laws.headMatches_of_mk _ _ _ _ _ rfl rfl
theorem Sys2Proof.Laws.HeadMatches.mfs (d : GReg) (num : BitVec 12) : Sys2Proof.Laws.HeadMatches.Statement (.mfs d num) := Sys2Proof.Laws.headMatches_of_mk _ _ _ _ _ rfl rfl
theorem Sys2Proof.Laws.HeadMatches.mts (num : BitVec 12) (a : GReg) : Sys2Proof.Laws.HeadMatches.Statement (.mts num a) := Sys2Proof.Laws.headMatches_of_mk _ _ _ _ _ rfl rfl
theorem Sys2Proof.Laws.HeadMatches.svc (imm : BitVec 16) : Sys2Proof.Laws.HeadMatches.Statement (.svc imm) := Sys2Proof.Laws.headMatches_of_mk _ _ _ _ _ rfl rfl
theorem Sys2Proof.Laws.HeadMatches.eret : Sys2Proof.Laws.HeadMatches.Statement .eret := Sys2Proof.Laws.headMatches_of_mk _ _ _ _ _ rfl rfl
theorem Sys2Proof.Laws.HeadMatches.brk (imm : BitVec 16) : Sys2Proof.Laws.HeadMatches.Statement (.brk imm) := Sys2Proof.Laws.headMatches_of_mk _ _ _ _ _ rfl rfl
theorem Sys2Proof.Laws.HeadMatches.tlbi1 (b c : Src) : Sys2Proof.Laws.HeadMatches.Statement (.tlbi1 b c) := Sys2Proof.Laws.headMatches_of_mk _ _ _ _ _ rfl rfl
theorem Sys2Proof.Laws.HeadMatches.tlbi2 (b c : Src) : Sys2Proof.Laws.HeadMatches.Statement (.tlbi2 b c) := Sys2Proof.Laws.headMatches_of_mk _ _ _ _ _ rfl rfl
theorem Sys2Proof.Laws.HeadMatches.tlbsync : Sys2Proof.Laws.HeadMatches.Statement .tlbsync := Sys2Proof.Laws.headMatches_of_mk _ _ _ _ _ rfl rfl
end

