-- ==== Sys2Proof/Laws/Vector.lean ====
section
/-!
SUPPORT. Lanes under a mask (R319), and what the shared forms of the vector instructions do.
-/

set_option Elab.async false

namespace Sys2Proof.Machine

variable (s : State)

theorem maskValue_ok (m : Src) : maskValue m s = .ok (s.maskOf m) s := rfl

theorem zip_range (n : Nat) (f g : Nat → Nat) :
    ((List.range n).map f).zip ((List.range n).map g) = (List.range n).map fun i => (f i, g i) := by
  apply List.ext_getElem <;> simp

theorem masked_range (k : Word) (n : Nat) (f : Nat → Nat) :
    masked k ((List.range n).map f) = (List.range n).map fun i => if k.getLsbD i then f i else 0 := by
  simp only [masked, upTo]
  apply List.ext_getElem <;> simp

theorem vop2_ok (v : VReg) (b c : VSrc) (m : Src) (ty : BitVec 3) (f : Nat → Nat → Nat) (hv : s.mayVec .vec = true)
    (hr : s.readable ([vsrc b, vsrc c] ++ maskOp m ++ [vdst v]) = true) :
    vop2 v b c m ty f s = .ok () (s.givesV ([vsrc b, vsrc c] ++ maskOp m ++ [vdst v]) v
      (ofLanes (tyWidth ty) ((List.range (tyLanes ty)).map fun i => if (s.maskOf m).getLsbD i then
        f (lane (s.vData b.reg.toNat) (tyWidth ty) i) (lane (s.vData c.reg.toNat) (tyWidth ty) i) else 0)) (stdTag ty)) := by
  simp only [vop2, Ex.bind_apply, vecChecks_ok s _ hv, checkOpnds_ok s _ hr, maskValue_ok, Ex.get_apply, Ex.pop_apply, Ex.wrV_apply,
    Ex.advance_apply, lanesOf, upTo, zip_range, List.map_map, State.givesV]
  rw [show ((fun (e : Nat × Nat) => f e.1 e.2) ∘ fun i => (lane (s.vData b.reg.toNat) (tyWidth ty) i,
    lane (s.vData c.reg.toNat) (tyWidth ty) i)) = fun i => f (lane (s.vData b.reg.toNat) (tyWidth ty) i)
      (lane (s.vData c.reg.toNat) (tyWidth ty) i) from rfl, masked_range]

end Sys2Proof.Machine
end

