-- ==== Sys2Proof/Tests/Slice0.lean ====
section
/-!
SUPPORT. Tests: ill-formed terms that the checks refuse, one word of each instruction written out from the encoding tables of
spec/11_encoding.md, and states that meet the hypotheses of the statements.
-/

set_option Elab.async false

namespace Sys2Proof.Tests

open Sys2Proof Sys2Proof.Machine

/-! Ill-formed terms (R261, R281, R295, R308, R312, R313, R320, R346, R361). -/

def za : Src := ⟨0, false⟩
def va0 : VSrc := ⟨0, false⟩

/-- R281: a field may not reach beyond bit 63. -/
theorem test_ill_fields : wf (.extu 1 za 33 32) = false ∧ wf (.exts 1 za 1 0) = false ∧ wf (.ins 1 za 63 2) = false
    ∧ wf (.ins 1 za 63 1) = true := by decide

/-- R295: bit 0 of a SAFEPT's first constant is 0. -/
theorem test_ill_safept : wf (.safept 1 0) = false ∧ wf (.safept 2 0) = true := by decide

/-- R308: the scope of a cache maintenance instruction is at most 4. -/
theorem test_ill_maintenance : wf (.cflush za za 5) = false ∧ wf (.cclean za za 5) = false ∧ wf (.cinval za za 5) = false
    ∧ wf (.cinval za za 4) = true := by decide

/-- R312: a relaxed AMO names no scope. -/
theorem test_ill_amo : ([.amoAdd 1 za za true 0 1, .amoAnd 1 za za true 0 1, .amoOr 1 za za true 0 1, .amoXor 1 za za true 0 1,
    .amoMin 1 za za true 0 1, .amoMax 1 za za true 0 1, .amoMinu 1 za za true 0 1, .amoMaxu 1 za za true 0 1, .amoSwap 1 za za true 0 1,
    .amoCas 1 za za za true 0 1, .amoFadd 1 za za 0 1].all fun i => !wf i) = true ∧ wf (.amoAdd 1 za za true 1 1) = true := by decide

/-- R312: a RED without release names no scope. -/
theorem test_ill_red : ([.redAdd za za true false 1, .redAnd za za true false 1, .redOr za za true false 1, .redXor za za true false 1,
    .redMin za za true false 1, .redMax za za true false 1, .redMinu za za true false 1, .redMaxu za za true false 1,
    .redFadd za za false 1].all fun i => !wf i) = true ∧ wf (.redAdd za za true true 1) = true := by decide

/-- R313: TRYTAKE's A is neither 0 nor 63. -/
theorem test_ill_trytake : wf (.trytake 0 za 0) = false ∧ wf (.trytake 63 za 0) = false ∧ wf (.trytake 62 za 0) = true := by decide

/-- R320: each operation admits its stated type codes. -/
theorem test_ill_types_all : ([.vadd 1 va0 va0 za 6, .vsub 1 va0 va0 za 6, .vmul 1 va0 va0 za 6, .vfma 1 va0 va0 za 6, .vmin 1 va0 va0 za 6,
    .vmax 1 va0 va0 za 6, .vabs 1 va0 za 6, .vneg 1 va0 za 6, .vcmpEq 1 va0 va0 za 6, .vcmpNe 1 va0 va0 za 6, .vcmpLt 1 va0 va0 za 6,
    .vcmpLe 1 va0 va0 za 6, .vsum 1 va0 za 6, .vrmax 1 va0 za 6, .vrmin 1 va0 za 6].all fun i => !wf i) = true := by decide
theorem test_ill_types_some : ([.vrcp 1 va0 za 2, .vrsqrt 1 va0 za 6, .vexp2 1 va0 za 2, .vlog2 1 va0 za 6, .vshl 1 va0 va0 za 3,
    .vshr 1 va0 va0 za 3, .vsar 1 va0 va0 za 3, .vlut 1 va0 za 4 0 0 false, .vscale 1 va0 za za 2 0 0].all fun i => !wf i) = true := by decide

/-- R346: DK 3 does not exist, and a promise that goes to a word needs the register after N. -/
theorem test_ill_copy : wf (.copy 1 za za ⟨5, false⟩ 0 false false 3) = false ∧ wf (.copy 1 za za za 0 false false 1) = false
    ∧ wf (.copy 1 za za ⟨63, false⟩ 0 false false 2) = false ∧ wf (.copy 1 za za ⟨62, false⟩ 0 false false 2) = true := by decide

/-- R361: MFS and MTS name a listed register. -/
theorem test_ill_system : wf (.mfs 1 2) = false ∧ wf (.mts 0x44 1) = false ∧ wf (.mfs 1 0x50) = true := by decide

/-! Words written out from the tables of spec/11_encoding.md (R255, R260, R265). -/

/-- R255, R260, R265: the integer words. -/
theorem test_words_integer :
    decode 0x2047 0x2286 = some (.add 7 ⟨6, false⟩ ⟨5, true⟩)
    ∧ decode 0x2047 0x6286 = some (.sub 7 ⟨6, false⟩ ⟨5, true⟩)
    ∧ decode 0x2047 0xA286 = some (.addw 7 ⟨6, false⟩ ⟨5, true⟩)
    ∧ decode 0x2047 0xE286 = some (.subw 7 ⟨6, false⟩ ⟨5, true⟩)
    ∧ decode 0x2087 0x2286 = some (.and 7 ⟨6, false⟩ ⟨5, true⟩)
    ∧ decode 0x2087 0x6286 = some (.or 7 ⟨6, false⟩ ⟨5, true⟩)
    ∧ decode 0x2087 0xA286 = some (.xor 7 ⟨6, false⟩ ⟨5, true⟩)
    ∧ decode 0x2087 0xE286 = some (.andn 7 ⟨6, false⟩ ⟨5, true⟩)
    ∧ decode 0x20C7 0x2286 = some (.shl 7 ⟨6, false⟩ ⟨5, true⟩)
    ∧ decode 0x20C7 0x6286 = some (.shr 7 ⟨6, false⟩ ⟨5, true⟩)
    ∧ decode 0x20C7 0xA286 = some (.sar 7 ⟨6, false⟩ ⟨5, true⟩)
    ∧ decode 0x20C7 0xE286 = some (.rol 7 ⟨6, false⟩ ⟨5, true⟩)
    ∧ decode 0x2107 0x2286 = some (.seq 7 ⟨6, false⟩ ⟨5, true⟩)
    ∧ decode 0x2107 0x6286 = some (.sne 7 ⟨6, false⟩ ⟨5, true⟩)
    ∧ decode 0x2107 0xA286 = some (.slt 7 ⟨6, false⟩ ⟨5, true⟩)
    ∧ decode 0x2107 0xE286 = some (.sltu 7 ⟨6, false⟩ ⟨5, true⟩)
    ∧ decode 0x2147 0x2286 = some (.min 7 ⟨6, false⟩ ⟨5, true⟩)
    ∧ decode 0x2147 0x6286 = some (.max 7 ⟨6, false⟩ ⟨5, true⟩)
    ∧ decode 0x2147 0xA286 = some (.minu 7 ⟨6, false⟩ ⟨5, true⟩)
    ∧ decode 0x2147 0xE286 = some (.maxu 7 ⟨6, false⟩ ⟨5, true⟩)
    ∧ decode 0x2187 0x2286 = some (.mul 7 ⟨6, false⟩ ⟨5, true⟩)
    ∧ decode 0x2187 0x6286 = some (.mulh 7 ⟨6, false⟩ ⟨5, true⟩)
    ∧ decode 0x2187 0xA286 = some (.mulhu 7 ⟨6, false⟩ ⟨5, true⟩)
    ∧ decode 0x2187 0xE286 = some (.mulw 7 ⟨6, false⟩ ⟨5, true⟩)
    ∧ decode 0x21C7 0x2286 = some (.div 7 ⟨6, false⟩ ⟨5, true⟩)
    ∧ decode 0x21C7 0x6286 = some (.divu 7 ⟨6, false⟩ ⟨5, true⟩)
    ∧ decode 0x21C7 0xA286 = some (.rem 7 ⟨6, false⟩ ⟨5, true⟩)
    ∧ decode 0x21C7 0xE286 = some (.remu 7 ⟨6, false⟩ ⟨5, true⟩) := by decide +kernel
/-- R255, R260, R265: the immediate words. -/
theorem test_words_immediate :
    decode 0x4207 0xFFFFE845 = some (.addi 7 ⟨5, true⟩ 0x1FFFFD)
    ∧ decode 0x4207 0xFFFFE8C5 = some (.andi 7 ⟨5, true⟩ 0x1FFFFD)
    ∧ decode 0x4207 0xFFFFE945 = some (.ori 7 ⟨5, true⟩ 0x1FFFFD)
    ∧ decode 0x4207 0xFFFFE9C5 = some (.xori 7 ⟨5, true⟩ 0x1FFFFD)
    ∧ decode 0x4207 0xFFFFEA45 = some (.slti 7 ⟨5, true⟩ 0x1FFFFD)
    ∧ decode 0x4207 0xFFFFEAC5 = some (.sltiu 7 ⟨5, true⟩ 0x1FFFFD)
    ∧ decode 0x4207 0x1FB06 = some (.shli 7 ⟨6, false⟩ 63)
    ∧ decode 0x4207 0x1FB86 = some (.shri 7 ⟨6, false⟩ 63)
    ∧ decode 0x4207 0x1FC06 = some (.sari 7 ⟨6, false⟩ 63)
    ∧ decode 0x4207 0x2C86 = some (.addwi 7 ⟨6, false⟩ 5)
    ∧ decode 0x2247 0x8001 = some (.li 7 0x8001)
    ∧ decode 0x4287 0x80000001 = some (.liw 7 0x80000001)
    ∧ decode 0x82C7 0x8000000200000001 = some (.lid 7 0x8000000200000001)
    ∧ decode 0x2307 0x45 = some (.clz 7 ⟨5, true⟩)
    ∧ decode 0x2307 0x4045 = some (.ctz 7 ⟨5, true⟩)
    ∧ decode 0x2307 0x8045 = some (.popc 7 ⟨5, true⟩)
    ∧ decode 0x2307 0xC045 = some (.bswap 7 ⟨5, true⟩)
    ∧ decode 0x2407 0x45 = some (.sextB 7 ⟨5, true⟩)
    ∧ decode 0x2407 0x4045 = some (.sextH 7 ⟨5, true⟩)
    ∧ decode 0x2407 0x8045 = some (.sextW 7 ⟨5, true⟩)
    ∧ decode 0x2407 0xC045 = some (.zextW 7 ⟨5, true⟩)
    ∧ decode 0x4347 0x84006 = some (.extu 7 ⟨6, false⟩ 8 4)
    ∧ decode 0x4347 0x84086 = some (.exts 7 ⟨6, false⟩ 8 4)
    ∧ decode 0x4347 0x84106 = some (.ins 7 ⟨6, false⟩ 8 4)
    ∧ decode 0x6387 0x32286 = some (.sel 7 ⟨6, false⟩ ⟨5, true⟩ ⟨12, false⟩)
    ∧ decode 0x43C7 0xFFFFFE00 = some (.lpc 7 0xFFFFFE) := by decide +kernel
/-- R255, R260, R265: the floating words. -/
theorem test_words_floating :
    decode 0x2B07 0x2286 = some (.fadd 7 ⟨6, false⟩ ⟨5, true⟩)
    ∧ decode 0x2B07 0x6286 = some (.fsub 7 ⟨6, false⟩ ⟨5, true⟩)
    ∧ decode 0x2B07 0xA286 = some (.fmul 7 ⟨6, false⟩ ⟨5, true⟩)
    ∧ decode 0x2B07 0xE286 = some (.fdiv 7 ⟨6, false⟩ ⟨5, true⟩)
    ∧ decode 0x2B47 0x2286 = some (.fmin 7 ⟨6, false⟩ ⟨5, true⟩)
    ∧ decode 0x2B47 0x6286 = some (.fmax 7 ⟨6, false⟩ ⟨5, true⟩)
    ∧ decode 0x2B47 0x8045 = some (.fsqrt 7 ⟨5, true⟩)
    ∧ decode 0x2B47 0xC045 = some (.fclass 7 ⟨5, true⟩)
    ∧ decode 0x6B87 0x32286 = some (.ffma 7 ⟨6, false⟩ ⟨5, true⟩ ⟨12, false⟩)
    ∧ decode 0x6B87 0x232286 = some (.ffms 7 ⟨6, false⟩ ⟨5, true⟩ ⟨12, false⟩)
    ∧ decode 0x6B87 0x432286 = some (.fnma 7 ⟨6, false⟩ ⟨5, true⟩ ⟨12, false⟩)
    ∧ decode 0x6B87 0x632286 = some (.fnms 7 ⟨6, false⟩ ⟨5, true⟩ ⟨12, false⟩)
    ∧ decode 0x4BC7 0x12006 = some (.feq 7 ⟨6, false⟩ 9)
    ∧ decode 0x4BC7 0x12086 = some (.flt 7 ⟨6, false⟩ 9)
    ∧ decode 0x4BC7 0x12106 = some (.fle 7 ⟨6, false⟩ 9)
    ∧ decode 0x4BC7 0x986 = some (.fcvtWF 7 ⟨6, false⟩ 1)
    ∧ decode 0x4BC7 0xA06 = some (.fcvtFW 7 ⟨6, false⟩ 1)
    ∧ decode 0x4BC7 0xA86 = some (.fcvtBfF 7 ⟨6, false⟩ 1)
    ∧ decode 0x4BC7 0xB86 = some (.fcvtHF 7 ⟨6, false⟩ 1)
    ∧ decode 0x4BC7 0x306 = some (.fcvtFBf 7 ⟨6, false⟩)
    ∧ decode 0x4BC7 0x406 = some (.fcvtFH 7 ⟨6, false⟩) := by decide +kernel
/-- R255, R260, R265: the control words. -/
theorem test_words_control :
    decode 0x0000 0x0 = some .nop
    ∧ decode 0x4807 0xFFFFFB86 = some (.beq ⟨7, true⟩ ⟨6, false⟩ 0xFFFFFB)
    ∧ decode 0x4847 0xFFFFFB86 = some (.bne ⟨7, true⟩ ⟨6, false⟩ 0xFFFFFB)
    ∧ decode 0x4887 0xFFFFFB86 = some (.blt ⟨7, true⟩ ⟨6, false⟩ 0xFFFFFB)
    ∧ decode 0x48C7 0xFFFFFB86 = some (.bge ⟨7, true⟩ ⟨6, false⟩ 0xFFFFFB)
    ∧ decode 0x4907 0xFFFFFB86 = some (.bltu ⟨7, true⟩ ⟨6, false⟩ 0xFFFFFB)
    ∧ decode 0x4947 0xFFFFFB86 = some (.bgeu ⟨7, true⟩ ⟨6, false⟩ 0xFFFFFB)
    ∧ decode 0x4981 0xC00 = some (.jal 1 12)
    ∧ decode 0x49C1 0xFFFFE006 = some (.jalr 1 ⟨6, false⟩ 0x1FFFFC)
    ∧ decode 0xAA00 0x300000001000000F8 = some (.safept 0x1000000F8 3) := by decide +kernel
/-- R255, R260, R265: the memory words. -/
theorem test_words_memory :
    decode 0x4C07 0xFFFFC045 = some (.ldB 7 ⟨5, true⟩ 0x1FFFF8)
    ∧ decode 0x4C07 0xFFFFC0C5 = some (.ldBu 7 ⟨5, true⟩ 0x1FFFF8)
    ∧ decode 0x4C07 0xFFFFC145 = some (.ldH 7 ⟨5, true⟩ 0x1FFFF8)
    ∧ decode 0x4C07 0xFFFFC1C5 = some (.ldHu 7 ⟨5, true⟩ 0x1FFFF8)
    ∧ decode 0x4C07 0xFFFFC245 = some (.ldW 7 ⟨5, true⟩ 0x1FFFF8)
    ∧ decode 0x4C07 0xFFFFC2C5 = some (.ldWu 7 ⟨5, true⟩ 0x1FFFF8)
    ∧ decode 0x4C07 0xFFFFC345 = some (.ldD 7 ⟨5, true⟩ 0x1FFFF8)
    ∧ decode 0x4C47 0xFFFFC045 = some (.stB 7 ⟨5, true⟩ 0x1FFFF8)
    ∧ decode 0x4C47 0xFFFFC0C5 = some (.stH 7 ⟨5, true⟩ 0x1FFFF8)
    ∧ decode 0x4C47 0xFFFFC145 = some (.stW 7 ⟨5, true⟩ 0x1FFFF8)
    ∧ decode 0x4C47 0xFFFFC1C5 = some (.stD 7 ⟨5, true⟩ 0x1FFFF8)
    ∧ decode 0x4C87 0xFFFFEE06 = some (.lda 7 ⟨6, false⟩ 4 3 0x7FFFF)
    ∧ decode 0x4CC7 0x12506 = some (.stl 7 ⟨6, false⟩ 2 1 9)
    ∧ decode 0x4D07 0x20045 = some (.vld 7 ⟨5, true⟩ 64)
    ∧ decode 0x4D07 0x200C5 = some (.vldNt 7 ⟨5, true⟩ 64)
    ∧ decode 0x4D47 0x20045 = some (.vst 7 ⟨5, true⟩ 64)
    ∧ decode 0x4D47 0x200C5 = some (.vstNt 7 ⟨5, true⟩ 64)
    ∧ decode 0x4D47 0x20145 = some (.vstKeep 7 ⟨5, true⟩ 64)
    ∧ decode 0x6D87 0x10016032286 = some (.ldt 7 ⟨6, false⟩ ⟨5, true⟩ ⟨12, false⟩ 3 1 true)
    ∧ decode 0x6DC7 0x7C2A032286 = some (.stt 7 ⟨6, false⟩ ⟨5, true⟩ ⟨12, false⟩ 5 2 false 0x7C)
    ∧ decode 0x6D87 0x20000000006 = some (.ldtTag 7 ⟨6, false⟩)
    ∧ decode 0x6DC7 0x20000000006 = some (.sttTag 7 ⟨6, false⟩)
    ∧ decode 0x4E00 0x20045 = some (.prefL1 ⟨5, true⟩ 64)
    ∧ decode 0x4E00 0x200C5 = some (.prefLlc ⟨5, true⟩ 64)
    ∧ decode 0x4E00 0x20145 = some (.prefWin ⟨5, true⟩ 64)
    ∧ decode 0x6E40 0x40002286 = some (.cflush ⟨6, false⟩ ⟨5, true⟩ 4)
    ∧ decode 0x6E40 0x40202286 = some (.cclean ⟨6, false⟩ ⟨5, true⟩ 4)
    ∧ decode 0x6E40 0x40402286 = some (.cinval ⟨6, false⟩ ⟨5, true⟩ 4)
    ∧ decode 0x6E87 0x32286 = some (.wmap 7 ⟨6, false⟩ ⟨5, true⟩ ⟨12, false⟩)
    ∧ decode 0x2EC0 0x45 = some (.wunmap ⟨5, true⟩)
    ∧ decode 0x2EC0 0x4045 = some (.wflush ⟨5, true⟩)
    ∧ decode 0x2EC0 0x8045 = some (.wdrop ⟨5, true⟩)
    ∧ decode 0x2EC7 0xC045 = some (.wstat 7 ⟨5, true⟩)
    ∧ decode 0x4F07 0x10045 = some (.cbld 7 ⟨5, true⟩ 32)
    ∧ decode 0x4F07 0x100C5 = some (.cbst 7 ⟨5, true⟩ 32) := by decide +kernel
/-- R255, R260, R265: the atomic words. -/
theorem test_words_atomic :
    decode 0x7007 0x4F00002286 = some (.amoAdd 7 ⟨6, false⟩ ⟨5, true⟩ true 3 4)
    ∧ decode 0x7007 0x4F00202286 = some (.amoAnd 7 ⟨6, false⟩ ⟨5, true⟩ true 3 4)
    ∧ decode 0x7007 0x4F00402286 = some (.amoOr 7 ⟨6, false⟩ ⟨5, true⟩ true 3 4)
    ∧ decode 0x7007 0x4F00602286 = some (.amoXor 7 ⟨6, false⟩ ⟨5, true⟩ true 3 4)
    ∧ decode 0x7007 0x4F00802286 = some (.amoMin 7 ⟨6, false⟩ ⟨5, true⟩ true 3 4)
    ∧ decode 0x7007 0x4F00A02286 = some (.amoMax 7 ⟨6, false⟩ ⟨5, true⟩ true 3 4)
    ∧ decode 0x7007 0x4F00C02286 = some (.amoMinu 7 ⟨6, false⟩ ⟨5, true⟩ true 3 4)
    ∧ decode 0x7007 0x4F00E02286 = some (.amoMaxu 7 ⟨6, false⟩ ⟨5, true⟩ true 3 4)
    ∧ decode 0x7007 0x4F01002286 = some (.amoSwap 7 ⟨6, false⟩ ⟨5, true⟩ true 3 4)
    ∧ decode 0x7007 0x2601232286 = some (.amoCas 7 ⟨6, false⟩ ⟨5, true⟩ ⟨12, false⟩ false 1 2)
    ∧ decode 0x7007 0x2A01402286 = some (.amoFadd 7 ⟨6, false⟩ ⟨5, true⟩ 2 2)
    ∧ decode 0x7040 0x4B00002286 = some (.redAdd ⟨6, false⟩ ⟨5, true⟩ true true 4)
    ∧ decode 0x7040 0x4B00202286 = some (.redAnd ⟨6, false⟩ ⟨5, true⟩ true true 4)
    ∧ decode 0x7040 0x4B00402286 = some (.redOr ⟨6, false⟩ ⟨5, true⟩ true true 4)
    ∧ decode 0x7040 0x4B00602286 = some (.redXor ⟨6, false⟩ ⟨5, true⟩ true true 4)
    ∧ decode 0x7040 0x4B00802286 = some (.redMin ⟨6, false⟩ ⟨5, true⟩ true true 4)
    ∧ decode 0x7040 0x4B00A02286 = some (.redMax ⟨6, false⟩ ⟨5, true⟩ true true 4)
    ∧ decode 0x7040 0x4B00C02286 = some (.redMinu ⟨6, false⟩ ⟨5, true⟩ true true 4)
    ∧ decode 0x7040 0x4B00E02286 = some (.redMaxu ⟨6, false⟩ ⟨5, true⟩ true true 4)
    ∧ decode 0x7040 0x201402286 = some (.redFadd ⟨6, false⟩ ⟨5, true⟩ false 0)
    ∧ decode 0x5087 0xFFFFC045 = some (.take 7 ⟨5, true⟩ 0x1FFFF8)
    ∧ decode 0x5087 0xFFFFC0C5 = some (.trytake 7 ⟨5, true⟩ 0x1FFFF8)
    ∧ decode 0x5087 0xFFFFC145 = some (.put 7 ⟨5, true⟩ 0x1FFFF8)
    ∧ decode 0x5087 0xFFFFC1C5 = some (.putx 7 ⟨5, true⟩ 0x1FFFF8)
    ∧ decode 0x5087 0xFFFFC245 = some (.waitw 7 ⟨5, true⟩ 0x1FFFF8)
    ∧ decode 0x70C0 0x60000000 = some (.fence 6)
    ∧ decode 0x70C0 0x40202286 = some (.acqr ⟨6, false⟩ ⟨5, true⟩ 4)
    ∧ decode 0x70C0 0x40402286 = some (.relr ⟨6, false⟩ ⟨5, true⟩ 4)
    ∧ decode 0x3100 0x45 = some (.migrate ⟨5, true⟩)
    ∧ decode 0x3100 0x4000 = some .rethome
    ∧ decode 0x3140 0x2286 = some (.jcinit ⟨6, false⟩ ⟨5, true⟩)
    ∧ decode 0x3140 0x4045 = some (.jcdec ⟨5, true⟩)
    ∧ decode 0x3140 0x8045 = some (.jcwait ⟨5, true⟩)
    ∧ decode 0x3180 0x2286 = some (.barinit ⟨6, false⟩ ⟨5, true⟩)
    ∧ decode 0x3187 0x4045 = some (.bararr 7 ⟨5, true⟩)
    ∧ decode 0x3180 0xA286 = some (.barwait ⟨6, false⟩ ⟨5, true⟩) := by decide +kernel
/-- R255, R260, R265: the vector words. -/
theorem test_words_vector :
    decode 0x7407 0x6032286 = some (.vadd 7 ⟨6, false⟩ ⟨5, true⟩ ⟨12, false⟩ 3)
    ∧ decode 0x7447 0x6032286 = some (.vsub 7 ⟨6, false⟩ ⟨5, true⟩ ⟨12, false⟩ 3)
    ∧ decode 0x7487 0x6032286 = some (.vmul 7 ⟨6, false⟩ ⟨5, true⟩ ⟨12, false⟩ 3)
    ∧ decode 0x74C7 0x6032286 = some (.vfma 7 ⟨6, false⟩ ⟨5, true⟩ ⟨12, false⟩ 3)
    ∧ decode 0x7507 0xA032286 = some (.vmin 7 ⟨6, false⟩ ⟨5, true⟩ ⟨12, false⟩ 5)
    ∧ decode 0x7507 0xA232286 = some (.vmax 7 ⟨6, false⟩ ⟨5, true⟩ ⟨12, false⟩ 5)
    ∧ decode 0x7547 0x8030045 = some (.vrcp 7 ⟨5, true⟩ ⟨12, false⟩ 4)
    ∧ decode 0x7547 0x8230045 = some (.vrsqrt 7 ⟨5, true⟩ ⟨12, false⟩ 4)
    ∧ decode 0x7547 0x8430045 = some (.vexp2 7 ⟨5, true⟩ ⟨12, false⟩ 4)
    ∧ decode 0x7547 0x8630045 = some (.vlog2 7 ⟨5, true⟩ ⟨12, false⟩ 4)
    ∧ decode 0x7547 0x8830045 = some (.vabs 7 ⟨5, true⟩ ⟨12, false⟩ 4)
    ∧ decode 0x7547 0x8A30045 = some (.vneg 7 ⟨5, true⟩ ⟨12, false⟩ 4)
    ∧ decode 0x7587 0x2032286 = some (.vcmpEq 7 ⟨6, false⟩ ⟨5, true⟩ ⟨12, false⟩ 1)
    ∧ decode 0x7587 0x2232286 = some (.vcmpNe 7 ⟨6, false⟩ ⟨5, true⟩ ⟨12, false⟩ 1)
    ∧ decode 0x7587 0x2432286 = some (.vcmpLt 7 ⟨6, false⟩ ⟨5, true⟩ ⟨12, false⟩ 1)
    ∧ decode 0x7587 0x2632286 = some (.vcmpLe 7 ⟨6, false⟩ ⟨5, true⟩ ⟨12, false⟩ 1)
    ∧ decode 0x75C7 0xE032286 = some (.vsel 7 ⟨6, false⟩ ⟨5, true⟩ ⟨12, false⟩ 7)
    ∧ decode 0x7607 0xC032286 = some (.vand 7 ⟨6, false⟩ ⟨5, true⟩ ⟨12, false⟩ 6)
    ∧ decode 0x7607 0xC232286 = some (.vor 7 ⟨6, false⟩ ⟨5, true⟩ ⟨12, false⟩ 6)
    ∧ decode 0x7607 0xC432286 = some (.vxor 7 ⟨6, false⟩ ⟨5, true⟩ ⟨12, false⟩ 6)
    ∧ decode 0x7607 0xC632286 = some (.vandn 7 ⟨6, false⟩ ⟨5, true⟩ ⟨12, false⟩ 6)
    ∧ decode 0x7647 0x4032286 = some (.vshl 7 ⟨6, false⟩ ⟨5, true⟩ ⟨12, false⟩ 2)
    ∧ decode 0x7647 0x4232286 = some (.vshr 7 ⟨6, false⟩ ⟨5, true⟩ ⟨12, false⟩ 2)
    ∧ decode 0x7647 0x4432286 = some (.vsar 7 ⟨6, false⟩ ⟨5, true⟩ ⟨12, false⟩ 2) := by decide +kernel
/-- R255, R260, R265: the vector2 words. -/
theorem test_words_vector2 :
    decode 0x7687 0x1031A030006 = some (.vcvt 7 ⟨6, false⟩ ⟨12, false⟩ 5 1 3 true)
    ∧ decode 0x76C7 0x4030045 = some (.vsum 7 ⟨5, true⟩ ⟨12, false⟩ 2)
    ∧ decode 0x76C7 0x4230045 = some (.vrmax 7 ⟨5, true⟩ ⟨12, false⟩ 2)
    ∧ decode 0x76C7 0x4430045 = some (.vrmin 7 ⟨5, true⟩ ⟨12, false⟩ 2)
    ∧ decode 0x7707 0x2032286 = some (.vperm 7 ⟨6, false⟩ ⟨5, true⟩ ⟨12, false⟩ 1)
    ∧ decode 0x7707 0x2230045 = some (.vbcast 7 ⟨5, true⟩ ⟨12, false⟩ 1)
    ∧ decode 0x7707 0x2402286 = some (.vins 7 ⟨6, false⟩ ⟨5, true⟩ 1)
    ∧ decode 0x7707 0x2602286 = some (.vextr 7 ⟨6, false⟩ ⟨5, true⟩ 1)
    ∧ decode 0x7747 0x1062A030006 = some (.vlut 7 ⟨6, false⟩ ⟨12, false⟩ 5 2 6 true)
    ∧ decode 0x7787 0xE032286 = some (.vdot 7 ⟨6, false⟩ ⟨5, true⟩ ⟨12, false⟩ 7)
    ∧ decode 0x77C7 0x6 = some (.vtagg 7 ⟨6, false⟩)
    ∧ decode 0x77C7 0x200045 = some (.vtags 7 ⟨5, true⟩)
    ∧ decode 0x7807 0x8030006 = some (.vmov 7 ⟨6, false⟩ ⟨12, false⟩ 4)
    ∧ decode 0x7847 0xBEEF26032286 = some (.vscale 7 ⟨6, false⟩ ⟨5, true⟩ ⟨12, false⟩ 3 2 0xBEEF) := by decide +kernel
/-- R255, R260, R265: the engine words. -/
theorem test_words_engine :
    decode 0x3A07 0x45 = some (.push 7 ⟨5, true⟩)
    ∧ decode 0x7A47 0x940032286 = some (.copy 7 ⟨6, false⟩ ⟨5, true⟩ ⟨12, false⟩ 4 true false 2)
    ∧ decode 0x3A80 0x45 = some (.waitt ⟨5, true⟩)
    ∧ decode 0x3AFA 0x45 = some (.qbind 2 ⟨5, true⟩)
    ∧ decode 0x3AFA 0x4000 = some (.qunbind 2)
    ∧ decode 0x3AC7 0x803F = some (.qstat 7 7)
    ∧ decode 0x3B38 0x2286 = some (.sopen 0 ⟨6, false⟩ ⟨5, true⟩)
    ∧ decode 0x3B39 0x4000 = some (.sclose 1)
    ∧ decode 0x3C00 0x45 = some (.start ⟨5, true⟩)
    ∧ decode 0x3C07 0x4045 = some (.reap 7 ⟨5, true⟩)
    ∧ decode 0x3C00 0x8000 = some .endTask
    ∧ decode 0x3C00 0xC000 = some .yield
    ∧ decode 0x7C40 0x40000045 = some (.apply ⟨5, true⟩ 4)
    ∧ decode 0x7C40 0x20202286 = some (.post ⟨6, false⟩ ⟨5, true⟩ 2)
    ∧ decode 0x7C80 0x7A520002286 = some (.mkfn ⟨6, false⟩ ⟨5, true⟩ 2 0x7A5)
    ∧ decode 0x7C80 0x7A520202286 = some (.mkco ⟨6, false⟩ ⟨5, true⟩ 2 0x7A5)
    ∧ decode 0x7C80 0x7A520402286 = some (.mkseq ⟨6, false⟩ ⟨5, true⟩ 2 0x7A5)
    ∧ decode 0x7C80 0x7A520602286 = some (.mkpar ⟨6, false⟩ ⟨5, true⟩ 2 0x7A5)
    ∧ decode 0x7C80 0x7A520802286 = some (.mkpipe ⟨6, false⟩ ⟨5, true⟩ 2 0x7A5)
    ∧ decode 0x7C80 0x7A520A02286 = some (.mkfarm ⟨6, false⟩ ⟨5, true⟩ 2 0x7A5)
    ∧ decode 0x7C80 0x7A520C02286 = some (.mkloop ⟨6, false⟩ ⟨5, true⟩ 2 0x7A5)
    ∧ decode 0x3CC7 0x2286 = some (.cresume 7 ⟨6, false⟩ ⟨5, true⟩)
    ∧ decode 0x3CC7 0x4045 = some (.cyield 7 ⟨5, true⟩)
    ∧ decode 0x3D00 0x45 = some (.gform ⟨5, true⟩)
    ∧ decode 0x3D00 0x4000 = some .gleave
    ∧ decode 0x3D00 0x8000 = some .gjoin
    ∧ decode 0x3D00 0xC000 = some .gend := by decide +kernel
/-- R255, R260, R265: the system words. -/
theorem test_words_system :
    decode 0x3E07 0x45 = some (.rand 7 ⟨5, true⟩)
    ∧ decode 0x3E00 0x6286 = some (.reseed ⟨6, false⟩ ⟨5, true⟩)
    ∧ decode 0x3E07 0xA286 = some (.exq 7 ⟨6, false⟩ ⟨5, true⟩)
    ∧ decode 0x3E07 0xC045 = some (.exh 7 ⟨5, true⟩)
    ∧ decode 0x5F07 0xA000 = some (.mfs 7 0x14)
    ∧ decode 0x5F07 0xA080 = some (.mts 0x14 7)
    ∧ decode 0x3F40 0xBEEF = some (.svc 0xBEEF)
    ∧ decode 0x3F41 0x0 = some .eret
    ∧ decode 0x3F42 0xBEEF = some (.brk 0xBEEF)
    ∧ decode 0x3F80 0x2286 = some (.tlbi1 ⟨6, false⟩ ⟨5, true⟩)
    ∧ decode 0x3F80 0x6286 = some (.tlbi2 ⟨6, false⟩ ⟨5, true⟩)
    ∧ decode 0x3F80 0x8000 = some .tlbsync := by decide +kernel


/-! States that meet the hypotheses of the statements. -/

/-- An address of the local view. -/
def la (off : Nat) : Word := w64 (0x7F000000000000 + off)
def sr (n : BitVec 6) : Src := ⟨n, false⟩
def vr (n : BitVec 6) : VSrc := ⟨n.extractLsb' 0 5, false⟩
/-- An owner with every feature group accepted. -/
def own0 : Owner := { Owner.reset OwnerRec.boot with accept := 0x7FF, featState := 1, tvecS := 0x2000, ctbase := la 0x1000, ctlen := 16, gtqlen := 4 }
def regsOf (l : List (Nat × Word)) : Vector Word 64 := l.foldl (fun g e => g.setIfInBounds e.1 e.2) zeroRegs
/-- A translation of the first page to itself. -/
def pg (ct : BitVec 2) (fe : Bool) : TlbEntry :=
  ⟨0, 0, false, 0, 3, 0, 1, 3, true, true, 3, 3, 0, ct, fe, true, BitVec.ofNat 16 (32 * ct.toNat), some 0, []⟩
/-- Context 1 of core 0 runs at level S with the registers given. -/
def mk (g : List (Nat × Word)) (f : Ctx → Ctx) (fc : Core → Core) : State :=
  { State.reset with
    cur := 1, owners := [(0, own0)],
    ctxs := [(1, f { Ctx.free with state := .live, level := .s, pc := 0x100, npc := 0x102, head := 0x1234, g := regsOf g })],
    cores := [(0, fc Core.reset)] }

def wPlain : State := mk [(1, 0x8000000000000001), (2, 5), (3, 5), (4, 7)] id id

theorem wit_IntegerOps : wPlain.mayUse .base = true ∧ wPlain.readable [src (sr 2), src (sr 3), dst 5] = true := by decide +kernel

/-- A divisor of 0 and one that is not. -/
theorem wit_DivisionOps : wPlain.mayUse .base = true ∧ wPlain.readable [src (sr 2), src (sr 4), dst 5] = true
    ∧ wPlain.readable [src (sr 2), src z, dst 5] = true ∧ wPlain.gValue 0 = 0 ∧ wPlain.gValue 4 ≠ 0 := by decide +kernel

theorem wit_ImmediateOps : wPlain.mayUse .base = true ∧ (5 : GReg) ≠ 0 ∧ (63 : BitVec 21).toNat < 64 ∧ 64 ≤ (64 : BitVec 21).toNat
    ∧ 10 ≤ (10 : BitVec 4).toNat ∧ wPlain.readable [src (sr 2), dst 5] = true ∧ wPlain.dstReady 5 = true ∧ wPlain.dstReady 0 = true := by decide +kernel

/-- Register 1 has its first and its last bit set, register 0 none, and the fields reach bit 63. -/
theorem wit_BitOps : wPlain.mayUse .base = true ∧ wPlain.readable [src (sr 1), dst 5] = true ∧ wPlain.gValue 0 = 0
    ∧ (wPlain.gValue 1).getLsbD 63 = true ∧ (wPlain.gValue 1).getLsbD 0 = true ∧ 0 + 64 ≤ 64 ∧ (32 : BitVec 6).toNat + (32 : BitVec 6).toNat ≤ 64
    ∧ wPlain.readable [src (sr 2), src0 3, dst 3] = true ∧ wPlain.readable [src (sr 2), src (sr 3), src (sr 4), dst 5] = true := by decide +kernel
theorem wit_BitOps_first : ∀ j, 63 < j → (wPlain.gValue 1).getLsbD j = false := fun _ h => BitVec.getLsbD_of_ge _ _ h
theorem wit_BitOps_last : ∀ j, j < 0 → (wPlain.gValue 1).getLsbD j = false := fun _ h => absurd h (Nat.not_lt_zero _)

theorem wit_FloatOps : wPlain.mayUse .base = true ∧ wPlain.readable [src (sr 2), src (sr 3), dst 5] = true
    ∧ wPlain.readable [src (sr 2), dst 5] = true ∧ wPlain.readable [src (sr 2), src0 3, dst 5] = true
    ∧ wPlain.readable [src (sr 2), src (sr 3), src (sr 4), dst 5] = true := by decide +kernel

/-- A line of three NOPs (R252). -/
def codeLine : ILine := ⟨BitVec.ofNat 512 (3 * 2048)⟩
def wCode : State := mk [(1, 0x102), (2, 5), (3, 5), (4, 7)] id fun k => { k with icache := [(4, codeLine)], tlb := [pg 0 false] }

/-- Each condition holds on some operands and fails on others. -/
theorem wit_BranchOps : wCode.mayUse .base = true ∧ wCode.readable [src (sr 2), src (sr 3)] = true ∧ wCode.readable [src (sr 2), src (sr 4)] = true
    ∧ wCode.readable [src (sr 4), src (sr 2)] = true
    ∧ wCode.here.pc + 2 * (1 : BitVec 24).signExtend 64 = 0x102 ∧ wCode.codeAt 0x102 0x102 (pg 0 false) = true
    ∧ wCode.gValue 2 = wCode.gValue 3 ∧ (wCode.gValue 2).toInt < (wCode.gValue 4).toInt ∧ (wCode.gValue 2).toNat < (wCode.gValue 4).toNat
    ∧ wCode.dstReady 5 = true ∧ wCode.readable [src (sr 1), dst 5] = true ∧ wCode.gValue 1 + (0 : BitVec 21).signExtend 64 = 0x102 := by decide +kernel

theorem wit_SafePoint : wPlain.mayUse .base = true ∧ wPlain.cur % 16 ≠ 0 ∧ wPlain.here.saveReq = false ∧ wPlain.here.sliceSince = none
    ∧ (mk [] (fun c => { c with saveReq := true }) id).here.saveReq = true ∧ (mk [] (fun c => { c with saveReq := true }) id).mayUse .base = true := by
  decide +kernel

/-- Register 1 holds the last byte of local store, 2 its last half, 3 its last word, 4 its last double word, 5 its last block. -/
def wLocal : State :=
  mk [(1, la 0x7FFFF), (2, la 0x7FFFE), (3, la 0x7FFFC), (4, la 0x7FFF8), (5, la 0x7FFC0), (6, 5), (7, 1), (8, la 0x7FFE0)] (fun c => { c with vset := some 0 }) id
def wNoSet : State := mk [(1, la 0x40), (2, 5), (3, 6)] id id

theorem wit_LocalLoads : wLocal.mayUse .base = true ∧ wLocal.mayUse .peer = true ∧ wLocal.mayVec .vec = true
    ∧ wLocal.readable [src (sr 1), dst 9] = true ∧ wLocal.localOk (la 0x7FFFF) 1 0x7FFFF false = true
    ∧ wLocal.readable [src (sr 2), dst 9] = true ∧ wLocal.localOk (la 0x7FFFE) 2 0x7FFFE false = true
    ∧ wLocal.readable [src (sr 3), dst 9] = true ∧ wLocal.localOk (la 0x7FFFC) 4 0x7FFFC false = true
    ∧ wLocal.readable [src (sr 4), dst 9] = true ∧ wLocal.localOk (la 0x7FFF8) 8 0x7FFF8 false = true
    ∧ wLocal.localOk (la 0x7FFF8) (2 ^ (3 : BitVec 2).toNat) 0x7FFF8 false = true
    ∧ wLocal.readable [src (sr 5), vdst 9] = true ∧ wLocal.localOk (la 0x7FFC0) 64 0x7FFC0 false = true
    ∧ wLocal.gValue 5 + (0 : BitVec 21).signExtend 64 = la 0x7FFC0 := by decide +kernel

theorem wit_LocalStores : wLocal.mayUse .base = true ∧ wLocal.mayVec .vec = true
    ∧ wLocal.readable [src0 6, src (sr 1)] = true ∧ wLocal.localOk (la 0x7FFFF) 1 0x7FFFF true = true
    ∧ wLocal.readable [src0 6, src (sr 2)] = true ∧ wLocal.localOk (la 0x7FFFE) 2 0x7FFFE true = true
    ∧ wLocal.readable [src0 6, src (sr 3)] = true ∧ wLocal.localOk (la 0x7FFFC) 4 0x7FFFC true = true
    ∧ wLocal.readable [src0 6, src (sr 4)] = true ∧ wLocal.localOk (la 0x7FFF8) 8 0x7FFF8 true = true
    ∧ wLocal.readable [vsrc0 9, src (sr 5)] = true ∧ wLocal.localOk (la 0x7FFC0) 64 0x7FFC0 true = true := by decide +kernel

theorem wit_ReleasingStores : wLocal.mayUse .base = true ∧ wLocal.mayUse .peer = true ∧ wLocal.readable [src0 6, src (sr 4)] = true
    ∧ wLocal.here.owed = none ∧ (wLocal.core (coreOf wLocal.cur)).windows = [] ∧ wLocal.windowMerging (coreOf wLocal.cur) true = false
    ∧ wLocal.localOk (wLocal.gValue 4 + (0 : BitVec 19).signExtend 64) (2 ^ (3 : BitVec 2).toNat) 0x7FFF8 true = true := by decide +kernel

/-- The block at 0x40 of local store holds FP8 elements (FMT 0x0B), and so does vector register 9. -/
def wTyped : State := mk [(1, la 0x40), (2, 32), (3, 0), (8, la 0x60)] (fun c => { c with vset := some 0 }) fun k =>
  { k with lsTag := [(1, 0x0B)], vsets := [(0, ⟨[], [(9, 0x0B)], BitVec.allOnes 32⟩)] }

theorem wit_TypedAndTags : wTyped.mayVec .matrix = true ∧ wTyped.mayUse .matrix = true ∧ wTyped.mayUse .cb4 = true
    ∧ (wTyped.here.marker blockMarker).isNone = true
    ∧ wTyped.readable ([src (sr 1), src (sr 2)] ++ maskOp z ++ [vdst 8]) = true ∧ wTyped.localOk (la 0x40) 64 0x40 false = true
    ∧ fmtElems (tagFmt (wTyped.ownBlock 0x40).2) = some 64 ∧ 32 + tyLanes 3 ≤ 64
    ∧ wTyped.readable ([vsrc0 9, src (sr 1), src (sr 3)] ++ maskOp z) = true ∧ wTyped.localOk (la 0x40) 64 0x40 true = true
    ∧ laneFmt (tagFmt (wTyped.vTag 9)) = true ∧ fmtElem (tagFmt (wTyped.vTag 9)) = some (.flt e4m3)
    ∧ 512 / (Elem.flt e4m3).width ≤ tyLanes 0 ∧ 0 % (512 / (Elem.flt e4m3).width) = 0 ∧ 0 + 512 / (Elem.flt e4m3).width ≤ tyLanes 0
    ∧ wTyped.readable [src (sr 1), dst 9] = true ∧ wTyped.readable [src0 2, src (sr 1)] = true ∧ wTyped.readable [src (sr 8)] = true
    ∧ wTyped.localOk (la 0x60 + (0 : BitVec 21).signExtend 64) 32 0x60 false = true
    ∧ wTyped.localOk (la 0x60 + (0 : BitVec 21).signExtend 64) 32 0x60 true = true := by decide +kernel

theorem wit_CacheHints : wLocal.mayUse .base = true ∧ wLocal.readable [src (sr 1)] = true ∧ wLocal.readable [src (sr 1), src (sr 2)] = true
    ∧ wLocal.here.gated = false
    ∧ ((wLocal.core (coreOf wLocal.cur)).l1.all fun e => e.2.ct == .sc || !(e.2.wait.any fun w => w.ctx == wLocal.cur)) = true := by decide +kernel

/-- Window 0 is bound to the block at 0x40; registers 4 to 6 ask for a window over all of local store above it. -/
def wWin : State := mk [(1, 0), (2, 1), (3, 15), (4, 0x80), (5, 0x80), (6, 0x7FF80), (7, 0x40)] id fun k =>
  { k with windows := [(0, ⟨1, 0x40, 1, 0, 0, .s, [(0, ⟨true, 0⟩)]⟩)] }

theorem wit_WindowOps_map : wWin.mayUse .win = true ∧ wWin.readable [src (sr 4), src (sr 5), src (sr 6), dst 9] = true
    ∧ wWin.here.gated = false ∧ (wWin.gValue 4).toNat % 64 = 0 ∧ (wWin.gValue 5).toNat % 64 = 0 ∧ (wWin.gValue 6).toNat % 64 = 0
    ∧ wWin.gValue 6 ≠ 0 ∧ (wWin.gValue 4).toNat + (wWin.gValue 6).toNat ≤ 0x80000 ∧ (wWin.gValue 5).toNat < 2 ^ 55
    ∧ (∀ x ∈ (wWin.core (coreOf wWin.cur)).windows,
        overlap (wWin.gValue 4).toNat (wWin.gValue 6).toNat (64 * x.2.lblk) (64 * x.2.nblk) = false
        ∧ overlap (wWin.gValue 5).toNat (wWin.gValue 6).toNat x.2.va (64 * x.2.nblk) = false)
    ∧ tget (wWin.core (coreOf wWin.cur)).windows 1 = none
    ∧ (∀ j, j < 1 → tget (wWin.core (coreOf wWin.cur)).windows j ≠ none) := by decide +kernel
/-- Register 1 names the window that is bound, register 3 the last number, not bound. -/
theorem wit_WindowOps_name : (wWin.gValue 1).toNat ≤ 15 ∧ (wWin.gValue 3).toNat ≤ 15 ∧ wWin.readable [src (sr 1)] = true
    ∧ wWin.readable [src (sr 3)] = true ∧ tget (wWin.core (coreOf wWin.cur)).windows 15 = none
    ∧ ((tget (wWin.core (coreOf wWin.cur)).windows 0).map fun x => x.blocks.all fun k => k.2.d == 0) = some true ∧ wWin.here.unacked = 0
    ∧ wWin.windowFilling (coreOf wWin.cur) 0 = false ∧ wWin.here.owed = none ∧ wWin.readable [src (sr 1), dst 9] = true := by decide +kernel

theorem wit_LocalAtomics : wLocal.mayUse .base = true ∧ wLocal.mayUse .peer = true ∧ (1 : BitVec 2).getLsbD 1 = false
    ∧ wLocal.readable [src (sr 4), src (sr 6), dst 9] = true ∧ wLocal.localOk (wLocal.gValue 4) 8 0x7FFF8 true = true
    ∧ wLocal.localOk (wLocal.gValue 3) 4 0x7FFFC true = true ∧ wLocal.readable [src (sr 4), src (sr 6), src (sr 7), dst 9] = true
    ∧ wLocal.readable [src (sr 3), src (sr 6), dst 9] = true ∧ wLocal.readable [src (sr 4), src (sr 6)] = true
    ∧ wLocal.readable [src (sr 3), src (sr 6)] = true := by decide +kernel

/-- The word at 0x1000 lies on an SC page with FE. -/
def wWord : State := mk [(1, 0x1000), (2, 5)] id fun k => { k with tlb := [pg 2 true] }

theorem wit_HomeWords : wWord.mayUse .base = true ∧ wWord.readable [src (sr 1), dst 9] = true ∧ homeWaiting wWord.here < 16
    ∧ wWord.gValue 1 + (0 : BitVec 21).signExtend 64 = 0x1000
    ∧ wWord.homeAt 0x1000 .atomic true 0x1000 (pg 2 true) = true ∧ wWord.homeAt 0x1000 .read true 0x1000 (pg 2 true) = true
    ∧ wWord.homeAt 0x1000 .write true 0x1000 (pg 2 true) = true ∧ wWord.readable [src (sr 1), dst 9, .dst ((9 : GReg).toNat + 1)] = true
    ∧ wWord.readable [src0 2, src (sr 1)] = true := by decide +kernel

theorem wit_CountersAndBarriers : wWord.readable [src (sr 1), src (sr 2)] = true ∧ wWord.readable [src (sr 1)] = true
    ∧ wWord.readable [src (sr 1), dst 9] = true ∧ wWord.homeAt (wWord.gValue 1) .write false 0x1000 (pg 2 true) = true
    ∧ wWord.homeAt (wWord.gValue 1) .read false 0x1000 (pg 2 true) = true
    ∧ wWord.homeAt (wWord.gValue 1) .atomic false 0x1000 (pg 2 true) = true := by decide +kernel

theorem wit_Fences : wPlain.mayUse .base = true ∧ wPlain.mayUse .peer = true ∧ wPlain.here.gated = false ∧ wPlain.here.releases = []
    ∧ wPlain.here.lastWait = none ∧ wPlain.here.owed = none ∧ wPlain.here.ws = [] ∧ (wPlain.core (coreOf wPlain.cur)).windows = []
    ∧ (wPlain.startRelease wPlain.cur 6 true none).here.releases = [] ∧ (wPlain.startRelease wPlain.cur 6 true none).here.owed = none
    ∧ wPlain.readable [src (sr 2), src (sr 3)] = true ∧ (wPlain.here.producers.any fun p => p.home.isSome) = false := by decide +kernel

/-- Context 1 of core 1025 runs beside the channel of the page that register 1 names; context 1 of core 0 runs away from it. -/
def wChannel : State := { mk [(1, 0)] id id with
  cur := 16401, ctxs := [(16401, { Ctx.free with state := .live, level := .s, pc := 0x100, npc := 0x102, head := 0x1234, g := regsOf [(1, 0x1000)] })],
  cores := [(1025, { Core.reset with tlb := [pg 0 false] })] }
def wAway : State := mk [(1, 0x1000)] id fun k => { k with tlb := [pg 0 false] }
def wMigrated : State := mk [] (fun c => { c with migratedFrom := some 33 }) id
/-- The context may leave its core. -/
def leaves (s : State) : Bool :=
  let away := (s.startRelease s.cur 0 false none).leavePv (coreOf s.cur) s.here.owner
  !(away.leaving (coreOf away.cur) away.here.owner) && away.here.unacked == 0 && away.here.releases.isEmpty && !(away.storesWaiting away.cur)
    && !(away.copiesOut away.cur) && !(away.tilesOut away.cur)

theorem wit_Migration : wChannel.mayUse .migr = true ∧ wChannel.readable [src (sr 1)] = true
    ∧ wChannel.memAt (wChannel.gValue 1) 1 .read 0x1000 (pg 0 false) = true ∧ regionOf 0x1000 = .lp6 ∧ wChannel.here.vset = none
    ∧ wChannel.here.bind = [] ∧ wChannel.here.gang = none ∧ coreOf wChannel.cur = 1024 + channelOf 0x1000 := by decide +kernel
theorem wit_Migration_away : wAway.mayUse .migr = true ∧ wAway.readable [src (sr 1)] = true
    ∧ wAway.memAt (wAway.gValue 1) 1 .read 0x1000 (pg 0 false) = true ∧ wAway.here.vset = none ∧ wAway.here.bind = [] ∧ wAway.here.gang = none
    ∧ coreOf wAway.cur ≠ 1024 + channelOf 0x1000 ∧ leaves wAway = true ∧ wAway.freeHelper (1024 + channelOf 0x1000) = some 1
    ∧ wAway.heldHelpers (1024 + channelOf 0x1000) wAway.here.owner < 15
    ∧ ((wAway.owner wAway.here.owner).active.dies.toList.getD (dieOf (1024 + channelOf 0x1000)) .zero).chctx = 15 := by decide +kernel
theorem wit_Migration_back : wChannel.here.migratedFrom = none ∧ wMigrated.mayUse .migr = true ∧ wMigrated.here.migratedFrom = some 33
    ∧ wMigrated.here.gated = false ∧ leaves wMigrated = true := by decide +kernel

/-- Vector register 9 holds FP8 elements, register 10 codes of codebook slot 7. -/
def wVec : State := mk [(2, 5), (3, 6)] (fun c => { c with vset := some 0 }) fun k =>
  { k with vsets := [(0, ⟨[], [(9, 0x0B), (10, 0x17)], BitVec.allOnes 32⟩)] }

theorem wit_VectorOps : wVec.mayVec .vec = true ∧ wVec.mayVec .cb4 = true
    ∧ wVec.readable ([vsrc (vr 9), vsrc (vr 10)] ++ maskOp (sr 2) ++ [vdst 11]) = true
    ∧ wVec.readable ([vsrc0 11, vsrc (vr 9), vsrc (vr 10)] ++ maskOp z ++ [vdst 11]) = true
    ∧ wVec.readable ([vsrc (vr 9)] ++ maskOp z ++ [vdst 11]) = true ∧ wVec.readable ([vsrc (vr 10)] ++ maskOp z ++ [vdst 11]) = true
    ∧ laneFmt (tagFmt (wVec.vTag 9)) = true ∧ fmtElem (tagFmt (wVec.vTag 9)) = some (.flt e4m3)
    ∧ 0x10 ≤ tagFmt (wVec.vTag 10) ∧ tagFmt (wVec.vTag 10) ≤ 0x17 ∧ wVec.readable ([src (sr 2)] ++ maskOp z ++ [vdst 11]) = true
    ∧ wVec.readable [vsrc0 11, src (sr 2), src (sr 3), vdst 11] = true
    ∧ wVec.readable ([vsrc (vr 9), src (sr 2)] ++ maskOp z ++ [vdst 11]) = true ∧ wVec.readable [src (sr 2), vdst 11] = true := by decide +kernel

theorem wit_VectorResults : wVec.mayVec .vec = true ∧ wVec.readable ([vsrc (vr 9)] ++ maskOp z ++ [vdst 11]) = true
    ∧ wVec.readable ([vsrc (vr 9)] ++ maskOp (sr 2) ++ [dst 11]) = true
    ∧ wVec.readable ([vsrc (vr 9), vsrc (vr 10)] ++ maskOp z ++ [dst 11]) = true ∧ wVec.readable [vsrc (vr 9), src (sr 2), dst 11] = true
    ∧ wVec.readable [vsrc (vr 9), dst 11] = true := by decide +kernel

def wTask : TaskRec := ⟨none, none, 0, 0, .u, none, 0x40, false, 0, 0, 0, 3, 4, 5, 6, 0, 0, 1, true, [], [], none, none⟩
/-- A record at 0x40 of local store, given by its double words, and a page of the type given. -/
def wRec (g : List (Nat × Word)) (ct : BitVec 2) (w : List (Nat × Nat)) : State := mk g (fun c => { c with task := some wTask })
  fun k => { k with ls := w.foldl (fun m e => writeN m (0x40 + 8 * e.1) 8 e.2) [], tlb := [pg ct false] }
def placeOf (s : State) (tile : Bool) : Agent := ⟨0, s.cur, coreOf s.cur, s.here.owner, s.here.space, s.here.level, tile⟩

/-- A tile record of zeros, which is malformed, and one that is not. -/
def wPushBad : State := wRec [(1, la 0x40)] 1 []
def wPush : State := wRec [(1, la 0x40)] 1 [(0, 2 ^ 32 * 3 + 0x40 + 2 + 256 * 3), (1, (la 0x1000).toNat), (2, (la 0x8000).toNat), (3, (la 0x20000).toNat),
  (4, 64 + 2 ^ 32 * 64), (5, 256)]
theorem wit_Engines_push : wPush.mayUse .matrix = true ∧ isChannel (coreOf wPush.cur) = false ∧ wPush.readable [src (sr 1), dst 7] = true
    ∧ wPush.recordHere (wPush.gValue 1) 0x40 = true ∧ wPush.scGated wPush.cur = false ∧ wPush.here.ws = []
    ∧ (wPush.cluster (clusterOf (coreOf wPush.cur))).tiles.countP (fun t => !t.done && t.owner == wPush.here.owner)
      < 4 * (wPush.owner wPush.here.owner).active.quota (dieOf (coreOf wPush.cur)) 3
    ∧ wPush.tileMalformed (placeOf wPush true) 0 (wPush.ownBlock 0x40).1 = false ∧ blockWord (wPush.ownBlock 0x40).1 6 = 0
    ∧ (tileLocks 0 (wPush.ownBlock 0x40).1).length + (wPush.core (coreOf wPush.cur)).locks.length ≤ 64
    ∧ wPushBad.recordHere (wPushBad.gValue 1) 0x40 = true ∧ wPushBad.readable [src (sr 1), dst 7] = true
    ∧ wPushBad.tileMalformed (placeOf wPushBad true) 0 (wPushBad.ownBlock 0x40).1 = true := by decide +kernel

/-- Register 3 holds the length of a copy of two blocks, register 4 the word of its promise, register 0 no length at all. -/
def wCopy : State := mk [(1, la 0x40), (2, la 0x1000), (3, 128), (4, 0x1000)] id (fun k => { k with tlb := [pg 2 false] })
theorem wit_Engines_copy : wCopy.mayUse .base = true ∧ wCopy.mayUse .peer = true ∧ wCopy.readable [src (sr 1), src (sr 2), src (sr 3), dst 7] = true
    ∧ wCopy.readable [src (sr 1), src (sr 2), src (sr 3), .src 4 false, dst 7] = true ∧ wCopy.readable [src (sr 1), src (sr 2), src z, dst 7] = true
    ∧ wCopy.calm = true ∧ wCopy.windowMerging (coreOf wCopy.cur) true = false ∧ wCopy.scGated wCopy.cur = false ∧ (wCopy.gValue 1).toNat % 64 = 0 ∧ (wCopy.gValue 2).toNat % 64 = 0
    ∧ (wCopy.gValue 3).toNat % 64 = 0 ∧ (wCopy.gValue 3).toNat ≤ 2 ^ 32 ∧ wCopy.gValue 3 ≠ 0 ∧ wCopy.gValue 0 = 0
    ∧ wCopy.sideOf (placeOf wCopy false) (wCopy.gValue 1) = .here ∧ wCopy.sideOf (placeOf wCopy false) (wCopy.gValue 2) = .here
    ∧ overlap (wCopy.gValue 1).toNat (wCopy.gValue 3).toNat (wCopy.gValue 2).toNat (wCopy.gValue 3).toNat = false
    ∧ wCopy.homeAt (wCopy.gValue 4) .atomic false 0x1000 (pg 2 false) = true ∧ (wCopy.core (coreOf wCopy.cur)).locks.length ≤ 62
    ∧ wCopy.copies = []
    ∧ 0 < ((wCopy.owner wCopy.here.owner).active.dies.toList.getD (dieOf (coreOf wCopy.cur)) .zero).copyq.toNat := by decide +kernel
theorem wit_Engines_wait : wCopy.readable [src z] = true ∧ (wCopy.gValue 0).toNat ≤ wCopy.dtc.toNat
    ∧ (wCopy.promised wCopy.cur (wCopy.gValue 0)).all (fun q => q.done && (q.observed || q.cause == 0)) = true := by decide +kernel

/-- Context 2 runs alone, with register 1 as given. -/
def wQ (g : List (Nat × Word)) (f : Ctx → Ctx) : State := { mk g f id with
  cur := 2, ctxs := [(2, f { Ctx.free with state := .live, level := .s, pc := 0x100, npc := 0x102, head := 0x1234, g := regsOf g })] }
def wBound (b : Binding) : State := wQ [(1, 0x2C)] fun c => { c with bind := [(1, b)], results := [5, 6] }
def wStream : State := wQ [(1, 0x50000 + 0x13), (2, 64)] id
def wPort : Port := ⟨3, 2, 0x13, 61, 64, [], 0, false, false, true, false⟩
def wOpened : State := { wStream with ports := [(3, wPort)] }

theorem wit_Queues_bind : (wQ [(1, 0x2C)] id).mayUse .base = true ∧ (wQ [(1, 0x2C)] id).readable [src (sr 1)] = true
    ∧ (wQ [(1, 0x2C)] id).here.pendingOn 57 = false ∧ (wQ [(1, 0x2C)] id).here.bound 57 = none
    ∧ (0x2C : Word) >>> 6 = 0 ∧ (0x2C : Word) &&& 3 = 0 ∧ siblingOf (wQ [(1, 0x2C)] id).cur ≠ none
    ∧ (wQ [(1, 0x2C)] id).endTaken 2 true true 2 = false ∧ (wQ [(1, 1)] id).readable [src (sr 1)] = true
    ∧ (wQ [(1, 2)] id).here.hasResults = false := by decide +kernel
theorem wit_Queues_end : (∀ id, Binding.results ≠ .streamOut id) ∧ (wBound .results).here.bound 57 = some .results
    ∧ tget (wBound .results).here.qpend (1 : BitVec 3).toNat = none ∧ (wBound (.sibling false true 3)).here.bound 57 = some (.sibling false true 3)
    ∧ (wBound .results).dstReady 7 = true ∧ (wBound (.streamOut 3)).here.bound 57 = some (.streamOut 3) := ⟨(fun _ h => nomatch h), by decide +kernel⟩
theorem wit_Queues_open : wStream.readable [src (sr 1), src (sr 2)] = true ∧ wStream.here.pendingOn 57 = false ∧ wStream.here.bound 57 = none
    ∧ wStream.gValue 1 >>> 19 = 0 ∧ 1 ≤ (wStream.gValue 2).toNat ∧ (wStream.gValue 2).toNat ≤ 64 ∧ wStream.streamPeer wStream.cur 0x13 = true
    ∧ wStream.ports = [] ∧ (wOpened.ports.find? fun p => p.2.sender == wOpened.cur && !p.2.closed && p.2.receiver == 0x13 && p.2.reg == 56 + 5
        && !(wOpened.here.bind.any fun z => z.2 == .streamOut p.1)) = some (3, wPort) ∧ wPort.discard = false ∧ wPort.opened = true
    ∧ tget ({ wBound (.streamOut 3) with ports := [(3, wPort)] } : State).ports 3 = some wPort := by decide +kernel

/-- The control context of core 0 has one task in its inbox and helper 15 free. -/
def wConcierge : State := { mk [] id id with
  cur := 0, ctxs := [(0, { Ctx.control with state := .live, g := regsOf [(1, 15)] })], cores := [(0, { Core.reset with inbox := [wTask] })] }
theorem wit_ContextControl : wConcierge.mayUse .base = true ∧ wConcierge.here.level = .f ∧ wConcierge.gValue 1 = BitVec.ofNat 64 15
    ∧ wConcierge.readable [src (sr 1)] = true ∧ (wConcierge.ctx 15).state = .free ∧ (wConcierge.core 0).inbox = [wTask]
    ∧ wConcierge.gangPending wTask = false ∧ isChannel (coreOf wConcierge.cur) = false ∧ wConcierge.readable [src (sr 1), dst 7] = true
    ∧ wPlain.cur % 16 ≠ 0 ∧ wPlain.here.producers = [] ∧ wPlain.here.migratedFrom = none ∧ wPlain.tilesOut wPlain.cur = false
    ∧ wPlain.copiesOut wPlain.cur = false ∧ wPlain.here.qpend = [] ∧ wPlain.here.gang = none ∧ wPlain.engineFaultOf wPlain.cur = none
    ∧ wPlain.releasedOk 0 = true ∧ wPlain.here.task = none := by decide +kernel

def wApply : State := wRec [(1, la 0x40)] 1 [(0, 0x50001), (1, 3), (2, 77), (3, 88)]
/-- Callable entry 3, a function, is in the cache of the die, and the record at 0x40 names it. -/
def wPost : State := { wRec [(1, 0x801), (2, la 0x40)] 1 [(0, 3), (1, 7)] with porters := [(0, { Porter.reset with cache := [(3, 1)] })] }
theorem wit_Launches_apply : wApply.mayUse .comb = true ∧ wApply.mayUse .peer = true ∧ wApply.readable [src (sr 1)] = true
    ∧ wApply.recordHere (wApply.gValue 1) 0x40 = true ∧ applyOk (wApply.ownBlock 0x40).1 = true
    ∧ wApply.unstarted (dieOf (coreOf wApply.cur)) wApply.here.owner < 64 ∧ wApply.releasedOk 6 = true := by decide +kernel
theorem wit_Launches_post : wPost.readable [src (sr 1), src (sr 2)] = true ∧ wPost.here.gated = false
    ∧ wPost.memAt (wPost.gValue 1) 1 .read 0x801 (pg 1 false) = true ∧ regionOf 0x801 ≠ .host ∧ wPost.recordHere (wPost.gValue 2) 0x40 = true
    ∧ taskRecOk (wPost.ownBlock 0x40).1 = true ∧ (wPost.owner wPost.here.owner).gtqlen ≠ 0
    ∧ (blockWord (wPost.ownBlock 0x40).1 0).toNat % 2 ^ 20 = 3 ∧ 3 < (wPost.owner wPost.here.owner).ctlen.toNat
    ∧ (wPost.callable (dieOf (coreOf wPost.cur)) wPost.here.owner wPost.here.space wPost.here.level 3).1 = some 1 ∧ eKind 1 = 1
    ∧ (wPost.callable (dieOf (coreOf wPost.cur)) wPost.here.owner wPost.here.space wPost.here.level 3).2.landing wPost.here.owner 0x801 = some 0
    ∧ ((wPost.callable (dieOf (coreOf wPost.cur)) wPost.here.owner wPost.here.space wPost.here.level 3).2.segment wPost.here.owner 0).length
      < (wPost.owner wPost.here.owner).gtqlen.toNat
    ∧ (wPost.callable (dieOf (coreOf wPost.cur)) wPost.here.owner wPost.here.space wPost.here.level 3).2.releasedOk 4 = true := by decide +kernel

/-- The last place of the owner's table lies in local store, or on a page of the type given; the record at 0x40 is a builder's parameters. -/
def wBuild (w : List (Nat × Nat)) : State := wRec [(1, 15), (2, la 0x40)] 1 w
def wBuildPage (ct : BitVec 2) (w : List (Nat × Nat)) : State :=
  ({ wRec [(1, 15), (2, la 0x40)] ct w with mem := [(0, 32 * ct.setWidth 8)] } : State).modOwner 0 fun o => { o with ctbase := 0x1000 }
theorem wit_Builders : (wBuild [(1, 0x1000)]).mayUse .comb = true ∧ (wBuild [(1, 0x1000)]).readable [src (sr 1), src (sr 2)] = true
    ∧ ((wBuild [(1, 0x1000)]).gValue 1).toNat = 15 ∧ 15 < ((wBuild [(1, 0x1000)]).owner 0).ctlen.toNat ∧ ((wBuild [(1, 0x1000)]).owner 0).ctlen.toNat ≤ 2 ^ 20
    ∧ (wBuild [(1, 0x1000)]).recordHere ((wBuild [(1, 0x1000)]).gValue 2) 0x40 = true ∧ blockWord ((wBuild [(1, 0x1000)]).ownBlock 0x40).1 0 = 0
    ∧ ((wBuild [(1, 0x1000)]).owner 0).ctbase + 64 * 15 = la 0x13C0 ∧ (wBuild [(1, 0x1000)]).localOk (la 0x13C0) 64 0x13C0 true = true := by decide +kernel
theorem wit_Builders_page : ([1, 2].all fun ct : BitVec 2 => let s := wBuildPage ct [(1, 0x1000)]
      s.memAt 0x13C0 64 .write 0x13C0 (pg ct false) && regionOf 0x13C0 == .lp6 && s.scReady && !s.scGated s.cur && s.blockFree 0x13C0
        && decide (s.fotNow 0x13C0 s.here.owner true ct = .ok) && !s.busy (0x13C0 / 64)) = true
    ∧ ((wBuildPage 1 []).owner 0).ctbase + 64 * 15 = 0x13C0 := by decide +kernel
/-- Each kind has fields and parameters that make a good entry: scope core, and for composites domain core and two children. -/
theorem wit_Builders_kinds : ([(1, 0, []), (2, 0, []), (3, 65, []), (4, 65, []), (5, 65, []), (6, 1, [(2, 1), (4, 2 ^ 35)]), (7, 1, [(2, 1)])].all
    fun (e : Nat × Nat × List (Nat × Nat)) =>
      let p := ((wBuild e.2.2).ownBlock 0x40).1
      entryOk (p ||| BitVec.ofNat 512 (e.1 + 2 ^ 4 * (e.2.1 % 8) + 2 ^ 8 * 1 + 2 ^ 16 * (e.2.1 / 32 % 8)))) = true := by decide +kernel

/-- Context 33 is a suspended coroutine; context 1 resumes it with register 2. -/
def wCoro (f h : Ctx → Ctx) : State := { mk [] id id with
  ctxs := [(1, f { Ctx.free with state := .live, level := .s, pc := 0x100, npc := 0x102, g := regsOf [(1, 33), (2, 99)] }),
    (33, h { Ctx.free with state := .blocked .cyield, level := .s, pc := 0x300, npc := 0x302, task := some wTask, co := some ⟨33, true, true, none⟩ })] }
/-- The coroutine runs, and its resumer waits under ticket 4. -/
def wYields (v : Option Word) : State := { wCoro (fun c => { c with ticket := some 4, state := .blocked .cresume })
  (fun c => { c with state := .live, given := v, co := some ⟨33, true, false, some 4⟩, g := regsOf [(1, 88)] }) with cur := 33 }
def wResumed : State := wCoro (fun c => { c with ticket := some 4, given := some 55 }) id

theorem wit_Coroutines_resume : (wCoro id id).mayUse .comb = true ∧ (wCoro id id).here.ticket = none
    ∧ (wCoro id id).readable [src (sr 1), src (sr 2), dst 7] = true
    ∧ (((wCoro id id).coroutine ((wCoro id id).gValue 1).toNat (wCoro id id).here.owner).map fun k =>
        k.co.bind (·.resumer) == none && k.co.map (·.suspended) == some true && (wCoro id id).releasedOk k.taskScope) = some true
    ∧ wResumed.mayUse .comb = true ∧ wResumed.here.ticket = some 4 ∧ wResumed.here.given = some 55 ∧ wResumed.dstReady 7 = true := by decide +kernel
theorem wit_Coroutines_yield : (wYields none).mayUse .comb = true ∧ (wYields none).here.co = some ⟨33, true, false, some 4⟩
    ∧ (wYields none).here.given = none ∧ (wYields none).readable [src (sr 1), dst 7] = true ∧ (wYields none).releasedOk (wYields none).here.taskScope = true
    ∧ (wYields (some 9)).here.given = some 9 ∧ (wYields (some 9)).here.co = some ⟨33, true, false, some 4⟩ ∧ (wYields (some 9)).dstReady 7 = true := by
  decide +kernel

def wMember (st : CtxState) (g : Option Gang) : Ctx :=
  { Ctx.free with state := st, level := .s, pc := 0x100, npc := 0x104, task := some wTask, g := regsOf [(1, 255)], gang := g }
/-- The last of eight members runs, the others wait at GFORM. -/
def wForm : State := { mk [] id id with
  ctxs := (1, wMember .live none) :: [17, 33, 49, 65, 81, 97, 113].map fun m => (m, wMember (.blocked .gform) (some ⟨255, 0, false, false⟩)) }
/-- A gang: its leader runs, context 17 waits at the leader's GJOIN. -/
def wGang (lead att : Bool) : State := { mk [] id id with
  ctxs := [(1, wMember .live (some ⟨3, 9, lead, att⟩)), (17, wMember (.blocked (.gjoin 0x100)) (some ⟨3, 9, false, false⟩))] }

theorem wit_Gangs_form : wForm.mayUse .gang = true ∧ wForm.readable [src (sr 1)] = true ∧ wForm.gValue 1 = BitVec.ofNat 64 255 ∧ 255 < 256
    ∧ 2 ≤ popcount 255 8 ∧ isChannel (coreOf wForm.cur) = false ∧ 255 / 2 ^ (coreOf wForm.cur % 8) % 2 = 1 ∧ wForm.here.gang = none
    ∧ wForm.here.task.isSome = true ∧ wForm.here.state = .live
    ∧ (∀ m ∈ gangMembers wForm.cur 255, m ≠ wForm.cur → (wForm.ctx m).state = .blocked .gform
        ∧ (wForm.ctx m).gang = some ⟨BitVec.ofNat 8 255, 0, false, false⟩ ∧ (wForm.ctx m).pc = wForm.here.pc ∧ (wForm.ctx m).owner = wForm.here.owner
        ∧ (wForm.ctx m).task.isSome = true ∧ (wForm.ctx m).task.bind (·.launch) = wForm.here.task.bind (·.launch)) := by decide +kernel
theorem wit_Gangs : wPlain.mayUse .gang = true ∧ wPlain.here.gang = none
    ∧ ((wGang true true).here.gang.map fun g => g.leader && g.attached) = some true
    ∧ ((wGang false true).here.gang.map fun g => !g.leader && g.attached) = some true
    ∧ ((wGang false false).here.gang.map fun g => !g.leader && !g.attached) = some true
    ∧ (tget (wGang true true).ctxs 17).isSome = true ∧ ((wGang true true).ctx 17).gang = some ⟨3, 9, false, false⟩
    ∧ ((wGang true true).ctx 17).state = .blocked (.gjoin (wGang true true).here.pc) := by decide +kernel

/-- EXQ's and EXH's operands: a listed resource and bin, and words with a reserved bit. -/
def wStat (l : Level) : State := mk [(1, 0x30), (2, 5), (3, 8), (4, 0x1F66F), (5, 0x80), (6, 15), (7, 0xF66F)] (fun c => { c with level := l }) id
theorem wit_RandomAndStatistics : (wStat .s).mayUse .base = true ∧ (wStat .s).mayUse .stat = true ∧ (wStat .s).readable [src (sr 2), dst 9] = true
    ∧ (wStat .s).readable [src z, dst 9] = true ∧ (wStat .s).gValue 0 = 0 ∧ ((wStat .s).gValue 2).toNat % 2 ^ 32 ≠ 0
    ∧ (wStat .s).readable [src (sr 2), src z] = true ∧ ((wStat .s).owner 0).oldSeed = none ∧ (wStat .s).layoutHeld 0 = false
    ∧ (wStat .f).readable [src (sr 2), src z] = true ∧ ((wStat .f).owner 0).active.en = true ∧ ((wStat .f).gValue 6).toNat < 16
    ∧ (wStat .s).readable [src (sr 1), src (sr 2), dst 9] = true ∧ (wStat .s).gValue 1 &&& ~~~0x37 = 0 ∧ ((wStat .s).gValue 1).toNat % 8 ≠ 7
    ∧ ((wStat .s).gValue 1).toNat % 8 ≠ 2 ∧ (wStat .s).readable [src (sr 3), src (sr 2), dst 9] = true ∧ (wStat .s).gValue 3 &&& ~~~0x37 ≠ 0
    ∧ (wStat .s).gValue 2 &&& ~~~0x37 = 0 ∧ (wStat .s).squareFenced = false ∧ (0x12 : Word) &&& ~~~0x37 = 0 ∧ (0x12 : Word).toNat % 8 = 2
    ∧ (wStat .s).readable [src (sr 4), dst 9] = true ∧ ((wStat .s).gValue 4).getLsbD 16 = true ∧ (wStat .s).here.level ≠ .u
    ∧ (wStat .s).gValue 4 &&& ~~~0x1F77F = 0 ∧ ((wStat .s).gValue 4).toNat / 16 % 8 ≠ 7 ∧ ((wStat .u).gValue 7).getLsbD 16 = false
    ∧ (wStat .u).readable [src (sr 7), dst 9] = true ∧ (wStat .s).gValue 5 &&& ~~~0x1F77F ≠ 0 ∧ (wStat .s).readable [src (sr 5), dst 9] = true := by
  decide +kernel

def wLevel (l : Level) (e : Word) : State := mk [] (fun c => { c with level := l, ecause := e }) id
def levelRank : Level → Nat
  | .u => 0 | .s => 1 | .f => 2
/-- Each level reads what it may, and 2 is no register's number. -/
theorem wit_SystemReads : (wLevel .u 0).mayUse .base = true ∧ (wLevel .s 0).mayUse .base = true ∧ (wLevel .f 0).mayUse .base = true
    ∧ (wLevel .u 0).dstReady 9 = true ∧ levelRank (wLevel .u 0).here.level = 0 ∧ levelRank (wLevel .f 0).here.level = 2
    ∧ (∀ n ∈ [0x000, 0x001, 0x010, 0x011, 0x012, 0x013, 0x014, 0x015, 0x016, 0x017, 0x020, 0x021, 0x030, 0x031, 0x032, 0x033, 0x034, 0x035, 0x036,
        0x037, 0x038, 0x039, 0x040, 0x041, 0x042, 0x043, 0x050], n ≠ (2 : BitVec 12).toNat) := by decide +kernel

/-- Values at the ends of the ranges: 2^20 for CTLEN, 1 for STKSIZE, 8192 blocks for a window of LSWIN, all the bits of the others, and one bit too many. -/
def wWrite (l : Level) : State := mk [(1, 0x7FFFFFFFFFFFC0), (2, 0x100000), (3, 1), (4, 0x020000000), (5, 0x8000000000000000), (6, 0x1FFF)]
  (fun c => { c with level := l }) id
theorem wit_SystemWrites : (wWrite .f).mayUse .base = true ∧ (wWrite .u).mayUse .base = true ∧ (wWrite .f).readable [src0 1] = true
    ∧ (wWrite .f).gValue 1 &&& ~~~0x7FFFFFFFFFFFC0 = 0 ∧ (wWrite .f).gValue 2 &&& ~~~0x1FFFFF = 0 ∧ ((wWrite .f).gValue 2).toNat ≤ 2 ^ 20
    ∧ (wWrite .f).gValue 3 &&& ~~~0xFF = 0 ∧ (wWrite .f).gValue 3 ≠ 0 ∧ (wWrite .f).gValue 4 &&& ~~~0xF3FFF1FFF = 0
    ∧ ((wWrite .f).gValue 4 >>> 16).toNat % 2 ^ 14 = 8192 ∧ (wWrite .f).gValue 5 &&& ~~~0x7FFFFFFFFFFFFF ≠ 0 ∧ (wWrite .f).readable [src0 5] = true
    ∧ (wWrite .f).gValue 6 &&& ~~~0x1FFF = 0 ∧ levelRank (wWrite .u).here.level < 1 := by decide +kernel

/-- A page of an SC frame with FE and PIN, where a fault ring may stand. -/
def wRingPage : State := { mk [(1, 0x4000)] id (fun k => { k with tlb := [pg 2 true] }) with mem := [(0, 0xC0)] }
theorem wit_SystemWrites_ring : wRingPage.mayUse .base = true ∧ wRingPage.readable [src0 1] = true ∧ 1 ≤ levelRank wRingPage.here.level
    ∧ wRingPage.gValue 1 &&& ~~~0x7FFFFFFFFFC000 = 0 ∧ wRingPage.gValue 1 ≠ 0 ∧ wRingPage.gValue 0 = 0 ∧ formOf (wRingPage.gValue 1) = .page
    ∧ wRingPage.pageOk (wRingPage.gValue 1) .read 0x4000 (pg 2 true) = true ∧ (pg 2 true).ct = 2 ∧ (pg 2 true).fe = true ∧ frameOf 0x4000 = some 0
    ∧ (wRingPage.fotAt 0).getLsbD 7 = true := by decide +kernel

def wTrap (l : Level) (e : Word) : State := mk [] (fun c => { c with level := l, ecause := e, epc := 0x102 })
  fun k => { k with icache := [(4, codeLine)], tlb := [pg 0 false] }
theorem wit_TrapsOnRequest : (wTrap .u 0).mayUse .base = true ∧ (wTrap .u 0).here.gang = none ∧ (wTrap .u 0).here.level ≠ .f
    ∧ (wTrap .u 0).here.ecause.getLsbD 10 = false ∧ ((wTrap .u 0).owner (wTrap .u 0).here.owner).tvecS ≠ 0 ∧ (wTrap .f 0).here.level = .f
    ∧ (wTrap .s 0x500).here.level ≠ .u ∧ (wTrap .s 0x500).here.ecause.getLsbD 11 = false
    ∧ (wTrap .s 0x500).codeAt ((wTrap .s 0x500).here.epc.setWidth 64) 0x102 (pg 0 false) = true
    ∧ (wTrap .f 0x200).codeAt ((wTrap .f 0x200).here.epc.setWidth 64) 0x102 (pg 0 false) = true
    ∧ (wTrap .s 0x800).here.ecause.getLsbD 11 = true := by decide +kernel

def wTlb (l : Level) : State := mk [(1, 0x3), (2, 0xFFFF0003), (3, 0xF0001)] (fun c => { c with level := l }) id
theorem wit_TlbMaintenance : (wTlb .s).mayUse .base = true ∧ (wTlb .s).readable [src (sr 1), src (sr 2)] = true ∧ (wTlb .s).here.level ≠ .u
    ∧ (wTlb .s).gValue 2 &&& ~~~0xFFFF0003 = 0 ∧ (wTlb .f).here.level = .f ∧ (wTlb .f).readable [src (sr 1), src (sr 3)] = true
    ∧ (wTlb .f).gValue 3 &&& ~~~0xF0001 = 0 ∧ ((wTlb .s).invals.any fun e => e.1 == (wTlb .s).cur) = false := by decide +kernel

/-- A link in each state. -/
def wLink (x : LinkState) : State := { State.reset with links := [(4, x)] }
/-- A boot whose images verify or not, with ports 0 and 1 of die 0 reaching device 5, and owner 15 in the layout if it is given. -/
def wBoot (first second : Bool) (layout : List (Nat × OwnerRec)) : BootOutcome :=
  ⟨⟨0, 0, first, true, 0, 77⟩, ⟨0, 0, second, true, 1, 88⟩, ⟨0, 0, true, true, 0, 99⟩, [], [], [(0, 5), (1, 5)], 7, 0x7FF, layout, [], 9, 0x2000, false⟩
theorem wit_PackageEvents : (wLink .up).link 4 ≠ .fenced ∧ (wLink .retraining).link 4 = .retraining
    ∧ State.reset.fuses.boots (wBoot false false []).primary = false ∧ State.reset.fuses.boots (wBoot false false []).secondary = false
    ∧ State.reset.fuses.boots (wBoot true false []).primary = true ∧ State.reset.fuses.boots (wBoot false true []).primary = false
    ∧ State.reset.fuses.boots (wBoot false true []).secondary = true ∧ State.reset.absent = [] := by decide +kernel
theorem wit_PackageEvents_layout : (wBoot true false []).absentChannels = [] ∧ (wBoot true false []).failedLinks = [] ∧ (wBoot true false []).layout = []
    ∧ tget (wBoot true false [(15, OwnerRec.boot)]).layout 15 = some OwnerRec.boot ∧ 0 < 15 ∧ 15 < 16 := by decide +kernel

/-- VCP 63 of owner 0 with its page at 0x10000, a ring of 256 records, and PROD as given; memory holds one record of the kind given. -/
def wRing : Vcp := { Vcp.reset with valid := true, w0 := 0x10000, w1 := 0x100 }
def wVcp (prod : Nat) (kind : Nat) (f : Vcp → Vcp) (fc : Core → Core) : State := ({ State.reset with
  owners := [(0, own0)], cores := [(160, fc Core.reset)],
  mem := [(0, 0x40), (0x10000, 0x10000), (0x10008, 0x100), (0x10010, prod), (0x10100, kind)].foldl (fun m e => writeN m e.1 8 e.2) [] } : State).modVcp 0 63
    fun _ => f wRing
def wCmd (l : List (Nat × Nat)) : Cmd := ⟨0, 0, 63, 0, true, BitVec.ofNat 512 (l.foldl (fun n e => n + 2 ^ (64 * e.1) * e.2) 0)⟩
def wOut (c : Cmd) (f : Vcp → Vcp) : State := wVcp 1 1 (fun q => f { q with out := [⟨5, c, none, 0⟩] }) id

theorem wit_HostQueues_notify : State.reset.vcpLive 0 63 = false ∧ (wVcp 256 1 id id).vcpLive 0 63 = true ∧ ((wVcp 256 1 id id).vcp 0 63).halted = false
    ∧ (wVcp 256 1 id id).vcpWord 0 63 0 = ((wVcp 256 1 id id).vcp 0 63).w0 ∧ (wVcp 256 1 id id).vcpWord 0 63 8 = ((wVcp 256 1 id id).vcp 0 63).w1
    ∧ (((wVcp 256 1 id id).vcpWord 0 63 0x10).extractLsb' 0 32).toNat = ((wVcp 256 1 id id).vcp 0 63).size
    ∧ ((wVcp 257 1 id id).vcp 0 63).size < (((wVcp 257 1 id id).vcpWord 0 63 0x10).extractLsb' 0 32).toNat
    ∧ (wVcp 257 1 id id).vcpLive 0 63 = true := by decide +kernel
theorem wit_HostQueues_take : let s := wVcp 1 1 (fun q => { q with prod := 1, armed := true }) id
    (s.vcp 0 63).valid = true ∧ (s.vcp 0 63).armed = true ∧ (s.vcp 0 63).run = true ∧ (s.vcp 0 63).wait = none ∧ s.beginning 0 63 = false ∧ s.ringHeld 0 63 = false
    ∧ (s.vcp 0 63).indirect = none ∧ (s.vcp 0 63).cons ≠ (s.vcp 0 63).prod ∧ (s.vcp 0 63).size ≠ 0
    ∧ s.mayTake ⟨0, (s.vcp 0 63).owner, 63, 0, true, (s.coherent 0x10100).1⟩ none = true ∧ ((wVcp 1 1 id id).vcp 0 63).cons = ((wVcp 1 1 id id).vcp 0 63).prod := by
  decide +kernel
theorem wit_HostQueues_run : (wVcp 1 1 id id).kindOk (wCmd [(0, 8)]) = false ∧ (wVcp 1 1 id id).kindOk (wCmd [(0, 2), (1, 1)]) = true
    ∧ (wCmd [(0, 2), (1, 1)]).ok = false
    ∧ (((wOut (wCmd [(0, 7), (1, 0x2001)]) id).vcp 0 63).out.find? fun e => e.cmd == wCmd [(0, 7), (1, 0x2001)]) = some ⟨5, wCmd [(0, 7), (1, 0x2001)], none, 0⟩
    ∧ ((wCmd [(0, 7), (1, 0x2001)]).word 1).getLsbD 13 = true := by decide +kernel
def wDone (written : Bool) : Completion := ⟨3, 0, 0, .u, 0, 0, 0, 0, some (0, 63), false, written, true, none, none, none⟩
def wDones (written : Bool) : State := { State.reset with completions := [wDone written] }
theorem wit_HostQueues_complete : (State.reset.completions.find? fun x => x.id == 3) = none
    ∧ ([false, true].all fun w => ((wDones w).completions.find? fun x => x.id == 3) == some (wDone w) && (wDone w).written == w && !(wDones w).counterOut 3)
    ∧ (wDone false).jc = 0 ∧ (wDone false).write = false ∧ (wDone false).launch = none ∧ (wDone false).out = none ∧ (wDone false).node = none
    ∧ (wDones false).recordHeld (wDone false) = false := by decide +kernel
theorem wit_HostQueues_features : (wLink .up).link 20 ≠ .retraining ∧ ({ State.reset with links := [(20, .retraining)] } : State).link 20 = .retraining
    ∧ (1 : Word).getLsbD 0 = true ∧ (0 : Word).getLsbD 0 = false ∧ (State.reset.owner 0).featState ≠ 1 ∧ ((wVcp 1 1 id id).owner 0).featState = 1 ∧ State.reset.launches = [] := by
  decide +kernel



def wSc : State := wVcp 1 1 (fun q => { q with out := [⟨5, wCmd [(0, 5), (1, 15)], none, 0⟩] }) fun k => { k with tlb := [pg 2 false] }
def wWaits (c : Cmd) : State := { (wVcp 1 1 (fun q => { q with wait := some c }) fun k => { k with tlb := [pg 2 false] }) with dtc := 10 }
/-- A WAIT for the word at 0x1000 (0) to be at least 0, and to be at least 1. -/
def wWait (v : Nat) : Cmd := wCmd [(0, 3), (2, 0x1000), (3, v), (6, 9)]
/-- A copy of one block between two local pages, and one from a register of the local views. -/
def wHostCopy (src : Nat) : Cmd := wCmd [(0, 2), (1, 64), (2, src), (3, 0x2000)]
theorem wit_HostCommands_copy : (wCmd [(0, 2)]).word 1 = 0 ∧ (wHostCopy 0x1000).word 1 ≠ 0 ∧ wSc.cmdSidesOk (wHostCopy 0x1000) = true
    ∧ (wHostCopy (la 0).toNat).word 1 ≠ 0 ∧ wSc.cmdSidesOk (wHostCopy (la 0).toNat) = false
    ∧ wSc.copyQueueFull (wSc.vcpDie 0 63) 0 = false := by decide +kernel
theorem wit_HostCommands_wait : ((wVcp 1 1 id fun k => { k with tlb := [pg 1 false] }).cmdWord (wWait 0) .read).1 = none
    ∧ (wSc.cmdWord (wWait 0) .read).1 = some 0x1000 ∧ BitVec.ofNat 64 (blockBytes ((wSc.cmdWord (wWait 0) .read).2.coherent 0x1000).1 0 8) = (0 : Word)
    ∧ ((wWait 0).word 3).toNat = 0 ∧ ((wWait 1).word 3).toNat = 1 ∧ ((wWaits (wWait 0)).vcp 0 63).wait = some (wWait 0)
    ∧ ((wWaits (wWait 0)).cmdWord (wWait 0) .read).1 = some 0x1000
    ∧ (wWait 0).word 6 ≠ 0 ∧ ((wWait 0).word 6).toNat < (wWaits (wWait 0)).dtc.toNat := by decide +kernel
theorem wit_HostCommands_signal : (wCmd [(0, 4), (1, 1), (2, 0x1000), (3, 7)]).word 1 = 1
    ∧ (wSc.cmdWord (wCmd [(0, 4), (1, 1), (2, 0x1000), (3, 7)]) .atomic).1 = some 0x1000 ∧ (wCmd [(0, 4), (2, 0x1000)]).word 1 = 0
    ∧ (wSc.cmdWord (wCmd [(0, 4), (2, 0x1000)]) .write).1 = some 0x1000 := by decide +kernel
theorem wit_HostCommands_window : ((wSc.vcp 0 63).out.any fun e => e.cmd == wCmd [(0, 5), (1, 15)]) = true
    ∧ ((wCmd [(0, 5), (1, 15)]).dies.any fun d => wSc.runsOn 0 d) = false ∧ State.reset.cores = [] := by decide +kernel

def wHost (w : Bool) (bar off : Nat) : HostAccess := ⟨0, bar, off, 8, w, 0x1122⟩
/-- The last word inside the window of owner 0, the first outside it, and an owner that is not enabled. -/
def wHostMem : State := { State.reset with mem := [(255, 1), (254, 0x20)] }
theorem wit_HostAccesses_window : State.reset.link 20 = .up ∧ State.reset.stopped = false ∧ State.reset.registerArea 0 2 0xFFFFFF9 = none
    ∧ State.reset.memoryOffset (wHost false 2 0xFFFFFF9) = some 0xFFFFFF9 ∧ State.reset.window 0 < 0xFFFFFF9 + 8
    ∧ (State.reset.owner 0).active.en = true ∧ (State.reset.owner 1).active.en = false ∧ ({ State.reset with functions := 0 } : State).functions.getLsbD 0 = false
    ∧ ([true, false].all fun w => wHostMem.registerArea 0 2 0xFFFFFF8 == none && (wHostMem.hostTarget (wHost w 2 0xFFFFFF8)).1 == some 0xFFFFFF8)
    := by decide +kernel
theorem wit_HostAccesses_registers : State.reset.registerArea 0 0 0x400010 = some (0, 0x400010) ∧ (wHost false 0 0x400010).write = false
    ∧ State.reset.registerArea 0 4 0x30008 = some (4, 0x30008)
    ∧ State.reset.recovery = false ∧ State.reset.mld = false ∧ State.reset.functions.getLsbD 0 = true
    ∧ (1 : Word).toNat % 4 = 1 ∧ (2 : Word).toNat % 4 = 2 ∧ (State.reset.owner 0).featState ≠ 1
    ∧ ((wVcp 1 1 id id).owner 0).featState = 1 ∧ State.reset.layout.state = 0
    ∧ ({ State.reset.layout with state := 4 } : Layout).state ≠ 0 ∧ 63 < 64 ∧ 15 < 16 ∧ 255 < 256 := by decide +kernel

def wLayout (st : BitVec 3) (f : Owner → Owner) : State :=
  { State.reset with layout := { State.reset.layout with state := st, swapAt := 0 }, owners := [(0, f (Owner.reset OwnerRec.boot))] }
/-- The boot layout passes its checks, and one whose owner 0 has no way of a cache is out of range. -/
theorem wit_LayoutEvents_commit : (wLayout 2 id).layout.state ≠ 0 ∧ (wLayout 0 id).layout.state = 0 ∧ (wLayout 0 id).layoutCheck = none
    ∧ ((upTo 16).filter fun o => ((wLayout 0 id).stagedRec o).affects ((wLayout 0 id).owner o).active) = [] ∧ (wLayout 0 id).poolSwitching = false
    ∧ (wLayout 0 fun o => { o with staged := { o.staged with dies := Vector.replicate 4 .zero } }).layoutCheck = some (4, 0) := by decide +kernel
/-- Context 1, in the Cupboard of core 0, when core 0 leaves its owner and when it does not. -/
def wLeaves (cupboard : Option Nat) : State := { mk [] (fun c => { c with owner := 5 }) fun k => { k with cupboard := cupboard } with
  layout := { State.reset.layout with state := 2, affected := [5] }
  owners := [(5, { own0 with active := { OwnerRec.boot with cores := 1 }, staged := OwnerRec.zero })] }
theorem wit_LayoutEvents_sweep : (wLayout 2 id).layout.state = 2 ∧ (wLayout 2 id).cupboardLeft = none ∧ (wLayout 2 id).quiesced = true
    ∧ (wLeaves none).quiesced = false ∧ (wLeaves none).cupboardLeft = none ∧ (wLeaves none).layout.state = 2
    ∧ (wLeaves (some 1)).layout.state = 2 ∧ (wLeaves (some 1)).cupboardLeft = some 5 ∧ (wLayout 0 id).layout.state ≠ 2 := by decide +kernel
theorem wit_LayoutEvents_swap : (wLayout 3 id).layout.state = 3 ∧ ((wLayout 3 id).coresLost.any fun c => !((wLayout 3 id).coreCleared c)) = false
    ∧ ((wLayout 3 id).layout.affected.any fun o => (wLayout 3 id).slices.any fun e => (wLayout 3 id).sweepWrites e.1 o) = false
    ∧ (wLayout 4 id).layout.state = 4 ∧ (wLayout 4 id).dtc = (wLayout 4 id).layout.swapAt ∧ (wLayout 4 id).cores = []
    ∧ (wLayout 3 id).layout.state ≠ 4 ∧ (1 : Word) ≠ (wLayout 4 id).layout.swapAt := by decide +kernel

/-- A launch of callable 0, a function in the callable cache, with a deadline of 9. -/
def wLaunch (st : LState) : Launch := { launchOf 0 0 0 .u (BitVec.ofNat 512 (1 + 2 ^ 384 * 9)) 7 with id := 1, state := st }
/-- Owners 0 and 15 share pool 0; owner 0 has a context, and owner 15 a launch that waits if it has work. -/
def wPool (current : Option Nat) (work : Bool) (dtc : Word) : State := { mk [] id id with
  dtc := dtc, pools := [(0, { Pool.reset with current := current })]
  launches := if work then [(1, { wLaunch .queued with owner := 15 })] else []
  owners := [0, 15].map fun o => (o, { own0 with active := { OwnerRec.boot with pooled := true } }) }
theorem wit_LayoutEvents_pool : ([(wPool (some 0) true 239999), (wPool (some 0) true 240000), (wPool (some 0) false 240000), (wPool none false 0)].all fun s =>
      decide ((s.pool 0).switching = none ∧ (s.layout.state.toNat = 0 ∨ 4 ≤ s.layout.state.toNat))) = true
    ∧ ((wPool (some 0) true 239999).pool 0).current = some 0
    ∧ ((wPool (some 0) true 239999).dtc - ((wPool (some 0) true 239999).pool 0).start).toNat < ((wPool (some 0) true 239999).pool 0).active.toNat
    ∧ ((wPool (some 0) true 240000).pool 0).active.toNat ≤ ((wPool (some 0) true 240000).dtc - ((wPool (some 0) true 240000).pool 0).start).toNat
    ∧ (wPool (some 0) true 240000).poolNext 0 (some 0) = some 15 ∧ (wPool (some 0) false 240000).poolNext 0 (some 0) = none
    ∧ ((wPool none false 0).pool 0).current = none ∧ (wPool none false 0).poolNext 0 none = some 0 := by decide +kernel
def wSwitch (current : Option Nat) : State := { State.reset with pools := [(0, { Pool.reset with current := current, switching := some 1 })] }
def wSlice (dtc : Word) : State := { mk [] (fun c => { c with sliceSince := some 0 }) id with dtc := dtc }
theorem wit_LayoutEvents_slice : (State.reset.pool 0).switching = none ∧ ((wSwitch none).pool 0).switching = some 1 ∧ ((wSwitch none).pool 0).current = none
    ∧ ((wSwitch none).owner 1).active.coreList = [] ∧ (wSwitch none).layout.state ≠ 1
    ∧ ((wSwitch (some 0)).pool 0).switching = some 1 ∧ ((wSwitch (some 0)).pool 0).current = some 0 ∧ (wSwitch (some 0)).poolFree 0 = true
    ∧ (((wSwitch (some 0)).owner 0).active.coreList.any fun c => !(((wSwitch (some 0)).clearPool 0).coreCleared c)) = false
    ∧ ((wSlice 99999).ctx 1).sliceSince = some 0 ∧ ((wSlice 99999).dtc - 0).toNat < 100000
    ∧ 100000 ≤ ((wSlice 100000).dtc - 0).toNat ∧ ((wSlice 100000).ctx 1).state = .live := by decide +kernel

def wPorter (st : LState) (busy : Option Nat) (commit : Bool) (dtc : Word) : State := { State.reset with
  dtc := dtc, owners := [(0, { own0 with stksize := 1 })], launches := [(1, wLaunch st)], porters := [(0, { Porter.reset with busy := busy, commit := commit, cache := [(0, 1)] })] }
def okBuild : Built → Bool
  | .ok .. => true
  | _ => false
def waitBuild : Built → Bool
  | .wait => true
  | _ => false
def combBuild : Built → Bool
  | .comb .. => true
  | _ => false
theorem wit_LaunchScheduling_choose : ([wPorter .queued none false 0, State.reset].all fun s => (s.reserving 0).isNone && !(s.instantiating 0)
      && !((s.foreignAsks 0).any fun f => f.outranks (wLaunch .queued))) = true
    ∧ ((wPorter .queued none false 0).choose 0).1 = some (wLaunch .queued) ∧ (wLaunch .queued).preempted = false ∧ (State.reset.choose 0).1 = none
    ∧ tget (wPorter .queued none false 0).launches 1 = some (wLaunch .queued) ∧ (wLaunch .queued).ages = true
    ∧ (wLaunch .queued).late 10 = true ∧ (wLaunch .queued).late 9 = false ∧ ((wPorter .queued none false 10).porter 0).busy ≠ some 1
    ∧ ((wPorter .reserve (some 1) false 10).porter 0).busy = some 1 ∧ (wLaunch .reserve).late 10 = true := by decide +kernel
/-- A launch that was pre-empted is back in its queue, and a launch of priority 7 comes while launch 1 is reserved. -/
def wBack : State := { wPorter .queued none false 0 with launches := [(1, { wLaunch .queued with preempted := true })] }
def wHigher : State := { wPorter .reserve (some 1) false 0 with launches := [(1, wLaunch .reserve), (2, { wLaunch .queued with id := 2, prio := 7 })] }
theorem wit_LaunchScheduling_restore : wBack.reserving 0 = none ∧ wBack.instantiating 0 = false ∧ (wBack.choose 0).1 = some { wLaunch .queued with preempted := true }
    ∧ (wBack.foreignAsks 0) = [] ∧ wHigher.reserving 0 = some (wLaunch .reserve, 0) ∧ (wHigher.porter 0).commit = false
    ∧ wHigher.higherCandidate 0 (wLaunch .reserve) = true := by decide +kernel
theorem wit_LaunchScheduling_commit : (wLaunch .reserve).state = .reserve ∧ (wLaunch .reserve).late 0 = false
    ∧ ((wPorter .reserve (some 1) false 0).porter 0).busy.bind (tget (wPorter .reserve (some 1) false 0).launches) = some (wLaunch .reserve)
    ∧ okBuild ((wPorter .reserve (some 1) false 0).buildRoot (wLaunch .reserve)) = true
    ∧ waitBuild (((wPorter .reserve (some 1) false 0).modOwner 0 fun o => { o with active := { o.active with cores := 0 } }).buildRoot (wLaunch .reserve)) = true
    ∧ combBuild (((wPorter .reserve (some 1) false 0).modPorter 0 fun p => { p with cache := [(0, 0)] }).buildRoot (wLaunch .reserve)) = true
    ∧ ((wPorter .reserve (some 1) false 0).porter 0).commit = false ∧ ((wPorter .commit (some 1) true 0).porter 0).commit = true
    ∧ (((wPorter .commit (some 1) true 0).porter 0).records.any fun r => r.2.launch == some 1) = false := by decide +kernel
def wVictims : Launch := { wLaunch .waiting with victims := [7] }
theorem wit_LaunchScheduling_wait : firstLaunch ((wPorter .waiting none false 0).launches.filterMap fun e =>
      if e.2.die = 0 ∧ e.2.owner = 0 ∧ e.2.state = .waiting ∧ e.2.victims = [] ∧ (wPorter .waiting none false 0).launchHeld e.2 = false ∧ e.2.late 0 = false
        then some e.2 else none) = some (wLaunch .waiting)
    ∧ (wPorter .waiting none false 0).restoreFirst (wLaunch .waiting) = false ∧ (wPorter .waiting none false 0).reserving 0 = none
    ∧ (wPorter .waiting none false 0).instantiating 0 = false ∧ (wPorter .waiting none false 0).foreignAsks 0 = []
    ∧ tget ({ State.reset with launches := [(1, wVictims)] } : State).launches 1 = some wVictims ∧ wVictims.state = .waiting ∧ wVictims.victims ≠ []
    ∧ ({ State.reset with launches := [(1, wVictims)] } : State).victimsGone wVictims = true := by decide +kernel
theorem wit_LaunchScheduling_foreign : (∀ d, 3 < d → d < 4 → d = 0) ∧ (∀ x, 1 < x → x < 2 → x = 0) ∧ 1 < 2 ∧ 2 < 4 ∧ 2 ≠ 0 ∧ 3 < 4
    ∧ (wPorter .reserve (some 1) false 0).reserving 3 = none ∧ (wPorter .reserve (some 1) false 0).instantiating 3 = false
    ∧ (wPorter .reserve (some 1) false 0).foreignAsks 3 = [] ∧ (wPorter .reserve (some 1) false 0).higherCandidate 3 (wLaunch .reserve) = false :=
  ⟨by omega, by omega, by decide +kernel⟩

/-- A composite (SEQ, domain device, two children, callable 0 each) of launch 1 on core 0; its control context has no work. -/
def wNode : Node := ⟨2, 1, none, 0, 0, 5, BitVec.ofNat 512 (3 + 2 ^ 4 * 4 + 2 ^ 8 * 4 + 2 ^ 16 * 2), 0, 0, 0, 0, [0], .running, none, 1, 0, [], 0, none⟩
def wNest (l : Nat) : State := { wPorter .dispatched none false 0 with
  nextId := 9, nodes := [(2, { wNode with cores := if l = 0 then [] else [0] })] }
theorem wit_TaskEvents_inbox : (State.reset.ctx 16).kernelIdle = true
    ∧ (({ State.reset with ctxs := [(16, { Ctx.control with pc := 4 })] } : State).ctx 16).kernelIdle = false
    ∧ (({ State.reset with ctxs := [(16, { Ctx.control with pc := 4 })] } : State).ctx 16).state = .blocked .inbox
    ∧ (tget ({ State.reset with ctxs := [(16, { Ctx.control with pc := 4 })] } : State).ctxs 16).isSome = true
    ∧ tget State.reset.nodes 2 = none := by decide +kernel
def childBuilt (s : State) : Built := s.instantiate 0 (wLaunch .dispatched) (some wNode) (laterChild wNode 1) (s.childCores wNode) []
theorem wit_TaskEvents_child : tget (wNest 1).nodes 2 = some wNode ∧ wNode.state ≠ .ended ∧ tget (wNest 1).launches wNode.launch = some (wLaunch .dispatched)
    ∧ eDom wNode.entry ≠ 5 ∧ eDom (wNode.entry ||| 0x50) = 5 ∧ (wLaunch .dispatched).preempted = false ∧ (wNest 1).porterReady 0 wNode = true
    ∧ (wNest 1).instanceBusy wNode.cores = false ∧ okBuild (childBuilt (wNest 1)) = true
    ∧ waitBuild (childBuilt { wNest 1 with ctxs := (List.range 15).map fun h => (h + 1, { Ctx.free with state := .live, task := some wTask }) }) = true
    ∧ combBuild (childBuilt ((wNest 1).modPorter 0 fun p => { p with cache := [(0, 0)] })) = true := by decide +kernel
def wSegment : State := { mk [] id id with gtq := [(128 * 0 + 0, [wTask])] }
theorem wit_TaskEvents_segment : wSegment.segment 0 (clusterOf 0) = [wTask] ∧ wSegment.contCount 0 0 < 8 ∧ (wSegment.core 0).conts.length < 32
    ∧ wSegment.coreOpen 0 0 = true ∧ State.reset.segment 0 (clusterOf 0) = [] := by decide +kernel
def wDiffuse (n : Nat) : State := mk [] id fun k => { k with conts := List.replicate n wTask }
theorem wit_TaskEvents_diffusion : ((wDiffuse 1).cores.map fun e => (e.1, e.2.conts)) = [(0, [wTask])] ∧ 0 < 1024
    ∧ ((wDiffuse 5).cores.map fun e => (e.1, e.2.conts)) = [(0, wTask :: List.replicate 4 wTask)] ∧ wTask.owner = 0 ∧ neighbours 0 ≠ []
    ∧ ((neighbours 0).head?.map fun m => ((wDiffuse 5).owner 0).active.cores.getLsbD m && decide (5 ≤ (wDiffuse 5).contCount 0 0 - (wDiffuse 5).contCount m 0))
      = some true := by decide +kernel

def wSweep (set : Nat) : State := { State.reset with slices := [(5, { Slice.reset with sweeps := [⟨0, set, 1⟩] })] }
theorem wit_ResourceEvents_sweep : ((State.reset.slice 5).sweeps.find? fun w => w.owner == 0) = none ∧ ((wSweep 0).slice 5).sweeps = [⟨0, 0, 1⟩]
    ∧ (⟨0, 0, 1⟩ : Sweep) ≠ sweepDone 0
    ∧ nextSweep (((wSweep 0).owner 0).active.dies.toList.getD (5 / 64) .zero) ⟨0, 0, 1⟩ = some ⟨0, 1, 0⟩
    ∧ nextSweep (((wSweep 2047).owner 0).active.dies.toList.getD (5 / 64) .zero) ⟨0, 2047, 1⟩ = none
    ∧ ((wSweep 2047).sweepLine 5 0 ⟨0, 2047, 1⟩).sweepWrites 5 0 = false := by decide +kernel
/-- A read of owner 5 waits since cycle 0 at channel 255's first sub-channel, where every slot of the calendar is its owner's. -/
def wChan : ChanReq := ⟨5, 0x1000, false, false, false, false⟩
def wChanSlot : State := ({ State.reset with dtc := 9 } : State).modResource 1 510 fun x => { x with
  cal := List.replicate 64 5, queue := [⟨5, 0, 1, [], [.lp6ReadRepeat 510 wChan .good], 0⟩] }
theorem wit_ResourceEvents_channel : wChanSlot.agenda = [] ∧ (wChanSlot.slice (510 / 2)).fills = [] ∧ (0 : Word) ≠ wChanSlot.dtc
    ∧ (wChanSlot.resource 1 510).cal.getD 63 0 = wChan.owner
    ∧ (wChanSlot.resource 1 510).queue = [⟨wChan.owner, 0, 1, [], [.lp6ReadRepeat 510 wChan .good], 0⟩] := by decide +kernel
/-- A tile record of cluster 0 that takes a transient accumulator: NK 192, rows in local store. -/
def wTile (k busy : Nat) (engine : Option Nat) (result : Option (BitVec 8)) : Tile := ⟨4, 1, 0, 0, 0, .s,
  BitVec.ofNat 512 (4 * 2 ^ 4 + 192 * 2 ^ 32 + 2 ^ 64 * (0x7F000000000000) + 2 ^ 128 * (0x7F000000004000) + 2 ^ 256 * (64 + 2 ^ 32 * 64)), [], [], false, none, true,
  engine, k, 0, busy, false, result, none, false, false, []⟩
def wTiles (t : Tile) : State := { mk [] id (fun k => { k with lsTag := (List.range 1024).map fun b => (b, 0x0B) }) with
  clusters := [(0, { Cluster.reset with tiles := [t] })] }
/-- A slot of a cluster's tiles whose one request stands for a record that can start, and one of its copies that nothing asks for. -/
theorem wit_ResourceEvents_slot : 0 ≠ 3 ∧ 6 ≠ 4 ∧ (State.reset.resource 4 127).queue = []
    ∧ (let s := (wTiles (wTile 0 0 none none)).modResource 3 0 fun x => { x with queue := [⟨0, 0, 1, [], [.tileSlot 0 0], 0⟩] }
      ∀ q ∈ (s.resource 3 0).queue, ∃ t ∈ (s.cluster 0).tiles, s.tileStartable 0 q.owner t = true)
    ∧ State.reset.agenda = [] ∧ State.reset.overtakes { op := .rds, ctx := 1, core := 0, owner := 0, pa := 0, va := 0, ct := .rc } = false := by decide +kernel
theorem wit_EngineEvents_start : ((State.reset.cluster 0).tiles.find? fun t => State.reset.tileStartable 0 0 t) = none
    ∧ (wTiles (wTile 0 0 none none)).tileStartable 0 0 (wTile 0 0 none none) = true
    ∧ (wTiles (wTile 0 0 none none)).tileEngine 0 (wTile 0 0 none none) = some 0 ∧ State.reset.tileOn 0 3 = none
    ∧ (wTiles (wTile 0 0 (some 3) none)).tileOn 0 3 = some (wTile 0 0 (some 3) none) := by decide +kernel
/-- The step that ends at the limit of 7,200 cycles, one that goes past it, and a record one of whose reads is under way. -/
def wFetching : State := { wTiles { wTile 192 0 (some 3) none with fetching := [(8, none)] } with
  resources := [(5, { Resource.reset with queue := [⟨0, 0, 1, [], [], 8⟩] })] }
theorem wit_EngineEvents_step : (wTile 1 7168 (some 3) none).waiting = false ∧ (wTile 1 7168 (some 3) none).result = none
    ∧ (wTile 1 7168 (some 3) none).k < tNk (wTile 1 7168 (some 3) none).body ∧ (wTile 1 7168 (some 3) none).busy + 32 ≤ 7200
    ∧ 7200 < (wTile 1 7169 (some 3) none).busy + 32 ∧ (wTiles (wTile 1 7168 (some 3) none)).tileFetching (wTile 1 7168 (some 3) none) = false
    ∧ (wFetching.tileOn 0 3).map (fun t => wFetching.tileFetching t && !t.waiting) = some true
    ∧ tNk (wTile 192 7200 (some 3) none).body ≤ (wTile 192 7200 (some 3) none).k ∧ (blockWord (wTile 192 7200 (some 3) none).body 0).getLsbD 1 = false := by
  decide +kernel
theorem wit_EngineEvents_complete : let t := wTile 192 0 (some 3) (some 0)
    t.dk = none ∧ t.result = some 0 ∧ t.waiting = false ∧ (wTiles t).tileFetching t = false ∧ ((wTiles t).engineMerges t.agent t.scope t.dest.1 t.dest.2).isNone = true
    ∧ (blockWord t.body 7).toNat % 4 = 0 ∧ (blockWord t.body 0).getLsbD 2 = false := by decide +kernel
def okRead : EngOut (List (Block × Tag)) × State → Bool → Bool
  | (.ok l, _), bad => badPair false (l.take 64) (l.drop 64) == bad
  | _, _ => false
def wRows (s : State) (t : Tile) : EngOut (List (Block × Tag)) × State :=
  let rows (base : Word) (stride : Nat) : List Word := (List.range 64).map fun r => base + BitVec.ofNat 64 (r * stride + 64 * t.k)
  s.engineReads t.agent (rows (blockWord t.body 1) (tAstride t.body) ++ rows (blockWord t.body 2) (tBstride t.body))
theorem wit_EngineEvents_rows : okRead (wRows (wTiles (wTile 1 7168 (some 3) none)) (wTile 1 7168 (some 3) none)) false = true
    ∧ okRead (wRows ({ wTiles (wTile 1 7168 (some 3) none) with cores := [] } : State) (wTile 1 7168 (some 3) none)) true = true := by decide +kernel
/-- A state whose owner 0 maps every address to itself by stage 2. -/
def mapped (s : State) : State := ({ s with mem := mset s.mem 0x8000 0x1D } : State).modOwner 0 fun o =>
  { o with savearea := 0x10000, active := { o.active with s2base := 0x8000, lssave := 0x100000 } }
/-- Accumulator slot 9 belongs to a task of cluster 0. -/
def wAcc : State := mapped (mk [] (fun c => { c with task := some { wTask with acc := [9] } }) id)
theorem wit_EngineEvents_slot : ((List.range 8).findSome? fun m => ((State.reset.tasksOn (8 * 0 + m)).find? fun t => t.2.acc.contains 9).map (·.2)) = none
    ∧ ((List.range 8).findSome? fun m => ((wAcc.tasksOn (8 * 0 + m)).find? fun t => t.2.acc.contains 9).map (·.2)) = some { wTask with acc := [9] }
    ∧ (wAcc.cluster 0).tiles = [] ∧ (wAcc.saveSlot 0 9 0).isSome = true := by decide +kernel
def wCopyReq (b : Nat) : CopyReq := ⟨6, some 1, 0, 0, 0, .s, la 0x40, la 0x1000, b, 0, false, false, 0, 0, 0, 1, b, none, false, none, 0, false, some 0, none, false,
  false, none⟩
def wCopies : State := { mk [] (fun c => { c with state := .blocked (.waitt 7) }) id with copies := [wCopyReq 2], dtc := 7 }
theorem wit_EngineEvents_copy : (State.reset.copies.find? fun c => c.id == 6 && !c.done) = none
    ∧ (wCopies.copies.find? fun c => c.id == 6 && !c.done) = some (wCopyReq 2) ∧ (wCopyReq 2).waiting = false ∧ (wCopyReq 2).unacked = 0
    ∧ (wCopyReq 2).dk = none ∧ (wCopyReq 2).dkind = 0 ∧ (wCopyReq 2).rq = false ∧ (wCopyReq 2).cmd = none ∧ wCopies.engineBusy 6 = false
    ∧ ({ wCopyReq 2 with unacked := 1 } : CopyReq).unacked ≠ 0 ∧ ({ wCopyReq 2 with result := some 3 } : CopyReq).result ≠ some 0
    ∧ (wCopyReq 2).result = some 0 ∧ (wCopies.engineMerges (wCopyReq 2).agent (wCopyReq 2).scope (wCopyReq 2).dst 128).isNone = true
    ∧ (wCopies.ctx 1).state = .blocked (.waitt 7) ∧ (tget wCopies.ctxs 1).isSome = true ∧ (7 : Word).toNat ≤ wCopies.dtc.toNat := by decide +kernel

/-- A state in which the line of a block stands in its slice, filled or not. -/
def lined (filling : Bool) (pa : Nat) (s : State) : State :=
  let p := s.placer pa
  s.modSlice (channelOf pa) fun sl => { sl with
    lines := [⟨llcSet (s.dieRec p (channelOf pa / 64)) (s.owner p).seed pa, 0, pa / 64, p, false, false, filling⟩] }
/-- The word at 0x1000 on an SC frame of owner 0, with the value and the full bit given. -/
def wHome (v : Nat) (full : Bool) : State := lined false 0x1000 { mk [] id id with
  mem := writeN [(0, 0x40)] 0x1000 8 v, tags := if full then [(64, setFullWord 0 0x1000 true)] else [] }
def wReq (op : HomeOp) (c : Word) : Req := { op := op, ctx := 1, core := 0, owner := 0, pa := 0x1000, va := 0x1000, ct := .sc, pid := 3, c := c, x := 7 }
theorem wit_HomeWordEvents_check : ∀ op w, (wHome 5 true).fillCheck { wReq .take 0 with op := op } w = none := by
  intro op w
  have h : ∀ w, (wHome 5 true).fotNow 0x1000 0 w PageType.sc.ct = .ok := by decide +kernel
  simp only [State.fillCheck, wReq, h w]
theorem wit_HomeWordEvents : (wHome 5 true).busy (0x1000 / 64) = false ∧ lineHere (wHome 5 true) 0x1000 = true ∧ lineHere (wHome 5 false) 0x1000 = true
    ∧ isFullWord (((wHome 5 true).homeTouch 0 0x1000 true false).recall 0x1000 |>.tagAt 64) 0x1000 = true
    ∧ isFullWord (((wHome 5 false).homeTouch 0 0x1000 true false).recall 0x1000 |>.tagAt 64) 0x1000 = false
    ∧ isFullWord ((wHome 5 true).coherent 0x1000).2 0x1000 = true ∧ isFullWord ((wHome 5 false).coherent 0x1000).2 0x1000 = false
    ∧ (wReq .take 0).op = .take ∧ (wReq .put 0).op = .put ∧ (wReq .amo 0).op = .amo ∧ (wReq .jcinit 0).op = .jcinit ∧ (wReq .bararr 0).pid ≠ 0
    ∧ (wReq .barinit 0).op = .barinit ∧ ({ wReq .jcinit 0 with pid := 0 } : Req).pid = 0 ∧ (wReq .putx 0).op = .putx ∧ (wReq .bararr 0).x ≠ 1
    ∧ ({ wReq .bararr 0 with x := 1 } : Req).x = 1 := by
  decide +kernel
/-- A counter at zero and one that is not; a barrier that is broken and one in phase 3. -/
theorem wit_HomeWordEvents_words : let seen (v : Nat) : Word := BitVec.ofNat 64 (blockBytes (((wHome v true).homeTouch 0 0x1000 false false).coherent 0x1000).1 0 8)
    seen 0 = 0 ∧ seen 1 ≠ 0 ∧ (seen (2 ^ 63)).getLsbD 63 = true ∧ (seen (3 * 2 ^ 48)).getLsbD 63 = false
    ∧ (seen (3 * 2 ^ 48)).toNat / 2 ^ 48 % 2 ^ 15 = (3 : Word).toNat % 2 ^ 15 ∧ (seen (3 * 2 ^ 48)).toNat / 2 ^ 48 % 2 ^ 15 ≠ (2 : Word).toNat % 2 ^ 15
    ∧ (BitVec.ofNat 64 (blockBytes ((wHome (2 ^ 63) true).coherent 0x1000).1 0 8) : Word).getLsbD 63 = true
    ∧ (BitVec.ofNat 64 (blockBytes ((wHome 1 true).coherent 0x1000).1 0 8) : Word).getLsbD 63 = false := by decide +kernel

/-- The block at 0x1000 on a WS frame of owner 0, written or not, with one masked word on its way. -/
def wOnce (written : Bool) : State := lined false 0x1000 { mk [] id id with mem := [(0, 0x60)], tags := if written then [(64, 0x80)] else [] }
def wMerge (ct : PageType) : Req := { op := .merge, ctx := 1, core := 0, owner := 0, pa := 0x1000, va := 0x1000, ct := ct, mask := 0xFF, data := 9, pid := 3 }
theorem wit_HomeDataEvents_home : (wHome 5 false).busy 64 = false ∧ ([true, false].all fun w => ((wHome 5 false).fillCheck (wMerge .sc) w).isNone) = true
    ∧ (wMerge .sc).ct ≠ .ws ∧ ([true, false].all fun b => lineHere (wOnce b) 0x1000 && !(wOnce b).busy 64
      && [true, false].all fun w => ((wOnce b).fillCheck (wMerge .ws) w).isNone) = true
    ∧ (wMerge .ws).ct = .ws ∧ ((wOnce true).coherent 0x1000).2.getLsbD 7 = true ∧ ((wOnce false).coherent 0x1000).2.getLsbD 7 = false
    ∧ ((wOnce true).tagAt 64).getLsbD 7 = true ∧ ((wOnce false).tagAt 64).getLsbD 7 = false ∧ (wMerge .ws).ctx < remoteBase
    ∧ (wMerge .ws).tag.getLsbD 7 = false ∧ (wMerge .ws).tag &&& 0xFF000000 = 0 ∧ (wMerge .ws).op ≠ .winFill ∧ (wMerge .ws).op ≠ .wsLoad ∧ (wMerge .ws).pid ≠ 0 := by
  decide +kernel
def wFilling : State := lined true 0x1000 (mk [] id id)
theorem wit_HomeDataEvents_filling : (wFilling.llcFind 0x1000).map (·.filling) = some true ∧ regionOf 0x1000 = .lp6 ∧ (wMerge .rc).op ≠ .walk
    ∧ (let s : State := { wFilling with mem := [(0, 0x20)] }; [true, false].all fun w => (s.fillCheck (wMerge .rc) w).isNone) = true := by decide +kernel
def wArrives : State := mk [] (fun c => { c with state := .blocked (.reg 55), gFull := 0, producers := [⟨3, .g 55, none, false, false, false⟩] }) id
theorem wit_HomeDataEvents_context : 1 < remoteBase ∧ coreOf 1 = 0 ∧ (∀ h, h < 16 → (wArrives.ctx (16 * 0 + h)).releases = [])
    ∧ 55 < 56 ∧ 55 ≠ 0 ∧ (wArrives.ctx 1).producers = [⟨3, .g 55, none, false, false, false⟩]
    ∧ (wArrives.ctx 1).state = .blocked (.reg 55) ∧ (tget wArrives.ctxs 1).isSome = true := by decide +kernel
def wFills : State := mk [] id fun k => { k with windows := [(2, ⟨1, 0x40, 1, 0, 0, .s, []⟩)] }
theorem wit_HomeDataEvents_window : tget (wArrives.core 0).windows 2 = none ∧ tget (wFills.core 0).windows 2 = some ⟨1, 0x40, 1, 0, 0, .s, []⟩ := by decide +kernel
/-- Context 1 waits at a FENCE for the markers given; a request of its is on its way to the slice of channel 0. -/
def wFence (n : Nat) : State := mk [] (fun c => { c with releases := [⟨7, [], n, true, false, false, none, none⟩] }) id
def wOnItsWay : State := { mk [] id id with agenda := [.sliceRequestArrive 0 0 [{ wReq .merge 0 with pa := 0 }]] }
theorem wit_HomeDataEvents_fence : 0 < 1024 ∧ wOnItsWay.outstanding 1 (some (slicePath (channelOf 0) false)) = true ∧ slicePath (channelOf 0) false < 1024
    ∧ wArrives.outstanding 1 (some 511) = false ∧ 511 < 512 ∧ wArrives.outstanding 1 (some 1023) = false ∧ 512 ≤ 1023 ∧ 1023 < 1024
    ∧ (wArrives.ctx 1).releases = [] ∧ (wFence 2).here.releases.map (·.id) = [7] ∧ 1 < 2
    ∧ (wFence 1).here.releases = [⟨7, [], 1, true, false, false, none, none⟩] ∧ (wFence 1).here.unacked = 0 ∧ (wFence 1).storesWaiting 1 = false
    ∧ (wFence 1).windowMerging 0 false = false := by decide +kernel
def wBenched : State := { wArrives with slices := [(0, { Slice.reset with bench := [⟨0x1000, wReq .take 0⟩] })] }
theorem wit_HomeDataEvents_withdraw : wArrives.benchWait 3 = none ∧ wArrives.outstanding 1 none = false ∧ (wBenched.benchWait 3).isSome = true := by decide +kernel

/-- The directory entry of the block at 0x1000, on an RC frame of owner 0. -/
def wDir (d : Dir) : State := lined false 0x1000 { mk [] id id with mem := [(0, 0x20)], dir := [(64, d)] }
def wAsk (op : HomeOp) : Req := { op := op, ctx := 1, core := 0, owner := 0, pa := 0x1000, va := 0x1000, ct := .rc, pid := 0 }
def dirAt (s : State) (rdx : Bool) : Dir := (s.homeTouch 0 0x1000 rdx false).dirOf 64
theorem wit_HomeCoherence : 0x1000 / 64 = 64 ∧ regionOf 0x1000 = .lp6 ∧ (wAsk .rds).ct ≠ .pv ∧ (wAsk .rds).op = .rds ∧ (wAsk .wb).pid = 0
    ∧ (wAsk .rds).ct ≠ .ws ∧ ({ wAsk .rds with ct := .pv } : Req).ct = .pv ∧ lineHere (wDir .unc) 0x1000 = true
    ∧ (wDir .unc).fillCheck (wAsk .rds) false = none ∧ (wDir .unc).fillCheck (wAsk .rds) true = none ∧ (dirAt (wDir ⟨.exc, 0, [], none, 0, false, []⟩) false).owner = 0 ∧ (dirAt (wDir .unc) false).st = .unc
    ∧ (dirAt (wDir .unc) true).st = .unc ∧ (dirAt (wDir ⟨.shd, 0, [0, 9], none, 0, false, []⟩) false).st = .shd
    ∧ (dirAt (wDir ⟨.shd, 0, [0, 9], none, 0, false, []⟩) true).st = .shd
    ∧ ((dirAt (wDir ⟨.shd, 0, [0, 9], none, 0, false, []⟩) true).sharers.filter fun c => c != 0) ≠ []
    ∧ (dirAt (wDir ⟨.exc, 9, [], none, 0, false, []⟩) false).st = .exc ∧ (dirAt (wDir ⟨.exc, 9, [], none, 0, false, []⟩) false).owner ≠ 0
    ∧ (dirAt (wDir ⟨.exc, 9, [], none, 0, false, []⟩) true).st = .exc ∧ (dirAt (wDir ⟨.own, 9, [], none, 0, false, []⟩) false).st = .own
    ∧ (dirAt (wDir ⟨.own, 9, [], none, 0, false, []⟩) true).st = .own := by decide +kernel
theorem wit_HomeCoherence_now : ((wDir ⟨.shd, 0, [0, 9], none, 0, false, []⟩).dirOf 64).st = .shd ∧ (0 : Nat) ∈ ((wDir ⟨.shd, 0, [0, 9], none, 0, false, []⟩).dirOf 64).sharers
    ∧ ((wDir ⟨.exc, 9, [], none, 0, false, []⟩).dirOf 64).owner ≠ 0 ∧ ((wDir ⟨.exc, 0, [], none, 0, false, []⟩).dirOf 64).owner = 0
    ∧ ((wDir ⟨.exc, 0, [], none, 0, false, []⟩).dirOf 64).st = .exc ∧ (wAsk .wb).keep = false
    ∧ ((wDir ⟨.rdxInv, 0, [8, 9], some (wAsk .rdx), 2, false, []⟩).dirOf 64).st = .rdxInv
    ∧ 1 < ((wDir ⟨.rdxInv, 0, [8, 9], some (wAsk .rdx), 2, false, []⟩).dirOf 64).acks
    ∧ ((wDir ⟨.fwd, 9, [], some (wAsk .rds), 0, false, []⟩).dirOf 64).st = .fwd ∧ ((wDir ⟨.fwd, 9, [], some (wAsk .rds), 0, false, []⟩).dirOf 64).cur = some (wAsk .rds)
    ∧ (wAsk .rdx).op ≠ .rds ∧ (wAsk .wb).op ≠ .write ∧ ({ wAsk .wb with keep := true } : Req).keep = true
    ∧ ((wDir ⟨.own, 0, [9], none, 0, false, []⟩).dirOf 64).st = .own ∧ ((wDir ⟨.own, 0, [9], none, 0, false, []⟩).dirOf 64).owner = 0
    ∧ (wDir .unc).dirOf 64 = .unc ∧ ((wDir ⟨.rdxInv, 9, [8], some (wAsk .rdx), 2, false, []⟩).dirOf 64).owner = 9
    ∧ ((wDir ⟨.rdxInv, 9, [8], some (wAsk .rdx), 2, false, []⟩).dirOf 64).stale = false
    ∧ ((wDir ⟨.upgGrant, 9, [8], some (wAsk .upg), 2, false, []⟩).dirOf 64).st = .upgGrant ∧ ((wDir ⟨.wbRace, 9, [], none, 0, false, []⟩).dirOf 64).st = .wbRace
    ∧ (wDir ⟨.fwd, 9, [], none, 0, false, []⟩).fillCheck (wAsk .rds) true = none := by decide +kernel

def wLine (st : L1State) (keep : Bool) : L1Line := ⟨st, false, 0x1122, 5, 0, [], [], none, keep, true, .rc⟩
def wCache (st : L1State) (keep : Bool) : State := mk [] id fun k => { k with l1 := [(64, wLine st keep)] }
/-- Core 0 has asked for the block again while it is the one whose copy the home asks for. -/
def wAsksToo (st : L1State) : State := { wCache st false with agenda := [.l1Data 0 64 .s 0 0] }
theorem wit_L1Coherence : State.reset.l1 0 64 = none
    ∧ ([L1State.isD, .imD, .smG, .m, .o, .e, .s, .miA].all fun st => (wCache st false).l1 0 64 == some (wLine st false)) = true
    ∧ (wCache .isD false).answering 0 64 = false ∧ (wAsksToo .isD).answering 0 64 = true ∧ regionOf (64 * 64) = .lp6
    ∧ ((mk [] id fun k => { k with l1 := [(64, { wLine .smG false with dirty := true })] }).l1 0 64).map (·.dirty) = some true
    ∧ ((wCache .m false).dirOf 64).st ≠ .rdxInv ∧ (({ wCache .m false with dir := [(64, ⟨.rdxInv, 0, [], none, 2, false, []⟩)] } : State).dirOf 64).st = .rdxInv
    ∧ (wLine .miA false).keep = false ∧ (wLine .miA false).wait = []
    ∧ (wCache .miA true).l1 0 64 = some (wLine .miA true) ∧ (wLine .miA true).keep = true ∧ (wLine .miA true).snoop = none := by decide +kernel

/-- A peer's request for the address 0x1000, which U of owner 0 may reach on a page of the type given. -/
def wPeer (op : HomeOp) (tag landed : Bool) (va : Nat) : PeerMsg :=
  ⟨3, 1, 0, { op := op, ctx := 5, core := 0, owner := 0, pa := va, va := BitVec.ofNat 64 va, ct := .rc, mask := 0xFF }, tag, landed⟩
def wShared (ct : BitVec 2) : State := { mk [] id (fun k => { k with tlb := [pg ct false] }) with mem := [(0, 32 * ct.setWidth 8)] }
def reaches (s : State) (m : PeerMsg) (a : Acc) (ct : BitVec 2) : Bool :=
  match (s.peerTake m).2.peerTranslate m a with
  | (.ok pa e, _) => pa == 0x1000 && e.ct == ct && regionOf pa == .lp6
  | _ => false
def refuses (s : State) (m : PeerMsg) (a : Acc) : Bool :=
  match (s.peerTake m).2.peerTranslate m a with
  | (.cause .., _) => true
  | _ => false
theorem wit_PeerEvents : (wPeer .rds false false 0x1000).landed = false ∧ (wPeer .rds false false 0x1000).port < 16 ∧ (wPeer .rds false true 0x1000).landed = true
    ∧ (wPeer .merge true true 0x1000).withTag = true ∧ (wPeer .merge false true 0x1000).withTag = false ∧ (wPeer .merge false true 0x1000).req.op ≠ .tagWrite
    ∧ (wPeer .tagWrite false true 0x1000).req.op = .tagWrite
    ∧ (([(1, .rds, .read), (3, .rds, .read), (1, .merge, .write), (3, .merge, .write), (1, .tagWrite, .write), (1, .amo, .atomic), (1, .red, .atomic),
        (2, .jcdec, .atomic), (1, .jcdec, .atomic)] : List (BitVec 2 × HomeOp × Acc)).all fun e => reaches (wShared e.1) (wPeer e.2.1 false true 0x1000) e.2.2 e.1) = true
    ∧ refuses (wShared 1) (wPeer .rds false true (2 ^ 47 - 65536)) .read = true := by decide +kernel
/-- What context 5 has asked of the peer and the answer that has crossed the port. -/
def wAsked (op : HomeOp) : State := { State.reset with peerOut := [⟨5, wPeer op false false 0x1000⟩] }
theorem wit_PeerEvents_answers : ([HomeOp.rds, .rdx].all fun op => (wPeer op false true 0x1000).req.op == op && decide ((wPeer op false true 0x1000).req.ctx < engineBase)
      && (wAsked op).peerOut.any fun e => e.msg == { wPeer op false true 0x1000 with landed := false }) = true ∧ (∀ c x i, Arrival.word 0 ≠ .failed c x i)
    ∧ (State.reset.peerIn.any fun e => e.2.dev == 3 && e.2.port == 1) = false
    ∧ (({ State.reset with peerIn := [(9, wPeer .rds false true 0)] } : State).peerIn.any fun e => e.2.dev == 3 && e.2.port == 1) = true
    ∧ (State.reset.peerOut.find? fun e => e.ctx == 5 && e.msg.port == 1 && e.msg.req.op == .wb) = none
    ∧ ((wAsked .wb).peerOut.find? fun e => e.ctx == 5 && e.msg.port == 1 && e.msg.req.op == .wb) = some ⟨5, wPeer .wb false false 0x1000⟩ ∧ 1 < 16 :=
  ⟨by decide +kernel, (fun _ _ _ h => nomatch h), by decide +kernel⟩
def wReports (n : Nat) : State := mk [] (fun c => { c with reports := List.replicate n ⟨1, 2⟩ }) id
theorem wit_PeerEvents_reports : ((wReports 7).ctx 1).state ≠ .ended ∧ ((wReports 7).ctx 1).state ≠ .free ∧ ((wReports 7).peerOut.any fun e => e.ctx == 1) = false
    ∧ ((wReports 7).ctx 1).reports.length < 8 ∧ 8 ≤ ((wReports 8).ctx 1).reports.length := by decide +kernel

/-- A walk for the address 0x1000 at its root, and one at its last read. -/
def wWalk (last : Bool) : Walk :=
  let w := (mapped (mk [] id id)).walkStart 7 0 (.access 1) 0 0 .s 0x1000 .read 8
  if last then { w with s1 := 4, ipa := 0x1000, leaf := 0x301, leafSize := 3 } else w
def wWalks (last : Bool) : State := lined false (wWalk last).addr { mapped (mk [] id id) with clusters := [(0, { Cluster.reset with walks := [wWalk last] })] }
def goes : WalkOut × State → Bool
  | (.go _, _) => true
  | _ => false
def ends : WalkOut × State → Bool
  | (.fin (.ok _), _) => true
  | _ => false
theorem wit_TranslationEvents_walk : ((State.reset.cluster 0).walks.find? fun w => w.id == 7) = none
    ∧ ([false, true].all fun l => let s := wWalks l; let t := s.respond (walkReq (wWalk l)) []
      ((s.cluster 0).walks.find? fun w => w.id == 7) == some (wWalk l) && ((t.cluster 0).walks.find? fun w => w.id == 7) == some (wWalk l)
        && regionOf (wWalk l).addr == .lp6 && (s.tableRefused 0 (wWalk l).addr false).isNone && lineHere s (wWalk l).addr && !s.busy ((wWalk l).addr / 64)
        && (if l then ends else goes) (t.walkStep (wWalk l))) = true
    ∧ (({ wWalks true with dir := [((wWalk true).addr / 64, ⟨.fwd, 9, [], none, 0, false, []⟩)] } : State).busy ((wWalk true).addr / 64)) = true := by decide +kernel
/-- The fault ring of owner 0 lies at 0x20000; its last place is in use, and a reply to it is RETRY, if there is one. -/
def wFaults (reply : Bool) : State := { mk [] id id with tags := if reply then [((0x20000 + 64 * 255) / 64, setFullWord 0 (0x20000 + 64 * 255 + 56) true)] else [] }
  |>.modOwner 0 fun o => { o with fqFrame := some 0x20000, ring := [⟨255, 1, 0, 0, [(1, 0x1000)], []⟩] }
def wInval : Inval := ⟨false, 0, 0, 1, true, false⟩
theorem wit_TranslationEvents_reply : 0 ≠ 16 ∧ ((wFaults true).owner 0).fqFrame = some 0x20000
    ∧ ((wFaults true).owner 0).ring.find? (fun e => e.k % 256 == 255) = some ⟨255, 1, 0, 0, [(1, 0x1000)], []⟩
    ∧ isFullWord ((wFaults false).coherent (0x20000 + 64 * 255 + 56)).2 (0x20000 + 64 * 255 + 56) = false
    ∧ isFullWord ((wFaults true).coherent (0x20000 + 64 * 255 + 56)).2 (0x20000 + 64 * 255 + 56) = true
    ∧ blockBytes ((wFaults true).coherent (0x20000 + 64 * 255 + 56)).1 56 8 % 4 = 0 ∧ (State.reset.owner 0).fqFrame = none
    ∧ 2 ^ 20 - 1 < 2 ^ 20 ∧ wInval.all = true ∧ wInval.stage2 = false := by decide +kernel
def wKey : PageKey := ⟨0, 0, 1⟩
def wMigrations (u : Option Word) (dtc : Word) : State := { State.reset with dtc := dtc, migrations := [⟨wKey, false, u, none, 0⟩] }
theorem wit_TranslationEvents_migration : (∀ m ∈ State.reset.migrations, m.key ≠ wKey) ∧ (wMigrations none 0).migrations = [⟨wKey, false, none, none, 0⟩]
    ∧ (wMigrations (some 48000) 48000).migrations = [⟨wKey, false, some 48000, none, 0⟩] ∧ (48000 : Word) ≤ (wMigrations (some 48000) 48000).dtc
    ∧ (wMigrations (some 48000) 47999).dtc < (48000 : Word) ∧ State.reset.pinned wKey = false ∧ ({ wShared 1 with mem := [(0, 0xA0)] } : State).pinned ⟨0, 0, 0⟩ = true ∧ (State.reset.core 0).windowAt (64 * 3) = none := by decide +kernel

def wHead : Port := ⟨3, 2, 1, 61, 9, [], 1, false, false, false, false⟩
def wPorts : State := { mk [] (fun c => { c with gang := some ⟨3, 9, false, true⟩ }) id with ports := [(3, wHead)] }
theorem wit_ContextEvents_streams : wPorts.ports = [(3, wHead)] ∧ wHead.receiver = 1 ∧ wHead.reg = 56 + (5 : BitVec 3).toNat ∧ wHead.opened = false
    ∧ wHead.discard = false ∧ tget wPorts.ports 3 = some wHead ∧ (wPorts.ctx wHead.receiver).state ≠ .ended
    ∧ (wPorts.ctx 1).gang = some ⟨3, 9, false, true⟩ := by decide +kernel
def okRecord : Except Nat State → Bool
  | .ok _ => true
  | .error _ => false
/-- What maps the record of context 1, and the ownership of its frame, stand in the L1 of core 9. -/
def wSaving : State := { mapped (mk [(1, 5)] (fun c => { c with state := .saving, saveMask := some (0, 0) }) fun k => { k with cupboard := some 1 }) with
  resources := [8, 65536 + 0, 65536 + 16, 65536 + 17, 65536 + 34, 65536 + 35].map fun k => (k, { Resource.reset with upto := 1 }),
  dir := [(0, ⟨.exc, 9, [], none, 0, false, []⟩), (512, ⟨.exc, 9, [], none, 0, false, []⟩)],
  cores := [(0, { Core.reset with cupboard := some 1 }), (9, { Core.reset with l1 := [(0, ⟨.m, true, 0, 0, 0, [], [], none, false, false, .rc⟩),
    (512, ⟨.m, true, 0x1D, 0, 0, [], [], none, false, false, .rc⟩)] })] }
theorem wit_ContextEvents_save : 1 % 16 ≠ 0 ∧ (wPlain.ctx 1).gang = none ∧ (wPlain.ctx 1).state = .live ∧ 16 % 16 = 0 ∧ (wPlain.ctx 1).state ≠ .saving
    ∧ (wSaving.ctx 1).state = .saving ∧ (wSaving.ctx 1).producers = [] ∧ wSaving.quiet 1 = true ∧ wSaving.copies = []
    ∧ ((wSaving.ctx 1).task.map (·.acc)).getD [] = [] ∧ okRecord (wSaving.writeRecord 1 0 0) = true
    ∧ (wSaving.core (coreOf 1)).cupboard.isSome = true ∧ (wSaving.ctx 1).reissue = []
    ∧ (∀ h, h < 16 → (wPlain.ctx (16 * 0 + h)).retryAt = none) ∧ tget wPlain.saved 40 = none := by decide +kernel
/-- A saved context of core 0 under key 40. -/
def wSaved : State := { mk [] id id with
  saved := [(40, ⟨1, 0, 0, 0, false, none, []⟩)], ctxs := [(40, { Ctx.free with state := .saved, level := .s })] }
theorem wit_ContextEvents_restore : tget wSaved.saved 40 = some ⟨1, 0, 0, 0, false, none, []⟩ ∧ wSaved.gangSaved 40 = [] ∧ 1 % 16 ≠ 0 ∧ wSaved.restorable 40 1 = true ∧ coreOf 1 = 0 ∧ (∀ e ∈ wSaved.saved, e.1 = 40 ∨ (wSaved.ctx e.1).raised = none) := by decide +kernel
/-- Two members of a gang are saved. -/
def wSavedGang : State := { mk [] id id with
  saved := [(40, ⟨2, 0, 0, 0, false, none, []⟩), (41, ⟨18, 1, 0, 0, false, none, []⟩)],
  ctxs := [40, 41].map fun k => (k, { Ctx.free with state := .saved, level := .s, gang := some ⟨3, 9, k == 40, true⟩ }) }
theorem wit_ContextEvents_gang : (tget wSavedGang.saved 40).isSome = true ∧ wSavedGang.gangSaved 40 ≠ [] ∧ wSavedGang.gangRestorable 40 (wSavedGang.gangSaved 40) = true := by
  decide +kernel
def wHeld : State := mk [] (fun c => { c with async := ⟨some 0x40, true, none⟩ }) id
def wWaiting (dtc : Word) : State := { mk [] (fun c => { c with state := .blocked (.queue 57) }) id with dtc := dtc }
theorem wit_ContextEvents_traps : (wHeld.ctx 1).level ≠ .f ∧ (wHeld.ctx 1).ecause.getLsbD 10 = false ∧ (wHeld.ctx 1).state = .live
    ∧ (wHeld.ctx 1).async.memerr = some 0x40 ∧ ((wWaiting 2400000).ctx 1).state = .blocked (.queue 57)
    ∧ ((wWaiting 2400000).ctx 1).expired (wWaiting 2400000).dtc = true ∧ ((wWaiting 2399999).ctx 1).expired (wWaiting 2399999).dtc = false := by decide +kernel
theorem wit_ContextEvents_abort : (wNest 1).orphan 1 = true ∧ (wPlain.ctx 1).state = .live ∧ wPlain.orphan 1 = true ∧ tget wPlain.saved 1 = none
    ∧ ((wPlain.ctx 1).task.bind (·.launch)) = none
    ∧ ({ wNest 1 with ctxs := [(1, { Ctx.free with state := .live, task := some { wTask with node := some 2 } })] } : State).orphan 1 = false := by decide +kernel

theorem wit_EncodeDecode : wf (.add 63 ⟨63, true⟩ ⟨63, true⟩) = true ∧ (encode (.add 63 ⟨63, true⟩ ⟨63, true⟩)).isSome = true := by decide +kernel

/-- Context 1 stands at a NOP of the code line at 0x100, in the slot of this cycle. -/
def wIssue (h : Option Instr) (g : Option Gang) : State := { mk [] (fun c => { c with pc := 0x102, held := h, gang := g })
  (fun k => { k with icache := [(4, codeLine)], tlb := [pg 0 false] }) with slots := [0] }
theorem wit_StepRunsDecoded : ({ State.reset with stopped := true } : State).agenda.find? isReset = none
    ∧ ({ State.reset with stopped := true, agenda := [.thermalEvent, .deviceReset (wBoot true false [])] } : State).agenda.find? isReset = some (.deviceReset (wBoot true false []))
    ∧ ({ State.reset with recovery := true } : State).agenda.find? (fun i => isReset i || isMailbox i) = none
    ∧ ({ State.reset with recovery := true, agenda := [.thermalEvent, .registerWrite 0 4 0 1] } : State).agenda.find? (fun i => isReset i || isMailbox i)
      = some (.registerWrite 0 4 0 1)
    ∧ State.reset.stopped = false ∧ State.reset.recovery = false ∧ State.reset.slots = [] ∧ (wIssue none none).choice = [] ∧ (wIssue none none).agenda = []
    ∧ (wIssue none none).slots = [0] ∧ (wIssue none none).rotation 0 = [0] ++ 1 :: [2, 3, 4, 5, 6, 7, 8, 9, 10, 11, 12, 13, 14, 15]
    ∧ ((wIssue none none).offer 0).isNone = true ∧ (wIssue none none).ready 1 = true ∧ 1 ∉ (wIssue none none).tried
    ∧ ((wIssue none none).ctx 1).state = .live := by decide +kernel
/-- A NOP is not held back; an ADD of an empty register is. -/
def wOffered (i : Option Instr) : State := { (wIssue i none).modCtx 1 fun c => { c with state := .live, gFull := 1 } with cur := 1 }
theorem wit_StepRunsDecoded_issue : let s1 := wOffered none
    (s1.ctx 1).asyncReady = false ∧ (s1.ctx 1).saveReq = false ∧ (s1.ctx 1).held = none ∧ (s1.ctx 1).buffer = []
    ∧ s1.codeAt (s1.ctx 1).pc 0x102 (pg 0 false) = true ∧ tget (s1.core (coreOf 1)).icache (0x102 / 64) = some codeLine
    ∧ decode (lineHead codeLine.data ((s1.ctx 1).pc.toNat % 64 / 2)) (lineTail codeLine.data ((s1.ctx 1).pc.toNat % 64 / 2)) = some .nop
    ∧ ((wOffered (some .nop)).ctx 1).held = some .nop := by decide +kernel
def blockedBy (o : Host.Outcome State Fault Refusal) (n : Nat) : Option CtxState :=
  match o with
  | .next u => some (u.ctx n).state
  | _ => none
theorem wit_StepRunsDecoded_heldBack : (blockedBy (execNop (wOffered (some .nop))) 1).map (·.heldBack) = some false
    ∧ (blockedBy (execAdd 1 ⟨5, false⟩ ⟨5, false⟩ (wOffered none)) 1).map (·.heldBack) = some true := by decide +kernel

/-- A reserved opcode, a wrong length code, an OP 0 with field A, and a vector destination with bit 5 set. -/
theorem wit_ReservedEncodings_words : (headOp 0x0440).toNat = 0x11 ∧ headTlc 0xC000 = 6 ∧ headTlc 0xE000 = 7 ∧ opTlc (headOp 0x0040) ≠ some (headTlc 0x0040)
    ∧ (headOp 0x0001).toNat = 0 ∧ headA 0x0001 ≠ 0 ∧ (headOp 0xB420).toNat = 0x50 ∧ (headA 0xB420).getLsbD 5 = true := by decide +kernel
def wFetch (pc : Word) (d : Nat) : State := mk [] (fun c => { c with pc := pc }) fun k => { k with icache := [(4, ⟨BitVec.ofNat 512 d⟩)], tlb := [pg 0 false] }
theorem wit_ReservedEncodings_fetch : (wFetch 0x102 0).here.held = none ∧ (wFetch 0x102 0).here.buffer = [] ∧ formOf (wFetch 0x102 0).here.pc = .page
    ∧ (wFetch 0x102 0).pageOk (wFetch 0x102 0).here.pc .exec 0x102 (pg 0 false) = true ∧ regionOf 0x102 ≠ .host ∧ lineMalformed (BitVec.ofNat 512 0) = true
    ∧ lineMalformed codeLine.data = false ∧ isHead codeLine.data 0x108 = false ∧ lineMalformed (BitVec.ofNat 512 (2048 + 2 ^ 16)) = false
    ∧ isHead (BitVec.ofNat 512 (2048 + 2 ^ 16)) 0x102 = true
    ∧ decode (lineHead (BitVec.ofNat 512 (2048 + 2 ^ 16)) 1) (lineTail (BitVec.ofNat 512 (2048 + 2 ^ 16)) 1) = none
    ∧ (wFetch 0x108 (3 * 2048)).pageOk 0x108 .exec 0x108 (pg 0 false) = true := by decide +kernel

/-- An owner that has accepted no group, and misaligned addresses on a page and in local store. -/
def wNoGroup : State := { mk [] id id with owners := [(0, { own0 with accept := 0, featState := 1 })] }
def wOdd (l : Level) : State := mk [(1, la 0x41), (2, 0x1001), (3, la 0x44), (4, la 0x42)] (fun c => { c with level := l }) id
theorem wit_ChecksAtIssue : groupOf (.vmul 1 va0 va0 za 0) = some .vec ∧ wNoGroup.mayUse .vec = false ∧ (wOdd .s).mayUse .vec = true ∧ (wOdd .s).here.vset = none
    ∧ 1024 ≤ coreOf wChannel.cur ∧ wChannel.mayUse .vec = true ∧ (wOdd .s).here.level ≠ .f ∧ (wOdd .u).here.level = .u ∧ (wOdd .u).mayUse .base = true
    ∧ (wOdd .s).here.gated = false ∧ formOf ((wOdd .s).gValue 1) = .localView 0x41 ∧ formOf ((wOdd .s).gValue 2) = .page
    ∧ ((wOdd .s).gValue 1).toNat % 2 ≠ 0 ∧ ((wOdd .s).gValue 4).toNat % 4 ≠ 0 ∧ ((wOdd .s).gValue 3).toNat % 8 ≠ 0
    ∧ (wOdd .s).readable [src (sr 1), dst 9] = true ∧ (wOdd .s).readable [src0 9, src (sr 3)] = true := by decide +kernel

/-- Registers 5 and 69 are empty, and register 6 waits for a producer. -/
def wEmpty : State := mk [(2, 7)] (fun c => { c with vset := some 0, gFull := ~~~(32 : BitVec 64), producers := [⟨3, .g 6, none, false, false, false⟩] })
  fun k => { k with vsets := [(0, ⟨[], [], ~~~(32 : BitVec 32)⟩)] }
theorem wit_EmptyAndPending : wEmpty.mayUse .base = true ∧ wEmpty.mayVec .vec = true ∧ (.add 7 ⟨5, true⟩ ⟨2, false⟩ : Instr) ∈ twoSources 7 ⟨5, true⟩ ⟨2, false⟩
    ∧ wEmpty.here.bound 5 = none ∧ wEmpty.here.marker 5 = none ∧ wEmpty.isFull wEmpty.here 5 = false ∧ wEmpty.srcReady 2 = true
    ∧ (6 : GReg) ≠ 0 ∧ wEmpty.here.bound 6 = none ∧ wEmpty.here.pendingOn 6 = true ∧ wEmpty.here.bound 69 = none ∧ wEmpty.here.marker 69 = none
    ∧ wEmpty.isFull wEmpty.here 69 = false ∧ wEmpty.srcReady 70 = true := by decide +kernel

theorem wit_TrapEntry : (((wTrap .f 0).detach 1).ctx 1).level = .f ∧ (((wTrap .u 0).detach 1).ctx 1).level ≠ .f
    ∧ (((wTrap .u 0).detach 1).ctx 1).ecause.getLsbD 10 = false ∧ (((wTrap .u 0).detach 1).owner 0).tvecS ≠ 0
    ∧ (((wTrap .s 0x400).detach 1).ctx 1).ecause.getLsbD 10 = true ∧ (wTrap .s 0x800).here.ecause.getLsbD 11 = true ∧ (wTrap .s 0x800).mayUse .base = true
    ∧ (wTrap .s 0x800).here.level ≠ .u ∧ (wTrap .s 0x500).codeAt ((wTrap .s 0x500).here.epc.setWidth 64) 0x102 (pg 0 false) = true := by decide +kernel

theorem wit_RegisterFrame : wPlain.mayUse .base = true ∧ wPlain.readable [src (sr 2), src (sr 3), dst 5] = true ∧ wPlain.readable [src (sr 2), src (sr 3), dst 0] = true
    ∧ wPlain.readable [src (sr 2), dst 0] = true ∧ (.div 0 (sr 2) (sr 3) : Instr) ∈ twoSourcesLater 0 (sr 2) (sr 3)
    ∧ wVec.mayVec .vec = true ∧ wVec.readable ([vsrc (vr 9), vsrc (vr 10)] ++ maskOp (sr 2) ++ [vdst 11]) = true := by decide +kernel

theorem wit_StoreFrame : wLocal.mayUse .base = true ∧ wLocal.readable [src0 6, src (sr 1)] = true ∧ wLocal.readable [src0 6, src (sr 4)] = true
    ∧ Memory.wf (wLocal.core (coreOf wLocal.cur)).ls = true ∧ wLocal.localOk (la 0x7FFFF) 1 0x7FFFF true = true ∧ wLocal.localOk (la 0x7FFFE) 2 0x7FFFE true = true
    ∧ wLocal.localOk (la 0x7FFFC) 4 0x7FFFC true = true ∧ wLocal.localOk (la 0x7FFF8) 8 0x7FFF8 true = true := by decide +kernel

/-- The line of the block at 0x1000, on an RC page, in each state that answers a load or takes a store; and none. -/
def wOnPage (ct : BitVec 2) (l : Option L1State) : State := mk [(1, 0x1000), (2, 9)] id fun k => { k with
  tlb := [pg ct false], l1 := (l.map fun st => [(64, wLine st false)]).getD [] }
theorem wit_PageAccesses : ([(0, L1State.pv), (1, .ro), (1, .m), (1, .o), (1, .e), (1, .s)].all fun (e : BitVec 2 × L1State) =>
      let s := wOnPage e.1 (some e.2)
      s.mayUse .base && s.readable [src (sr 1), dst 9] && s.readable [src0 2, src (sr 1)] && s.memAt 0x1000 8 .read 0x1000 (pg e.1 false)
        && s.memAt 0x1000 8 .write 0x1000 (pg e.1 false) && s.blockFree 0x1000 && s.l1 0 64 == some (wLine e.2 false)) = true
    ∧ regionOf 0x1000 = .lp6 ∧ (pg 0 false).ct = 0 ∧ (pg 1 false).ct = 1 ∧ (wLine .m false).wait = [] ∧ (wOnPage 1 none).l1 0 64 = none
    ∧ ((wOnPage 1 none).core 0).l1 = [] ∧ (wOnPage 1 none).memAt 0x1000 8 .read 0x1000 (pg 1 false) = true := by decide +kernel

theorem wit_MemoryForm : (wHome 5 true).memOk = true ∧ Memory.wf Core.reset.ls = true ∧ State.reset.memOk = true := by decide +kernel

end Sys2Proof.Tests
end

section
/-!
PROOFS. The values of the integer operations, as the statements write them (R276, R277): each function of Operands and Flags on the words it
reads.
-/

namespace Sys2Proof.Machine

variable (x y : Word)

/-! Conditions as 0 or 1, and the choices between two words. -/

theorem flag_decide (p : Prop) [Decidable p] : flag (decide p) = if p then 1 else 0 := by
  by_cases h : p <;> simp [flag, h]

theorem flag_condEq : flag (condEq x y) = if x = y then 1 else 0 := flag_decide (x = y)

theorem flag_condNe : flag (condNe x y) = if x = y then 0 else 1 := by
  by_cases h : x = y <;> simp [flag, condNe, h]

theorem flag_condLt : flag (condLt x y) = if x.toInt < y.toInt then 1 else 0 := by
  rw [condLt, BitVec.slt_eq_decide, flag_decide]

theorem flag_condLtu : flag (condLtu x y) = if x.toNat < y.toNat then 1 else 0 := by
  rw [condLtu, BitVec.ult_eq_decide, flag_decide]

theorem minR_eq : minR x y = if x.toInt ≤ y.toInt then x else y := by
  simp only [minR, BitVec.sle_eq_decide, decide_eq_true_eq]

theorem maxR_eq : maxR x y = if y.toInt ≤ x.toInt then x else y := by
  simp only [maxR, BitVec.sle_eq_decide, decide_eq_true_eq]

theorem minuR_eq : minuR x y = if x.toNat ≤ y.toNat then x else y := by
  simp only [minuR, BitVec.ule_eq_decide, decide_eq_true_eq]

theorem maxuR_eq : maxuR x y = if y.toNat ≤ x.toNat then x else y := by
  simp only [maxuR, BitVec.ule_eq_decide, decide_eq_true_eq]

/-- A rotation by 0, which the model treats apart, is the rotation's own formula at 0: its right shift by 64 leaves nothing. -/
theorem rolR_eq : rolR x y = x.rotateLeft (y.toNat % 64) := by
  rw [BitVec.rotateLeft_def, Nat.mod_mod]
  by_cases h : y.toNat % 64 = 0
  · simp [rolR, shiftN, h, BitVec.ushiftRight_eq_zero]
  · simp [rolR, shiftN, h]

/-! The high half of a product of 128 bits. -/

/-- The high half of a number of 128 bits is its quotient by 2^64, at any sign. -/
theorem extractHigh_ofInt (p : Int) : (BitVec.ofInt 128 p).extractLsb' 64 64 = BitVec.ofInt 64 (p / 2 ^ 64) := by
  apply BitVec.eq_of_toNat_eq
  simp only [BitVec.extractLsb'_toNat, BitVec.toNat_ofInt, Nat.shiftRight_eq_div_pow]
  omega

theorem mulhR_eq : mulhR x y = (x.signExtend 128 * y.signExtend 128).extractLsb' 64 64 := by
  rw [BitVec.signExtend, BitVec.signExtend, ← BitVec.ofInt_mul, extractHigh_ofInt, mulhR]

theorem mulhuR_eq : mulhuR x y = (x.setWidth 128 * y.setWidth 128).extractLsb' 64 64 := by
  have widen (w : Word) : w.setWidth 128 = BitVec.ofInt 128 w.toNat := by rw [BitVec.ofInt_natCast, BitVec.ofNat_toNat]
  rw [widen, widen, ← BitVec.ofInt_mul, extractHigh_ofInt, mulhuR, w64, ← BitVec.ofInt_natCast, Int.natCast_ediv, Int.natCast_mul]
  rfl

/-! Signed division: the spec divides the magnitudes and gives the quotient its sign, which is division rounded toward zero. -/

theorem signed_magnitude_quotient (a b : Int) :
    (if (a < 0) ≠ (b < 0) then -(a.natAbs / b.natAbs : Int) else a.natAbs / b.natAbs) = a.tdiv b := by
  have nonneg (n : Nat) : ¬Int.ofNat n < 0 := Int.not_lt.2 (Int.natCast_nonneg n)
  cases a with
  | ofNat m => cases b with
    | ofNat n => exact if_neg fun signs => signs (propext (iff_of_false (nonneg m) (nonneg n)))
    | negSucc n => exact if_pos fun signs => nonneg m (Eq.mpr signs (Int.negSucc_lt_zero n))
  | negSucc m => cases b with
    | ofNat n => exact if_pos fun signs => nonneg n (Eq.mp signs (Int.negSucc_lt_zero m))
    | negSucc n => exact if_neg fun signs => signs (propext (iff_of_true (Int.negSucc_lt_zero m) (Int.negSucc_lt_zero n)))

theorem divR_eq : divR x y = if y = 0 then BitVec.allOnes 64 else BitVec.ofInt 64 (x.toInt.tdiv y.toInt) := by
  simp only [divR, signed_magnitude_quotient]

theorem remR_eq : remR x y = if y = 0 then x else BitVec.ofInt 64 (x.toInt.tmod y.toInt) := by
  simp only [remR, signed_magnitude_quotient, Int.tmod_def, Int.mul_comm]

end Sys2Proof.Machine
end

section
/-!
PROOFS. An instruction whose meaning is one of the shared operations, its checks passed, gives that operation's value (R275, R277 to R279).
-/

namespace Sys2Proof.Machine

variable {s : State} {i : Instr} {d : GReg} {b c : Src} {v : Word}

theorem exec_op2 {f : Word → Word → Word} (hi : exec i s = runEx (op2 d b c f) s) (hg : s.mayUse .base = true)
    (hr : s.readable [src b, src c, dst d] = true) (hv : f (s.gValue b.reg.toNat) (s.gValue c.reg.toNat) = v) :
    exec i s = .next (s.givesG [src b, src c, dst d] d v) := by
  rw [hi, ← hv]
  exact runEx_ok _ _ _ (op2_ok s d b c f hg hr)

theorem exec_long2 {f : Word → Word → Word} (hi : exec i s = runEx (long2 d b c f) s) (hg : s.mayUse .base = true)
    (hr : s.readable [src b, src c, dst d] = true) (hv : f (s.gValue b.reg.toNat) (s.gValue c.reg.toNat) = v) :
    exec i s = .next (s.givesLater [src b, src c, dst d] (.g d.toNat) (.word v)) := by
  rw [hi, ← hv]
  exact runEx_ok _ _ _ (long2_ok s d b c f hg hr)

theorem exec_op1 {f : Word → Word} (hi : exec i s = runEx (op1 d b f) s) (hg : s.mayUse .base = true)
    (hr : s.readable [src b, dst d] = true) (hv : f (s.gValue b.reg.toNat) = v) :
    exec i s = .next (s.givesG [src b, dst d] d v) := by
  rw [hi, ← hv]
  exact runEx_ok _ _ _ (op1_ok s d b f hg hr)

theorem exec_opConst (hi : exec i s = runEx (opConst d v) s) (hg : s.mayUse .base = true) (hd : s.dstReady d.toNat = true) :
    exec i s = .next (s.wrote d v).done := by
  rw [hi]
  exact runEx_ok _ _ _ (opConst_ok s d v hg hd)

theorem exec_nop (hg : s.mayUse .base = true) : exec .nop s = .next s.done := by
  refine runEx_ok _ _ _ ?_
  rw [Ex.bind_ok s _ _ _ _ (needGroup_ok s _ hg), Ex.advance_apply]

theorem exec_lpc (disp : BitVec 24) (hg : s.mayUse .base = true) (hd : s.dstReady d.toNat = true) :
    exec (.lpc d disp) s = .next (s.wrote d (s.here.pc + 2 * disp.signExtend 64)).done := by
  refine runEx_ok _ _ _ ?_
  rw [Ex.bind_ok s _ _ _ _ (needGroup_ok s _ hg), Ex.bind_ok s _ _ _ _ (checkDest_ok s _ hd), Ex.bind_ok s _ _ _ _ (Ex.me_apply s),
    Ex.bind_ok s _ _ _ _ (Ex.wr_apply s _ _), Ex.advance_apply, relTarget, simm]

end Sys2Proof.Machine
end

section
/-!
PROOFS. The words of the integer opcodes decode by the table of their opcode (R260, R265, R268, R276 to R279, R283).
-/

namespace Sys2Proof

variable (d : GReg) (b c : Src)

/-- The words of an opcode with four selectors on A, B and C decode by its selector. -/
theorem decode_alu {op : BitVec 7} {f0 f1 f2 f3 : GReg → Src → Src → Instr} (f : BitVec 2) (ht : opTlc op = some 1)
    (hl : op.toNat < 0x30) (hd : ∀ t, decodeLow op.toNat d t = decAlu d (T2R.ofTail t) f0 f1 f2 f3) :
    decode (mkHead 1 op d) (T2R.toTail ⟨b, c, f⟩) = decAlu d ⟨b, c, f⟩ f0 f1 f2 f3 := by
  rw [decode_mk _ _ _ _ ht, if_pos hl, hd, T2R.ofTail_toTail]

/-- The words of opcode 0x08 decode by its selector (R278). -/
theorem decode_imm (f : BitVec 4) (k : BitVec 21) : decode (mkHead 2 0x08 d) (T4I.toTail ⟨b, f, k⟩) = decImm d ⟨b, f, k⟩ := by
  rw [decode_mk _ _ _ _ rfl, if_pos (by decide)]
  exact congrArg (decImm d) (T4I.ofTail_toTail _)

/-- R278: bits [20:6] of a shift's immediate are zero exactly when it is below 64. -/
theorem shiftImm_high_zero_iff (k : BitVec 21) : k.extractLsb' 6 15 = 0 ↔ k.toNat < 64 := by
  rw [← BitVec.toNat_inj, BitVec.extractLsb'_toNat, Nat.shiftRight_eq_div_pow]
  have hk := k.isLt
  simp only [BitVec.ofNat_eq_ofNat, BitVec.toNat_zero]
  omega

/-- R278: a shift whose immediate is 64 or more is reserved. -/
theorem only_shiftImm (i : Instr) (k : BitVec 21) : only (k.extractLsb' 6 15 == 0) i = if k.toNat < 64 then some i else none := by
  simp only [only, beq_iff_eq, shiftImm_high_zero_iff]

/-- R278: the selectors from 10 up are reserved. -/
theorem decImm_reserved (f : BitVec 4) (k : BitVec 21) (hf : 10 ≤ f.toNat) : decImm d ⟨b, f, k⟩ = none := by
  unfold decImm
  split
  case h_11 => rfl
  all_goals
    dsimp only at *
    omega

theorem decode_li (i : BitVec 16) : decode (mkHead 1 0x09 d) (i.setWidth 96) = some (.li d i) := by
  rw [decode_mk _ _ _ _ rfl, if_pos (by decide)]
  exact congrArg (fun j => some (Instr.li d j)) (setWidth_low i (by decide))

theorem decode_liw (i : BitVec 32) : decode (mkHead 2 0x0A d) (i.setWidth 96) = some (.liw d i) := by
  rw [decode_mk _ _ _ _ rfl, if_pos (by decide)]
  exact congrArg (fun j => some (Instr.liw d j)) (setWidth_low i (by decide))

theorem decode_lid (i : BitVec 64) : decode (mkHead 4 0x0B d) (i.setWidth 96) = some (.lid d i) := by
  rw [decode_mk _ _ _ _ rfl, if_pos (by decide)]
  exact congrArg (fun j => some (Instr.lid d j)) (setWidth_low i (by decide))

theorem decode_lpc (disp : BitVec 24) : decode (mkHead 2 0x0F d) (T4B.toTail ⟨z, false, disp⟩) = some (.lpc d disp) := by
  rw [decode_mk _ _ _ _ rfl, if_pos (by decide)]
  exact congrArg (fun x : T4B => only (x.b.none && !x.ma) (Instr.lpc d x.disp)) (T4B.ofTail_toTail _)

/-- R268: opcode 0x00 with field A zero is NOP; with any other field A it is reserved. -/
theorem decode_op0 (t : BitVec 96) : decode (mkHead 0 0x00 d) t = only (d == 0) .nop := by
  rw [decode_mk _ _ _ _ rfl, if_pos (by decide)]
  rfl

end Sys2Proof
end

section
/-!
PROOFS. The obligations of the integer operations, the divisions and the immediate operations (R268, R276 to R279, R283).
-/

open Sys2Proof Sys2Proof.Machine

/-- Settles O1: each operation is op2 at its function of the two values, and each opcode a table of four selectors. -/
theorem integerOps : Obligations.IntegerOps := by
  intro s d b c hg hr x y n gives reads
  have sums (f : BitVec 2) := decode_alu (op := 0x01) (f0 := .add) (f1 := .sub) (f2 := .addw) (f3 := .subw) d b c f rfl (by decide) fun _ => rfl
  have logic (f : BitVec 2) := decode_alu (op := 0x02) (f0 := .and) (f1 := .or) (f2 := .xor) (f3 := .andn) d b c f rfl (by decide) fun _ => rfl
  have shifts (f : BitVec 2) := decode_alu (op := 0x03) (f0 := .shl) (f1 := .shr) (f2 := .sar) (f3 := .rol) d b c f rfl (by decide) fun _ => rfl
  have conds (f : BitVec 2) := decode_alu (op := 0x04) (f0 := .seq) (f1 := .sne) (f2 := .slt) (f3 := .sltu) d b c f rfl (by decide) fun _ => rfl
  have extremes (f : BitVec 2) := decode_alu (op := 0x05) (f0 := .min) (f1 := .max) (f2 := .minu) (f3 := .maxu) d b c f rfl (by decide) fun _ => rfl
  have products (f : BitVec 2) := decode_alu (op := 0x06) (f0 := .mul) (f1 := .mulh) (f2 := .mulhu) (f3 := .mulw) d b c f rfl (by decide) fun _ => rfl
  exact ⟨
    -- The sums, the logic and the shifts: the model's own functions.
    exec_op2 rfl hg hr rfl, exec_op2 rfl hg hr rfl, exec_op2 rfl hg hr rfl, exec_op2 rfl hg hr rfl,
    exec_op2 rfl hg hr rfl, exec_op2 rfl hg hr rfl, exec_op2 rfl hg hr rfl, exec_op2 rfl hg hr rfl,
    exec_op2 rfl hg hr rfl, exec_op2 rfl hg hr rfl, exec_op2 rfl hg hr rfl, exec_op2 rfl hg hr (rolR_eq x y),
    exec_op2 rfl hg hr (flag_condEq x y), exec_op2 rfl hg hr (flag_condNe x y), exec_op2 rfl hg hr (flag_condLt x y),
    exec_op2 rfl hg hr (flag_condLtu x y),
    exec_op2 rfl hg hr (minR_eq x y), exec_op2 rfl hg hr (maxR_eq x y), exec_op2 rfl hg hr (minuR_eq x y), exec_op2 rfl hg hr (maxuR_eq x y),
    exec_op2 rfl hg hr rfl, exec_op2 rfl hg hr (mulhR_eq x y), exec_op2 rfl hg hr (mulhuR_eq x y), exec_op2 rfl hg hr rfl,
    sums 0, sums 1, sums 2, sums 3, logic 0, logic 1, logic 2, logic 3, shifts 0, shifts 1, shifts 2, shifts 3,
    conds 0, conds 1, conds 2, conds 3, extremes 0, extremes 1, extremes 2, extremes 3, products 0, products 1, products 2, products 3⟩

/-- Settles O2: each division is long2, whose checks alone can stop it, at a quotient or remainder rounded toward zero. -/
theorem divisionOps : Obligations.DivisionOps := by
  intro s d b c hg hr x y gives reads
  have divisions (f : BitVec 2) := decode_alu (op := 0x07) (f0 := .div) (f1 := .divu) (f2 := .rem) (f3 := .remu) d b c f rfl (by decide) fun _ => rfl
  exact ⟨exec_long2 rfl hg hr (divR_eq x y), exec_long2 rfl hg hr (remR_eq x y), exec_long2 rfl hg hr rfl, exec_long2 rfl hg hr rfl,
    divisions 0, divisions 1, divisions 2, divisions 3⟩

/-- Settles O3: the selectors of opcode 0x08 with the range of a shift, and op1 at each function of B and the immediate. -/
theorem immediateOps : Obligations.ImmediateOps := by
  intro s d b i n i16 i32 i64 disp hg x e gives reads
  have imm (f : BitVec 4) := decode_imm d b f i
  have shift (j : Instr) := only_shiftImm j i
  refine ⟨exec_nop hg, decode_op0 0 0, fun hd t => ?_, imm 0, imm 1, imm 2, imm 3, imm 4, imm 5, imm 9, fun hi => ?_, fun hi => ?_,
    fun f hf => (imm f).trans (decImm_reserved d b f i hf), decode_li d i16, decode_liw d i32, decode_lid d i64, decode_lpc d disp,
    fun hr => ?_, fun hd => ?_⟩
  · -- Opcode 0x00 with another field A.
    rw [decode_op0, only, if_neg (by simpa using hd)]
  · have range (j : Instr) := (shift j).trans (if_pos hi)
    exact ⟨(imm 6).trans (range _), (imm 7).trans (range _), (imm 8).trans (range _)⟩
  · have range (j : Instr) := (shift j).trans (if_neg (Nat.not_lt.2 hi))
    exact ⟨(imm 6).trans (range _), (imm 7).trans (range _), (imm 8).trans (range _)⟩
  · exact ⟨exec_op1 rfl hg hr rfl, exec_op1 rfl hg hr rfl, exec_op1 rfl hg hr rfl, exec_op1 rfl hg hr rfl,
      exec_op1 rfl hg hr (flag_condLt x e), exec_op1 rfl hg hr (flag_condLtu x e),
      exec_op1 rfl hg hr rfl, exec_op1 rfl hg hr rfl, exec_op1 rfl hg hr rfl, exec_op1 rfl hg hr rfl⟩
  · exact ⟨exec_opConst rfl hg hd, exec_opConst rfl hg hd, exec_opConst rfl hg hd, exec_lpc disp hg hd⟩
end

section
/-!
PROOFS. Decoding what encodes an instruction (R255, R260, R265): a layout's fields read back from its tail, the decoder of the opcode answers on
those fields, and the fields of each instruction meet that decoder's conditions.
-/

namespace Sys2Proof

/-- The words that encode an instruction decode to it. -/
def RoundTrips (i : Instr) : Prop := ∀ w, encode i = some w → decode w.head w.tail = some i

/-- What an opcode's tail decodes to (R265): the table of the opcodes below 0x30, and the one of the others. -/
noncomputable def decodeTail (op : BitVec 7) (a : GReg) (t : BitVec 96) : Option Instr :=
  if op.toNat < 0x30 then decodeLow op.toNat a t else decodeHigh op.toNat a t

section
variable {i : Instr} {op : BitVec 7} {a : GReg}

theorem roundTrips_of_none (he : encode i = none) : RoundTrips i := fun _ hw => nomatch he.symm.trans hw

theorem roundTrips_of_words {ws : Words} (he : encode i = some ws) (hd : decode ws.head ws.tail = some i) : RoundTrips i := by
  intro w hw
  cases he.symm.trans hw
  exact hd

/-- An instruction whose head has its opcode's tail length code is read from its tail by its opcode's decoder. -/
theorem roundTrips_of_tail {t : BitVec 3} {x : BitVec 96} (he : encode i = some ⟨mkHead t op a, x⟩) (ht : opTlc op = some t)
    (hd : decodeTail op a x = some i) : RoundTrips i :=
  roundTrips_of_words he ((decode_mk t op a x ht).trans hd)

/-! An opcode that a decoder D reads by its layout's fields: D answers on the fields that the encoder has placed. -/

theorem roundTrips_2r {b c : Src} {f : BitVec 2} (D : T2R → Option Instr) (he : encode i = w2r op a b c f) (ht : opTlc op = some 1)
    (hD : ∀ t, decodeTail op a t = D (T2R.ofTail t)) (h : D ⟨b, c, f⟩ = some i) : RoundTrips i :=
  roundTrips_of_tail he ht (by rw [hD, T2R.ofTail_toTail, h])

theorem roundTrips_4i {b : Src} {f : BitVec 4} {k : BitVec 21} (D : T4I → Option Instr) (he : encode i = w4i op a b f k)
    (ht : opTlc op = some 2) (hD : ∀ t, decodeTail op a t = D (T4I.ofTail t)) (h : D ⟨b, f, k⟩ = some i) : RoundTrips i :=
  roundTrips_of_tail he ht (by rw [hD, T4I.ofTail_toTail, h])

theorem roundTrips_4b {a b : Src} {disp : BitVec 24} (D : T4B → Option Instr) (he : encode i = w4b op a b disp) (ht : opTlc op = some 2)
    (hD : ∀ t, decodeTail op a.reg t = D (T4B.ofTail t)) (h : D ⟨b, a.mode, disp⟩ = some i) : RoundTrips i :=
  roundTrips_of_tail he ht (by rw [hD, T4B.ofTail_toTail, h])

theorem roundTrips_4s {b : Src} {sc : BitVec 3} {w : BitVec 2} {k : BitVec 19} (D : T4S → Option Instr)
    (he : encode i = some ⟨mkHead 2 op a, T4S.toTail ⟨b, sc, w, false, k⟩⟩) (ht : opTlc op = some 2)
    (hD : ∀ t, decodeTail op a t = D (T4S.ofTail t)) (h : D ⟨b, sc, w, false, k⟩ = some i) : RoundTrips i :=
  roundTrips_of_tail he ht (by rw [hD, T4S.ofTail_toTail, h])

theorem roundTrips_6 {b c d : Src} {f : BitVec 4} {ty sc : BitVec 3} {x : BitVec 16} (D : T6 → Option Instr)
    (he : encode i = w6 op a b c d f ty sc x) (ht : opTlc op = some 3) (hD : ∀ t, decodeTail op a t = D (T6.ofTail t))
    (h : D ⟨b, c, d, f, ty, sc, false, x⟩ = some i) : RoundTrips i :=
  roundTrips_of_tail he ht (by rw [hD, T6.ofTail_toTail, h])

end

/-! The opcodes that the tables of R265 read in place, as decoders of their layout's fields. -/

/-- Opcode 0x2D (R286). -/
def decFminFclass (a : GReg) (x : T2R) : Option Instr :=
  match x.f.toNat with
  | 0 => some (.fmin a x.b x.c)
  | 1 => some (.fmax a x.b x.c)
  | 2 => only x.c.none (.fsqrt a x.b)
  | _ => only x.c.none (.fclass a x.b)

/-- Opcode 0x2E (R288). -/
def decFfma (a : GReg) (x : T6) : Option Instr :=
  match x.f.toNat with
  | 0 => decG4 a x .ffma
  | 1 => decG4 a x .ffms
  | 2 => decG4 a x .fnma
  | 3 => decG4 a x .fnms
  | _ => none

/-- Opcode 0x54 (R321). -/
noncomputable def decVminVmax (a : GReg) (x : T6) : Option Instr :=
  match x.f.toNat with
  | 0 => decVVV a x ty0to5 .vmin
  | 1 => decVVV a x ty0to5 .vmax
  | _ => none

/-! The immediates and X16 of the encoder, field by field (R303, R320, R346). -/

theorem cvtX_fields : ∀ (inf : Bool) (p : BitVec 3), (cvtX inf p).extractLsb' 0 3 = p ∧ (cvtX inf p).extractLsb' 3 5 = 0#5
    ∧ (cvtX inf p).getLsbD 8 = inf ∧ (cvtX inf p).extractLsb' 9 7 = 0#7 := by decide

theorem cvtX_part : ∀ (inf : Bool) (p : BitVec 2), (cvtX inf (p.setWidth 3)).extractLsb' 0 2 = p
    ∧ (cvtX inf (p.setWidth 3)).extractLsb' 2 6 = 0#6 ∧ (cvtX inf (p.setWidth 3)).getLsbD 8 = inf
    ∧ (cvtX inf (p.setWidth 3)).extractLsb' 9 7 = 0#7 := by decide

theorem typedX_fields : ∀ (inf : Bool) (k : BitVec 8), ((BitVec.ofBool inf ++ k).setWidth 16).extractLsb' 0 8 = k
    ∧ (BitVec.ofBool inf ++ k).getLsbD 8 = inf ∧ ((BitVec.ofBool inf ++ k).setWidth 16).getLsbD 9 = false
    ∧ ((BitVec.ofBool inf ++ k).setWidth 16).extractLsb' 10 6 = 0#6 := by decide +kernel

theorem copyX_fields : ∀ (dk : BitVec 2) (rq tags : Bool), ((dk ++ BitVec.ofBool rq ++ BitVec.ofBool tags).setWidth 16).extractLsb' 2 2 = dk
    ∧ (dk ++ BitVec.ofBool rq ++ BitVec.ofBool tags).getLsbD 0 = tags
    ∧ (dk ++ BitVec.ofBool rq ++ BitVec.ofBool tags).getLsbD 1 = rq
    ∧ ((dk ++ BitVec.ofBool rq ++ BitVec.ofBool tags).setWidth 16).extractLsb' 4 12 = 0#12 := by decide

theorem relOrd_fields : ∀ r : Bool, (relOrd r).getLsbD 0 = false ∧ (relOrd r).getLsbD 1 = r := by decide

/-- R295: the two masks of SAFEPT, the general registers' below. -/
theorem safept_fields (g : BitVec 64) (v : BitVec 32) : ((v ++ g).setWidth 96).extractLsb' 0 64 = g
    ∧ ((v ++ g).setWidth 96).extractLsb' 64 32 = v ∧ ((v ++ g).setWidth 96).getLsbD 0 = g.getLsbD 0 := by
  have whole : (v ++ g).setWidth 96 = v ++ g := BitVec.setWidth_eq _
  rw [whole]
  refine ⟨?_, ?_, ?_⟩
  · ext j hj
    rw [BitVec.getElem_extractLsb', BitVec.getLsbD_append, if_pos (by omega), Nat.zero_add, BitVec.getLsbD_eq_getElem hj]
  · ext j hj
    rw [BitVec.getElem_extractLsb', BitVec.getLsbD_append, if_neg (by omega), Nat.add_sub_cancel_left, BitVec.getLsbD_eq_getElem hj]
  · rw [BitVec.getLsbD_append, if_pos (by decide)]

/-! The conditions of the decoders, met by the fields that the encoder has placed (R261, R262). -/

theorem only_of {c : Bool} (i : Instr) (h : c = true) : only c i = some i := if_pos h

section
variable {v : VReg} {b c : VSrc} {m : Src} {ty : BitVec 3} {tys : BitVec 8}

theorem decVVV_placed {f : BitVec 4} (mk : VReg → VSrc → VSrc → Src → BitVec 3 → Instr) (h : tyIn tys ty = true) :
    decVVV (vg v) ⟨b.g, c.g, m, f, ty, 0, false, 0⟩ tys mk = some (mk v b c m ty) := by
  simp [decVVV, vPlain, h, vAok_vg, vA_vg, Src.vok_g, Src.v_g, only]

theorem decVV_placed {f : BitVec 4} (mk : VReg → VSrc → Src → BitVec 3 → Instr) (h : tyIn tys ty = true) :
    decVV (vg v) ⟨b.g, z, m, f, ty, 0, false, 0⟩ tys mk = some (mk v b m ty) := by
  simp [decVV, vPlain, h, vAok_vg, vA_vg, Src.vok_g, Src.v_g, Src.none_z, only]

theorem decGVV_placed {d : GReg} {f : BitVec 4} (mk : GReg → VSrc → VSrc → Src → BitVec 3 → Instr) (h : tyIn tys ty = true) :
    decGVV d ⟨b.g, c.g, m, f, ty, 0, false, 0⟩ tys mk = some (mk d b c m ty) := by
  simp [decGVV, vPlain, h, Src.vok_g, Src.v_g, only]

theorem decGV_placed {d : GReg} {f : BitVec 4} (mk : GReg → VSrc → Src → BitVec 3 → Instr) (h : tyIn tys ty = true) :
    decGV d ⟨b.g, z, m, f, ty, 0, false, 0⟩ tys mk = some (mk d b m ty) := by
  simp [decGV, vPlain, h, Src.vok_g, Src.v_g, Src.none_z, only]

/-- R320: a set of all type codes holds each. -/
theorem tyIn_all (ty : BitVec 3) : tyIn tyAll ty = true := by revert ty; decide

end

/-- R295: g0 is in no mask of a well-formed SAFEPT. -/
theorem decodeTail_safept {g : BitVec 64} {v : BitVec 32} (h : (!g.getLsbD 0) = true) :
    decodeTail 0x28 0 ((v ++ g).setWidth 96) = some (.safept g v) := by
  obtain ⟨hg, hv, h0⟩ := safept_fields g v
  show only _ _ = _
  rw [h0, hg, hv]
  exact only_of _ h

/-- R255, R260, R265: an instruction that meets its own field notes is read back from its words. -/
theorem roundTrips_of_wf (i : Instr) (hwf : wf i = true) : RoundTrips i := by
  cases i with
  -- The integer part of the set (R268, R276 to R283).
  | nop => exact roundTrips_of_words rfl rfl
  | add d b c | sub d b c | addw d b c | subw d b c => exact roundTrips_2r (decAlu _ · .add .sub .addw .subw) rfl rfl (fun _ => rfl) rfl
  | and d b c | or d b c | xor d b c | andn d b c => exact roundTrips_2r (decAlu _ · .and .or .xor .andn) rfl rfl (fun _ => rfl) rfl
  | shl d b c | shr d b c | sar d b c | rol d b c => exact roundTrips_2r (decAlu _ · .shl .shr .sar .rol) rfl rfl (fun _ => rfl) rfl
  | seq d b c | sne d b c | slt d b c | sltu d b c => exact roundTrips_2r (decAlu _ · .seq .sne .slt .sltu) rfl rfl (fun _ => rfl) rfl
  | min d b c | max d b c | minu d b c | maxu d b c => exact roundTrips_2r (decAlu _ · .min .max .minu .maxu) rfl rfl (fun _ => rfl) rfl
  | mul d b c | mulh d b c | mulhu d b c | mulw d b c => exact roundTrips_2r (decAlu _ · .mul .mulh .mulhu .mulw) rfl rfl (fun _ => rfl) rfl
  | div d b c | divu d b c | rem d b c | remu d b c => exact roundTrips_2r (decAlu _ · .div .divu .rem .remu) rfl rfl (fun _ => rfl) rfl
  | fadd d b c | fsub d b c | fmul d b c | fdiv d b c => exact roundTrips_2r (decAlu _ · .fadd .fsub .fmul .fdiv) rfl rfl (fun _ => rfl) rfl
  | clz d b | ctz d b | popc d b | bswap d b => exact roundTrips_2r (decUnary _ · .clz .ctz .popc .bswap) rfl rfl (fun _ => rfl) rfl
  | sextB d b | sextH d b | sextW d b | zextW d b => exact roundTrips_2r (decUnary _ · .sextB .sextH .sextW .zextW) rfl rfl (fun _ => rfl) rfl
  | addi d b i | andi d b i | ori d b i | xori d b i | slti d b i | sltiu d b i | addwi d b i =>
    exact roundTrips_4i (decImm _) rfl rfl (fun _ => rfl) rfl
  | shli d b n | shri d b n | sari d b n =>
    exact roundTrips_4i (decImm _) rfl rfl (fun _ => rfl)
      (only_of _ (beq_of_eq (setWidth_high n (by decide))) |>.trans (by rw [setWidth_low n (by decide)]))
  | li d i => exact roundTrips_of_words rfl (decode_li d i)
  | liw d i => exact roundTrips_of_words rfl (decode_liw d i)
  | lid d i => exact roundTrips_of_words rfl (decode_lid d i)
  | extu d b p l | exts d b p l | ins d b p l =>
    exact roundTrips_4i (decField _) rfl rfl (fun _ => rfl)
      (by simpa [decField, fieldImm_pos, fieldImm_len, fieldImm_high, only] using of_decide_eq_true hwf)
  | sel d b c x => exact roundTrips_6 (fun x => f0 x (decG4 _ x .sel)) rfl rfl (fun _ => rfl) rfl
  | lpc d disp => exact roundTrips_4b (fun x => only (x.b.none && !x.ma) (.lpc _ x.disp)) rfl rfl (fun _ => rfl) rfl
  -- Scalar floating point (R285 to R289).
  | fmin d b c | fmax d b c | fsqrt d b | fclass d b => exact roundTrips_2r (decFminFclass _) rfl rfl (fun _ => rfl) rfl
  | ffma d b c x | ffms d b c x | fnma d b c x | fnms d b c x => exact roundTrips_6 (decFfma _) rfl rfl (fun _ => rfl) rfl
  | feq d b c | flt d b c | fle d b c | fcvtWF d b rm | fcvtFW d b rm | fcvtBfF d b rm | fcvtHF d b rm =>
    exact roundTrips_4i (decFcvt _) rfl rfl (fun _ => rfl) (by simp [decFcvt, fcvtImm_rm, fcvtImm_c, fcvtImm_high, only])
  | fcvtFBf d b | fcvtFH d b => exact roundTrips_4i (decFcvt _) rfl rfl (fun _ => rfl) (by simp [decFcvt, only])
  -- Branches, jumps and safe points (R290 to R295).
  | beq a b disp => exact roundTrips_4b (fun x => some (.beq ⟨_, x.ma⟩ x.b x.disp)) rfl rfl (fun _ => rfl) rfl
  | bne a b disp => exact roundTrips_4b (fun x => some (.bne ⟨_, x.ma⟩ x.b x.disp)) rfl rfl (fun _ => rfl) rfl
  | blt a b disp => exact roundTrips_4b (fun x => some (.blt ⟨_, x.ma⟩ x.b x.disp)) rfl rfl (fun _ => rfl) rfl
  | bge a b disp => exact roundTrips_4b (fun x => some (.bge ⟨_, x.ma⟩ x.b x.disp)) rfl rfl (fun _ => rfl) rfl
  | bltu a b disp => exact roundTrips_4b (fun x => some (.bltu ⟨_, x.ma⟩ x.b x.disp)) rfl rfl (fun _ => rfl) rfl
  | bgeu a b disp => exact roundTrips_4b (fun x => some (.bgeu ⟨_, x.ma⟩ x.b x.disp)) rfl rfl (fun _ => rfl) rfl
  | jal d disp => exact roundTrips_4b (fun x => only (x.b.none && !x.ma) (.jal _ x.disp)) rfl rfl (fun _ => rfl) rfl
  | jalr d b i => exact roundTrips_4i (fun x => only (x.f == 0) (.jalr _ x.b x.imm)) rfl rfl (fun _ => rfl) rfl
  | safept g v => exact roundTrips_of_tail (op := 0x28) rfl rfl (decodeTail_safept hwf)
  -- Loads, stores, hints and windows (R300 to R311).
  | ldB d b i | ldBu d b i | ldH d b i | ldHu d b i | ldW d b i | ldWu d b i | ldD d b i =>
    exact roundTrips_4i (decLoad _) rfl rfl (fun _ => rfl) rfl
  | stB a b i | stH a b i | stW a b i | stD a b i => exact roundTrips_4i (decStore _) rfl rfl (fun _ => rfl) rfl
  | lda d b sc w i => exact roundTrips_4s (fun x => only (!x.z) (.lda _ x.b x.scope x.w x.imm)) rfl rfl (fun _ => rfl) rfl
  | stl a b sc w i => exact roundTrips_4s (fun x => only (!x.z) (.stl _ x.b x.scope x.w x.imm)) rfl rfl (fun _ => rfl) rfl
  | vld v b i | vldNt v b i => exact roundTrips_4i (decVmem _ · false) rfl rfl (fun _ => rfl) (by simp [decVmem, vAok_vg, vA_vg, only])
  | vst v b i | vstNt v b i | vstKeep v b i =>
    exact roundTrips_4i (decVmem _ · true) rfl rfl (fun _ => rfl) (by simp [decVmem, vAok_vg, vA_vg, only])
  | ldt v b c m ty rm inf =>
    exact roundTrips_6 (decTyped _ · false) rfl rfl (fun _ => rfl)
      (by simp [-BitVec.getLsbD_eq_getElem, decTyped, typedX_fields, rmSc_low, rmSc_high, vAok_vg, vA_vg, only])
  | stt v b c m ty rm inf sc =>
    exact roundTrips_6 (decTyped _ · true) rfl rfl (fun _ => rfl)
      (by simp [-BitVec.getLsbD_eq_getElem, decTyped, typedX_fields, rmSc_low, rmSc_high, vAok_vg, vA_vg, only])
  | ldtTag d b => exact roundTrips_6 (decTyped _ · false) rfl rfl (fun _ => rfl) (by simp [decTyped, Src.none_z, only])
  | sttTag a b => exact roundTrips_6 (decTyped _ · true) rfl rfl (fun _ => rfl) (by simp [decTyped, Src.none_z, only])
  | prefL1 b i | prefLlc b i | prefWin b i => exact roundTrips_4i (decPref _) rfl rfl (fun _ => rfl) rfl
  | cflush b c sc | cclean b c sc | cinval b c sc => exact roundTrips_6 (decFlush _) rfl rfl (fun _ => rfl) (only_of _ hwf)
  | wmap d b c x => exact roundTrips_6 (fun x => f0 x (decG4 _ x .wmap)) rfl rfl (fun _ => rfl) rfl
  | wunmap b | wflush b | wdrop b | wstat d b => exact roundTrips_2r (decWin _) rfl rfl (fun _ => rfl) rfl
  | cbld k b i | cbst k b i => exact roundTrips_4i (decCb _) rfl rfl (fun _ => rfl) (by simp [decCb, setWidth_low, setWidth_high, only])
  -- Atomics, waits, fences, counters and barriers (R312 to R317).
  | amoAdd d b c w o sc | amoAnd d b c w o sc | amoOr d b c w o sc | amoXor d b c w o sc | amoMin d b c w o sc | amoMax d b c w o sc
  | amoMinu d b c w o sc | amoMaxu d b c w o sc | amoSwap d b c w o sc | amoCas d b c x w o sc | amoFadd d b c o sc =>
    exact roundTrips_6 (decAmo _) rfl rfl (fun _ => rfl)
      (by simpa [-BitVec.getLsbD_eq_getElem, decAmo, amoX_fields, Src.none_z, only, amoWf, Decidable.imp_iff_not_or] using (show amoWf o sc = true from hwf))
  | redAdd b c w r sc | redAnd b c w r sc | redOr b c w r sc | redXor b c w r sc | redMin b c w r sc | redMax b c w r sc | redMinu b c w r sc
  | redMaxu b c w r sc | redFadd b c r sc =>
    exact roundTrips_6 (decRed _) rfl rfl (fun _ => rfl)
      (by simpa [-BitVec.getLsbD_eq_getElem, decRed, amoX_fields, relOrd_fields, Src.none_z, only, Decidable.imp_iff_not_or] using (show (r || sc == 0) = true from hwf))
  | take a b i | put a b i | putx a b i | waitw a b i => exact roundTrips_4i (decTake _) rfl rfl (fun _ => rfl) rfl
  | trytake a b i => exact roundTrips_4i (decTake _) rfl rfl (fun _ => rfl) (only_of _ hwf)
  | fence sc | acqr b c sc | relr b c sc => exact roundTrips_6 (decFence _) rfl rfl (fun _ => rfl) rfl
  | migrate b | rethome => exact roundTrips_2r (decMigr _) rfl rfl (fun _ => rfl) rfl
  | jcinit b c | jcdec b | jcwait b => exact roundTrips_2r (decJc _) rfl rfl (fun _ => rfl) rfl
  | barinit b c | bararr d b | barwait b c => exact roundTrips_2r (decBar _) rfl rfl (fun _ => rfl) rfl
  -- Vectors (R320 to R331).
  | vadd v b c m ty => exact roundTrips_6 (fun x => f0 x (decVVV _ x ty0to5 .vadd)) rfl rfl (fun _ => rfl) (decVVV_placed _ hwf)
  | vsub v b c m ty => exact roundTrips_6 (fun x => f0 x (decVVV _ x ty0to5 .vsub)) rfl rfl (fun _ => rfl) (decVVV_placed _ hwf)
  | vmul v b c m ty => exact roundTrips_6 (fun x => f0 x (decVVV _ x ty0to5 .vmul)) rfl rfl (fun _ => rfl) (decVVV_placed _ hwf)
  | vfma v b c m ty => exact roundTrips_6 (fun x => f0 x (decVVV _ x ty0to5 .vfma)) rfl rfl (fun _ => rfl) (decVVV_placed _ hwf)
  | vmin v b c m ty | vmax v b c m ty => exact roundTrips_6 (decVminVmax _) rfl rfl (fun _ => rfl) (decVVV_placed _ hwf)
  | vrcp v b m ty | vrsqrt v b m ty | vexp2 v b m ty | vlog2 v b m ty | vabs v b m ty | vneg v b m ty =>
    exact roundTrips_6 (decV55 _) rfl rfl (fun _ => rfl) (decVV_placed _ hwf)
  | vcmpEq d b c m ty | vcmpNe d b c m ty | vcmpLt d b c m ty | vcmpLe d b c m ty =>
    exact roundTrips_6 (decV56 _) rfl rfl (fun _ => rfl) (decGVV_placed _ hwf)
  | vsel v b c m ty => exact roundTrips_6 (fun x => f0 x (decVVV _ x tyAll .vsel)) rfl rfl (fun _ => rfl) (decVVV_placed _ (tyIn_all ty))
  | vand v b c m ty | vor v b c m ty | vxor v b c m ty | vandn v b c m ty =>
    exact roundTrips_6 (decV58 _) rfl rfl (fun _ => rfl) (decVVV_placed _ (tyIn_all ty))
  | vshl v b c m ty | vshr v b c m ty | vsar v b c m ty => exact roundTrips_6 (decV59 _) rfl rfl (fun _ => rfl) (decVVV_placed _ hwf)
  | vcvt v b m ty rm p inf =>
    exact roundTrips_6 (decVcvt _) rfl rfl (fun _ => rfl)
      (by simp [-BitVec.getLsbD_eq_getElem, decVcvt, cvtX_part, rmSc_low, rmSc_high, vAok_vg, vA_vg, Src.vok_g, Src.v_g, Src.none_z, only])
  | vsum d b m ty | vrmax d b m ty | vrmin d b m ty => exact roundTrips_6 (decV5B _) rfl rfl (fun _ => rfl) (decGV_placed _ hwf)
  | vperm v b c m ty => exact roundTrips_6 (decV5C _) rfl rfl (fun _ => rfl) (decVVV_placed _ (tyIn_all ty))
  | vbcast v b m ty | vins v b c ty | vextr d b c ty =>
    exact roundTrips_6 (decV5C _) rfl rfl (fun _ => rfl) (by simp [decV5C, vPlain, tyIn_all, vAok_vg, vA_vg, Src.vok_g, Src.v_g, Src.none_z, only])
  | vlut v b m ty rm p inf =>
    exact roundTrips_6 (decVlut _) rfl rfl (fun _ => rfl)
      (by simpa [-BitVec.getLsbD_eq_getElem, decVlut, cvtX_fields, rmSc_low, rmSc_high, vAok_vg, vA_vg, Src.vok_g, Src.v_g, Src.none_z, only]
        using (show tyIn ty3or5 ty = true from hwf))
  | vdot d b c m ty => exact roundTrips_6 (fun x => f0 x (decGVV _ x tyAll .vdot)) rfl rfl (fun _ => rfl) (decGVV_placed _ (tyIn_all ty))
  | vtagg d b | vtags v b =>
    exact roundTrips_6 (decVtag _) rfl rfl (fun _ => rfl) (by simp [decVtag, vAok_vg, vA_vg, Src.vok_g, Src.v_g, Src.none_z, only])
  | vmov v b m ty => exact roundTrips_6 (fun x => f0 x (decVV _ x tyAll .vmov)) rfl rfl (fun _ => rfl) (decVV_placed _ (tyIn_all ty))
  | vscale v b c m ty rm st =>
    exact roundTrips_6 (decVscale _) rfl rfl (fun _ => rfl)
      (by simpa [-BitVec.getLsbD_eq_getElem, decVscale, rmSc_low, rmSc_high, vAok_vg, vA_vg, Src.vok_g, Src.v_g, only]
        using (show tyIn ty3to5 ty = true from hwf))
  -- Engines, queues, contexts, launches, gangs and the system (R336, R346 to R365).
  | push d b => exact roundTrips_2r (fun x => only (x.f == 0 && x.c.none) (.push _ x.b)) rfl rfl (fun _ => rfl) rfl
  | copy d b c n sc tags rq dk =>
    exact roundTrips_6 (decCopy _) rfl rfl (fun _ => rfl)
      (by simpa [-BitVec.getLsbD_eq_getElem, decCopy, copyX_fields, only, Decidable.imp_iff_not_or]
        using (show (dk != 3 && (dk == 0 || (n.reg != 0 && n.reg != 63))) = true from hwf))
  | waitt b => exact roundTrips_2r (fun x => only (x.f == 0 && x.c.none) (.waitt x.b)) rfl rfl (fun _ => rfl) rfl
  | qbind q b | qunbind q | qstat d q =>
    exact roundTrips_2r (decQueue _) rfl rfl (fun _ => rfl) (by simp [decQueue, qOk_qg, qNum_qg, Src.none_z, only])
  | sopen q b c | sclose q => exact roundTrips_2r (decStream _) rfl rfl (fun _ => rfl) (by simp [decStream, qOk_qg, qNum_qg, Src.none_z, only])
  | start b | reap d b | endTask | yield => exact roundTrips_2r (decCtx _) rfl rfl (fun _ => rfl) rfl
  | apply b sc | post b c sc => exact roundTrips_6 (decLaunch _) rfl rfl (fun _ => rfl) rfl
  | mkfn b c sc x | mkco b c sc x | mkseq b c sc x | mkpar b c sc x | mkpipe b c sc x | mkfarm b c sc x | mkloop b c sc x =>
    exact roundTrips_6 (decMk _) rfl rfl (fun _ => rfl) (by simp [decMk, setWidth_low, Src.none_z, only])
  | cresume d b c | cyield d b => exact roundTrips_2r (decCo _) rfl rfl (fun _ => rfl) rfl
  | gform b | gleave | gjoin | gend => exact roundTrips_2r (decGang _) rfl rfl (fun _ => rfl) rfl
  | rand d b | reseed b c | exq d b c | exh d b => exact roundTrips_2r (decRand _) rfl rfl (fun _ => rfl) rfl
  | mfs d n | mts n a =>
    exact roundTrips_4i (decSys _) rfl rfl (fun _ => rfl)
      (by simpa [decSys, setWidth_low, setWidth_high, Src.none_z, only] using (show sysRegListed n = true from hwf))
  | svc i => exact roundTrips_of_tail (op := 0x7D) rfl rfl (congrArg (fun k => some (Instr.svc k)) (setWidth_low i (by decide)))
  | eret => exact roundTrips_of_tail (op := 0x7D) rfl rfl rfl
  | brk i => exact roundTrips_of_tail (op := 0x7D) rfl rfl (congrArg (fun k => some (Instr.brk k)) (setWidth_low i (by decide)))
  | tlbi1 b c | tlbi2 b c | tlbsync => exact roundTrips_2r (decTlb _) rfl rfl (fun _ => rfl) rfl
  -- A step of the hardware has no encoding.
  | _ => exact roundTrips_of_none rfl

end Sys2Proof

open Sys2Proof

/-- Settles O49: every well-formed instruction round-trips, one layout's fields and one opcode's decoder at a time. -/
theorem encodeDecode : Obligations.EncodeDecode := fun i w hwf he => roundTrips_of_wf i hwf w he
end

section
/-!
PROOFS. The values of the bit operations, as the statements write them (R280, R281).
-/

namespace Sys2Proof.Machine

variable (x : Word)

/-! The bit counts (R280). -/

/-- The highest bit that is set counts the zeros above it. -/
theorem clzR_of_highest {k : Nat} (hx : x.getLsbD k = true) (above : ∀ j, k < j → x.getLsbD j = false) :
    clzR x = BitVec.ofNat 64 (63 - k) := by
  have low : 2 ^ k ≤ x.toNat := Nat.ge_two_pow_of_testBit hx
  have high : x.toNat < 2 ^ (k + 1) := Nat.lt_pow_two_of_testBit _ fun j hj => above j hj
  have nonzero : x.toNat ≠ 0 := by have := Nat.two_pow_pos k; omega
  rw [clzR, if_neg (fun h => nonzero (by simp [h])), (Nat.log2_eq_iff nonzero).2 ⟨low, high⟩, w64]

theorem ctzCount_zero (n : Nat) : ctzCount 0 n = n := by
  induction n with
  | zero => rfl
  | succ n ih => simp [ctzCount, ih, Nat.add_comm]

/-- The lowest bit that is set, below n, is the count of the zeros under it. -/
theorem ctzCount_of_lowest {v k n : Nat} (hk : k < n) (hv : v.testBit k = true) (below : ∀ j, j < k → v.testBit j = false) :
    ctzCount v n = k := by
  induction n generalizing v k with
  | zero => omega
  | succ n ih =>
    cases k with
    | zero => simpa [ctzCount, Nat.testBit_zero] using hv
    | succ k =>
      have even : ¬v % 2 = 1 := by simpa [Nat.testBit_zero] using below 0 (Nat.succ_pos k)
      have half (j : Nat) : (v / 2).testBit j = v.testBit (j + 1) := (Nat.testBit_succ v j).symm
      rw [ctzCount, if_neg even, ih (Nat.lt_of_succ_lt_succ hk) (by rwa [half]) fun j hj => by rw [half]; exact below _ (by omega)]
      omega

theorem popcount_eq_countP (v n : Nat) : popcount v n = (List.range n).countP v.testBit := by
  induction n with
  | zero => rfl
  | succ n ih =>
    rw [popcount, ih, List.range_succ, List.countP_append, List.countP_singleton, Nat.testBit_eq_decide_div_mod_eq]
    rcases Nat.mod_two_eq_zero_or_one (v / 2 ^ n) with h | h <;> simp [h]

/-- The bytes that are already swapped stand above those that come. -/
theorem swapBytes_high (v acc n : Nat) : swapBytes v acc n / 256 ^ n = acc := by
  induction n generalizing v acc with
  | zero => simp [swapBytes]
  | succ n ih =>
    rw [swapBytes, Nat.pow_succ, ← Nat.div_div_eq_div_mul, ih]
    omega

/-- Byte k of n swapped bytes is byte n - 1 - k. -/
theorem swapBytes_byte {v acc n k : Nat} (hk : k < n) : swapBytes v acc n / 256 ^ k % 256 = v / 256 ^ (n - 1 - k) % 256 := by
  induction n generalizing v acc with
  | zero => omega
  | succ n ih =>
    by_cases h : k = n
    · subst h
      rw [swapBytes, swapBytes_high]
      simp
    · rw [swapBytes, ih (by omega), Nat.div_div_eq_div_mul, ← Nat.pow_succ', Nat.succ_eq_add_one, show n - 1 - k + 1 = n + 1 - 1 - k by omega]

theorem bswapR_byte {k : Nat} (hk : k < 8) : (bswapR x).extractLsb' (8 * k) 8 = x.extractLsb' (56 - 8 * k) 8 := by
  have byte (w : Word) (j : Nat) : (w.extractLsb' (8 * j) 8).toNat = w.toNat / 256 ^ j % 256 := by
    rw [BitVec.extractLsb'_toNat, Nat.shiftRight_eq_div_pow, Nat.pow_mul]
  have low : (2 : Nat) ^ 64 = 256 ^ k * 256 ^ (8 - k) := by
    have eight : (2 : Nat) ^ 64 = 256 ^ 8 := by decide
    rw [eight, ← Nat.pow_add, show k + (8 - k) = 8 by omega]
  have top : 256 ∣ 256 ^ (8 - k) := Nat.pow_dvd_pow (m := 1) 256 (by omega)
  rw [← BitVec.toNat_inj, show 56 - 8 * k = 8 * (7 - k) by omega, byte, byte, bswapR, w64, BitVec.toNat_ofNat, low, Nat.mod_mul_right_div_self,
    Nat.mod_mod_of_dvd _ top, swapBytes_byte hk]

/-! Extensions and bit fields (R280, R281). -/

theorem zext64_low (n : Nat) : zext64 x.toNat n = (x.extractLsb' 0 n).setWidth 64 := by
  rw [← BitVec.toNat_inj, BitVec.toNat_setWidth, BitVec.extractLsb'_toNat, zext64, w64, BitVec.toNat_ofNat, Nat.shiftRight_zero]

theorem fieldLen_eq (l : BitVec 6) : fieldLen l = if l = 0 then 64 else l.toNat := by
  simp only [fieldLen, ← BitVec.toNat_inj]
  rfl

theorem extuR_eq {p l : Nat} (hl : l ≤ 64) : extuR x p l = (x >>> p) &&& BitVec.ofNat 64 (2 ^ l - 1) := by
  have mask : (2 ^ l - 1) % 2 ^ 64 = 2 ^ l - 1 :=
    Nat.mod_eq_of_lt (Nat.lt_of_lt_of_le (Nat.sub_lt (Nat.two_pow_pos l) Nat.one_pos) (Nat.pow_le_pow_right (by decide) hl))
  have small : x.toNat / 2 ^ p % 2 ^ l < 2 ^ 64 :=
    Nat.lt_of_le_of_lt (Nat.le_trans (Nat.mod_le _ _) (Nat.div_le_self _ _)) x.isLt
  rw [← BitVec.toNat_inj, BitVec.toNat_and, BitVec.toNat_ofNat, mask, Nat.and_two_pow_sub_one_eq_mod, BitVec.toNat_ushiftRight,
    Nat.shiftRight_eq_div_pow, extuR, zext64, w64, BitVec.toNat_ofNat, Nat.mod_eq_of_lt small]

theorem extsR_eq {p l : Nat} (hp : 0 < l) (hl : p + l ≤ 64) : extsR x p l = (x <<< (64 - l - p)).sshiftRight (64 - l) := by
  have field (i : Nat) : (BitVec.ofNat l (x.toNat / 2 ^ p)).getLsbD i = (decide (i < l) && x.getLsbD (p + i)) := by
    rw [BitVec.getLsbD_ofNat, Nat.testBit_div_two_pow, Nat.add_comm]
    rfl
  have shifted {j : Nat} (h1 : 64 - l - p ≤ j) (h2 : j < 64) : (x <<< (64 - l - p)).getLsbD j = x.getLsbD (j - (64 - l - p)) := by
    rw [BitVec.getLsbD_shiftLeft, decide_eq_true h2, decide_eq_false (Nat.not_lt.2 h1)]
    rfl
  ext i hi
  rw [extsR, sext64, BitVec.getElem_signExtend, BitVec.getElem_sshiftRight, BitVec.msb_eq_getLsbD_last, BitVec.msb_eq_getLsbD_last, field]
  by_cases h : i < l
  · rw [dif_pos h, dif_pos (by omega), ← BitVec.getLsbD_eq_getElem, ← BitVec.getLsbD_eq_getElem, field, decide_eq_true h, Bool.true_and,
      shifted (by omega) (by omega), show 64 - l + i - (64 - l - p) = p + i by omega]
  · -- Bits above the field repeat its highest one.
    rw [dif_neg h, dif_neg (by omega), decide_eq_true (by omega), Bool.true_and, shifted (by omega) (by omega),
      show 64 - 1 - (64 - l - p) = p + (l - 1) by omega]

end Sys2Proof.Machine
end

section
/-!
PROOFS. Bit operations, scalar floating point, branches and safe points (R280 to R295).
-/

namespace Sys2Proof.Machine

variable {s : State} {i : Instr} {d : GReg} {b c e : Src} {v : Word}

/-! An instruction whose meaning is one of the shared operations, its checks passed. -/

theorem exec_long1 {f : Word → Word} (hi : exec i s = runEx (long1 d b f) s) (hg : s.mayUse .base = true)
    (hr : s.readable [src b, dst d] = true) (hv : f (s.gValue b.reg.toNat) = v) :
    exec i s = .next (s.givesLater [src b, dst d] (.g d.toNat) (.word v)) := by
  rw [hi, ← hv]
  exact runEx_ok _ _ _ (long1_ok s d b f hg hr)

theorem exec_opFma {negP negC : Bool} (hi : exec i s = runEx (opFma d b c e negP negC) s) (hg : s.mayUse .base = true)
    (hr : s.readable [src b, src c, src e, dst d] = true) :
    exec i s = .next (s.givesG [src b, src c, src e, dst d] d
      (fres (fp32.fmaB (f32 (s.gValue b.reg.toNat)) (f32 (s.gValue c.reg.toNat)) (f32 (s.gValue e.reg.toNat)) negP negC))) := by
  rw [hi]
  refine runEx_ok _ _ _ ?_
  simp [opFma, Ex.bind_apply, needGroup_ok s _ hg, rd3_ok s _ _ _ _ hr, State.givesG]

theorem exec_ins (pos len : BitVec 6) (hg : s.mayUse .base = true) (hr : s.readable [src b, src0 d, dst d] = true) :
    exec (.ins d b pos len) s = .next (s.givesG [src b, src0 d, dst d] d
      (insR (s.gValue d.toNat) (s.gValue b.reg.toNat) pos.toNat (fieldLen len))) := by
  refine runEx_ok _ _ _ ?_
  simp [Ex.bind_apply, needGroup_ok s _ hg, rd2_ok s _ _ _ hr, State.givesG]

theorem exec_sel (hg : s.mayUse .base = true) (hr : s.readable [src b, src c, src e, dst d] = true) :
    exec (.sel d b c e) s = .next (s.givesG [src b, src c, src e, dst d] d
      (if s.gValue b.reg.toNat = 0 then s.gValue e.reg.toNat else s.gValue c.reg.toNat)) := by
  refine runEx_ok _ _ _ ?_
  simp [Ex.bind_apply, needGroup_ok s _ hg, rd3_ok s _ _ _ _ hr, State.givesG]

/-! Branches and jumps (R290 to R293). -/

section
variable {cond : Word → Word → Bool} {disp : BitVec 24} (hi : exec i s = runEx (branch b c disp cond) s) (hg : s.mayUse .base = true)
  (hr : s.readable [src b, src c] = true)
include hi hg hr

/-- A branch that is taken goes to its target once the target's checks pass (R258, R290). -/
theorem exec_branch_taken {pa : Nat} {e : TlbEntry} (hc : cond (s.gValue b.reg.toNat) (s.gValue c.reg.toNat) = true)
    (ht : s.codeAt (relTarget s.here.pc disp) pa e = true) :
    exec i s = .next (s.transfers [src b, src c] (relTarget s.here.pc disp)) := by
  rw [hi]
  refine runEx_ok _ _ _ ?_
  simp [branch, Ex.bind_apply, needGroup_ok s _ hg, pk2_ok s _ _ _ hr, hc, checkTarget_ok s _ _ _ ht, State.transfers]

/-- A branch that is not taken checks no target (R258, R290). -/
theorem exec_branch_not_taken (hc : cond (s.gValue b.reg.toNat) (s.gValue c.reg.toNat) = false) :
    exec i s = .next (s.popAll [src b, src c]).done := by
  rw [hi]
  refine runEx_ok _ _ _ ?_
  simp [branch, Ex.bind_apply, needGroup_ok s _ hg, pk2_ok s _ _ _ hr, hc]

end

theorem exec_jal {disp : BitVec 24} {pa : Nat} {e : TlbEntry} (hg : s.mayUse .base = true) (hd : s.dstReady d.toNat = true)
    (ht : s.codeAt (relTarget s.here.pc disp) pa e = true) :
    exec (.jal d disp) s = .next ((s.wrote d s.here.npc).transfers [] (relTarget s.here.pc disp)) := by
  refine runEx_ok _ _ _ ?_
  simp [Ex.bind_apply, needGroup_ok s _ hg, checkDest_ok s _ hd, checkTarget_ok s _ _ _ ht]
  rfl

theorem exec_jalr {k : BitVec 21} {pa : Nat} {e : TlbEntry} (hg : s.mayUse .base = true) (hr : s.readable [src b, dst d] = true)
    (ht : s.codeAt (effAddr (s.gValue b.reg.toNat) k) pa e = true) :
    exec (.jalr d b k) s = .next (((s.popAll [src b]).wrote d s.here.npc).transfers [] (effAddr (s.gValue b.reg.toNat) k)) := by
  refine runEx_ok _ _ _ ?_
  simp [Ex.bind_apply, needGroup_ok s _ hg, pk1_ok s _ _ hr, checkTarget_ok s _ _ _ ht]
  rfl

/-! The order of two values, and the conversions, in the form of R289. -/

theorem FVal.cmp_sign {x y : FVal} {n : Int} (h : x.cmp y = some n) : n = -1 ∨ n = 0 ∨ n = 1 := by
  unfold FVal.cmp at h
  split at h
  · cases h
  · cases h
  · cases h; split
    · simp
    · split <;> simp
  · cases h; split <;> simp
  · cases h; split <;> simp
  · cases h
    obtain sign | sign | sign := Int.sign_trichotomy _
    · exact .inr (.inr sign)
    · exact .inr (.inl sign)
    · exact .inl sign

theorem fpLe_eq (x y : Nat) : fpLe x y = ((fp32.value x).cmp (fp32.value y) == some 0 || (fp32.value x).cmp (fp32.value y) == some (-1)) := by
  unfold fpLe
  split
  case h_1 n hn =>
    obtain rfl | rfl | rfl := FVal.cmp_sign hn <;> rw [hn] <;> rfl
  case h_2 hn =>
    rw [hn]
    rfl

/-- A source of 16 bits lies in the low half of its register. -/
theorem cvtFmt_low {from16 : Fmt} (hw : from16.width = 16) (dst : Fmt) (rm : BitVec 2) (x : Word) :
    cvtFmt from16 dst rm x = w64 (dst.ofVal rm (from16.value (f32 x % 2 ^ 16))) := by
  rw [cvtFmt, fres, f32, hw, Nat.mod_mod_of_dvd _ (by decide)]

end Sys2Proof.Machine

open Sys2Proof Sys2Proof.Machine

/-- Settles O4: each bit operation is op1 at its function of the value, a count at the highest or the lowest bit that is set. -/
theorem bitOps : Obligations.BitOps := by
  intro s d b c e pos len hg x old l m gives
  have hl : fieldLen len = l := fieldLen_eq len
  have l_pos : 0 < l := by
    rw [← hl, fieldLen]
    split <;> omega
  have l_le : l ≤ 64 := by
    rw [← hl, fieldLen]
    split <;> omega
  refine ⟨fun hr => ?_, fun hr _ => ?_, fun hr => exec_sel hg hr⟩
  · refine ⟨fun hx => ?_, fun k _ hk above => exec_op1 rfl hg hr (clzR_of_highest x hk above), fun k hk64 hk below => ?_, ?_, ?_,
      exec_op1 rfl hg hr rfl, exec_op1 rfl hg hr rfl, exec_op1 rfl hg hr rfl, exec_op1 rfl hg hr (zext64_low x 32), fun hp => ?_⟩
    · have value (f : Word → Word) : f (s.gValue b.reg.toNat) = f 0 := congrArg f hx
      exact ⟨exec_op1 rfl hg hr (value clzR), exec_op1 rfl hg hr (value ctzR), exec_op1 rfl hg hr (value popcR)⟩
    · exact exec_op1 rfl hg hr (congrArg w64 (ctzCount_of_lowest hk64 hk below))
    · exact exec_op1 rfl hg hr (congrArg w64 (popcount_eq_countP x.toNat 64))
    · exact ⟨bswapR x, exec_op1 rfl hg hr rfl, fun k hk => bswapR_byte x hk⟩
    · exact ⟨exec_op1 rfl hg hr (by rw [hl]; exact extuR_eq x l_le), exec_op1 rfl hg hr (by rw [hl]; exact extsR_eq x l_pos hp)⟩
  · rw [exec_ins pos len hg hr, hl]
    rfl

/-- Settles O5: op1, op2, long1, long2 and opFma at each function of the low halves. -/
theorem floatOps : Obligations.FloatOps := by
  intro s d c' b c e rm hg f x y w g two one cmp fma
  refine ⟨fun hr => ?_, fun hr => ?_, fun hr => ?_, fun hr => ?_⟩
  · exact ⟨exec_op2 rfl hg hr rfl, exec_op2 rfl hg hr rfl, exec_op2 rfl hg hr rfl, exec_op2 rfl hg hr rfl, exec_op2 rfl hg hr rfl,
      exec_long2 rfl hg hr rfl⟩
  · exact ⟨exec_long1 rfl hg hr rfl, exec_op1 rfl hg hr rfl, exec_op1 rfl hg hr rfl, exec_op1 rfl hg hr rfl, exec_op1 rfl hg hr rfl,
      exec_op1 rfl hg hr (cvtFmt_low rfl _ _ _), exec_op1 rfl hg hr rfl, exec_op1 rfl hg hr (cvtFmt_low rfl _ _ _)⟩
  · exact ⟨exec_op2 (c := ⟨c', false⟩) rfl hg hr rfl, exec_op2 (c := ⟨c', false⟩) rfl hg hr rfl,
      exec_op2 (c := ⟨c', false⟩) rfl hg hr (congrArg flag (fpLe_eq x g))⟩
  · exact ⟨exec_opFma rfl hg hr, exec_opFma rfl hg hr, exec_opFma rfl hg hr, exec_opFma rfl hg hr⟩

/-- Settles O6: each branch is the shared one at its condition. -/
theorem branchOps : Obligations.BranchOps := by
  intro s a b d disp i pa e hg x y t runs
  refine ⟨fun hr => ?_, fun hd ht => exec_jal hg hd ht, fun hr ht => exec_jalr hg hr ht⟩
  have each {j : Instr} {cond : Word → Word → Bool} {p : Prop} (hi : exec j s = runEx (branch a b disp cond) s)
      (hc : cond x y = true ↔ p) : runs j p :=
    ⟨fun hp ht => exec_branch_taken hi hg hr (hc.2 hp) ht,
      fun hp => exec_branch_not_taken hi hg hr (Bool.eq_false_iff.2 fun h => hp (hc.1 h))⟩
  refine ⟨each rfl ?_, each rfl ?_, each rfl ?_, each rfl ?_, each rfl ?_, each rfl ?_⟩
  · simp [condEq]
  · simp [condNe]
  · simp [condLt, BitVec.slt_eq_decide]
  · simp [condGe, BitVec.slt_eq_decide]
  · simp [condLtu, BitVec.ult_eq_decide]
  · simp [condGeu, BitVec.ult_eq_decide]

/-- Settles O7: SAFEPT of a helper advances, and then saves or clears the count. -/
theorem safePoint : Obligations.SafePoint := by
  intro s g v hg hcur
  refine ⟨fun hq hs => runEx_ok _ _ _ ?_, fun h => runEx_ok _ _ _ ?_⟩
  · simp [Ex.bind_apply, needGroup_ok s _ hg, hcur, hq, hs]
    rfl
  · simp [Ex.bind_apply, needGroup_ok s _ hg, hcur, h]
    rfl
end

section
/-!
PROOFS. Loads, stores and typed accesses of the context's own local store (R299 to R306, R311).
-/

namespace Sys2Proof.Machine

variable {s : State} {i : Instr} {d : GReg} {b c m : Src} {va : Word} {off : Nat}

/-- The checks of a vector instruction, one at a time (R266, R319). -/
theorem mayVec_checks {g : Group} (h : s.mayVec g = true) : needGroup g s = .ok () s ∧ needVector s = .ok () s := by
  simp only [State.mayVec, Bool.and_eq_true, Bool.not_eq_true'] at h
  obtain ⟨⟨hg, hv⟩, hc⟩ := h
  exact ⟨needGroup_ok s _ hg, by simp [needVector, Ex.bind_apply, hv, hc]⟩

/-! Loads and stores at an address of a base register (R300 to R302). -/

/-- A load that extends by zeros receives its bytes, which are already below the size's bound (R300). -/
theorem loadValue_zext (x : Block) (t : Tag) (a n : Nat) :
    loadValue x t a n false false = .word (BitVec.ofNat 64 (blockBytes x (a % 64) n)) := by
  simp [loadValue, extendTo, zext64, blockBytes, w64]

theorem exec_load_local {k : BitVec 21} {n : Nat} {sg : Bool} {v : Arrival} (hi : exec i s = runEx (load d b k n sg) s)
    (hg : s.mayUse .base = true) (hr : s.readable [src b, dst d] = true)
    (hl : s.localOk (effAddr (s.gValue b.reg.toNat) k) n off false = true)
    (hv : loadValue (s.ownBlock off).1 (s.ownBlock off).2 off n sg false = v) :
    exec i s = .next (s.givesLoad [src b] (.g d.toNat) (s.localReq (effAddr (s.gValue b.reg.toNat) k) n) false v) := by
  rw [hi, ← hv]
  refine runEx_ok _ _ _ ?_
  simp [load, Ex.bind_apply, needGroup_ok s _ hg, pk1_ok s _ _ hr, loadTo_local s _ _ _ _ _ _ _ _ _ hl]

theorem exec_vload_local {v : VReg} {k : BitVec 21} {nt : Bool} (hi : exec i s = runEx (vload v b k nt) s) (hv : s.mayVec .vec = true)
    (hr : s.readable [src b, vdst v] = true) (hl : s.localOk (effAddr (s.gValue b.reg.toNat) k) 64 off false = true) :
    exec i s = .next (s.givesLoad [src b] (.v v.toNat) (s.localReq (effAddr (s.gValue b.reg.toNat) k) 64) false
      (.vec (s.ownBlock off).1 (s.ownBlock off).2)) := by
  obtain ⟨hg, hn⟩ := mayVec_checks hv
  rw [hi]
  refine runEx_ok _ _ _ ?_
  simp [vload, Ex.bind_apply, hg, hn, pk1_ok s _ _ hr, loadTo_local s _ _ _ _ _ _ _ _ _ hl, loadValue]

/-- An acquire with no earlier STL outstanding does not wait (R182). -/
theorem stlWait_ok (h : s.here.releases = []) : stlWait s = .ok () s := by
  simp [stlWait, Ex.bind_apply, h]

theorem exec_lda_local {sc : BitVec 3} {w : BitVec 2} {k : BitVec 19} (hg : s.mayUse .base = true)
    (hp : (sc = 5 ∨ sc = 6) → s.mayUse .peer = true) (hr : s.readable [src b, dst d] = true) (hq : sc = 0 ∨ s.here.releases = [])
    (hl : s.localOk (effAddr (s.gValue b.reg.toNat) k) (2 ^ w.toNat) off false = true) :
    exec (.lda d b sc w k) s = .next (s.givesLoad [src b] (.g d.toNat) (s.localReq (effAddr (s.gValue b.reg.toNat) k) (2 ^ w.toNat)) (sc != 0)
      (.word (BitVec.ofNat 64 (blockBytes (s.ownBlock off).1 (off % 64) (2 ^ w.toNat))))) := by
  rw [← loadValue_zext _ (s.ownBlock off).2]
  refine runEx_ok _ _ _ ?_
  by_cases h0 : sc = 0
  · subst h0
    simp [Ex.bind_apply, needGroup_ok s _ hg, show needScope 0#3 s = .ok () s from rfl, pk1_ok s _ _ hr, loadTo_local s _ _ _ _ _ _ _ _ _ hl]
  · simp [Ex.bind_apply, needGroup_ok s _ hg, needScope_ok s _ hp, pk1_ok s _ _ hr, stlWait_ok (hq.resolve_left h0),
      loadTo_local s _ _ _ _ _ _ _ _ _ hl]

theorem exec_store_local {a : GReg} {k : BitVec 21} {n : Nat} (hi : exec i s = runEx (store a b k n) s) (hg : s.mayUse .base = true)
    (hr : s.readable [src0 a, src b] = true) (hl : s.localOk (effAddr (s.gValue b.reg.toNat) k) n off true = true) :
    exec i s = .next (s.storesLocal [src0 a, src b] off (storedBytes (effAddr (s.gValue b.reg.toNat) k) n (s.gValue a.toNat))) := by
  rw [hi]
  refine runEx_ok _ _ _ ?_
  simp [store, Ex.bind_apply, needGroup_ok s _ hg, pk2_ok s _ _ _ hr, storeTo_local s _ _ _ _ _ _ hl]

theorem exec_vstore_local {v : VReg} {k : BitVec 21} {kind : StoreKind} (hi : exec i s = runEx (vstore v b k kind) s)
    (hv : s.mayVec .vec = true) (hr : s.readable [vsrc0 v, src b] = true)
    (hl : s.localOk (effAddr (s.gValue b.reg.toNat) k) 64 off true = true) :
    exec i s = .next (s.storesLocal [src b] off ⟨s.vData v.toNat, BitVec.allOnes 64, none⟩) := by
  obtain ⟨hg, hn⟩ := mayVec_checks hv
  rw [hi]
  refine runEx_ok _ _ _ ?_
  simp [vstore, Ex.bind_apply, hg, hn, pk2_ok s _ _ _ hr, storeTo_local s _ _ _ _ _ _ hl]

theorem exec_stl_local {a : GReg} {sc : BitVec 3} {w : BitVec 2} {k : BitVec 19} (hg : s.mayUse .base = true)
    (hp : (sc = 5 ∨ sc = 6) → s.mayUse .peer = true) (hr : s.readable [src0 a, src b] = true) (ho : s.here.owed = none)
    (hw : (s.core (coreOf s.cur)).windows = []) (hm : s.windowMerging (coreOf s.cur) true = false)
    (hl : s.localOk (effAddr (s.gValue b.reg.toNat) k) (2 ^ w.toNat) off true = true) :
    let va := effAddr (s.gValue b.reg.toNat) k
    let st := storedBytes va (2 ^ w.toNat) (s.gValue a.toNat)
    exec (.stl a b sc w k) s = .next ((s.startRelease s.cur sc false (some { s.localReq va (2 ^ w.toNat) with
      op := .winFill, c := w64 off, data := st.data, mask := st.mask })).popAll [src0 a, src b]).done := by
  refine runEx_ok _ _ _ ?_
  simp [Ex.bind_apply, needGroup_ok s _ hg, needScope_ok s _ hp, pk2_ok s _ _ _ hr,
    storeTo_local_rel s _ _ _ _ _ _ hl (show (storedBytes _ _ _).tag = none from rfl) hw hm ho]

/-! Typed accesses, tags and codebook slots (R303 to R306, R311). -/

/-- A block that an instruction goes on with, in the context's own local store (R297). -/
theorem readNow_local {n : Nat} {fail : Cause → Word → Ex Unit} (hm : (s.here.marker blockMarker).isNone = true)
    (hl : s.localOk va n off false = true) : readNow va n n fail s = .ok (s.ownBlock off) s := by
  have marker : s.here.marker blockMarker = none := Option.isNone_iff_eq_none.1 hm
  simp [readNow, Ex.bind_apply, localOk_gate s _ _ _ _ hl, marker, resolve_local s va n off .read hl, State.ownBlock]

theorem distinct_subset {l : List Word} {x : Word} (h : x ∈ distinct l) : x ∈ l := by
  suffices grow : ∀ a : List Word, x ∈ l.foldl (fun a y => if a.contains y then a else a ++ [y]) a → x ∈ a ∨ x ∈ l by
    simpa using grow [] h
  clear h
  induction l with
  | nil => exact fun a h => .inl h
  | cons y l ih =>
    intro a h
    rcases ih _ h with h | h
    · dsimp only at h
      split at h
      · exact .inl h
      · rcases List.mem_append.1 h with h | h
        · exact .inl h
        · exact .inr (List.mem_cons.2 (.inl (List.mem_singleton.1 h)))
    · exact .inr (List.mem_cons_of_mem _ h)

/-- The address of the block that holds a lane's element (R304). -/
def laneBlock (base : Word) (e ns i : Nat) : Word := base + w64 (64 * ((e + i) / ns))

theorem laneBlock_first {base : Word} {e n ns i : Nat} (he : e + n ≤ ns) (hi : i < n) : laneBlock base e ns i = base := by
  simp [laneBlock, Nat.div_eq_of_lt (show e + i < ns by omega), w64]

/-- A typed load whose lanes' elements all lie in its first block reads no other (R304). -/
theorem ldt_no_others {base : Word} {e n ns : Nat} (p : Nat → Bool) (he : e + n ≤ ns) :
    ((distinct (((upTo n).filter p).map (laneBlock base e ns))).filter fun a => a != base) = [] := by
  rw [List.filter_eq_nil_iff]
  intro a ha
  obtain ⟨i, hi, rfl⟩ := List.mem_map.1 (distinct_subset ha)
  simp [laneBlock_first he (List.mem_range.1 (List.mem_filter.1 hi).1)]

/-- LDT of elements that all lie in its first block (R304). -/
theorem exec_ldt_local {v : VReg} {ty : BitVec 3} {rm : BitVec 2} {inf : Bool} {ns : Nat} (hv : s.mayVec .matrix = true)
    (hm : (s.here.marker blockMarker).isNone = true) (hr : s.readable ([src b, src c] ++ maskOp m ++ [vdst v]) = true)
    (hl : s.localOk (s.gValue b.reg.toNat) 64 off false = true) (hf : fmtElems (tagFmt (s.ownBlock off).2) = some ns)
    (he : (s.gValue c.reg.toNat).toNat + tyLanes ty ≤ ns) :
    exec (.ldt v b c m ty rm inf) s = .next (s.givesLater ([src b, src c] ++ maskOp m ++ [vdst v]) (.v v.toNat)
      (.vec (ofLanes (tyWidth ty) ((upTo (tyLanes ty)).map fun n =>
        if (s.maskOf m).getLsbD n then
          loadElem (s.core (coreOf s.cur)).books (s.ownBlock off).1 (s.ownBlock off).2 ((s.gValue c.reg.toNat).toNat + n) ty rm (!inf)
        else 0)) (stdTag ty))) := by
  obtain ⟨hg, hn⟩ := mayVec_checks hv
  refine runEx_ok _ _ _ ?_
  simp only [Ex.bind_apply, hg, hn, checkOpnds_ok s _ hr, maskValue_ok, Ex.get_apply, readNow_local hm hl]
  rw [hf]
  simp only [Ex.bind_apply]
  rw [show (fun i => s.gValue b.reg.toNat + w64 (64 * (((s.gValue c.reg.toNat).toNat + i) / ns)))
    = laneBlock (s.gValue b.reg.toNat) (s.gValue c.reg.toNat).toNat ns from rfl, ldt_no_others _ he]
  simp only [readBlocks, Ex.pure_apply, Ex.get_apply, Ex.pop_apply, Ex.produce_apply, Ex.advance_apply, Ex.arriveLater_apply, State.givesLater]
  congr 6
  refine List.map_congr_left fun n hn => ?_
  have hn : n < tyLanes ty := List.mem_range.1 hn
  have first : s.gValue b.reg.toNat + w64 (64 * (((s.gValue c.reg.toNat).toNat + n) / ns)) = s.gValue b.reg.toNat := laneBlock_first he hn
  rw [first, Nat.mod_eq_of_lt (by omega), List.find?_cons_of_pos (by simp)]

theorem exec_stt_local {v : VReg} {ty : BitVec 3} {rm : BitVec 2} {inf : Bool} {scale : BitVec 8} {se : Elem} (hv : s.mayVec .matrix = true)
    (hr : s.readable ([vsrc0 v, src b, src c] ++ maskOp m) = true) (hl : s.localOk (s.gValue b.reg.toNat) 64 off true = true)
    (hf : laneFmt (tagFmt (s.vTag v.toNat)) = true) (hs : fmtElem (tagFmt (s.vTag v.toNat)) = some se) (hn : 512 / se.width ≤ tyLanes ty)
    (ha : (s.gValue c.reg.toNat).toNat % (512 / se.width) = 0) (he : (s.gValue c.reg.toNat).toNat + 512 / se.width ≤ tyLanes ty) :
    exec (.stt v b c m ty rm inf scale) s = .next (s.storesLocal ([vsrc0 v, src b, src c] ++ maskOp m) off
      (typedStored (s.vData v.toNat) se (s.gValue c.reg.toNat).toNat (s.maskOf m) ty rm (!inf) scale)) := by
  obtain ⟨hg, hv⟩ := mayVec_checks hv
  refine runEx_ok _ _ _ ?_
  simp only [Ex.bind_apply, hg, hv, checkOpnds_ok s _ hr, maskValue_ok, Ex.get_apply, hf, if_true, hs]
  simp [Nat.not_lt.2 hn, ha, Nat.not_lt.2 he, storeTo_local s _ _ _ _ _ _ hl]

theorem exec_cbld_local {k : BitVec 3} {j : BitVec 21} (hg : s.mayUse .cb4 = true) (hr : s.readable [src b] = true)
    (hm : (s.here.marker blockMarker).isNone = true) (hl : s.localOk (effAddr (s.gValue b.reg.toNat) j) 32 off false = true) :
    exec (.cbld k b j) s = .next ((s.popAll [src b]).modCore (coreOf (s.popAll [src b]).cur) fun x => { x with
      books := tset x.books k.toNat (BitVec.ofNat 256 (blockBytes (s.ownBlock off).1 ((effAddr (s.gValue b.reg.toNat) j).toNat % 64) 32)) }).done := by
  refine runEx_ok _ _ _ ?_
  simp [Ex.bind_apply, needGroup_ok s _ hg, pk1_ok s _ _ hr, readNow_local hm hl]

theorem exec_cbst_local {k : BitVec 3} {j : BitVec 21} (hg : s.mayUse .cb4 = true) (hr : s.readable [src b] = true)
    (hl : s.localOk (effAddr (s.gValue b.reg.toNat) j) 32 off true = true) :
    exec (.cbst k b j) s = .next (s.storesLocal [src b] off
      ⟨placeBytes ((effAddr (s.gValue b.reg.toNat) j).toNat % 64) ((tget (s.core (coreOf s.cur)).books k.toNat).getD 0).toNat,
        rangeMask ((effAddr (s.gValue b.reg.toNat) j).toNat % 64) 32, none⟩) := by
  refine runEx_ok _ _ _ ?_
  simp [Ex.bind_apply, needGroup_ok s _ hg, pk1_ok s _ _ hr, storeTo_local s _ _ _ _ _ _ hl]

theorem exec_ldtTag_local (hg : s.mayUse .matrix = true) (hr : s.readable [src b, dst d] = true)
    (hl : s.localOk (s.gValue b.reg.toNat) 64 off false = true) :
    exec (.ldtTag d b) s = .next (s.givesLoad [src b] (.g d.toNat) (s.localReq (s.gValue b.reg.toNat) 64) false
      (.word ((s.ownBlock off).2.setWidth 64))) := by
  refine runEx_ok _ _ _ ?_
  simp [Ex.bind_apply, needGroup_ok s _ hg, pk1_ok s _ _ hr, localOk_gate s _ _ _ _ hl, resolve_local s _ 64 off .read hl,
    mkReq, beginLoad, State.givesLoad, State.localReq, State.ownBlock]

theorem exec_sttTag_local (hg : s.mayUse .matrix = true) (hr : s.readable [src0 d, src b] = true)
    (hl : s.localOk (s.gValue b.reg.toNat) 64 off true = true) :
    exec (.sttTag d b) s = .next ((s.popAll [src0 d, src b]).modCore (coreOf s.cur) fun x =>
      { x with lsTag := tagSet x.lsTag (off / 64) ((s.gValue d.toNat).extractLsb' 0 32 &&& 0xFF00FFFF) }).done := by
  refine runEx_ok _ _ _ ?_
  simp [Ex.bind_apply, needGroup_ok s _ hg, pk2_ok s _ _ _ hr, localOk_gate s _ _ _ _ hl, resolve_local s _ 64 off .write hl]

end Sys2Proof.Machine

open Sys2Proof Sys2Proof.Machine

/-- Settles O8: each load is the shared one at its size and extension, and LDA at its scope. -/
theorem localLoads : Obligations.LocalLoads := by
  intro s d v b i sc w j off va ops raw sends
  have bytes (n : Nat) : loadValue (s.ownBlock off).1 (s.ownBlock off).2 off n false false = .word (BitVec.ofNat 64 (raw n)) :=
    loadValue_zext _ _ _ _
  exact ⟨fun hg hr =>
      ⟨fun hl => ⟨exec_load_local rfl hg hr hl rfl, exec_load_local rfl hg hr hl (bytes 1)⟩,
        fun hl => ⟨exec_load_local rfl hg hr hl rfl, exec_load_local rfl hg hr hl (bytes 2)⟩,
        fun hl => ⟨exec_load_local rfl hg hr hl rfl, exec_load_local rfl hg hr hl (bytes 4)⟩,
        fun hl => exec_load_local rfl hg hr hl (bytes 8)⟩,
    fun hg hp hr hq hl => exec_lda_local hg hp hr hq hl,
    fun hv hr hl => ⟨exec_vload_local rfl hv hr hl, exec_vload_local rfl hv hr hl⟩⟩

/-- Settles O9: each store is the shared one at its size. -/
theorem localStores : Obligations.LocalStores := by
  intro s a v b i off va x stores
  exact ⟨fun hg hr => ⟨exec_store_local rfl hg hr, exec_store_local rfl hg hr, exec_store_local rfl hg hr, exec_store_local rfl hg hr⟩,
    fun hv hr hl => ⟨exec_vstore_local rfl hv hr hl, exec_vstore_local rfl hv hr hl, exec_vstore_local rfl hv hr hl⟩⟩

/-- Settles O10: STL is a store whose release begins with it held. -/
theorem releasingStores : Obligations.ReleasingStores := by
  intro s a b sc w j off hg hp hr ho hw hm va n hl r
  exact exec_stl_local hg hp hr ho hw hm hl

/-- Settles O11: each typed access at the block that holds its address. -/
theorem typedAndTags : Obligations.TypedAndTags := by
  intro s d v k b c m ty rm inf scale i off va e vi blk
  exact ⟨fun ns hv hm hr hl hf he => exec_ldt_local hv hm hr hl hf he,
    fun se hv hr hl hf hs hn ha he => exec_stt_local hv hr hl hf hs hn ha he,
    fun hg hr hl => exec_ldtTag_local hg hr hl, fun hg hr hl => exec_sttTag_local hg hr hl,
    fun hg hr hl hm => exec_cbld_local hg hr hm hl, fun hg hr hl => exec_cbst_local hg hr hl⟩
end

section
/-!
PROOFS. Prefetches, cache maintenance and windows (R307 to R310).
-/

namespace Sys2Proof.Machine

variable {s : State} {i : Instr} {d : GReg} {b c e : Src}

theorem exec_prefetch {k : BitVec 21} {go : State → Word → State} (hi : exec i s = runEx (prefetch b k go) s) (hg : s.mayUse .base = true)
    (hr : s.readable [src b] = true) : exec i s = .next (go (s.popAll [src b]) (effAddr (s.gValue b.reg.toNat) k)).done := by
  rw [hi]
  refine runEx_ok _ _ _ ?_
  simp [prefetch, Ex.bind_apply, needGroup_ok s _ hg, rd1_ok s _ _ hr]

/-- Maintenance goes on when no line of the core that is not of an SC page has an access of the context waiting (R163, R181). -/
theorem exec_maint {f : Maint} {sc : BitVec 3} (hi : exec i s = runEx (maint f b c sc) s) (hg : s.mayUse .base = true)
    (hr : s.readable [src b, src c] = true) (hq : s.here.gated = false)
    (hl : ((s.core (coreOf s.cur)).l1.all fun e => e.2.ct == .sc || !(e.2.wait.any fun w => w.ctx == s.cur)) = true) :
    exec i s = .next ((s.popAll [src b, src c]).maintRange f (s.gValue b.reg.toNat) (s.gValue c.reg.toNat) sc.toNat).done := by
  have quiet : ((s.core (coreOf s.cur)).l1.any fun e => e.2.ct != .sc && e.2.wait.any fun w => w.ctx == s.cur) = false := by
    refine List.any_eq_false.2 fun e he => ?_
    have passes := List.all_eq_true.1 hl e he
    simp only [Bool.or_eq_true, beq_iff_eq, Bool.not_eq_true'] at passes
    rcases passes with h | h <;> simp [h]
  rw [hi]
  refine runEx_ok _ _ _ ?_
  simp [maint, Ex.bind_apply, needGroup_ok s _ hg, pk2_ok s _ _ _ hr, gate_ok s hq, quiet]

/-! Windows of the core (R309, R310). -/

/-- The window that an instruction of R310 names. -/
theorem windowOf_ok {ds : List Opnd} (hg : s.mayUse .win = true) (hr : s.readable (src b :: ds) = true) (hw : (s.gValue b.reg.toNat).toNat ≤ 15) :
    windowOf b ds s = .ok ((s.gValue b.reg.toNat).toNat, tget (s.core (coreOf s.cur)).windows (s.gValue b.reg.toNat).toNat) s := by
  simp [windowOf, Ex.bind_apply, needGroup_ok s _ hg, pk1_ok s _ _ hr, Nat.not_lt.2 hw]

/-- Blocks with nothing dirty have nothing to merge (R148). -/
theorem flushBlocks_clean {core w : Nat} {x : Window} {pv : Bool} {l : List (Nat × WinBlock)} (h : ∀ k ∈ l, k.2.d = 0) :
    flushBlocks core w x pv l s = .ok () s := by
  induction l with
  | nil => rfl
  | cons k l ih =>
    simp [flushBlocks, h k (List.mem_cons_self ..), ih fun j hj => h j (List.mem_cons_of_mem _ hj)]

theorem exec_wmap {n : Nat} (hg : s.mayUse .win = true) (hr : s.readable [src b, src c, src e, dst d] = true) (hq : s.here.gated = false)
    (hl : (s.gValue b.reg.toNat).toNat % 64 = 0) (hv : (s.gValue c.reg.toNat).toNat % 64 = 0) (hn : (s.gValue e.reg.toNat).toNat % 64 = 0)
    (h0 : s.gValue e.reg.toNat ≠ 0) (hb : (s.gValue b.reg.toNat).toNat + (s.gValue e.reg.toNat).toNat ≤ 0x80000)
    (hv2 : (s.gValue c.reg.toNat).toNat < 2 ^ 55)
    (hc : ∀ x ∈ (s.core (coreOf s.cur)).windows,
      overlap (s.gValue b.reg.toNat).toNat (s.gValue e.reg.toNat).toNat (64 * x.2.lblk) (64 * x.2.nblk) = false
        ∧ overlap (s.gValue c.reg.toNat).toNat (s.gValue e.reg.toNat).toNat x.2.va (64 * x.2.nblk) = false)
    (hf : (upTo 16).find? (fun i => (tget (s.core (coreOf s.cur)).windows i).isNone) = some n) :
    let t := s.popAll [src b, src c, src e]
    let x : Window := ⟨(s.gValue b.reg.toNat).toNat / 64, (s.gValue c.reg.toNat).toNat, (s.gValue e.reg.toNat).toNat / 64, s.here.owner,
      s.here.space, s.here.level, []⟩
    exec (.wmap d b c e) s =
      .next (((t.modCore (coreOf t.cur) fun k => { k with windows := tset k.windows n x }).wrote d (w64 n)).done) := by
  have clash : ((s.core (coreOf s.cur)).windows.any fun x =>
      overlap (s.gValue b.reg.toNat).toNat (s.gValue e.reg.toNat).toNat (64 * x.2.lblk) (64 * x.2.nblk)
        || overlap (s.gValue c.reg.toNat).toNat (s.gValue e.reg.toNat).toNat x.2.va (64 * x.2.nblk)) = false :=
    List.any_eq_false.2 fun x hx => by simp [hc x hx]
  refine runEx_ok _ _ _ ?_
  simp [Ex.bind_apply, needGroup_ok s _ hg, pk3_ok s _ _ _ _ hr, gate_ok s hq, hl, hv, hn, List.find?]
  rw [hf]
  simp [Ex.bind_apply, Nat.not_lt.2 hb, clash]
  exact ⟨h0, hv2⟩

section
variable (hg : s.mayUse .win = true) (hr : s.readable [src b] = true) (hw : (s.gValue b.reg.toNat).toNat ≤ 15) (hq : s.here.gated = false)
include hg hr hw hq

/-- The three functions of a window that is not bound have no effect (R310). -/
theorem exec_window_unbound (hx : tget (s.core (coreOf s.cur)).windows (s.gValue b.reg.toNat).toNat = none) :
    exec (.wunmap b) s = .next (s.popAll [src b]).done ∧ exec (.wflush b) s = .next (s.popAll [src b]).done
      ∧ exec (.wdrop b) s = .next (s.popAll [src b]).done := by
  refine ⟨runEx_ok _ _ _ ?_, runEx_ok _ _ _ ?_, runEx_ok _ _ _ ?_⟩ <;>
    simp [Ex.bind_apply, windowOf_ok hg hr hw, gate_ok s hq, hx]

variable {x : Window} (hx : tget (s.core (coreOf s.cur)).windows (s.gValue b.reg.toNat).toNat = some x)
include hx

theorem exec_wflush_clean (hd : ∀ k ∈ x.blocks, k.2.d = 0) : exec (.wflush b) s = .next (s.popAll [src b]).done := by
  refine runEx_ok _ _ _ ?_
  simp [Ex.bind_apply, windowOf_ok hg hr hw, gate_ok s hq, hx, flushBlocks_clean hd]

theorem exec_wunmap_clean (hd : ∀ k ∈ x.blocks, k.2.d = 0) (hu : s.here.unacked = 0)
    (hf : s.windowFilling (coreOf s.cur) (s.gValue b.reg.toNat).toNat = false) (ho : s.here.owed = none) :
    exec (.wunmap b) s = .next ((s.modCore (coreOf s.cur) fun k => { k with
      windows := tdel k.windows (s.gValue b.reg.toNat).toNat }).popAll [src b]).done := by
  have hu : (s.ctx s.cur).unacked = 0 := hu
  have ho : (s.ctx s.cur).owed = none := ho
  refine runEx_ok _ _ _ ?_
  simp [Ex.bind_apply, windowOf_ok hg hr hw, gate_ok s hq, hx, hu, hf, ho]
  exact fun k y hk dirty => absurd (hd (k, y) hk) dirty

theorem exec_wdrop (hf : s.windowFilling (coreOf s.cur) (s.gValue b.reg.toNat).toNat = false) :
    exec (.wdrop b) s = .next ((s.modCore (coreOf s.cur) fun k => { k with
      windows := tset k.windows (s.gValue b.reg.toNat).toNat { x with blocks := [] } }).popAll [src b]).done := by
  refine runEx_ok _ _ _ ?_
  simp [Ex.bind_apply, windowOf_ok hg hr hw, gate_ok s hq, hx, hf]

end

theorem exec_wstat (hg : s.mayUse .win = true) (hr : s.readable [src b, dst d] = true) (hw : (s.gValue b.reg.toNat).toNat ≤ 15) :
    exec (.wstat d b) s = .next ((s.popAll [src b]).wrote d
      (match tget (s.core (coreOf s.cur)).windows (s.gValue b.reg.toNat).toNat with
      | some x => windowStatus x
      | none => 0)).done := by
  refine runEx_ok _ _ _ ?_
  simp [Ex.bind_apply, windowOf_ok hg hr hw] <;> rfl

/-- The lowest free number (R309). -/
theorem find_lowest {p : Nat → Bool} {n m : Nat} (hn : n < m) (hp : p n = true) (below : ∀ j, j < n → p j = false) :
    (upTo m).find? p = some n :=
  List.find?_range_eq_some.2 ⟨hp, List.mem_range.2 hn, fun j hj => by simp [below j hj]⟩

end Sys2Proof.Machine

open Sys2Proof Sys2Proof.Machine

/-- Settles O12: the three prefetches and the three maintenance functions are the shared ones. -/
theorem cacheHints : Obligations.CacheHints := by
  intro s b c i sc hg va base len maint
  exact ⟨fun hr => ⟨exec_prefetch rfl hg hr, exec_prefetch rfl hg hr, exec_prefetch rfl hg hr⟩,
    fun hr hq hl => ⟨exec_maint rfl hg hr hq hl, exec_maint rfl hg hr hq hl, exec_maint rfl hg hr hq hl⟩⟩

/-- Settles O13: each window instruction at a window that is bound, or not. -/
theorem windowOps : Obligations.WindowOps := by
  intro s d b c e hg core l v n w
  refine ⟨fun i hr hq hl hv hn h0 hb hv2 hc hi hf hlow => ?_, fun hw hr hq => ⟨fun hx => exec_window_unbound hg hr hw hq hx,
    fun x hx hd hu hf ho => ⟨exec_wunmap_clean hg hr hw hq hx hd hu hf ho, exec_wflush_clean hg hr hw hq hx hd⟩,
    fun x hx hf => exec_wdrop hg hr hw hq hx hf⟩, fun hw hr => exec_wstat hg hr hw⟩
  refine exec_wmap hg hr hq hl hv hn h0 hb hv2 hc (find_lowest hi (by simp [hf, core]) fun j hj => ?_)
  simpa [Option.isSome_iff_ne_none] using hlow j hj
end

section
/-!
PROOFS. Atomics on local store, and operations that leave for the home of their word (R170 to R174, R312, R313, R316, R317).
-/

namespace Sys2Proof.Machine

variable {s : State} {i : Instr} {a d : GReg} {b c e : Src} {pa : Nat} {p : TlbEntry}

/-! The functions of AMO and RED (R312). -/

/-- The signed reading of a number that is one of the width's (R312). -/
theorem asInt_eq_toInt {n v : Nat} (hn : 0 < n) : asInt n v = (BitVec.ofNat n v).toInt := by
  obtain ⟨k, rfl⟩ : ∃ k, n = k + 1 := ⟨n - 1, by omega⟩
  rw [asInt, BitVec.toInt_eq_toNat_cond, BitVec.toNat_ofNat, Nat.add_sub_cancel]
  have twice : 2 ^ (k + 1) = 2 * 2 ^ k := Nat.pow_succ'
  by_cases h : 2 ^ k ≤ v % 2 ^ (k + 1)
  · rw [if_pos h, if_neg (by omega)]
    simp
  · rw [if_neg h, if_pos (by omega)]
    simp

/-- What an atomic's function stores in place of the old value; only a comparison that fails stores nothing (R312). -/
def State.afterAtomic (s t : State) (off n : Nat) (o : Option Nat) : State :=
  match o with
  | some v => t.localWrite (coreOf s.cur) off (placeBytes (off % 64) v) (rangeMask (off % 64) n) none
  | none => t

/-- The bytes of an atomic's operand: 8 of a wide one, and else 4 (R312). -/
def atomicSize (wide : Bool) : Nat := if wide then 8 else 4

variable {fn : BitVec 4} {wide acq : Bool} {sc : BitVec 3} {off : Nat}

section
variable {x : Option Src} (hi : exec i s = runEx (atomicOp (some d) b c x fn wide acq false sc) s) (hg : s.mayUse .base = true)
  (hp : (sc = 5 ∨ sc = 6) → s.mayUse .peer = true) (hr : s.readable ([src b, src c] ++ (x.map src).toList ++ [dst d]) = true)
  (hl : s.localOk (s.gValue b.reg.toNat) (atomicSize wide) off true = true)
include hi hg hp hr hl

theorem exec_amo_local :
    let old := blockBytes (s.ownBlock off).1 (off % 64) (atomicSize wide)
    exec i s = .next (s.afterAtomic (s.givesLoad ([src b, src c] ++ (x.map src).toList) (.g d.toNat)
        { s.localReq (s.gValue b.reg.toNat) (atomicSize wide) with op := .amo } (acq && sc != 0) (.word (w64 old))) off (atomicSize wide)
      (amoFn fn (atomicSize wide) old (s.gValue c.reg.toNat).toNat ((x.map fun x => s.gValue x.reg.toNat).getD 0).toNat)) := by
  rw [hi]
  exact runEx_ok _ _ _ (amo_local s d b c x fn wide acq sc off hg hp hr hl)

/-- An AMO whose function has a result stores it and sends the old value (R312). -/
theorem exec_amo_stores {v : Nat} (hv : amoFn fn (atomicSize wide) (blockBytes (s.ownBlock off).1 (off % 64) (atomicSize wide))
      (s.gValue c.reg.toNat).toNat ((x.map fun x => s.gValue x.reg.toNat).getD 0).toNat = some v) :
    exec i s = .next ((s.givesLoad ([src b, src c] ++ (x.map src).toList) (.g d.toNat)
        { s.localReq (s.gValue b.reg.toNat) (atomicSize wide) with op := .amo } (acq && sc != 0)
        (.word (w64 (blockBytes (s.ownBlock off).1 (off % 64) (atomicSize wide))))).localWrite (coreOf s.cur) off (placeBytes (off % 64) v)
      (rangeMask (off % 64) (atomicSize wide)) none) := by
  rw [exec_amo_local hi hg hp hr hl, hv]
  rfl

end

theorem amoFn_cas (n old v x : Nat) : amoFn 9 n old v x = if old = x % 2 ^ (8 * n) then some (v % 2 ^ (8 * n)) else none := rfl

/-- CAS stores when the old value is the compared one, and sends it in either case (R312). -/
theorem exec_cas_local (hi : exec i s = runEx (atomicOp (some d) b c (some e) 9 wide acq false sc) s) (hg : s.mayUse .base = true)
    (hp : (sc = 5 ∨ sc = 6) → s.mayUse .peer = true) (hr : s.readable [src b, src c, src e, dst d] = true)
    (hl : s.localOk (s.gValue b.reg.toNat) (atomicSize wide) off true = true) :
    let old := blockBytes (s.ownBlock off).1 (off % 64) (atomicSize wide)
    let sent := s.givesLoad [src b, src c, src e] (.g d.toNat)
      { s.localReq (s.gValue b.reg.toNat) (atomicSize wide) with op := .amo } (acq && sc != 0) (.word (w64 old))
    exec i s =
      if old = (s.gValue e.reg.toNat).toNat % 2 ^ (8 * atomicSize wide) then
        .next (sent.localWrite (coreOf s.cur) off (placeBytes (off % 64) ((s.gValue c.reg.toNat).toNat % 2 ^ (8 * atomicSize wide)))
          (rangeMask (off % 64) (atomicSize wide)) none)
      else .next sent := by
  have done := exec_amo_local (x := some e) hi hg hp hr hl
  dsimp only at done ⊢
  rw [done, amoFn_cas]
  simp only [Option.map_some, Option.getD_some]
  split <;> rfl

/-- A RED stores its function's result and returns nothing (R312). -/
theorem exec_red_stores {v : Nat} (hi : exec i s = runEx (red b c fn wide false sc) s) (hg : s.mayUse .base = true)
    (hp : (sc = 5 ∨ sc = 6) → s.mayUse .peer = true) (hr : s.readable [src b, src c] = true)
    (hl : s.localOk (s.gValue b.reg.toNat) (atomicSize wide) off true = true)
    (hv : amoFn fn (atomicSize wide) (blockBytes (s.ownBlock off).1 (off % 64) (atomicSize wide)) (s.gValue c.reg.toNat).toNat 0 = some v) :
    exec i s = .next ((s.popAll [src b, src c]).done.localWrite (coreOf s.cur) off (placeBytes (off % 64) v)
      (rangeMask (off % 64) (atomicSize wide)) none) := by
  rw [hi]
  refine runEx_ok _ _ _ ?_
  have stored := red_local s b c fn wide sc off hg hp hr hl
  dsimp only at stored
  rw [stored]
  unfold atomicSize at hv
  rw [hv]
  rfl

/-- The signed minimum and maximum of AMO and RED (R312). -/
theorem amoFn_min (n old v x : Nat) (hn : 0 < n) : amoFn 4 n old v x = some (if (BitVec.ofNat (8 * n) old).toInt
    ≤ (BitVec.ofNat (8 * n) (v % 2 ^ (8 * n))).toInt then old else v % 2 ^ (8 * n)) := by
  rw [← asInt_eq_toInt (by omega), ← asInt_eq_toInt (by omega)]
  rfl

theorem amoFn_max (n old v x : Nat) (hn : 0 < n) : amoFn 5 n old v x = some (if (BitVec.ofNat (8 * n) (v % 2 ^ (8 * n))).toInt
    ≤ (BitVec.ofNat (8 * n) old).toInt then old else v % 2 ^ (8 * n)) := by
  rw [← asInt_eq_toInt (by omega), ← asInt_eq_toInt (by omega)]
  rfl

/-! Operations on a word at its home (R172, R174, R313, R316, R317). -/

theorem exec_takeOp {op : HomeOp} {acc : Acc} {k : BitVec 21} (hi : exec i s = runEx (takeOp op a b k acc) s) (hg : s.mayUse .base = true)
    (hr : s.readable [src b, dst a] = true) (hn : homeWaiting s.here < 16)
    (hh : s.homeAt (effAddr (s.gValue b.reg.toNat) k) acc true pa p = true) :
    let r := s.homeReq op pa (effAddr (s.gValue b.reg.toNat) k)
    let s1 := s.popAll [src b]
    exec i s = .next (((s1.beganLoad (.g a.toNat) r false true).done).send { r with pid := s1.nextId }) := by
  rw [hi]
  refine runEx_ok _ _ _ ?_
  simp [takeOp, Ex.bind_apply, needGroup_ok s _ hg, pk1_ok s _ _ hr, homeTarget_ok s _ _ _ _ _ _ hh, homeLimit, Nat.not_le.2 hn, beginLoad,
    State.sendHome]

theorem exec_trytake {k : BitVec 21} (hg : s.mayUse .base = true) (hr : s.readable [src b, dst a, .dst (a.toNat + 1)] = true)
    (hh : s.homeAt (effAddr (s.gValue b.reg.toNat) k) .atomic true pa p = true) :
    let r := s.homeReq .trytake pa (effAddr (s.gValue b.reg.toNat) k)
    let s1 := s.popAll [src b]
    exec (.trytake a b k) s = .next ((((s1.beganLoad (.g a.toNat) r false true).done).began (.g (a.toNat + 1)) none false).send
      { r with pid := s1.nextId }) := by
  refine runEx_ok _ _ _ ?_
  simp [Ex.bind_apply, needGroup_ok s _ hg, pk1_ok s _ _ hr, homeTarget_ok s _ _ _ _ _ _ hh, beginLoad, State.sendHome]

/-- The state of a context that waits for a home's answer (R313, R316, R317). -/
def State.awaiting (s : State) (k : Nat) (r : Req) (w : Wait) : State :=
  let t := (s.began (.g k) (some r) false).send { r with pid := s.nextId }
  t.modCtx t.cur fun c => c.block w t.dtc

theorem awaitHome_here (k : Nat) (r : Req) (w : Wait) : awaitHome k none r w s = .error .done (s.awaiting k r w) := by
  simp [awaitHome, Ex.bind_apply, State.sendHome, State.awaiting]

theorem exec_putOp {op : HomeOp} {k : BitVec 21} (hi : exec i s = runEx (putOp op a b k) s) (hg : s.mayUse .base = true)
    (hr : s.readable [src0 a, src b] = true) (hh : s.homeAt (effAddr (s.gValue b.reg.toNat) k) .write true pa p = true) :
    exec i s = .next (s.awaiting 0 { s.homeReq op pa (effAddr (s.gValue b.reg.toNat) k) with x := s.gValue a.toNat }
      (.putAnswer (effAddr (s.gValue b.reg.toNat) k))) := by
  rw [hi]
  refine runEx_done _ _ _ ?_
  simp [putOp, Ex.bind_apply, needGroup_ok s _ hg, pk2_ok s _ _ _ hr, homeTarget_ok s _ _ _ _ _ _ hh, awaitHome_here]

theorem postHome_here {op : HomeOp} {va x : Word} {acc : Acc} {ops : List Opnd} (hh : s.homeAt va acc false pa p = true) :
    postHome op va x acc ops s = .ok () ((s.popAll ops).send { s.homeReq op pa va with x := x }).done := by
  simp [postHome, Ex.bind_apply, homeTarget_ok s _ _ _ _ _ _ hh]

section
variable (hg : s.mayUse .base = true) (hr : s.readable [src b, src c] = true)
include hg hr

theorem exec_jcinit (hh : s.homeAt (s.gValue b.reg.toNat) .write false pa p = true) : exec (.jcinit b c) s = .next ((s.popAll [src b, src c]).send
    { s.homeReq .jcinit pa (s.gValue b.reg.toNat) with x := s.gValue c.reg.toNat }).done := by
  refine runEx_ok _ _ _ ?_
  simp [Ex.bind_apply, needGroup_ok s _ hg, pk2_ok s _ _ _ hr, postHome_here hh]

theorem exec_barinit (hh : s.homeAt (s.gValue b.reg.toNat) .write false pa p = true) : exec (.barinit b c) s =
    .next ((s.popAll [src b, src c]).send { s.homeReq .barinit pa (s.gValue b.reg.toNat) with x := s.gValue c.reg.toNat }).done := by
  refine runEx_ok _ _ _ ?_
  simp [Ex.bind_apply, needGroup_ok s _ hg, pk2_ok s _ _ _ hr, postHome_here hh]

theorem exec_barwait (hh : s.homeAt (s.gValue b.reg.toNat) .read false pa p = true) : exec (.barwait b c) s =
    .next (s.awaiting 0 { s.homeReq .barwait pa (s.gValue b.reg.toNat) with c := s.gValue c.reg.toNat } (.bar (s.gValue b.reg.toNat))) := by
  refine runEx_done _ _ _ ?_
  simp [Ex.bind_apply, needGroup_ok s _ hg, pk2_ok s _ _ _ hr, homeTarget_ok s _ _ _ _ _ _ hh, awaitHome_here]

end

section
variable (hg : s.mayUse .base = true) (hr : s.readable [src b] = true)
include hg hr

theorem exec_jcdec (hh : s.homeAt (s.gValue b.reg.toNat) .atomic false pa p = true) :
    exec (.jcdec b) s = .next ((s.popAll [src b]).send (s.homeReq .jcdec pa (s.gValue b.reg.toNat))).done := by
  refine runEx_ok _ _ _ ?_
  simp [Ex.bind_apply, needGroup_ok s _ hg, pk1_ok s _ _ hr, postHome_here hh]
  rfl

theorem exec_jcwait (hh : s.homeAt (s.gValue b.reg.toNat) .read false pa p = true) :
    exec (.jcwait b) s = .next (s.awaiting 0 (s.homeReq .jcwait pa (s.gValue b.reg.toNat)) (.jc (s.gValue b.reg.toNat))) := by
  refine runEx_done _ _ _ ?_
  simp [Ex.bind_apply, needGroup_ok s _ hg, pk1_ok s _ _ hr, homeTarget_ok s _ _ _ _ _ _ hh, awaitHome_here]

end

theorem exec_bararr (hg : s.mayUse .base = true) (hr : s.readable [src b, dst d] = true)
    (hh : s.homeAt (s.gValue b.reg.toNat) .atomic false pa p = true) : exec (.bararr d b) s =
    .next (s.awaiting d.toNat (s.homeReq .bararr pa (s.gValue b.reg.toNat)) (.putAnswer (s.gValue b.reg.toNat))) := by
  refine runEx_done _ _ _ ?_
  simp [Ex.bind_apply, needGroup_ok s _ hg, pk1_ok s _ _ hr, homeTarget_ok s _ _ _ _ _ _ hh, awaitHome_here]

end Sys2Proof.Machine

open Sys2Proof Sys2Proof.Machine

/-- Settles O15: each operation at the home of its word. -/
theorem homeWords : Obligations.HomeWords := by
  intro s a b i pa e hg va s1 began put
  exact ⟨fun hr hn => ⟨fun hh => exec_takeOp rfl hg hr hn hh, fun hh => exec_takeOp rfl hg hr hn hh⟩, fun hr hh => exec_trytake hg hr hh,
    fun hr hh => ⟨exec_putOp rfl hg hr hh, exec_putOp rfl hg hr hh⟩⟩

/-- Settles O16: three operations are posted to their home, and three wait for its answer. -/
theorem countersAndBarriers : Obligations.CountersAndBarriers := by
  intro s d b c pa e hg va x posts waits
  exact ⟨fun hr => ⟨fun hh => ⟨exec_jcinit hg hr hh, exec_barinit hg hr hh⟩, fun hh => exec_barwait hg hr hh⟩,
    fun hr => ⟨fun hh => exec_jcdec hg hr hh, fun hh => exec_jcwait hg hr hh⟩, fun hr hh => exec_bararr hg hr hh⟩

/-- Settles O14: each atomic stores its function of the old value and its operand. -/
theorem localAtomics : Obligations.LocalAtomics := by
  intro s d b c e wide ord sc off hg hp hord va size old arg sgn writes sent gone
  have plain : ordRel ord = false := hord
  have bytes : 0 < size wide := by cases wide <;> decide
  have amo {i : Instr} {fn : BitVec 4} {w : Bool} {v : Nat} (hr : s.readable [src b, src c, dst d] = true)
      (hl : s.localOk va (size w) off true = true) (hi : exec i s = runEx (amo d b c fn w ord sc) s)
      (hv : amoFn fn (size w) (old w) (s.gValue c.reg.toNat).toNat 0 = some v) : exec i s = .next (writes w (sent w [src b, src c]) v) :=
    exec_amo_stores (x := none) (hi.trans (by rw [Sys2Proof.Machine.amo, plain]; rfl)) hg hp hr hl hv
  have red {i : Instr} {fn : BitVec 4} {w : Bool} {v : Nat} (hr : s.readable [src b, src c] = true)
      (hl : s.localOk va (size w) off true = true) (hi : exec i s = runEx (red b c fn w false sc) s)
      (hv : amoFn fn (size w) (old w) (s.gValue c.reg.toNat).toNat 0 = some v) : exec i s = .next (writes w gone v) :=
    exec_red_stores hi hg hp hr hl hv
  refine ⟨fun hr hl => ?_, fun hr hl => amo (w := false) hr hl rfl rfl, fun hr hl => ?_, fun hr hl => ?_,
    fun hr hl => red (w := false) hr hl rfl rfl⟩
  · intro gives
    exact ⟨amo hr hl rfl rfl, amo hr hl rfl rfl, amo hr hl rfl rfl, amo hr hl rfl rfl, amo hr hl rfl (amoFn_min _ _ _ _ bytes),
      amo hr hl rfl (amoFn_max _ _ _ _ bytes), amo hr hl rfl rfl, amo hr hl rfl rfl, amo hr hl rfl rfl⟩
  · exact exec_cas_local (hi := by rw [← plain]; rfl) hg hp hr hl
  · intro gives
    exact ⟨red hr hl rfl rfl, red hr hl rfl rfl, red hr hl rfl rfl, red hr hl rfl rfl, red hr hl rfl (amoFn_min _ _ _ _ bytes),
      red hr hl rfl (amoFn_max _ _ _ _ bytes), red hr hl rfl rfl, red hr hl rfl rfl⟩
end

section
/-!
PROOFS. Fences, range ordering and migration (R178, R180, R314, R315).
-/

namespace Sys2Proof.Machine

variable {s : State} {b c : Src} {sc : BitVec 3} {pa : Nat} {p : TlbEntry}

/-- A context with nothing outstanding, on a core that binds no window: a release that it waits for completes at once (R178). -/
theorem waitRelease_ok {ws : Tbl Window → Tbl Window} (hws : ws [] = []) (hg : s.here.gated = false) (hw : s.here.lastWait = none)
    (ho : s.here.owed = none) (hb : (s.core (coreOf s.cur)).windows = []) (hr : (s.startRelease s.cur sc true none).here.releases = [])
    (ho' : (s.startRelease s.cur sc true none).here.owed = none) : waitRelease sc ws s = .ok () (s.startRelease s.cur sc true none) := by
  have flushed : flushWindows [] s = .ok () s := rfl
  obtain rfl | wide := Classical.em (sc = 0#3) <;>
    simp [waitRelease, Ex.bind_apply, gate_ok s hg, takeOwed_ok _ ho, takeOwed_ok _ ho', *]

theorem exec_fence (hg : s.mayUse .base = true) (hp : (sc = 5 ∨ sc = 6) → s.mayUse .peer = true)
    (hw : ∀ {ws : Tbl Window → Tbl Window}, ws [] = [] → waitRelease sc ws s = .ok () (s.startRelease s.cur sc true none)) :
    let rel := s.startRelease s.cur sc true none
    exec (.fence sc) s = .next (if sc = 0 then rel.done else (rel.acquireWindows (coreOf rel.cur)).done) := by
  refine runEx_ok _ _ _ ?_
  obtain rfl | wide := Classical.em (sc = 0#3) <;>
    simp [Ex.bind_apply, needGroup_ok s _ hg, needScope_ok s _ hp, hw (ws := id) rfl, *]

theorem exec_acqr (hg : s.mayUse .base = true) (hp : (sc = 5 ∨ sc = 6) → s.mayUse .peer = true) (hr : s.readable [src b, src c] = true)
    (hq : s.here.gated = false) (hl : (s.here.producers.any fun p => p.home.isSome) = false) :
    exec (.acqr b c sc) s = .next (if sc ≠ 0 ∧ s.gValue c.reg.toNat ≠ 0 then
      ((s.acquireRange (coreOf s.cur) (s.gValue b.reg.toNat) (s.gValue c.reg.toNat).toNat).popAll [src b, src c]).done
      else (s.popAll [src b, src c]).done) := by
  refine runEx_ok _ _ _ ?_
  have landed : ¬ ∃ x ∈ (s.ctx s.cur).producers, x.home.isSome = true := by simpa [State.here] using hl
  by_cases acquires : ¬ sc = 0#3 ∧ ¬ s.gValue c.reg.toNat = 0#64 <;>
    simp [Ex.bind_apply, needGroup_ok s _ hg, needScope_ok s _ hp, pk2_ok s _ _ _ hr, gate_ok s hq, landed, ↓acquires]

theorem exec_relr (hg : s.mayUse .base = true) (hp : (sc = 5 ∨ sc = 6) → s.mayUse .peer = true) (hr : s.readable [src b, src c] = true)
    (hw : ∀ {ws : Tbl Window → Tbl Window}, ws [] = [] → waitRelease sc ws s = .ok () (s.startRelease s.cur sc true none)) :
    exec (.relr b c sc) s = .next (if s.gValue c.reg.toNat = 0 then (s.popAll [src b, src c]).done
      else ((s.startRelease s.cur sc true none).popAll [src b, src c]).done) := by
  refine runEx_ok _ _ _ ?_
  by_cases none0 : s.gValue c.reg.toNat = 0#64
  · simp [Ex.bind_apply, needGroup_ok s _ hg, needScope_ok s _ hp, pk2_ok s _ _ _ hr, none0]
  · simp [Ex.bind_apply, needGroup_ok s _ hg, needScope_ok s _ hp, pk2_ok s _ _ _ hr, none0]
    rw [hw List.filter_nil]

/-! Migration (R180, R315). -/

/-- The state of a context that is ready to move: its release has begun, and its PV lines have left its core (R180). -/
def State.readyToMove (s : State) : State := (s.startRelease s.cur 0 false none).leavePv (coreOf s.cur) s.here.owner

/-- Nothing of the context is outstanding (R180, R315). -/
def State.mayMove (s : State) : Prop :=
  s.leaving (coreOf s.cur) s.here.owner = false ∧ s.here.unacked = 0 ∧ s.here.releases = [] ∧ s.storesWaiting s.cur = false
    ∧ s.copiesOut s.cur = false ∧ s.tilesOut s.cur = false

theorem waitMove_ok (hg : gate s = .ok () s) (hm : s.readyToMove.mayMove) : waitMove s = .ok () s.readyToMove := by
  obtain ⟨leaving, acked, released, stored, copied, tiled⟩ := hm
  simp [State.readyToMove, State.here] at leaving acked released stored copied tiled
  simp [waitMove, Ex.bind_apply, hg, State.readyToMove, State.here, leaving, acked, released, stored, copied, tiled]

theorem exec_migrate_here (hg : s.mayUse .migr = true) (hr : s.readable [src b] = true)
    (hm : s.memAt (s.gValue b.reg.toNat) 1 .read pa p = true) (hl : regionOf pa = .lp6) (hv : s.here.vset = none) (hq : s.here.bind = [])
    (hgang : s.here.gang = none) (hc : coreOf s.cur = 1024 + channelOf pa) : exec (.migrate b) s = .next (s.popAll [src b]).done := by
  refine runEx_ok _ _ _ ?_
  simp [Ex.bind_apply, needGroup_ok s _ hg, pk1_ok s _ _ hr, resolve_page s _ _ _ _ _ hm, hl, hv, hq, hgang, hc]

/-- The state of a context that has moved to a helper of a core beside the memory it names, its first slot kept for its return (R180). -/
def State.migrated (t : State) (core h : Nat) : State :=
  match t.here.migratedFrom with
  | some o => t.moveCtx t.cur (16 * core + h) (some o) Ctx.free
  | none => t.moveCtx t.cur (16 * core + h) (some t.cur)
      { Ctx.free with state := .away, owner := t.here.owner, level := t.here.level, task := t.here.task }

theorem exec_migrate_away {h : Nat} (hg : s.mayUse .migr = true) (hr : s.readable [src b] = true)
    (hm : s.memAt (s.gValue b.reg.toNat) 1 .read pa p = true) (hl : regionOf pa = .lp6) (hv : s.here.vset = none) (hq : s.here.bind = [])
    (hgang : s.here.gang = none) (hc : coreOf s.cur ≠ 1024 + channelOf pa)
    (hs : ((s.owner s.here.owner).active.dies.toList.getD (dieOf (1024 + channelOf pa)) .zero).chctx ≠ 0) (hmove : s.readyToMove.mayMove)
    (hf : s.readyToMove.freeHelper (1024 + channelOf pa) = some h)
    (hh : s.readyToMove.heldHelpers (1024 + channelOf pa) s.here.owner
      < ((s.owner s.here.owner).active.dies.toList.getD (dieOf (1024 + channelOf pa)) .zero).chctx.toNat) :
    exec (.migrate b) s = .next ((s.readyToMove.popAll [src b]).migrated (1024 + channelOf pa) h) := by
  refine runEx_ok _ _ _ ?_
  have quiet := memAt_gate s _ _ _ _ _ hm
  have shared := fun h => hs (BitVec.eq_of_toNat_eq h)
  simp at shared hh
  simp [Ex.bind_apply, needGroup_ok s _ hg, pk1_ok s _ _ hr, resolve_page s _ _ _ _ _ hm, hl, hv, hq, hgang, hc, shared, hf, hh, waitMove_ok quiet hmove]
  rfl

theorem exec_rethome_home (hg : s.mayUse .migr = true) (hm : s.here.migratedFrom = none) : exec .rethome s = .next s.done := by
  refine runEx_ok _ _ _ ?_
  simp [Ex.bind_apply, needGroup_ok s _ hg, hm]

theorem exec_rethome_away {o : Nat} (hg : s.mayUse .migr = true) (hm : s.here.migratedFrom = some o) (hq : s.here.gated = false)
    (hmove : s.readyToMove.mayMove) : exec .rethome s = .next (s.readyToMove.moveCtx s.readyToMove.cur o none Ctx.free) := by
  refine runEx_ok _ _ _ ?_
  simp [Ex.bind_apply, needGroup_ok s _ hg, hm, waitMove_ok (gate_ok s hq) hmove]

end Sys2Proof.Machine

open Sys2Proof Sys2Proof.Machine

/-- Settles O17: nothing of the context's outstanding, each fence goes on and each move is made. -/
theorem fencesAndMigration : Obligations.FencesAndMigration := by
  intro s b c sc pa e core va len quiet rel away left
  have released (hq : quiet) (hr : rel.here.releases = []) (ho : rel.here.owed = none) {ws : Tbl Window → Tbl Window} (hws : ws [] = []) :
      waitRelease sc ws s = .ok () rel :=
    let ⟨ungated, _, unwaited, unowed, _, unbound⟩ := hq
    waitRelease_ok hws ungated unwaited unowed unbound hr ho
  refine ⟨fun hg hp => ⟨fun hq hr ho => exec_fence hg hp (released hq hr ho), fun hr hq hl => exec_acqr hg hp hr hq hl,
      fun hr hq hrel ho => exec_relr hg hp hr (released hq hrel ho)⟩, ?_, fun hg hm => exec_rethome_home hg hm,
    fun o hg hm hq hl => exec_rethome_away hg hm hq hl⟩
  intro hg hr hm hl hv hq hgang side
  exact ⟨fun hc => exec_migrate_here hg hr hm hl hv hq hgang hc,
    fun h hc hs hleft hf hh => exec_migrate_away hg hr hm hl hv hq hgang hc hs hleft hf hh⟩

end

section
/-!
PROOFS. Vector results (R319 to R331).
-/

namespace Sys2Proof.Machine

variable {s : State} {i : Instr} {v : VReg} {d : GReg} {b c : VSrc} {m g h : Src} {ty : BitVec 3}

theorem lanesOf_range (x : BitVec 512) (ty : BitVec 3) : lanesOf x ty = (List.range (tyLanes ty)).map (lane x (tyWidth ty)) := rfl

theorem zip_map_self {α β : Type} (l : List α) (f : α → β) : (l.map f).zip l = l.map fun x => (f x, x) := by
  simpa using List.zip_map' (f := f) (g := id) (l := l)

theorem map_const_range (n x : Nat) : (List.range n).map (fun _ => x) = List.replicate n x := by simp [List.map_const']

theorem set_map_range (n k x : Nat) (f : Nat → Nat) : ((List.range n).map f).set k x = (List.range n).map fun i => if i = k then x else f i := by
  apply List.ext_getElem
  · simp
  · simp [List.getElem_set, eq_comm]

theorem exec_vop2 {f : Nat → Nat → Nat} (hi : exec i s = runEx (vop2 v b c m ty f) s) (hv : s.mayVec .vec = true)
    (hr : s.readable ([vsrc b, vsrc c] ++ maskOp m ++ [vdst v]) = true) :
    exec i s = .next (s.givesV ([vsrc b, vsrc c] ++ maskOp m ++ [vdst v]) v
      (ofLanes (tyWidth ty) ((List.range (tyLanes ty)).map fun i => if (s.maskOf m).getLsbD i then
        f (lane (s.vData b.reg.toNat) (tyWidth ty) i) (lane (s.vData c.reg.toNat) (tyWidth ty) i) else 0)) (stdTag ty)) := by
  rw [hi]
  exact runEx_ok _ _ _ (vop2_ok s v b c m ty f hv hr)

/-! A vector register written at issue: its operands, its value, its tag. -/

theorem exec_vandn : exec (.vandn v b c m ty) s = runEx (vop2 v b c m ty fun x y => x &&& (2 ^ tyWidth ty - 1 - y)) s := rfl

theorem exec_vshl : exec (.vshl v b c m ty) s = runEx (vop2 v b c m ty fun x y => x * 2 ^ (y % tyWidth ty)) s := rfl

theorem exec_vshr : exec (.vshr v b c m ty) s = runEx (vop2 v b c m ty fun x y => x / 2 ^ (y % tyWidth ty)) s := rfl

theorem exec_vsar : exec (.vsar v b c m ty) s =
    runEx (vop2 v b c m ty fun x y => ofInt (tyWidth ty) (asInt (tyWidth ty) x / 2 ^ (y % tyWidth ty))) s := rfl

section
variable (hv : s.mayVec .vec = true)
include hv

theorem exec_vsel (hr : s.readable ([vsrc b, vsrc c] ++ maskOp m ++ [vdst v]) = true) :
    exec (.vsel v b c m ty) s = .next (s.givesV ([vsrc b, vsrc c] ++ maskOp m ++ [vdst v]) v
      (ofLanes (tyWidth ty) ((List.range (tyLanes ty)).map fun i => if (s.maskOf m).getLsbD i then
        lane (s.vData b.reg.toNat) (tyWidth ty) i else lane (s.vData c.reg.toNat) (tyWidth ty) i)) (stdTag ty)) := by
  refine runEx_ok _ _ _ ?_
  simp only [Ex.bind_apply, vecChecks_ok s _ hv, checkOpnds_ok s _ hr, maskValue_ok, Ex.get_apply, Ex.pop_apply, Ex.wrV_apply, Ex.advance_apply,
    State.givesV, lanesOf_range, upTo, List.zip_map', zip_map_self, List.map_map, List.length_map, List.length_range]
  rfl

theorem exec_vperm (hr : s.readable ([vsrc b, vsrc c] ++ maskOp m ++ [vdst v]) = true) :
    exec (.vperm v b c m ty) s = .next (s.givesV ([vsrc b, vsrc c] ++ maskOp m ++ [vdst v]) v
      (ofLanes (tyWidth ty) ((List.range (tyLanes ty)).map fun i => if (s.maskOf m).getLsbD i then
        lane (s.vData b.reg.toNat) (tyWidth ty) (lane (s.vData c.reg.toNat) (tyWidth ty) i % tyLanes ty) else 0)) (stdTag ty)) := by
  refine runEx_ok _ _ _ ?_
  simp only [Ex.bind_apply, vecChecks_ok s _ hv, checkOpnds_ok s _ hr, maskValue_ok, Ex.get_apply, Ex.pop_apply, Ex.wrV_apply, Ex.advance_apply,
    State.givesV, lanesOf_range, List.map_map, masked_range]
  rfl

theorem exec_vfma (hr : s.readable ([vsrc0 v, vsrc b, vsrc c] ++ maskOp m ++ [vdst v]) = true) :
    exec (.vfma v b c m ty) s = .next (s.givesV ([vsrc0 v, vsrc b, vsrc c] ++ maskOp m ++ [vdst v]) v
      (ofLanes (tyWidth ty) ((List.range (tyLanes ty)).map fun i => if (s.maskOf m).getLsbD i then
        fmaLane ty (lane (s.vData b.reg.toNat) (tyWidth ty) i) (lane (s.vData c.reg.toNat) (tyWidth ty) i) (lane (s.vData v.toNat) (tyWidth ty) i) else 0)) (stdTag ty)) := by
  refine runEx_ok _ _ _ ?_
  simp only [Ex.bind_apply, vecChecks_ok s _ hv, checkOpnds_ok s _ hr, maskValue_ok, Ex.get_apply, Ex.pop_apply, Ex.wrV_apply, Ex.advance_apply,
    State.givesV, lanesOf_range, List.zip_map', List.map_map, masked_range]
  rfl

theorem exec_vmov (hr : s.readable ([vsrc b] ++ maskOp m ++ [vdst v]) = true) :
    exec (.vmov v b m ty) s = .next (s.givesV ([vsrc b] ++ maskOp m ++ [vdst v]) v
      (ofLanes (tyWidth ty) ((List.range (tyLanes ty)).map fun i => if (s.maskOf m).getLsbD i then
        lane (s.vData b.reg.toNat) (tyWidth ty) i else 0)) (s.vTag b.reg.toNat)) := by
  refine runEx_ok _ _ _ ?_
  simp only [Ex.bind_apply, vecChecks_ok s _ hv, checkOpnds_ok s _ hr, maskValue_ok, Ex.get_apply, Ex.pop_apply, Ex.wrV_apply, Ex.advance_apply,
    State.givesV, lanesOf_range, masked_range]

theorem exec_vbcast (hr : s.readable ([src g] ++ maskOp m ++ [vdst v]) = true) :
    exec (.vbcast v g m ty) s = .next (s.givesV ([src g] ++ maskOp m ++ [vdst v]) v
      (ofLanes (tyWidth ty) ((List.range (tyLanes ty)).map fun i => if (s.maskOf m).getLsbD i then
        (s.gValue g.reg.toNat).toNat else 0)) (stdTag ty)) := by
  refine runEx_ok _ _ _ ?_
  simp only [Ex.bind_apply, vecChecks_ok s _ hv, checkOpnds_ok s _ hr, maskValue_ok, Ex.get_apply, Ex.pop_apply, Ex.wrV_apply, Ex.advance_apply,
    State.givesV, ← map_const_range, masked_range]

theorem exec_vins (hr : s.readable ([vsrc0 v, src g, src h, vdst v]) = true) :
    exec (.vins v g h ty) s = .next (s.givesV ([vsrc0 v, src g, src h, vdst v]) v
      (ofLanes (tyWidth ty) ((List.range (tyLanes ty)).map fun i =>
        if i = (s.gValue h.reg.toNat).toNat % tyLanes ty then (s.gValue g.reg.toNat).toNat else lane (s.vData v.toNat) (tyWidth ty) i)) (stdTag ty)) := by
  refine runEx_ok _ _ _ ?_
  simp only [Ex.bind_apply, vecChecks_ok s _ hv, checkOpnds_ok s _ hr, Ex.get_apply, Ex.pop_apply, Ex.wrV_apply, Ex.advance_apply,
    State.givesV, lanesOf_range, set_map_range]

theorem exec_vscale {rm : BitVec 2} {step : BitVec 16} (hr : s.readable ([vsrc b, src g] ++ maskOp m ++ [vdst v]) = true) :
    exec (.vscale v b g m ty rm step) s = .next (s.givesV ([vsrc b, src g] ++ maskOp m ++ [vdst v]) v
      (ofLanes (tyWidth ty) ((List.range (tyLanes ty)).map fun i => if (s.maskOf m).getLsbD i then
        fltLane ty (fun t q => t.ofVal rm ((t.value q).scale (scaleStep (s.gValue g.reg.toNat) step))) (lane (s.vData b.reg.toNat) (tyWidth ty) i) else 0)) (stdTag ty)) := by
  refine runEx_ok _ _ _ ?_
  simp only [Ex.bind_apply, vecChecks_ok s _ hv, checkOpnds_ok s _ hr, maskValue_ok, Ex.get_apply, Ex.pop_apply, Ex.wrV_apply, Ex.advance_apply,
    State.givesV, lanesOf_range, List.map_map, masked_range]
  rfl

theorem exec_vcvt {rm part : BitVec 2} {inf : Bool} {e : Elem} (hl : laneFmt (tagFmt (s.vTag b.reg.toNat)) = true)
    (he : fmtElem (tagFmt (s.vTag b.reg.toNat)) = some e) (hr : s.readable ([vsrc b] ++ maskOp m ++ [vdst v]) = true) :
    exec (.vcvt v b m ty rm part inf) s = .next (s.givesV ([vsrc b] ++ maskOp m ++ [vdst v]) v
      (ofLanes (tyWidth ty) (masked (s.maskOf m) (vcvtLanes (s.vData b.reg.toNat) e (tagScale (s.vTag b.reg.toNat)) ty rm part.toNat (!inf)))) (stdTag ty)) := by
  refine runEx_ok _ _ _ ?_
  simp only [Ex.bind_apply, vecChecks_ok s _ hv, checkOpnds_ok s _ hr, maskValue_ok, Ex.get_apply, Ex.pop_apply, Ex.wrV_apply, Ex.advance_apply,
    State.givesV, hl, he, if_true]

theorem exec_vtags (hr : s.readable [src g, vdst v] = true) : exec (.vtags v g) s = .next (s.givesV [src g, vdst v] v
      ((s.popAll [src g, vdst v]).vData v.toNat) ((s.gValue g.reg.toNat).extractLsb' 0 32 &&& 0xFF00FFFF)) := by
  refine runEx_ok _ _ _ ?_
  simp only [Ex.bind_apply, vecChecks_ok s _ hv, rd1_ok s _ _ hr, Ex.get_apply, Ex.wrV_apply, Ex.advance_apply, State.givesV, src_valueIn]

end

theorem exec_vlut {rm : BitVec 2} {part : BitVec 3} {inf : Bool} (hv : s.mayVec .cb4 = true)
    (low : 0x10 ≤ tagFmt (s.vTag b.reg.toNat)) (high : tagFmt (s.vTag b.reg.toNat) ≤ 0x17) (hr : s.readable ([vsrc b] ++ maskOp m ++ [vdst v]) = true) :
    exec (.vlut v b m ty rm part inf) s = .next (s.givesV ([vsrc b] ++ maskOp m ++ [vdst v]) v
      (ofLanes (tyWidth ty) ((List.range (tyLanes ty)).map fun i => if (s.maskOf m).getLsbD i then
        cvtIn (bookEntry ((tget (s.core (coreOf s.cur)).books (tagFmt (s.vTag b.reg.toNat) - 0x10)).getD 0)
            (lane (s.vData b.reg.toNat) 4 (part.toNat % (128 / tyLanes ty) * tyLanes ty + i))) (.flt bf16) (tagScale (s.vTag b.reg.toNat))
          (tyElem ty) rm (!inf) else 0)) (stdTag ty)) := by
  refine runEx_ok _ _ _ ?_
  have inBook : ¬ (tagFmt (s.vTag b.reg.toNat) < 0x10 ∨ 0x17 < tagFmt (s.vTag b.reg.toNat)) := by omega
  simp only [Ex.bind_apply, vecChecks_ok s _ hv, checkOpnds_ok s _ hr, maskValue_ok, Ex.get_apply, Ex.pop_apply, Ex.wrV_apply, Ex.advance_apply,
    State.givesV, upTo, masked_range, if_neg inBook]

/-! Results that arrive later, and those of a general register. -/

section
variable (hv : s.mayVec .vec = true)
include hv

theorem exec_vlong1 {f : Nat → Nat} (hi : exec i s = runEx (vlong1 v b m ty f) s)
    (hr : s.readable ([vsrc b] ++ maskOp m ++ [vdst v]) = true) :
    exec i s = .next (s.givesLater ([vsrc b] ++ maskOp m ++ [vdst v]) (.v v.toNat)
      (.vec (ofLanes (tyWidth ty) ((List.range (tyLanes ty)).map fun i => if (s.maskOf m).getLsbD i then
        f (lane (s.vData b.reg.toNat) (tyWidth ty) i) else 0)) (stdTag ty))) := by
  rw [hi]
  refine runEx_ok _ _ _ ?_
  simp only [vlong1, Ex.bind_apply, vecChecks_ok s _ hv, checkOpnds_ok s _ hr, maskValue_ok, Ex.get_apply, Ex.pop_apply, Ex.produce_apply,
    Ex.advance_apply, Ex.arriveLater_apply, State.givesLater, lanesOf_range, List.map_map, masked_range]
  rfl

theorem exec_vreduce {f : Word → List Nat → Word} (hi : exec i s = runEx (vreduce d b m ty f) s)
    (hr : s.readable ([vsrc b] ++ maskOp m ++ [dst d]) = true) :
    exec i s = .next (s.givesLater ([vsrc b] ++ maskOp m ++ [dst d]) (.g d.toNat)
      (.word (f (s.maskOf m) ((List.range (tyLanes ty)).map (lane (s.vData b.reg.toNat) (tyWidth ty)))))) := by
  rw [hi]
  refine runEx_ok _ _ _ ?_
  simp only [vreduce, Ex.bind_apply, vecChecks_ok s _ hv, checkOpnds_ok s _ hr, maskValue_ok, Ex.get_apply, Ex.pop_apply, Ex.produce_apply,
    Ex.advance_apply, Ex.arriveLater_apply, State.givesLater, lanesOf_range]

theorem exec_vcmp {f : Int → Int → Bool} {o : Option Int → Bool} (hi : exec i s = runEx (vcmp d b c m ty f o) s)
    (hr : s.readable ([vsrc b, vsrc c] ++ maskOp m ++ [dst d]) = true) :
    exec i s = .next (s.givesG ([vsrc b, vsrc c] ++ maskOp m ++ [dst d]) d (condBits (s.maskOf m) ((List.range (tyLanes ty)).map fun i =>
      cmpLane ty f o (lane (s.vData b.reg.toNat) (tyWidth ty) i) (lane (s.vData c.reg.toNat) (tyWidth ty) i)))) := by
  rw [hi]
  refine runEx_ok _ _ _ ?_
  simp only [vcmp, Ex.bind_apply, vecChecks_ok s _ hv, checkOpnds_ok s _ hr, maskValue_ok, Ex.get_apply, Ex.pop_apply, Ex.wr_apply,
    Ex.advance_apply, State.givesG, lanesOf_range, List.zip_map', List.map_map]
  rfl

theorem exec_vdot (hr : s.readable ([vsrc b, vsrc c] ++ maskOp m ++ [dst d]) = true) :
    exec (.vdot d b c m ty) s = .next (s.givesG ([vsrc b, vsrc c] ++ maskOp m ++ [dst d]) d (vdotR ty (s.maskOf m)
      ((List.range (tyLanes ty)).map (lane (s.vData b.reg.toNat) (tyWidth ty)))
      ((List.range (tyLanes ty)).map (lane (s.vData c.reg.toNat) (tyWidth ty))))) := by
  refine runEx_ok _ _ _ ?_
  simp only [Ex.bind_apply, vecChecks_ok s _ hv, checkOpnds_ok s _ hr, maskValue_ok, Ex.get_apply, Ex.pop_apply, Ex.wr_apply,
    Ex.advance_apply, State.givesG, lanesOf_range]

/-- A lane that is extracted: an integer is sign-extended (R327). -/
def extracted (ty : BitVec 3) (x : Nat) : Word :=
  match tyElem ty with
  | .int w _ => sext64 x w
  | .flt _ => w64 x

theorem exec_vextr (hr : s.readable [vsrc b, src g, dst d] = true) :
    exec (.vextr d b g ty) s = .next (s.givesG [vsrc b, src g, dst d] d
      (extracted ty (lane (s.vData b.reg.toNat) (tyWidth ty) ((s.gValue g.reg.toNat).toNat % tyLanes ty)))) := by
  refine runEx_ok _ _ _ ?_
  simp only [Ex.bind_apply, vecChecks_ok s _ hv, checkOpnds_ok s _ hr, Ex.get_apply, Ex.pop_apply, Ex.wr_apply, Ex.advance_apply, State.givesG]
  rfl

theorem exec_vtagg (hr : s.readable [vsrc b, dst d] = true) :
    exec (.vtagg d b) s = .next (s.wrote d ((s.vTag b.reg.toNat).setWidth 64)).done := by
  refine runEx_ok _ _ _ ?_
  simp only [Ex.bind_apply, vecChecks_ok s _ hv, checkOpnds_ok s _ hr, Ex.get_apply, Ex.wr_apply, Ex.advance_apply]

end

end Sys2Proof.Machine

open Sys2Proof Sys2Proof.Machine

/-- Settles O18: each instruction's lanes, its mask and its tag. -/
theorem vectorOps : Obligations.VectorOps := by
  intro s v b c m g h ty rm part part3 inf step w n x y old k under ops2 ops1 two
  refine ⟨fun hv hr => ?_, fun hv hr => exec_vfma hv hr, fun hv hr => ⟨exec_vmov hv hr, fun e hl he => exec_vcvt hv hl he hr⟩,
    fun hv hr low high => exec_vlut hv low high hr, fun hv hr => exec_vbcast hv hr, fun hv hr => exec_vins hv hr,
    fun hv hr => exec_vscale hv hr, fun hv hr => exec_vtags hv hr⟩
  have lanes {i : Instr} {f : Nat → Nat → Nat} (hi : exec i s = runEx (vop2 v b c m ty f) s) : exec i s = two f := exec_vop2 hi hv hr
  exact ⟨lanes rfl, lanes rfl, lanes rfl, lanes rfl, lanes rfl, lanes rfl, lanes rfl, lanes rfl,
    lanes (f := fun p q => p &&& (2 ^ w - 1 - q)) exec_vandn, lanes (f := fun p q => p * 2 ^ (q % w)) exec_vshl,
    lanes (f := fun p q => p / 2 ^ (q % w)) exec_vshr, lanes (f := fun p q => ofInt w (asInt w p / 2 ^ (q % w))) exec_vsar, exec_vsel hv hr, exec_vperm hv hr⟩

/-- Settles O19: results that arrive later, reductions, comparisons and what a general register receives at issue. -/
theorem vectorResults : Obligations.VectorResults := by
  intro s v d b c m g ty w n x y k xs ys
  refine ⟨fun hv hr => ?_, fun hv hr => ?_, fun hv hr => ?_, fun hv hr => exec_vextr hv hr, fun hv hr => exec_vtagg hv hr⟩
  · exact ⟨exec_vlong1 hv rfl hr, exec_vlong1 hv rfl hr, exec_vlong1 hv rfl hr, exec_vlong1 hv rfl hr, exec_vlong1 hv rfl hr,
      exec_vlong1 hv rfl hr⟩
  · exact ⟨exec_vreduce hv rfl hr, exec_vreduce hv rfl hr, exec_vreduce hv rfl hr⟩
  · exact ⟨exec_vcmp hv rfl hr, exec_vcmp hv rfl hr, exec_vcmp hv rfl hr, exec_vcmp hv rfl hr, exec_vdot hv hr⟩

end

section
/-!
PROOFS. What a queue that moves changes (R196 to R199): the queues themselves, the contexts that wait for them, and the windows that a pop acquires.
-/

namespace Sys2Proof.Machine

variable {s t u : State} {n k : Nat}

theorem ctx_wakeIf (p : Nat → Wait → Bool) (n : Nat) :
    (s.wakeIf p).ctx n = s.ctx n ∨ (s.wakeIf p).ctx n = { s.ctx n with state := .live } := by
  obtain ⟨f, hf, keeps⟩ : ∃ f : Nat × Ctx → Nat × Ctx, (s.wakeIf p).ctxs = s.ctxs.map f
      ∧ ∀ e, f e = e ∨ f e = (e.1, { e.2 with state := .live }) := by
    refine ⟨_, rfl, fun e => ?_⟩
    split
    · split
      · exact .inr rfl
      · exact .inl rfl
    · exact .inl rfl
  unfold State.ctx
  rw [hf]
  induction s.ctxs with
  | nil => exact .inl rfl
  | cons e l ih =>
    rw [List.map_cons]
    obtain ⟨m, c⟩ := e
    by_cases hm : m = n
    · subst hm
      rcases keeps (m, c) with h | h <;> simp [h, tget]
    · rcases keeps (m, c) with h | h <;> simpa [h, tget, hm] using ih

/-- What queues that move may change: contexts wake, the own result queue, channels, windows, stream ports and steps on their way. -/
structure State.QueuesMoved (s t : State) : Prop where
  rest : t = { s with ctxs := t.ctxs, cores := t.cores, ports := t.ports, agenda := t.agenda }
  own : ∃ st rs, (st = (s.ctx s.cur).state ∨ st = .live) ∧ t.ctx s.cur = { s.ctx s.cur with state := st, results := rs }
  others : s.sameOthers t s.cur
  cores : ∀ k, ∃ ch ws, t.core k = { s.core k with channels := ch, windows := ws }

theorem State.QueuesMoved.refl (s : State) : s.QueuesMoved s := ⟨rfl, ⟨_, _, .inl rfl, rfl⟩, fun _ _ => .inl rfl, fun _ => ⟨_, _, rfl⟩⟩

theorem State.QueuesMoved.cur_eq (h : s.QueuesMoved t) : t.cur = s.cur := by
  rw [h.rest]

theorem State.QueuesMoved.trans (h : s.QueuesMoved t) (g : t.QueuesMoved u) : s.QueuesMoved u where
  rest := g.rest.trans (by rw [h.rest])
  own := by
    obtain ⟨st, rs, woken, own⟩ := h.own
    obtain ⟨st2, rs2, woken2, own2⟩ := g.own
    rw [h.cur_eq, own] at own2 woken2
    exact ⟨st2, rs2, woken2.elim (fun same => same ▸ woken) .inr, own2⟩
  others := by
    intro m hm
    have second := g.others m (by rw [h.cur_eq]; exact hm)
    rcases h.others m hm with earlier | earlier <;> rw [earlier] at second
    · exact second
    · exact .inr (second.elim id id)
  cores := by
    intro k
    obtain ⟨ch, ws, first⟩ := h.cores k
    obtain ⟨ch2, ws2, second⟩ := g.cores k
    exact ⟨ch2, ws2, by rw [second, first]⟩

theorem queuesMoved_wakeIf (p : Nat → Wait → Bool) : s.QueuesMoved (s.wakeIf p) where
  rest := rfl
  own := (ctx_wakeIf p s.cur).elim (fun h => ⟨_, _, .inl rfl, h⟩) fun h => ⟨_, _, .inr rfl, h⟩
  others := fun m _ => ctx_wakeIf p m
  cores := fun _ => ⟨_, _, rfl⟩

theorem queuesMoved_modCore {f : Core → Core} (hf : ∀ c, ∃ ch ws, f c = { c with channels := ch, windows := ws }) :
    s.QueuesMoved (s.modCore k f) where
  rest := rfl
  own := ⟨_, _, .inl rfl, rfl⟩
  others := fun _ _ => .inl rfl
  cores := fun j => by
    by_cases hj : j = k
    · subst hj
      rw [State.core_modCore]
      exact hf _
    · exact ⟨_, _, State.core_modCore_other _ _ _ _ hj⟩

theorem queuesMoved_modOwn {f : Ctx → Ctx} (hf : ∀ c, ∃ rs, f c = { c with results := rs }) :
    s.QueuesMoved (s.modCtx s.cur f) where
  rest := rfl
  own := by
    obtain ⟨rs, results⟩ := hf (s.ctx s.cur)
    exact ⟨_, rs, .inl rfl, (State.ctx_modCtx ..).trans results⟩
  others := fun _ hm => .inl (State.ctx_modCtx_other _ _ _ _ hm)
  cores := fun _ => ⟨_, _, rfl⟩

theorem queuesMoved_ports (f : Tbl Port) : s.QueuesMoved { s with ports := f } :=
  ⟨rfl, ⟨_, _, .inl rfl, rfl⟩, fun _ _ => .inl rfl, fun _ => ⟨_, _, rfl⟩⟩

theorem queuesMoved_agenda (f : List Instr) : s.QueuesMoved { s with agenda := f } :=
  ⟨rfl, ⟨_, _, .inl rfl, rfl⟩, fun _ _ => .inl rfl, fun _ => ⟨_, _, rfl⟩⟩

theorem queuesMoved_acquireIn (f : Window → Nat → Bool) : s.QueuesMoved (s.acquireIn k f) := queuesMoved_modCore fun _ => ⟨_, _, rfl⟩

theorem queuesMoved_acquireWindows : s.QueuesMoved (s.acquireWindows k) := by
  unfold State.acquireWindows
  exact (queuesMoved_agenda _).trans (queuesMoved_acquireIn _)

theorem queuesMoved_popQueue (b : Binding) : s.QueuesMoved (s.popQueue s.cur b) := by
  cases b with
  | sibling out back k =>
    cases out
    · simp only [State.popQueue]
      exact (queuesMoved_modCore fun _ => ⟨_, _, rfl⟩).trans (queuesMoved_wakeIf _)
    · exact .refl s
  | streamIn id reg =>
    simp only [State.popQueue]
    have taken := (queuesMoved_ports (s := s) ((tget s.ports id).elim s.ports fun p => tset s.ports id { p with words := p.words.drop 1 }))
    split
    · exact taken.trans (queuesMoved_wakeIf _)
    · exact (taken.trans (queuesMoved_wakeIf _)).trans queuesMoved_acquireWindows
  | results => exact queuesMoved_modOwn fun _ => ⟨_, rfl⟩
  | _ => exact .refl s

theorem queuesMoved_popAll (ops : List Opnd) : s.QueuesMoved (s.popAll ops) := by
  unfold State.popAll
  generalize sourceRegs ops = l
  induction l generalizing s with
  | nil => exact .refl s
  | cons r l ih =>
    rw [List.foldl_cons]
    refine .trans ?_ ih
    split
    · exact queuesMoved_popQueue _
    · exact .refl s

theorem queuesMoved_pushQueue (b : Binding) (v : Word) : s.QueuesMoved (s.pushQueue s.cur b v) := by
  cases b with
  | sibling out back k =>
    cases out
    · exact .refl s
    · simp only [State.pushQueue]
      split
      · exact .refl s
      · split
        · exact .refl s
        · exact (queuesMoved_modCore fun _ => ⟨_, _, rfl⟩).trans (queuesMoved_wakeIf _)
  | streamOut id =>
    simp only [State.pushQueue]
    exact (queuesMoved_ports _).trans (queuesMoved_agenda _)
  | _ => exact .refl s

/-! What an instruction's operands may change: its queue sources are popped, its destinations written or emptied (R191, R196, R269). -/

/-- What queues and registers that move may change; of the own context, its registers, its queues and its producers. -/
structure State.RegsMoved (s t : State) : Prop where
  rest : t = { s with ctxs := t.ctxs, cores := t.cores, ports := t.ports, agenda := t.agenda, nextId := t.nextId }
  own : ∃ st rs g gf mk qp pr, t.ctx s.cur =
    { s.ctx s.cur with state := st, results := rs, g := g, gFull := gf, markers := mk, qpend := qp, producers := pr }

theorem State.QueuesMoved.regs (h : s.QueuesMoved t) : s.RegsMoved t where
  rest := h.rest.trans (by rw [h.rest])
  own := h.own.imp fun _ ⟨_, _, own⟩ => ⟨_, _, _, _, _, _, own⟩

theorem State.RegsMoved.trans (h : s.RegsMoved t) (g : t.RegsMoved u) : s.RegsMoved u where
  rest := g.rest.trans (by rw [h.rest])
  own := by
    obtain ⟨_, _, _, _, _, _, _, own⟩ := h.own
    obtain ⟨_, _, _, _, _, _, _, own2⟩ := g.own
    have same : t.cur = s.cur := by rw [h.rest]
    rw [same, own] at own2
    exact ⟨_, _, _, _, _, _, _, own2⟩

theorem regsMoved_modOwn {f : Ctx → Ctx} (hf : ∀ c, ∃ st rs g gf mk qp pr,
      f c = { c with state := st, results := rs, g := g, gFull := gf, markers := mk, qpend := qp, producers := pr }) :
    s.RegsMoved (s.modCtx s.cur f) where
  rest := rfl
  own := by
    rw [State.ctx_modCtx]
    exact hf _

theorem regsMoved_newId : s.RegsMoved s.newId.2 := ⟨rfl, ⟨_, _, _, _, _, _, _, rfl⟩⟩

theorem regsMoved_popAll (ops : List Opnd) : s.RegsMoved (s.popAll ops) := (queuesMoved_popAll ops).regs

theorem regsMoved_emptyAgain {r : Nat} (hr : r < 64) : s.RegsMoved (s.emptyAgain s.cur r) := by
  unfold State.emptyAgain
  simp only [hr, if_true]
  have unmarked := regsMoved_modOwn (s := s) (f := fun c => { c with markers := tdel c.markers r }) fun _ => ⟨_, _, _, _, _, _, _, rfl⟩
  split
  · exact unmarked
  · exact unmarked.trans (regsMoved_modOwn (s := s.modCtx s.cur _) fun _ => ⟨_, _, _, _, _, _, _, rfl⟩)

theorem regsMoved_began {r : Nat} (hr : r < 64) (h : Option Req) (acq : Bool) : s.RegsMoved (s.began (.g r) h acq) := by
  unfold State.began
  simp only
  split
  · exact regsMoved_newId.trans (regsMoved_modOwn fun _ => ⟨_, _, _, _, _, _, _, rfl⟩)
  · have emptied := regsMoved_newId.trans (regsMoved_emptyAgain (s := s.newId.2) hr)
    refine emptied.trans ?_
    have same : (s.newId.2.emptyAgain s.newId.2.cur r).cur = s.newId.2.cur := by rw [(regsMoved_emptyAgain hr).rest]
    have began := regsMoved_modOwn (s := s.newId.2.emptyAgain s.newId.2.cur r)
      (f := fun c => { c with producers := c.producers ++ [⟨s.nextId, .g r, h, acq, acq, false⟩] }) fun _ => ⟨_, _, _, _, _, _, _, rfl⟩
    rw [same] at began
    exact began

theorem regsMoved_wrote (d : GReg) (v : Word) : s.RegsMoved (s.wrote d v) := by
  unfold State.wrote
  split
  · refine regsMoved_modOwn fun c => ?_
    unfold Ctx.setG
    split <;> exact ⟨_, _, _, _, _, _, _, rfl⟩
  · simp only
    split
    · exact regsMoved_modOwn fun _ => ⟨_, _, _, _, _, _, _, rfl⟩
    · exact (queuesMoved_pushQueue _ _).regs

namespace State.RegsMoved

variable (h : s.RegsMoved t)
include h

theorem cur_eq : t.cur = s.cur := by rw [h.rest]

theorem clusters_eq : t.clusters = s.clusters := by rw [h.rest]

theorem cluster_eq : t.cluster k = s.cluster k := by rw [State.cluster, h.clusters_eq, State.cluster]

theorem copies_eq : t.copies = s.copies := by rw [h.rest]

theorem pc_eq : t.here.pc = s.here.pc := by
  obtain ⟨_, _, _, _, _, _, _, own⟩ := h.own
  rw [State.here, h.cur_eq, own, State.here]

theorem npc_eq : t.here.npc = s.here.npc := by
  obtain ⟨_, _, _, _, _, _, _, own⟩ := h.own
  rw [State.here, h.cur_eq, own, State.here]

theorem tiles_eq : t.here.tiles = s.here.tiles := by
  obtain ⟨_, _, _, _, _, _, _, own⟩ := h.own
  rw [State.here, h.cur_eq, own, State.here]

theorem ownCopies_eq : t.here.copies = s.here.copies := by
  obtain ⟨_, _, _, _, _, _, _, own⟩ := h.own
  rw [State.here, h.cur_eq, own, State.here]

theorem ws_eq : t.here.ws = s.here.ws := by
  obtain ⟨_, _, _, _, _, _, _, own⟩ := h.own
  rw [State.here, h.cur_eq, own, State.here]

end State.RegsMoved

end Sys2Proof.Machine
end

section
/-!
PROOFS. PUSH, COPY and WAITT (R336, R346 to R350).
-/

namespace Sys2Proof.Machine

variable {s : State} {d : GReg} {b c e : Src} {off : Nat}

/-! The lowest free entries of a range-lock table (R175). -/

theorem free_entries (n : Nat) (l : Tbl RangeLock) : n ≤ ((List.range n).filter fun i => !(l.any fun e => e.1 == i)).length + l.length := by
  have taken : ((List.range n).filter fun i => l.any fun e => e.1 == i).length ≤ l.length := by
    have sub : ((List.range n).filter fun i => l.any fun e => e.1 == i) ⊆ l.map (·.1) := by
      intro i hi
      simp only [List.mem_filter, List.any_eq_true, beq_iff_eq] at hi
      obtain ⟨_, e, he, rfl⟩ := hi
      exact List.mem_map_of_mem he
    have := List.Nodup.length_le_of_subset (List.nodup_range.filter _) sub
    rwa [List.length_map] at this
  have all := List.length_eq_countP_add_countP (l := List.range n) fun i => l.any fun e => e.1 == i
  simp only [List.countP_eq_length_filter, List.length_range, Bool.not_eq_true, Bool.decide_eq_false] at all
  omega

theorem freeLockEntries_some {k : Core} {n : Nat} (h : n + k.locks.length ≤ 64) : ∃ places, k.freeLockEntries n = some places := by
  have := free_entries 64 k.locks
  exact ⟨_, if_pos (show n ≤ ((List.range 64).filter fun i => !(k.locks.any fun e => e.1 == i)).length by omega)⟩

theorem freeLockEntries_zero (k : Core) : k.freeLockEntries 0 = some [] := by simp [Core.freeLockEntries]

/-- The record of a task that joins its cluster's scheduler without a counter to wait for (R336). -/
def State.newTile (s : State) (id : Nat) (body : Block) (bad : Bool) : Tile :=
  { id := id, ctx := s.cur, core := coreOf s.cur, owner := s.here.owner, space := s.here.space, level := s.here.level, body := body,
    slots := (s.here.task.map (·.acc)).getD [], books := (s.core (coreOf s.cur)).books, cb4 := s.accepted s.here .cb4, wjc := none, jcReady := true,
    engine := none, k := 0, kidx := 0, busy := 0, waiting := false,
    result := if bad then some 0x40 else none, dk := none, done := false, observed := false, fetching := [] }

/-- The state after PUSH (R336): the record is in its scheduler, and the destination's count is on its way. -/
def State.pushed (s : State) (d : GReg) (ops : List Opnd) (q : Tile) : State :=
  let cl := clusterOf (coreOf s.cur)
  let s1 := (s.modCluster cl fun k => { k with tiles := k.tiles ++ [q] }).popAll ops
  let s2 := s1.modCtx s1.cur fun c => { c with tiles := c.tiles + 1 }
  let s3 := (s2.began (.g d.toNat) none false).done
  let s4 := s3.sendWs s3.cur
  let s5 := s4.post [.producerArrive s4.cur s2.nextId (.word (w64 (s.here.tiles + 1)))]
  if q.result.isSome then s5.post [.tileTaskComplete cl (1000 + q.id)] else s5

theorem newId_fst : s.newId.1 = s.nextId := rfl

theorem newId_core {k : Nat} : s.newId.2.core k = s.core k := rfl

theorem exec_push {places : List Nat} {bad : Bool} (hg : s.mayUse .matrix = true) (hc : isChannel (coreOf s.cur) = false)
    (hr : s.readable [src b, dst d] = true) (hb : s.recordHere (s.gValue b.reg.toNat) off = true) (hs : s.scGated s.cur = false)
    (hq : (s.cluster (clusterOf (coreOf s.cur))).tiles.countP (fun t => !t.done && t.owner == s.here.owner)
      < 4 * (s.owner s.here.owner).active.quota (dieOf (coreOf s.cur)) 3)
    (hbad : s.tileMalformed ⟨0, s.cur, coreOf s.cur, s.here.owner, s.here.space, s.here.level, true⟩
      ((s.here.task.map (·.acc)).getD []).length (s.ownBlock off).1 = bad)
    (hw : bad = false → tW (s.ownBlock off).1 6 = 0)
    (hp : (s.core (coreOf s.cur)).freeLockEntries (if bad then [] else tileLocks s.nextId (s.ownBlock off).1).length = some places) :
    let t := s.newId.2.addLocks (coreOf s.cur) places (if bad then [] else tileLocks s.nextId (s.ownBlock off).1)
    exec (.push d b) s = .next (t.pushed d [src b] (t.newTile s.nextId (s.ownBlock off).1 bad)) := by
  obtain ⟨hl, hm⟩ := Bool.and_eq_true_iff.1 hb
  refine runEx_ok _ _ _ ?_
  simp [Ex.bind_apply, needGroup_ok s _ hg, hc, pk1_ok s _ _ hr, typeGate_ok s _ (fun _ => hs), readNow_local hm hl, Nat.not_le.2 hq, hbad]
  rw [newId_core, newId_fst, hp]
  cases bad
  · simp [Ex.bind_apply, State.tileWait, hw]
    rfl
  · simp [Ex.bind_apply]
    rfl

theorem sendWs_none {n : Nat} (h : (s.ctx n).ws = []) : s.sendWs n = s.modCtx n fun c => { c with ws := [], unacked := c.unacked } := by
  simp [State.sendWs, h]

theorem popAll_nextId (ops : List Opnd) : (s.popAll ops).nextId = s.nextId := by rw [(queuesMoved_popAll ops).rest]

theorem here_modOwn (f : Ctx → Ctx) : (s.modCtx s.cur f).here = f s.here := State.ctx_modCtx ..

theorem here_done : s.done.here = s.here.goOn s.here.npc := here_modOwn _

/-- What PUSH writes: the scheduler's list, the context's count and its program counter, and the count that goes to the destination (R336). -/
theorem pushed_spec {ops : List Opnd} {q : Tile} (hw : s.here.ws = []) :
    let t := s.pushed d ops q
    (t.cluster (clusterOf (coreOf s.cur))).tiles = (s.cluster (clusterOf (coreOf s.cur))).tiles ++ [q] ∧ t.here.tiles = s.here.tiles + 1
      ∧ t.here.pc = s.here.npc ∧ .producerArrive s.cur s.nextId (.word (w64 (s.here.tiles + 1))) ∈ t.agenda := by
  let s0 := s.modCluster (clusterOf (coreOf s.cur)) fun k => { k with tiles := k.tiles ++ [q] }
  let s1 := s0.popAll ops
  let s2 := s1.modCtx s1.cur fun c => { c with tiles := c.tiles + 1 }
  let s3 := (s2.began (.g d.toNat) none false).done
  have popped : s0.RegsMoved s1 := regsMoved_popAll ops
  have began : s2.RegsMoved (s2.began (.g d.toNat) none false) := regsMoved_began d.isLt _ _
  have cur3 : s3.cur = s.cur := began.cur_eq.trans popped.cur_eq
  have sent : s3.sendWs s3.cur = s3.modCtx s3.cur fun c => { c with ws := [], unacked := c.unacked } := by
    refine sendWs_none ?_
    calc s3.here.ws = s2.here.ws := by rw [here_done]; exact began.ws_eq
      _ = s1.here.ws := by rw [here_modOwn]
      _ = [] := popped.ws_eq.trans hw
  have here4 : (s3.sendWs s3.cur).here = { s3.here with ws := [], unacked := s3.here.unacked } := by rw [sent, here_modOwn]
  have cur4 : (s3.sendWs s3.cur).cur = s.cur := by rw [sent]; exact cur3
  have scheduled : ((s3.sendWs s3.cur).cluster (clusterOf (coreOf s.cur))).tiles = (s.cluster (clusterOf (coreOf s.cur))).tiles ++ [q] := by
    calc ((s3.sendWs s3.cur).cluster (clusterOf (coreOf s.cur))).tiles = (s2.cluster (clusterOf (coreOf s.cur))).tiles := by
          rw [sent]; exact congrArg Cluster.tiles began.cluster_eq
      _ = (s0.cluster (clusterOf (coreOf s.cur))).tiles := congrArg Cluster.tiles popped.cluster_eq
      _ = _ := by simp [s0, State.cluster, State.modCluster, tget_tset_same]
  have counted : (s3.sendWs s3.cur).here.tiles = s.here.tiles + 1 := by
    rw [here4]
    calc s3.here.tiles = s2.here.tiles := by rw [here_done]; exact began.tiles_eq
      _ = s1.here.tiles + 1 := by rw [here_modOwn]
      _ = s.here.tiles + 1 := congrArg (· + 1) popped.tiles_eq
  have moved : (s3.sendWs s3.cur).here.pc = s.here.npc := by
    rw [here4]
    calc s3.here.pc = s2.here.npc := by rw [here_done]; exact began.npc_eq
      _ = s1.here.npc := by rw [here_modOwn]
      _ = s.here.npc := popped.npc_eq
  have numbered : s2.nextId = s.nextId := popAll_nextId ops
  have posted : Instr.producerArrive s.cur s.nextId (.word (w64 (s.here.tiles + 1)))
      ∈ ((s3.sendWs s3.cur).post [.producerArrive (s3.sendWs s3.cur).cur s2.nextId (.word (w64 (s.here.tiles + 1)))]).agenda := by
    rw [cur4, numbered]
    exact List.mem_append_right _ (List.mem_singleton_self _)
  dsimp only [State.pushed]
  split
  · exact ⟨scheduled, counted, moved, List.mem_append_left _ posted⟩
  · exact ⟨scheduled, counted, moved, posted⟩

/-- WAITT whose time has come, with every copy it covers ended without a fault that it has not seen (R350). -/
theorem exec_waitt (hg : s.mayUse .base = true) (hr : s.readable [src b] = true) (ht : (s.gValue b.reg.toNat).toNat ≤ s.dtc.toNat)
    (hc : (s.promised s.cur (s.gValue b.reg.toNat)).all (fun q => q.done && (q.observed || q.cause == 0)) = true) :
    exec (.waitt b) s = .next ((s.popAll [src b]).acquireCopies (coreOf s.cur) (s.promised s.cur (s.gValue b.reg.toNat))).done := by
  have ended : ∀ q ∈ s.promised s.cur (s.gValue b.reg.toNat), q.done = true ∧ (q.observed = true ∨ q.cause = 0) := by simpa using hc
  have unfaulted : (s.promised s.cur (s.gValue b.reg.toNat)).find? (fun c => c.done && !c.observed && c.cause != 0#8) = none := by
    rw [List.find?_eq_none]
    intro q hq
    obtain ⟨_, seen | fine⟩ := ended q hq <;> simp [*]
  have allDone : (s.promised s.cur (s.gValue b.reg.toNat)).find? (fun c => !c.done) = none := by
    rw [List.find?_eq_none]
    intro q hq
    simp [(ended q hq).1]
  refine runEx_ok _ _ _ ?_
  simp [Ex.bind_apply, needGroup_ok s _ hg, pk1_ok s _ _ hr, Nat.not_lt.2 ht, unfaulted, allDone, (regsMoved_popAll [src b]).cur_eq]

end Sys2Proof.Machine
end

section
/-!
PROOFS. What a packet changes (R14, R106, R112 to R117): the queues and calendars of the shared resources, their streams, and the steps on their way.
-/

namespace Sys2Proof.Machine

variable {s t u : State} {n k j o core block : Nat}

/-- What a packet may change. -/
def State.TrafficMoved (s t : State) : Prop :=
  t = { s with agenda := t.agenda, later := t.later, resources := t.resources, streams := t.streams, nextId := t.nextId }

theorem State.TrafficMoved.refl (s : State) : s.TrafficMoved s := rfl

theorem State.TrafficMoved.trans (h : s.TrafficMoved t) (g : t.TrafficMoved u) : s.TrafficMoved u := by
  unfold State.TrafficMoved at *
  rw [h] at g
  exact g

theorem trafficMoved_ite {c : Prop} [Decidable c] (h : s.TrafficMoved t) (g : s.TrafficMoved u) : s.TrafficMoved (if c then t else u) := by
  split
  · exact h
  · exact g

theorem trafficMoved_foldl {α : Type} {f : State → α → State} (hf : ∀ (s : State) (a : α), s.TrafficMoved (f s a)) (l : List α) :
    s.TrafficMoved (l.foldl f s) := by
  induction l generalizing s with
  | nil => exact .refl s
  | cons a l ih => exact (hf s a).trans ih

theorem trafficMoved_post (l : List Instr) : s.TrafficMoved (s.post l) := rfl

theorem trafficMoved_postLater (l : List Instr) : s.TrafficMoved (s.postLater l) := rfl

theorem trafficMoved_newId : s.TrafficMoved s.newId.2 := rfl

theorem trafficMoved_advance (i : StreamId) : s.TrafficMoved (s.advance i) := rfl

theorem trafficMoved_draw (i : StreamId) (n : Nat) : s.TrafficMoved (s.draw i n).2 := rfl

theorem trafficMoved_modResource (f : Resource → Resource) : s.TrafficMoved (s.modResource k j f) := rfl

theorem trafficMoved_shuffle (i : StreamId) (l : List Nat) (n : Nat) : s.TrafficMoved (s.shuffle i l n).2 := by
  induction n generalizing s l with
  | zero => exact .refl s
  | succ n ih => exact (trafficMoved_draw i (n + 2)).trans (ih _)

theorem trafficMoved_buildCalendar (c : Nat) : s.TrafficMoved (s.buildCalendar k j c) := by
  simp only [State.buildCalendar]
  exact (trafficMoved_shuffle _ _ _).trans (trafficMoved_modResource _)

theorem trafficMoved_spare : s.TrafficMoved (s.spare k j o).2 := trafficMoved_draw _ 16

theorem trafficMoved_idleSlots (i n : Nat) : s.TrafficMoved (s.idleSlots k j i n) := by
  induction n generalizing s i with
  | zero => exact .refl s
  | succ n ih =>
    simp only [State.idleSlots]
    refine .trans ?_ (ih _)
    exact (trafficMoved_ite (trafficMoved_buildCalendar _) (.refl s)).trans (trafficMoved_ite (.refl _) trafficMoved_spare)

theorem trafficMoved_touch : s.TrafficMoved (s.touch k j) := by
  unfold State.touch
  simp only
  split
  · exact (trafficMoved_idleSlots _ _).trans (trafficMoved_modResource _)
  · exact .refl s

theorem trafficMoved_enqueue (q : Queued) : s.TrafficMoved (s.enqueue k j q) := trafficMoved_touch.trans (trafficMoved_modResource _)

theorem trafficMoved_travel (path : List (Nat × Nat)) (flits : Nat) (ev : List Instr) (access : Nat) :
    s.TrafficMoved (s.travel o path flits ev access) := by
  cases path with
  | nil => exact trafficMoved_postLater ev
  | cons h rest => exact (trafficMoved_foldl (fun _ _ => trafficMoved_enqueue _) _).trans (trafficMoved_enqueue _)

theorem trafficMoved_chooseOrder (p q : Place) : s.TrafficMoved (s.chooseOrder o p q).2 := by
  unfold State.chooseOrder
  split
  · exact trafficMoved_draw _ 2
  · exact .refl s

theorem trafficMoved_packet (p q : Place) (ev : List Instr) : s.TrafficMoved (s.packet o p q ev) := by
  unfold State.packet
  exact (trafficMoved_chooseOrder p q).trans (trafficMoved_travel _ _ _ _)

theorem trafficMoved_packetBack (p q : Place) (yf : Bool) (flits : Nat) (ev : List Instr) (access : Nat) :
    s.TrafficMoved (s.packetBack o p q yf flits ev access) := trafficMoved_travel _ _ _ _

theorem trafficMoved_toSlice (r : Req) : s.TrafficMoved (s.toSlice r) := by
  unfold State.toSlice
  simp only
  split
  · exact trafficMoved_newId.trans (trafficMoved_postLater _)
  · exact (trafficMoved_newId.trans (trafficMoved_chooseOrder _ _)).trans (trafficMoved_travel _ _ _ _)

theorem trafficMoved_depart (r : Req) : s.TrafficMoved (s.depart r) := by
  unfold State.depart
  split
  · exact trafficMoved_toSlice r
  · exact trafficMoved_post _

theorem trafficMoved_sendMarker (n rel path : Nat) : s.TrafficMoved (s.sendMarker n rel path) := by
  unfold State.sendMarker
  split
  · exact trafficMoved_travel _ _ _ _
  · split
    · exact trafficMoved_travel _ _ _ _
    · exact trafficMoved_post _

/-! What a release changes that holds no operation, for a context without merged writes and without an earlier release (R178). -/

/-- What it may change: packets leave, lines of the L1 become clean, and of the context its state, its releases, its paths and its writes. -/
structure State.ReleaseMoved (n : Nat) (s t : State) : Prop where
  rest : t =
    { s with
      ctxs := t.ctxs, cores := t.cores, agenda := t.agenda, later := t.later, resources := t.resources, streams := t.streams,
      nextId := t.nextId }
  own : ∃ st rl pa ws un, t.ctx n = { s.ctx n with state := st, releases := rl, paths := pa, ws := ws, unacked := un }

namespace State.ReleaseMoved

theorem refl (s : State) : s.ReleaseMoved n s := ⟨rfl, ⟨_, _, _, _, _, rfl⟩⟩

theorem trans (h : State.ReleaseMoved n s t) (g : State.ReleaseMoved n t u) : State.ReleaseMoved n s u where
  rest := g.rest.trans (by rw [h.rest])
  own := by
    obtain ⟨_, _, _, _, _, own⟩ := h.own
    obtain ⟨_, _, _, _, _, own2⟩ := g.own
    rw [own] at own2
    exact ⟨_, _, _, _, _, own2⟩

theorem ite {c : Prop} [Decidable c] (h : State.ReleaseMoved n s t) (g : State.ReleaseMoved n s u) :
    State.ReleaseMoved n s (if c then t else u) := by
  split
  · exact h
  · exact g

theorem cur_eq (h : State.ReleaseMoved n s t) : t.cur = s.cur := by rw [h.rest]

theorem copies_eq (h : State.ReleaseMoved n s t) : t.copies = s.copies := by rw [h.rest]

theorem promise_eq (h : State.ReleaseMoved n s t) (o core b : Nat) (p w : Bool) : t.promise o core b p w = s.promise o core b p w := by
  rw [h.rest]
  rfl

end State.ReleaseMoved

theorem State.TrafficMoved.release (h : s.TrafficMoved t) : State.ReleaseMoved n s t where
  rest := Eq.trans h (by rw [h])
  own := ⟨_, _, _, _, _, by rw [h]; rfl⟩

theorem releaseMoved_modCore (f : Core → Core) : State.ReleaseMoved n s (s.modCore k f) := ⟨rfl, ⟨_, _, _, _, _, rfl⟩⟩

theorem releaseMoved_modCtx {f : Ctx → Ctx} (hf : ∀ c, ∃ st rl pa ws un,
      f c = { c with state := st, releases := rl, paths := pa, ws := ws, unacked := un }) :
    State.ReleaseMoved n s (s.modCtx n f) where
  rest := rfl
  own := by
    rw [State.ctx_modCtx]
    exact hf _

theorem releaseMoved_wakeIf (p : Nat → Wait → Bool) : State.ReleaseMoved n s (s.wakeIf p) where
  rest := rfl
  own := (ctx_wakeIf p n).elim (fun h => ⟨_, _, _, _, _, h⟩) fun h => ⟨_, _, _, _, _, h⟩

theorem releaseMoved_newId : State.ReleaseMoved n s s.newId.2 := trafficMoved_newId.release

theorem releaseMoved_foldl {α : Type} {f : State → α → State} (hf : ∀ (s : State) (a : α), State.ReleaseMoved n s (f s a)) (l : List α) :
    State.ReleaseMoved n s (l.foldl f s) := by
  induction l generalizing s with
  | nil => exact .refl s
  | cons a l ih => exact (hf s a).trans ih

theorem releaseMoved_writeHostLines (core : Nat) : State.ReleaseMoved n s (s.writeHostLines core) := by
  unfold State.writeHostLines
  exact releaseMoved_foldl (fun _ _ => (trafficMoved_depart _).release.trans (releaseMoved_modCore _)) _

theorem releaseCheck_none (hr : (s.ctx n).releases = []) (k : Nat) : s.releaseCheck n k = s := by
  cases k <;> simp [State.releaseCheck, hr]

/-- A release that holds nothing, and that is the context's only one, performs no operation when it completes. -/
theorem releaseMoved_releaseCheck {r : Release} (hr : (s.ctx n).releases = [r]) (hh : r.hold = none) (k : Nat) :
    State.ReleaseMoved n s (s.releaseCheck n k) := by
  cases k with
  | zero => exact .refl s
  | succ k =>
    simp only [State.releaseCheck, hr, hh]
    refine .ite ?_ (.refl s)
    have done : State.ReleaseMoved n s ((s.modCtx n fun c => { c with
        releases := [], paths := if r.wide then c.paths.filter (fun p => !(r.clears p)) else c.paths }).wakeIf
        fun m w => m == n && w.isRelease) :=
      (releaseMoved_modCtx fun _ => ⟨_, _, _, _, _, rfl⟩).trans (releaseMoved_wakeIf _)
    refine done.trans ?_
    rw [releaseCheck_none]
    · exact .refl _
    · rcases ctx_wakeIf (s := s.modCtx n _) (fun m w => m == n && w.isRelease) n with h | h <;> rw [h] <;> simp

theorem State.TrafficMoved.ctx_eq (h : s.TrafficMoved t) : t.ctx n = s.ctx n := by
  rw [h]
  rfl

theorem releaseMoved_beginRelease {r : Release} (hr : (s.ctx n).releases = []) (hh : r.hold = none) (marks : List Nat) :
    State.ReleaseMoved n s (s.beginRelease n r marks) := by
  unfold State.beginRelease
  have marked : (s.modCtx n fun c => { c with releases := c.releases ++ [{ r with markers := marks.length }] }).TrafficMoved
      (marks.foldl (fun s p => s.sendMarker n r.id p) (s.modCtx n fun c =>
        { c with releases := c.releases ++ [{ r with markers := marks.length }] })) :=
    trafficMoved_foldl (fun _ _ => trafficMoved_sendMarker _ _ _) _
  refine ((releaseMoved_modCtx fun _ => ⟨_, _, _, _, _, rfl⟩).trans marked.release).trans ?_
  refine releaseMoved_releaseCheck (r := { r with markers := marks.length }) ?_ hh 8
  rw [marked.ctx_eq, State.ctx_modCtx, hr]
  rfl

theorem ctx_writeHostLines (core : Nat) : (s.writeHostLines core).ctx n = s.ctx n := by
  unfold State.writeHostLines
  generalize List.filter _ _ = l
  induction l generalizing s with
  | nil => rfl
  | cons e l ih => exact ih.trans (trafficMoved_depart _).ctx_eq

theorem releaseMoved_startRelease {sc : BitVec 3} {gate : Bool} (hw : (s.ctx n).ws = []) (hr : (s.ctx n).releases = []) :
    State.ReleaseMoved n s (s.startRelease n sc gate none) := by
  have begun : State.ReleaseMoved n s ((if sc = 7 then s.writeHostLines (coreOf n) else s).modCtx n fun c =>
      { c with ws := [], unacked := c.unacked + c.ws.length }) :=
    (State.ReleaseMoved.ite (releaseMoved_writeHostLines _) (.refl s)).trans (releaseMoved_modCtx fun _ => ⟨_, _, _, _, _, rfl⟩)
  have still : (((if sc = 7 then s.writeHostLines (coreOf n) else s).modCtx n fun c =>
      { c with ws := [], unacked := c.unacked + c.ws.length }).ctx n).releases = [] := by
    rw [State.ctx_modCtx]
    split
    · rw [ctx_writeHostLines]
      exact hr
    · exact hr
  simp only [State.startRelease, hw, List.foldl_nil]
  generalize (if sc = 7 then s.writeHostLines (coreOf n) else s) = s0 at begun still ⊢
  generalize (s0.modCtx n _) = s1 at begun still ⊢
  split
  · exact begun
  · exact (begun.trans releaseMoved_newId).trans (releaseMoved_beginRelease (s := s1.newId.2) still rfl _)

end Sys2Proof.Machine
end

section
/-!
PROOFS. COPY (R346 to R349).
-/

namespace Sys2Proof.Machine

variable {s : State} {d : GReg} {b c e : Src} {sc : BitVec 3} {tags rq : Bool} {dkind : BitVec 2} {off pa : Nat} {te : TlbEntry}

/-- The operands of COPY (R346): with a DKIND, a word follows its length. -/
def copyOps (b c e : Src) (dkind : BitVec 2) : List Opnd :=
  [src b, src c, src e] ++ (if dkind = 0 then [] else [Opnd.src (e.reg.toNat + 1) false])

/-- The word that a copy's end acts on (R346, R349). -/
def State.copyWord (s : State) (e : Src) (dkind : BitVec 2) : Word := if dkind = 0 then 0 else s.gValue (e.reg.toNat + 1)

/-- A copy as its engine takes it (R347), before its promise is known. -/
def State.newCopy (s : State) (b c e : Src) (sc : BitVec 3) (tags rq : Bool) (dkind : BitVec 2) : CopyReq :=
  { id := s.nextId, ctx := some s.cur, core := coreOf s.cur, owner := s.here.owner, space := s.here.space, level := s.here.level,
    dst := s.gValue b.reg.toNat, src := s.gValue c.reg.toNat, blocks := (s.gValue e.reg.toNat).toNat / 64, scope := sc, tags := tags, rq := rq,
    dkind := dkind, dkAddr := s.copyWord e dkind, promise := s.dtc, k := s.here.copies + 1, next := 0, rel := none, asked := false, got := none,
    unacked := 0, waiting := false, result := some 0, dk := none, done := false, observed := false, cmd := none }

/-- The state after a copy has joined its engine and its promise is written (R347, R348). -/
def State.copied (s : State) (d : GReg) (ops : List Opnd) (q : CopyReq) : State :=
  let s1 := s.modCtx s.cur fun c => { c with copies := q.k }
  let s2 : State := { s1 with copies := s1.copies ++ [q] }
  ((s2.popAll ops).wrote d q.promise).done

/-- The state in which a copy's release has begun and its range locks are taken (R175, R176). -/
def State.copyLocked (s : State) (b c e : Src) (sc : BitVec 3) (places : List Nat) : State :=
  (State.startRelease { s with nextId := max s.nextId s.newId.2.nextId } s.cur sc false none).addLocks (coreOf s.cur) places
    [⟨s.nextId, (s.gValue c.reg.toNat).toNat, (s.gValue e.reg.toNat).toNat, false⟩,
     ⟨s.nextId, (s.gValue b.reg.toNat).toNat, (s.gValue e.reg.toNat).toNat, true⟩]

/-- The place where one side of a copy lies. -/
def State.copySide (s : State) (v : Word) : Side := s.sideOf ⟨0, s.cur, coreOf s.cur, s.here.owner, s.here.space, s.here.level, false⟩ v

theorem calm_facts (h : s.calm = true) : gate s = .ok () s ∧ s.here.releases = [] ∧ takeOwed s = .ok () s ∧ s.here.ws = []
    ∧ (s.core (coreOf s.cur)).windows = [] := by
  simp only [State.calm, Bool.and_eq_true, Bool.not_eq_true', List.isEmpty_iff, Option.isNone_iff_eq_none] at h
  obtain ⟨⟨⟨⟨⟨ungated, released⟩, _⟩, unowed⟩, unwritten⟩, unbound⟩ := h
  exact ⟨gate_ok s ungated, released, takeOwed_ok s unowed, unwritten, unbound⟩

theorem releaseWindows_ok (h : s.calm = true) (hm : s.windowMerging (coreOf s.cur) true = false) : releaseWindows sc s = .ok () s := by
  obtain ⟨_, _, unowed, _, unbound⟩ := calm_facts h
  have flushed : flushWindows [] s = .ok () s := rfl
  simp [releaseWindows, Ex.bind_apply, unbound, flushed, hm, unowed]

section
variable (hg : s.mayUse .base = true) (hp : (sc = 5 ∨ sc = 6) → s.mayUse .peer = true)
  (hr : s.readable (copyOps b c e dkind ++ [dst d]) = true) (hc : s.calm = true) (hs : s.scGated s.cur = false)
  (hm : s.windowMerging (coreOf s.cur) true = false) (ht : (s.gValue b.reg.toNat).toNat % 64 = 0)
  (hf : (s.gValue c.reg.toNat).toNat % 64 = 0) (hn : (s.gValue e.reg.toNat).toNat % 64 = 0)
  (hto : s.copySide (s.gValue b.reg.toNat) = .here) (hfrom : s.copySide (s.gValue c.reg.toNat) = .here)
  (ho : overlap (s.gValue b.reg.toNat).toNat (s.gValue e.reg.toNat).toNat (s.gValue c.reg.toNat).toNat (s.gValue e.reg.toNat).toNat = false)
  (hw : dkind ≠ 0 → s.homeAt (s.copyWord e dkind) .atomic false pa te = true)
include hg hp hr hc hs hm ht hf hn hto hfrom ho hw

theorem exec_copy_empty (h0 : (s.gValue e.reg.toNat).toNat / 64 = 0) :
    exec (.copy d b c e sc tags rq dkind) s = .next (((s.newId.2.startRelease s.cur sc false none).copied d (copyOps b c e dkind)
      (s.newCopy b c e sc tags rq dkind)).post [.copyComplete (dieOf (coreOf s.cur)) (coreOf s.cur % 8) s.nextId]) := by
  refine runEx_ok _ _ _ ?_
  obtain ⟨ungated, _, unowed, _, _⟩ := calm_facts hc
  simp only [State.copySide] at hto hfrom
  have short : ¬ 4294967296 < (s.gValue e.reg.toNat).toNat := by omega
  have here : Side.here.outside = false := rfl
  have small : (s.gValue e.reg.toNat).toNat < 64 := by omega
  have typed := typeGate_ok s .rc fun _ => hs
  simp only [Ex.bind_apply, needGroup_ok s _ hg, needScope_ok s _ hp]
  erw [checkOpnds_ok s _ hr]
  by_cases plain : dkind = 0#2
  · subst plain
    simp [Ex.bind_apply, ht, hf, hn, short, hto, hfrom, ho, here, ungated, unowed, typed, small, releaseWindows_ok hc hm]
    rfl
  · have word := hw plain
    have wordEq : s.copyWord e dkind = s.gValue (e.reg.toNat + 1) := if_neg plain
    have opsEq : copyOps b c e dkind = [src b, src c, src e] ++ [Opnd.src (e.reg.toNat + 1) false] := congrArg _ (if_neg plain)
    rw [wordEq] at word
    simp only [State.newCopy, wordEq, opsEq]
    simp [Ex.bind_apply, ht, hf, hn, short, hto, hfrom, ho, here, ungated, unowed, typed, small, releaseWindows_ok hc hm, plain,
      homeTarget_ok s _ _ _ _ _ _ word]
    rfl

theorem exec_copy_blocks {places : List Nat} (hmax : (s.gValue e.reg.toNat).toNat ≤ 2 ^ 32) (h0 : (s.gValue e.reg.toNat).toNat / 64 ≠ 0)
    (hl : (s.core (coreOf s.cur)).freeLockEntries 2 = some places)
    (hq : s.copies.countP (fun q => !q.done && q.blocks != 0 && q.owner == s.here.owner && dieOf q.core == dieOf (coreOf s.cur))
      < ((s.owner s.here.owner).active.dies.toList.getD (dieOf (coreOf s.cur)) .zero).copyq.toNat)
    (hall : s.copies.countP (fun q => !q.done && q.blocks != 0 && q.core == coreOf s.cur) < 512) :
    exec (.copy d b c e sc tags rq dkind) s = .next ((s.copyLocked b c e sc places).copied d (copyOps b c e dkind)
      { s.newCopy b c e sc tags rq dkind with
        promise := (s.copyLocked b c e sc places).promise s.here.owner (coreOf s.cur) ((s.gValue e.reg.toNat).toNat / 64) false false
        result := none
        rel := (((s.copyLocked b c e sc places).ctx (s.copyLocked b c e sc places).cur).releases.getLast?).map (·.id) }) := by
  refine runEx_ok _ _ _ ?_
  obtain ⟨ungated, _, unowed, _, _⟩ := calm_facts hc
  simp only [State.copySide] at hto hfrom
  have short : ¬ 4294967296 < (s.gValue e.reg.toNat).toNat := by omega
  have here : Side.here.outside = false := rfl
  have some1 : ¬ (s.gValue e.reg.toNat).toNat < 64 := by omega
  have typed := typeGate_ok s .rc fun _ => hs
  have queued := Nat.not_le.2 hq
  simp only [List.getD_eq_getElem?_getD, Vector.getElem?_toList] at queued
  simp only [Ex.bind_apply, needGroup_ok s _ hg, needScope_ok s _ hp]
  erw [checkOpnds_ok s _ hr]
  by_cases plain : dkind = 0#2
  · subst plain
    simp [Ex.bind_apply, ht, hf, hn, short, hto, hfrom, ho, here, ungated, unowed, typed, some1, releaseWindows_ok hc hm, hl, Nat.not_le.2 hall,
      queued]
    rfl
  · have word := hw plain
    have wordEq : s.copyWord e dkind = s.gValue (e.reg.toNat + 1) := if_neg plain
    have opsEq : copyOps b c e dkind = [src b, src c, src e] ++ [Opnd.src (e.reg.toNat + 1) false] := congrArg _ (if_neg plain)
    rw [wordEq] at word
    simp only [State.newCopy, wordEq, opsEq]
    simp [Ex.bind_apply, ht, hf, hn, short, hto, hfrom, ho, here, ungated, unowed, typed, some1, releaseWindows_ok hc hm, hl, Nat.not_le.2 hall,
      queued, plain, homeTarget_ok s _ _ _ _ _ _ word]
    rfl

end

/-- A general register below 56 is bound to no queue: what is written to it stands in it (R191, R196). -/
theorem wrote_g {v : Word} (h0 : d.toNat ≠ 0) (h56 : d.toNat < 56) : ((s.wrote d v).here.g.toList.getD d.toNat 0) = v := by
  have unbound : (s.ctx s.cur).bound d.toNat = none := by simp [Ctx.bound, Nat.not_le.2 h56]
  have written : s.wrote d v = s.modCtx s.cur fun c => c.setG d.toNat v := by simp only [State.wrote, unbound]
  rw [written, here_modOwn]
  have inside : d.toNat < 64 := d.isLt
  simp [Ctx.setG, h0, inside]

/-- What COPY writes at its end: the engine's list, the context's count, its program counter and the promise (R347, R348). -/
theorem copied_spec {ops : List Opnd} {q : CopyReq} :
    let t := s.copied d ops q
    t.copies = s.copies ++ [q] ∧ t.here.copies = q.k ∧ t.here.pc = s.here.npc
      ∧ (d.toNat ≠ 0 → d.toNat < 56 → t.here.g.toList.getD d.toNat 0 = q.promise) := by
  let s1 := s.modCtx s.cur fun c => { c with copies := q.k }
  let s2 : State := { s1 with copies := s1.copies ++ [q] }
  have written : s2.RegsMoved ((s2.popAll ops).wrote d q.promise) := (regsMoved_popAll ops).trans (regsMoved_wrote d q.promise)
  have own : s2.here = { s.here with copies := q.k } := here_modOwn (s := s) fun c => { c with copies := q.k }
  dsimp only [State.copied]
  rw [here_done]
  refine ⟨written.copies_eq, written.ownCopies_eq.trans (by rw [own]), written.npc_eq.trans (by rw [own]), fun h0 h56 => wrote_g h0 h56⟩

theorem tileLocks_length (i j : Nat) (x : Block) : (tileLocks i x).length = (tileLocks j x).length := by
  unfold tileLocks
  split <;> rfl

theorem State.ReleaseMoved.npc_eq {t : State} (h : State.ReleaseMoved s.cur s t) : t.here.npc = s.here.npc := by
  obtain ⟨_, _, _, _, _, own⟩ := h.own
  rw [State.here, h.cur_eq, own, State.here]

theorem copyLocked_moved {places : List Nat} (hc : s.calm = true) : State.ReleaseMoved s.cur s (s.copyLocked b c e sc places) := by
  obtain ⟨_, released, _, unwritten, _⟩ := calm_facts hc
  have numbered : State.ReleaseMoved s.cur s { s with nextId := max s.nextId s.newId.2.nextId } := ⟨rfl, ⟨_, _, _, _, _, rfl⟩⟩
  unfold State.copyLocked State.addLocks
  exact (numbered.trans (releaseMoved_startRelease unwritten released)).trans (releaseMoved_modCore _)

end Sys2Proof.Machine

open Sys2Proof Sys2Proof.Machine

/-- Settles O20: a record joins its scheduler, a copy its engine, and a WAITT whose copies are done goes on. -/
theorem engines : Obligations.Engines := by
  intro s d b c e sc tags rq dkind off pa te core cl x frm n w ops body slots bad side
  refine ⟨fun hg hch hr hx hs hws hq hcase => ?_, ?_, fun hg hr ht hall => exec_waitt hg hr ht hall⟩
  · have ungated6 : bad = false → tW body 6 = 0 := fun hb => (hcase.resolve_left (by rw [hb]; decide)).1
    have room : ∃ places, (s.core core).freeLockEntries (if bad then [] else tileLocks s.nextId body).length = some places := by
      cases hb : bad
      · obtain ⟨_, few⟩ := hcase.resolve_left (by rw [hb]; decide)
        exact freeLockEntries_some (by rw [if_neg Bool.false_ne_true, tileLocks_length s.nextId 0]; exact few)
      · exact ⟨[], freeLockEntries_zero _⟩
    obtain ⟨places, hp⟩ := room
    let t := s.newId.2.addLocks core places (if bad then [] else tileLocks s.nextId body)
    obtain ⟨listed, counted, next, posted⟩ := pushed_spec (s := t) (d := d) (ops := [src b]) (q := t.newTile s.nextId body bad) hws
    exact ⟨t.pushed d [src b] (t.newTile s.nextId body bad), t.newTile s.nextId body bad, exec_push hg hch hr hx hs hq rfl ungated6 hp,
      listed, rfl, rfl, rfl, rfl, rfl, rfl, rfl, rfl, counted, next, posted⟩
  · intro hg hp hr hc hs hm hx hf hn hmax hto hfrom ho hw hroom
    obtain ⟨_, released, _, unwritten, _⟩ := calm_facts hc
    by_cases h0 : n.toNat / 64 = 0
    · have empty : n = 0 := BitVec.eq_of_toNat_eq (by simp; omega)
      have moved : State.ReleaseMoved s.cur s (s.newId.2.startRelease s.cur sc false none) :=
        releaseMoved_newId.trans (releaseMoved_startRelease (s := s.newId.2) unwritten released)
      obtain ⟨listed, counted, next, promised⟩ := copied_spec (s := s.newId.2.startRelease s.cur sc false none) (d := d)
        (ops := copyOps b c e dkind) (q := s.newCopy b c e sc tags rq dkind)
      refine ⟨_, s.newCopy b c e sc tags rq dkind, exec_copy_empty hg hp hr hc hs hm hx hf hn hto hfrom ho hw h0, ?_, rfl, rfl, rfl, rfl, rfl, rfl, rfl,
        ?_, ?_, counted, next.trans moved.npc_eq, promised⟩
      · exact listed.trans (congrArg (· ++ _) moved.copies_eq)
      · rw [if_pos empty]
        rfl
      · rw [if_pos empty]
        rfl
    · have some1 : n ≠ 0 := fun h => h0 (by simp [h])
      obtain ⟨few, queued, all⟩ := hroom some1
      obtain ⟨places, hl⟩ := freeLockEntries_some (k := s.core core) (n := 2) (by omega)
      have moved : State.ReleaseMoved s.cur s (s.copyLocked b c e sc places) := copyLocked_moved hc
      refine ⟨_, _, exec_copy_blocks hg hp hr hc hs hm hx hf hn hto hfrom ho hw hmax h0 hl queued all, copied_spec.1.trans ?_, rfl, rfl, rfl, rfl, rfl,
        rfl, rfl, ?_, ?_, copied_spec.2.1, copied_spec.2.2.1.trans moved.npc_eq, copied_spec.2.2.2⟩
      · exact congrArg (· ++ _) moved.copies_eq
      · rw [if_neg some1]
        exact moved.promise_eq ..
      · rw [if_neg some1]
end

section
/-!
PROOFS. Queue registers and streams (R195 to R199, R351, R352).
-/

namespace Sys2Proof.Machine

variable {s : State} {d : GReg} {q : BitVec 3} {b c : Src} {x y : Word} {bd : Binding}

/-! Fields of a descriptor. -/

theorem wbits_top (x : Word) (k : Nat) : wbits x 63 k = (x >>> k).toNat := by
  rw [BitVec.toNat_ushiftRight, Nat.shiftRight_eq_div_pow, wbits, bits]
  apply Nat.mod_eq_of_lt
  by_cases hk : k ≤ 63
  · have : 2 ^ 64 = 2 ^ k * 2 ^ (63 + 1 - k) := by rw [← Nat.pow_add]; congr 1; omega
    exact Nat.div_lt_of_lt_mul (this ▸ x.isLt)
  · have small : x.toNat < 2 ^ k := Nat.lt_of_lt_of_le x.isLt (Nat.pow_le_pow_right (by decide) (by omega))
    rw [Nat.div_eq_of_lt small]
    exact Nat.two_pow_pos _

theorem wbits_top_zero {k : Nat} (h : x >>> k = 0) : wbits x 63 k = 0 := by rw [wbits_top, h]; rfl

theorem wbits_shift (x : Word) (hi lo : Nat) : wbits x hi lo = (x >>> lo).toNat % 2 ^ (hi + 1 - lo) := by
  rw [BitVec.toNat_ushiftRight, Nat.shiftRight_eq_div_pow, wbits, bits]

theorem wbits_kind (h : x &&& 3 = 0) : wbits x 1 0 = 0 := by
  have := congrArg BitVec.toNat h
  rw [BitVec.toNat_and] at this
  simpa [wbits, bits] using (Nat.and_two_pow_sub_one_eq_mod x.toNat 2).symm.trans this

/-! QBIND, QUNBIND and QSTAT (R351). -/

section
variable (hg : s.mayUse .base = true)
include hg

theorem exec_qbind (hr : s.readable [src b] = true) (hp : s.here.pendingOn (qReg q) = false) (hb : s.here.bound (qReg q) = none)
    (hd : s.bindingOf s.cur (qReg q) (s.gValue b.reg.toNat) = some bd) :
    exec (.qbind q b) s = .next ((s.popAll [src b]).modCtx s.cur fun c => { c.setG (qReg q) 0 with bind := tset c.bind q.toNat bd }).done := by
  refine runEx_ok _ _ _ ?_
  simp [Ex.bind_apply, needGroup_ok s _ hg, pk1_ok s _ _ hr, hp, hb, hd, (regsMoved_popAll [src b]).cur_eq]

theorem exec_qunbind_free (hb : s.here.bound (qReg q) = none) : exec (.qunbind q) s = .next s.done := by
  refine runEx_ok _ _ _ ?_
  simp [Ex.bind_apply, needGroup_ok s _ hg, hb]

theorem exec_qunbind_bound (hb : s.here.bound (qReg q) = some bd) (ho : ∀ id, bd ≠ .streamOut id) (hq : tget s.here.qpend q.toNat = none) :
    exec (.qunbind q) s = .next ((s.dropQueue s.cur bd).modCtx s.cur fun c => c.unbind q.toNat).done := by
  refine runEx_ok _ _ _ ?_
  cases bd with
  | streamOut id => exact absurd rfl (ho id)
  | _ => simp [Ex.bind_apply, needGroup_ok s _ hg, hb, hq]

theorem exec_qstat_free (hr : s.dstReady d.toNat = true) (hb : s.here.bound (qReg q) = none) : exec (.qstat d q) s = .next (s.wrote d 0).done := by
  refine runEx_ok _ _ _ ?_
  simp only [State.here] at hb
  simp [Ex.bind_apply, needGroup_ok s _ hg, checkDest_ok s _ hr, hb]

theorem exec_qstat_bound (hr : s.dstReady d.toNat = true) (hb : s.here.bound (qReg q) = some bd) :
    exec (.qstat d q) s = .next (s.freeCount.2.wrote d (s.queueStatus s.cur q.toNat bd)).done := by
  refine runEx_ok _ _ _ ?_
  simp only [State.here] at hb
  simp [Ex.bind_apply, needGroup_ok s _ hg, checkDest_ok s _ hr, hb]

end

theorem bindingOf_sibling (h6 : x >>> 6 = 0) (hk : x &&& 3 = 0)
    (ht : s.endTaken s.cur (x.getLsbD 2) (x.getLsbD 3) ((x >>> 4).toNat % 4) = false) {r : Nat} :
    s.bindingOf s.cur r x = some (.sibling (x.getLsbD 2) (x.getLsbD 3) ((x >>> 4).toNat % 4)) := by
  have channel : wbits x 5 4 = (x >>> 4).toNat % 4 := wbits_shift x 5 4
  simp only [State.bindingOf, wbits_top_zero h6, wbits_kind hk, channel, ht]
  rfl

theorem bindingOf_stream {r : Nat} : s.bindingOf s.cur r 1 = some (.streamIn (s.streamFor s.cur r).1 (s.streamFor s.cur r).2) := rfl

theorem bindingOf_results {r : Nat} (h : s.here.hasResults = false) : s.bindingOf s.cur r 2 = some .results := by
  have kind : wbits (2 : Word) 1 0 = 2 := rfl
  have rest : wbits (2 : Word) 5 2 = 0 := rfl
  have top : wbits (2 : Word) 63 6 = 0 := rfl
  simp only [State.here] at h
  simp only [State.bindingOf, kind, rest, top, h]
  rfl

theorem queueStatus_results {n : Nat} : s.queueStatus s.cur n .results = BitVec.ofNat 64 (2 + 64 + 256 * s.here.results.length) := by
  simp [State.queueStatus, State.queueWords, w64, State.here]

theorem queueStatus_sibling {n k : Nat} {back : Bool} : s.queueStatus s.cur n (.sibling false back k) =
    BitVec.ofNat 64 ((if back then 8 else 0) + 16 * k + 64 + 256 * (s.queueWords s.cur (.sibling false back k)).length) := by
  simp [State.queueStatus, w64]

/-! SOPEN and SCLOSE (R199, R352). -/

/-- A stream that the context has opened toward a register and binds to none of its own (R352). -/
def State.openedStream (s : State) (m r : Nat) (p : Nat × Port) : Bool :=
  p.2.sender == s.cur && !p.2.closed && p.2.receiver == m && p.2.reg == 56 + r && !(s.here.bind.any fun z => z.2 == .streamOut p.1)

section
variable (hg : s.mayUse .base = true) (hr : s.readable [src b, src c] = true) (hp : s.here.pendingOn (qReg q) = false)
  (hb : s.here.bound (qReg q) = none) (hx : (s.gValue b.reg.toNat) >>> 19 = 0) (h1 : 1 ≤ (s.gValue c.reg.toNat).toNat)
  (h64 : (s.gValue c.reg.toNat).toNat ≤ 64) (hm : s.streamPeer s.cur ((s.gValue b.reg.toNat).toNat % 2 ^ 16) = true)
include hg hr hp hb hx h1 h64 hm

/-- The state of a context that has sent a head flit and waits for its answer (R352). -/
def State.headSent (s : State) (m r depth : Nat) : State :=
  ({ s.newId.2 with ports := tset s.ports s.nextId ⟨s.nextId, s.cur, m, 56 + r, depth, [], 0, false, false, false, false⟩ } : State).post
    [.streamHeadFlit m (BitVec.ofNat 3 r)]

theorem exec_sopen_sends {m r : Nat} (hm' : m = (s.gValue b.reg.toNat).toNat % 2 ^ 16) (hr' : r = ((s.gValue b.reg.toNat) >>> 16).toNat % 8)
    (hf : s.ports.find? (s.openedStream m r) = none) :
    let t := s.headSent m r (s.gValue c.reg.toNat).toNat
    exec (.sopen q b c) s = .next (t.modCtx t.cur fun c => c.block (.sopen (qReg q)) t.dtc) := by
  refine runEx_done _ _ _ ?_
  have depth0 : ¬ s.gValue c.reg.toNat = 0#64 := fun h => by simp [h] at h1
  have core : wbits (s.gValue b.reg.toNat) 15 0 = m := by rw [hm']; simp [wbits, bits]
  have reg : wbits (s.gValue b.reg.toNat) 18 16 = r := (wbits_shift ..).trans hr'.symm
  have found : s.ports.find? (fun e => e.2.sender == s.cur && !e.2.closed && e.2.receiver == m && e.2.reg == 56 + r
      && !(s.here.bind.any fun p => p.2 == .streamOut e.1)) = none := hf
  rw [← hm'] at hm
  simp [Ex.bind_apply, needGroup_ok s _ hg, pk2_ok s _ _ _ hr, hp, hb, wbits_top_zero hx, depth0, Nat.not_lt.2 h64, core, reg, hm, found]
  rfl

theorem exec_sopen_binds {m r : Nat} {p : Nat × Port} (hm' : m = (s.gValue b.reg.toNat).toNat % 2 ^ 16)
    (hr' : r = ((s.gValue b.reg.toNat) >>> 16).toNat % 8) (hf : s.ports.find? (s.openedStream m r) = some p) (hd : p.2.discard = false)
    (ho : p.2.opened = true) :
    exec (.sopen q b c) s = .next ((s.popAll [src b, src c]).modCtx s.cur fun c =>
      { c.setG (qReg q) 0 with bind := tset c.bind q.toNat (.streamOut p.1) }).done := by
  refine runEx_ok _ _ _ ?_
  have depth0 : ¬ s.gValue c.reg.toNat = 0#64 := fun h => by simp [h] at h1
  have core : wbits (s.gValue b.reg.toNat) 15 0 = m := by rw [hm']; simp [wbits, bits]
  have reg : wbits (s.gValue b.reg.toNat) 18 16 = r := (wbits_shift ..).trans hr'.symm
  have found : s.ports.find? (fun e => e.2.sender == s.cur && !e.2.closed && e.2.receiver == m && e.2.reg == 56 + r
      && !(s.here.bind.any fun p => p.2 == .streamOut e.1)) = some p := hf
  rw [← hm'] at hm
  simp [Ex.bind_apply, needGroup_ok s _ hg, pk2_ok s _ _ _ hr, hp, hb, wbits_top_zero hx, depth0, Nat.not_lt.2 h64, core, reg, hm, found, hd, ho,
    (regsMoved_popAll [src b, src c]).cur_eq]

end

theorem exec_sclose {id : Nat} {p : Port} (hg : s.mayUse .base = true) (hb : s.here.bound (qReg q) = some (.streamOut id))
    (hp : tget s.ports id = some p) (hq : tget s.here.qpend q.toNat = none) :
    exec (.sclose q) s = .next ((({ s with ports := tset s.ports id { p with closed := true } } : State).post
      [.streamWordArrive id true 0]).modCtx s.cur fun c => c.unbind q.toNat).done := by
  refine runEx_ok _ _ _ ?_
  simp [Ex.bind_apply, needGroup_ok s _ hg, hb, hq, hp]

end Sys2Proof.Machine

open Sys2Proof Sys2Proof.Machine

/-- Settles O21: what each queue instruction binds, lets go, counts, opens and closes. -/
theorem queues : Obligations.Queues := by
  intro s d q b c hg r x y kind k binds
  refine ⟨fun hr hp hb => ⟨fun h6 hk ht => exec_qbind hg hr hp hb (bindingOf_sibling h6 hk ht), fun h1 => ?_, fun h2 hs => ?_⟩,
    fun hb => exec_qunbind_free hg hb, fun bd hb ho hq => exec_qunbind_bound hg hb ho hq,
    fun hd => ⟨fun hb => exec_qstat_free hg hd hb, fun hb => ?_, fun back k hb => ?_⟩, ?_, fun id p hb hp hq => exec_sclose hg hb hp hq⟩
  · exact exec_qbind hg hr hp hb ((congrArg (s.bindingOf s.cur r) h1).trans bindingOf_stream)
  · exact exec_qbind hg hr hp hb ((congrArg (s.bindingOf s.cur r) h2).trans (bindingOf_results hs))
  · rw [← queueStatus_results]
    exact exec_qstat_bound hg hd hb
  · rw [← queueStatus_sibling]
    exact exec_qstat_bound hg hd hb
  · intro hr hp hb hx h1 h64 m reg mine hm
    refine ⟨fun hf => ⟨_, exec_sopen_sends hg hr hp hb hx h1 h64 hm rfl rfl hf, ?_, ⟨_, tget_tset_same .., rfl, rfl, rfl, rfl⟩, ?_⟩,
      fun p hf hd ho => exec_sopen_binds hg hr hp hb hx h1 h64 hm rfl rfl hf hd ho⟩
    · exact congrArg Ctx.state (here_modOwn _)
    · exact List.mem_append_right _ (List.mem_singleton_self _)

end

section
/-!
PROOFS. START, REAP, END and YIELD (R353, R354).
-/

namespace Sys2Proof.Machine

variable {s : State} {d : GReg} {b : Src} {h n : Nat}

theorem helperOf_ofNat (h1 : 1 ≤ h) (h15 : h ≤ 15) : helperOf (BitVec.ofNat 64 h) = some h := by
  have value : (BitVec.ofNat 64 h).toNat = h := by simp; omega
  have low : wbits (BitVec.ofNat 64 h) 3 0 = h := by rw [wbits, bits, value]; omega
  have high : wbits (BitVec.ofNat 64 h) 63 4 = 0 := by rw [wbits, bits, value]; omega
  simp [helperOf, low, high]
  omega

/-- The contexts of the core that are ready beside the own one (R353). -/
def State.readyOthers (s : State) : List Nat :=
  ((List.range 16).map fun i => 16 * coreOf s.cur + i).filter fun m =>
    m != s.cur && decide ((s.ctx m).state = .live) && (s.ctx m).lastIssue.all fun t => decide (4 ≤ (s.dtc - t).toNat)

theorem needF_ok (hl : s.here.level = .f) : needLevel (fun l => l == .f) s = .ok () s := needLevel_ok s _ (by simp [hl])

section
variable (hg : s.mayUse .base = true)
include hg

theorem exec_start {t : TaskRec} {rest : List TaskRec} (hl : s.here.level = .f) (hr : s.readable [src b] = true)
    (hx : helperOf (s.gValue b.reg.toNat) = some h) (hf : (s.ctx (16 * coreOf s.cur + h)).state = .free)
    (hi : (s.core (coreOf s.cur)).inbox = t :: rest) (hp : s.gangPending t = false)
    (hc : isChannel (coreOf s.cur) = true → s.heldHelpers (coreOf s.cur) t.owner
      < ((s.owner t.owner).active.dies.toList.getD (dieOf (coreOf s.cur)) .zero).chctx.toNat) :
    exec (.start b) s = .next (((s.popAll [src b]).modCore (coreOf s.cur) fun c => { c with inbox := rest }).startTask (16 * coreOf s.cur + h)
      { t with helper := some h }).done := by
  refine runEx_ok _ _ _ ?_
  have shared : ¬ (isChannel (coreOf s.cur) = true ∧ ((s.owner t.owner).active.dies.toList.getD (dieOf (coreOf s.cur)) .zero).chctx.toNat
      ≤ s.heldHelpers (coreOf s.cur) t.owner) := fun ⟨hch, few⟩ => absurd (hc hch) (Nat.not_lt.2 few)
  simp only [List.getD_eq_getElem?_getD, Vector.getElem?_toList] at shared
  simp [Ex.bind_apply, needGroup_ok s _ hg, needF_ok hl, pk1_ok s _ _ hr, hx, hf, hi, hp, shared]

theorem exec_reap (hl : s.here.level = .f) (hr : s.readable [src b, dst d] = true) (hx : helperOf (s.gValue b.reg.toNat) = some h) :
    let t := ((s.popAll [src b]).began (.g d.toNat) none false).done
    exec (.reap d b) s = .next ((t.modCore (coreOf t.cur) fun k => { k with reaps := k.reaps ++ [(h, (s.popAll [src b]).nextId)] }).reapStep (coreOf t.cur)) := by
  refine runEx_ok _ _ _ ?_
  simp [Ex.bind_apply, needGroup_ok s _ hg, needF_ok hl, pk1_ok s _ _ hr, hx]

theorem exec_yield : exec .yield s = .next (s.modCtx s.cur fun c => { c with yielded := s.readyOthers }).done := by
  refine runEx_ok _ _ _ ?_
  simp [Ex.bind_apply, needGroup_ok s _ hg]
  rfl

end

/-! END (R354). -/

theorem closeStage_ctx {m : Nat} : (s.closeStage n).ctx m = s.ctx m := by
  unfold State.closeStage
  split
  · split <;> rfl
  · rfl

theorem closeStage_cur : (s.closeStage n).cur = s.cur := by
  unfold State.closeStage
  split
  · split <;> rfl
  · rfl

theorem endGang_outside {ending : Bool} (hg : (s.ctx n).gang = none) : s.endGang n ending = s := by simp [State.endGang, hg]

/-- A release that completes at once is waited for by no instruction (R178). -/
theorem waitRelease_released {sc : BitVec 3} (h : s.releasedOk sc = true) : waitRelease sc id s = .ok () (s.released sc) := by
  simp only [State.releasedOk, State.calm, Bool.and_eq_true, Bool.not_eq_true', List.isEmpty_iff, Option.isNone_iff_eq_none] at h
  obtain ⟨⟨⟨⟨⟨⟨⟨ungated, _⟩, unwaited⟩, unowed⟩, _⟩, unbound⟩, complete⟩, fine⟩ := h
  exact waitRelease_ok rfl ungated unwaited unowed unbound complete fine

/-- Nothing of the context is left to wait for at its end (R354). -/
structure State.Drained (s : State) : Prop where
  helper : s.cur % 16 ≠ 0
  producers : s.here.producers = []
  home : s.here.migratedFrom = none
  tiles : s.tilesOut s.cur = false
  copies : s.copiesOut s.cur = false
  pushes : s.here.qpend = []
  gang : s.here.gang = none
  fault : s.engineFaultOf s.cur = none

theorem exec_endTask {sc : BitVec 3} (hg : s.mayUse .base = true) (hd : s.Drained) (hsc : (s.here.task.map (·.bound)).getD 0#3 = sc)
    (hr : (s.closeStage s.cur).releasedOk sc = true) :
    let t := ((s.closeStage s.cur).released sc).endConcierge s.cur
    exec .endTask s = .next (t.endTask s.cur) := by
  obtain ⟨helper, producers, home, tiles, copies, pushes, gang, fault⟩ := hd
  have waited := waitRelease_released hr
  obtain ⟨calm, _⟩ := Bool.and_eq_true_iff.1 (Bool.and_eq_true_iff.1 hr).1
  obtain ⟨_, released, _, unwritten, _⟩ := calm_facts calm
  have owed : s.here.owed = none := by
    simp only [State.calm, Bool.and_eq_true, Option.isNone_iff_eq_none] at calm
    obtain ⟨⟨⟨_, unowed⟩, _⟩, _⟩ := calm
    rwa [State.here, closeStage_ctx, closeStage_cur] at unowed
  have cur_eq : ((s.closeStage s.cur).released sc).cur = s.cur :=
    (releaseMoved_startRelease (n := (s.closeStage s.cur).cur) unwritten released).cur_eq.trans closeStage_cur
  have alone : (s.closeStage s.cur).endGang s.cur true = s.closeStage s.cur := endGang_outside (by rw [closeStage_ctx]; exact gang)
  refine runEx_ok _ _ _ ?_
  simp [Ex.bind_apply, needGroup_ok s _ hg, helper, producers, home, tiles, copies, pushes, gang, fault, takeOwed_ok s owed, alone, hsc, waited, cur_eq]

theorem endConcierge_cur : (s.endConcierge n).cur = s.cur := by
  unfold State.endConcierge
  simp only
  split <;> rfl

theorem endConcierge_ctx {m : Nat} : (s.endConcierge n).ctx m = s.ctx m := by
  unfold State.endConcierge
  simp only
  split <;> rfl

theorem foldl_toSlice_cur (l : List Req) : (l.foldl (fun s r => s.toSlice r) s).cur = s.cur := by
  rw [trafficMoved_foldl (fun _ r => trafficMoved_toSlice r) l]

theorem detach_cur : (s.detach n).cur = s.cur := by
  unfold State.detach
  split
  · rfl
  · simp only
    split
    · split <;> rfl
    · rfl

theorem clearChannels_cur : (s.clearChannels n).cur = s.cur := by
  unfold State.clearChannels
  simp only
  split <;> rfl

theorem dropStreams_cur : (s.dropStreams n).cur = s.cur := closeStage_cur

/-- A context that has not migrated and stops stays where it is, with nothing of its task (R354). -/
theorem stopAt_here {w : Word} (hm : s.here.migratedFrom = none) : (s.stopAt s.cur w).cur = s.cur
    ∧ ∃ c : Ctx, (s.stopAt s.cur w).here = c.stopTask w := by
  have home : (s.ctx s.cur).migratedFrom = none := hm
  simp only [State.stopAt, home]
  generalize hs1 : State.dropStreams _ s.cur = s1
  have cur1 : s1.cur = s.cur := by
    rw [← hs1, dropStreams_cur, State.dropBench, clearChannels_cur, detach_cur, foldl_toSlice_cur]
    rfl
  have kept (t : State) (c : Ctx) (o : Nat) (ht : t.cur = s.cur) :
      ((t.setCtx s.cur c).freed o).cur = s.cur ∧ ((t.setCtx s.cur c).freed o).here = c := by
    refine ⟨ht, ?_⟩
    show (t.setCtx s.cur c).ctx t.cur = c
    rw [ht, State.ctx_setCtx]
  split
  · exact ⟨(kept _ _ _ (by exact cur1)).1, _, (kept _ _ _ (by exact cur1)).2⟩
  · exact ⟨(kept _ _ _ (by exact cur1)).1, _, (kept _ _ _ (by exact cur1)).2⟩

end Sys2Proof.Machine

open Sys2Proof Sys2Proof.Machine

/-- Settles O22: tasks that start, end and are reaped, and contexts that yield. -/
theorem contextControl : Obligations.ContextControl := by
  intro s d b h hg core x sc
  refine ⟨fun hl h1 h15 hx => ?_, ?_, exec_yield hg⟩
  · have named : helperOf x = some h := by rw [hx]; exact helperOf_ofNat h1 h15
    refine ⟨fun t rest hr hf hi hp hc => exec_start hg hl hr named hf hi hp hc, fun hr => ?_⟩
    intro s1
    have pops : s1.nextId = s.nextId := popAll_nextId _
    have began : (s1.began (.g d.toNat) none false).done.cur = s.cur :=
      (regsMoved_began d.isLt _ _).cur_eq.trans (regsMoved_popAll _).cur_eq
    rw [exec_reap hg hl hr named, began, pops]
  · intro hh hp hm ht hc hq hgang hf hr
    have drained : s.Drained := ⟨hh, hp, hm, ht, hc, hq, hgang, hf⟩
    refine ⟨exec_endTask hg drained rfl hr, fun htask => ⟨_, exec_endTask hg drained rfl hr, ?_⟩⟩
    obtain ⟨calm, _⟩ := Bool.and_eq_true_iff.1 (Bool.and_eq_true_iff.1 hr).1
    obtain ⟨_, released, _, unwritten, _⟩ := calm_facts calm
    have moved : State.ReleaseMoved s.cur (s.closeStage s.cur) ((s.closeStage s.cur).released sc) := by
      have := releaseMoved_startRelease (sc := sc) (gate := true) unwritten released
      rw [closeStage_cur] at this
      rw [State.released, closeStage_cur]
      exact this
    obtain ⟨_, _, _, _, _, own⟩ := moved.own
    rw [closeStage_ctx] at own
    generalize (s.closeStage s.cur).released sc = t at moved own
    have cur2 : (t.endConcierge s.cur).cur = s.cur := endConcierge_cur.trans (moved.cur_eq.trans closeStage_cur)
    have ctx2 : (t.endConcierge s.cur).here = t.ctx s.cur := by rw [State.here, cur2, endConcierge_ctx]
    have task2 : ((t.endConcierge s.cur).ctx s.cur).task = none := by rw [endConcierge_ctx, own]; exact htask
    have home2 : (t.endConcierge s.cur).here.migratedFrom = none := by rw [ctx2, own]; exact hm
    obtain ⟨_, c, stopped⟩ := stopAt_here (w := 0) home2
    rw [cur2] at stopped
    have ended : (t.endConcierge s.cur).endTask s.cur = (t.endConcierge s.cur).stopAt s.cur 0 := by simp only [State.endTask, task2]
    rw [ended, stopped]
    exact ⟨rfl, rfl, rfl, rfl⟩
end

section
/-!
PROOFS. Launches, continuations and builders (R355 to R357).
-/

namespace Sys2Proof.Machine

variable {s : State} {b c : Src} {sc : BitVec 3} {off pa : Nat} {te : TlbEntry}

theorem readNow_record {va : Word} {fail : Cause → Word → Ex Unit} (h : s.recordHere va off = true) :
    readNow va 64 64 fail s = .ok (s.ownBlock off) s := by
  obtain ⟨hl, hm⟩ := Bool.and_eq_true_iff.1 h
  exact readNow_local hm hl

theorem wbits_low (x : Word) (k : Nat) : wbits x k 0 = x.toNat % 2 ^ (k + 1) := by simp [wbits, bits]

theorem ceiling_eq {t : State} {x : Ctx} (h : t.launches = s.launches) : t.ceiling x = s.ceiling x := by
  simp [State.ceiling, State.basePriority, h]

theorem released_moved (h : s.releasedOk sc = true) : State.ReleaseMoved s.cur s (s.released sc) := by
  obtain ⟨calm, _⟩ := Bool.and_eq_true_iff.1 (Bool.and_eq_true_iff.1 h).1
  obtain ⟨_, released, _, unwritten, _⟩ := calm_facts calm
  exact releaseMoved_startRelease unwritten released

theorem popped_launches {ops : List Opnd} (h : s.releasedOk sc = true) : ((s.released sc).popAll ops).launches = s.launches := by
  rw [(queuesMoved_popAll ops).rest]
  have kept : (s.released sc).launches = s.launches := by rw [(released_moved h).rest]
  exact kept

section
variable (hg : s.mayUse .comb = true) (hp : (sc = 5 ∨ sc = 6) → s.mayUse .peer = true)
include hg hp

theorem exec_apply (hr : s.readable [src b] = true) (hx : s.recordHere (s.gValue b.reg.toNat) off = true) (ha : applyOk (s.ownBlock off).1 = true)
    (hu : s.unstarted (dieOf (coreOf s.cur)) s.here.owner < 64) (hrel : s.releasedOk sc = true) :
    exec (.apply b sc) s = .next (((s.released sc).popAll [src b]).addLaunch
      (launchOf (dieOf (coreOf s.cur)) s.here.owner s.here.space s.here.level (s.ownBlock off).1 (s.ceiling s.here))).done := by
  refine runEx_ok _ _ _ ?_
  simp [Ex.bind_apply, needGroup_ok s _ hg, needScope_ok s _ hp, pk1_ok s _ _ hr, readNow_record hx, ha, Nat.not_le.2 hu, waitRelease_released hrel,
    ceiling_eq (popped_launches hrel)]

theorem exec_post {en : Block} {s1 : State} {cl : Nat} (hr : s.readable [src b, src c] = true) (hm : s.memAt (s.gValue b.reg.toNat) 1 .read pa te = true)
    (hh : regionOf pa ≠ .host) (hx : s.recordHere (s.gValue c.reg.toNat) off = true) (ht : taskRecOk (s.ownBlock off).1 = true)
    (hq : (s.owner s.here.owner).gtqlen ≠ 0#64) (hi : (blockWord (s.ownBlock off).1 0).toNat % 2 ^ 20 < (s.owner s.here.owner).ctlen.toNat)
    (hc : s.callable (dieOf (coreOf s.cur)) s.here.owner s.here.space s.here.level ((blockWord (s.ownBlock off).1 0).toNat % 2 ^ 20) = (some en, s1))
    (hk : eKind en = 1 ∨ eKind en = 2) (hl : s1.landing s.here.owner pa = some cl)
    (hroom : (s1.segment s.here.owner cl).length < (s.owner s.here.owner).gtqlen.toNat) (hrel : s1.releasedOk sc = true) :
    let t := (s1.released sc).popAll [src b, src c]
    exec (.post b c sc) s = .next (t.enterSegment s.here (coreOf t.cur) cl (s.ownBlock off).1
      (continuationOf s.here (t.ceiling s.here) (s.ownBlock off).1 en)).done := by
  refine runEx_ok _ _ _ ?_
  have index : wbits (blockWord (s.ownBlock off).1 0) 19 0 = (blockWord (s.ownBlock off).1 0).toNat % 2 ^ 20 := wbits_low _ _
  rw [← index] at hi hc
  have kind : ¬ (¬ eKind en = 1 ∧ ¬ eKind en = 2) := by omega
  simp [Ex.bind_apply, needGroup_ok s _ hg, needScope_ok s _ hp, pk2_ok s _ _ _ hr, resolve_page s _ _ _ _ _ hm, hh, readNow_record hx, ht, hq,
    Nat.not_le.2 hi, hc, kind, hl, Nat.not_le.2 hroom, waitRelease_released hrel]

end

/-! The entry that a builder makes (R357). -/

theorem firstWord_mask : byteMaskBits (rangeMask 0 8) 64 = 2 ^ 64 - 1 := by decide

/-- A word written over a first word that is zero joins the block. -/
theorem mergeBytes_firstWord {p : Block} {w : Nat} (hp : blockWord p 0 = 0) (hw : w < 2 ^ 64) :
    mergeBytes p (placeBytes 0 w) (rangeMask 0 8) = p ||| BitVec.ofNat 512 w := by
  have clear (i : Nat) (hi : i < 64) : p.getLsbD i = false := by
    have := congrArg (fun x : Word => x.getLsbD i) hp
    simpa [blockWord, hi] using this
  simp only [mergeBytes, firstWord_mask, placeBytes]
  apply BitVec.eq_of_getLsbD_eq
  intro i hi
  have low : (BitVec.ofNat 512 (2 ^ 64 - 1)).getLsbD i = decide (i < 64) := by
    rw [BitVec.getLsbD_ofNat, Nat.testBit_two_pow_sub_one]
    simp [hi]
  simp only [BitVec.getLsbD_or, BitVec.getLsbD_and, BitVec.getLsbD_not, low, Nat.mul_zero, Nat.pow_zero, Nat.mul_one]
  by_cases h64 : i < 64
  · simp [h64, clear i h64]
  · have high : (BitVec.ofNat 512 w).getLsbD i = false := by
      rw [BitVec.getLsbD_ofNat, Nat.testBit_lt_two_pow (Nat.lt_of_lt_of_le hw (Nat.pow_le_pow_right (by decide) (by omega)))]
      simp
    simp [h64, hi, high, -BitVec.getLsbD_eq_getElem]

theorem builtWord_lt {kind : Nat} (hk : kind ≤ 7) (sc : BitVec 3) (x : BitVec 15) : builtWord kind sc x < 2 ^ 64 := by
  have := sc.isLt
  simp only [builtWord, bits]
  omega

theorem builtWord_eq {kind : Nat} (sc : BitVec 3) (x : BitVec 15) : builtWord kind sc x = kind + 2 ^ 4 * (x.toNat % 8) + 2 ^ 8 * sc.toNat
    + 2 ^ 11 * (x.toNat / 8 % 4) + 2 ^ 16 * (x.toNat / 32 % 8) + 2 ^ 19 * (x.toNat / 256 % 2) + 2 ^ 20 * (x.toNat / 512) := by
  have := x.isLt
  simp only [builtWord, bits]
  omega

theorem entryPlace_eq (base idx : Word) : base + w64 (64 * idx.toNat) = base + 64 * idx := rfl

section
variable {i : Instr} {kind : Nat} {x : BitVec 15} (hi : exec i s = runEx (buildEntry kind b c sc x) s) (hg : s.mayUse .comb = true)
  (hr : s.readable [src b, src c] = true) (hidx : (s.gValue b.reg.toNat).toNat < (s.owner s.here.owner).ctlen.toNat)
  (hx : s.recordHere (s.gValue c.reg.toNat) off = true) (h0 : blockWord (s.ownBlock off).1 0 = 0#64)
  (he : entryOk (builtEntry kind sc x (s.ownBlock off).1) = true)
include hi hg hr hidx hx h0 he

theorem exec_build_local {off2 : Nat} (hl : s.localOk ((s.owner s.here.owner).ctbase + 64 * s.gValue b.reg.toNat) 64 off2 true = true) :
    exec i s = .next ((s.storesLocal [src b, src c] off2 ⟨builtEntry kind sc x (s.ownBlock off).1, BitVec.allOnes 64, none⟩).flushCallable
      s.here.owner (some (s.gValue b.reg.toNat).toNat)) := by
  rw [hi]
  rw [← entryPlace_eq] at hl
  refine runEx_ok _ _ _ ?_
  simp [buildEntry, writeEntry, Ex.bind_apply, needGroup_ok s _ hg, pk2_ok s _ _ _ hr, Nat.not_le.2 hidx, readNow_record hx, h0, he,
    resolve_local s _ 64 off2 .write hl, storeTo_local s _ _ _ _ _ _ hl]

theorem exec_build_page (hm : s.memAt ((s.owner s.here.owner).ctbase + 64 * s.gValue b.reg.toNat) 64 .write pa te = true) (hl : regionOf pa = .lp6)
    (hct : (te.ct = 1 ∧ s.scGated s.cur = false) ∨ (te.ct = 2 ∧ s.scReady = true)) (hf : s.blockFree pa = true)
    (hfot : s.fotNow pa s.here.owner true te.ct = .ok) (hbusy : s.busy (pa / 64) = false) :
    let t := s.popAll [src b, src c]
    exec i s = .next (((t.slotUpdate t.here.owner (coreOf t.cur) t.cur pa true fun _ g => (builtEntry kind sc x (s.ownBlock off).1, g)).done).flushCallable
      s.here.owner (some (s.gValue b.reg.toNat).toNat)) := by
  rw [hi]
  rw [← entryPlace_eq] at hm
  have plain : PageType.ofCt te.ct ≠ .ws ∧ PageType.ofCt te.ct ≠ .pv ∧ scWait (PageType.ofCt te.ct) s = .ok () s := by
    rcases hct with ⟨one, ungated⟩ | ⟨two, ready⟩
    · rw [one]
      exact ⟨by decide, by decide, scWait_other s _ (by decide) fun _ => ungated⟩
    · rw [two]
      exact ⟨by decide, by decide, scWait_sc s ready⟩
  obtain ⟨unmerged, shared, waited⟩ := plain
  refine runEx_ok _ _ _ ?_
  simp only [State.here] at hfot
  simp [buildEntry, writeEntry, Ex.bind_apply, needGroup_ok s _ hg, pk2_ok s _ _ _ hr, Nat.not_le.2 hidx, readNow_record hx, h0, he,
    resolve_page s _ _ _ _ _ hm, hl, pageType, unmerged, shared, waited, orderedHome_ok s _ hf, hfot, hbusy]
  rfl

end

end Sys2Proof.Machine

open Sys2Proof Sys2Proof.Machine

/-- Settles O23: a launch joins its die's Porter, a continuation its segment. -/
theorem launches : Obligations.Launches := by
  intro s b c sc off pa te hg hp die x y
  exact ⟨fun hr hx ha hu hrel => exec_apply hg hp hr hx ha hu hrel,
    fun en s1 cl hr _ hm hh hx ht hq hi hc hk hl hroom hrel => exec_post hg hp hr hm hh hx ht hq hi hc hk hl hroom hrel⟩

/-- Settles O24: each builder writes its entry, in the own local store or at its home. -/
theorem builders : Obligations.Builders := by
  intro s b c sc x off off2 pa te hg hr idx ow p to_ entry hidx hlen hx h0
  have made {kind : Nat} (hk : kind ≤ 7) : builtEntry kind sc x p = entry kind := by
    rw [builtEntry, mergeBytes_firstWord h0 (builtWord_lt hk sc x), builtWord_eq]
  have builds {i : Instr} {kind : Nat} (hk : kind ≤ 7) (hi : exec i s = runEx (buildEntry kind b c sc x) s) (he : entryOk (entry kind) = true) :
      (s.localOk to_ 64 off2 true = true →
        exec i s = .next ((s.storesLocal [src b, src c] off2 ⟨entry kind, BitVec.allOnes 64, none⟩).flushCallable s.here.owner (some idx.toNat)))
      ∧ (s.memAt to_ 64 .write pa te = true → regionOf pa = .lp6 → ((te.ct = 1 ∧ s.scGated s.cur = false) ∨ (te.ct = 2 ∧ s.scReady = true)) →
        s.blockFree pa = true → s.fotNow pa s.here.owner true te.ct = .ok → s.busy (pa / 64) = false →
        let t := s.popAll [src b, src c]
        exec i s = .next (((t.slotUpdate t.here.owner (coreOf t.cur) t.cur pa true fun _ g => (entry kind, g)).done).flushCallable s.here.owner
          (some idx.toNat))) := by
    rw [← made hk] at he ⊢
    exact ⟨fun hl => exec_build_local hi hg hr hidx hx h0 he hl,
      fun hm hl hct hf hfot hbusy => exec_build_page hi hg hr hidx hx h0 he hm hl hct hf hfot hbusy⟩
  exact ⟨builds (by decide) rfl, builds (by decide) rfl, builds (by decide) rfl, builds (by decide) rfl, builds (by decide) rfl,
    builds (by decide) rfl, builds (by decide) rfl⟩

end

section
/-!
PROOFS. Vector gangs (R201 to R204, R359).
-/

namespace Sys2Proof.Machine

variable {s t u : State} {b : Src} {m n mask : Nat} {g : Gang}

/-! A table mapped entry by entry. -/

theorem tget_map {α : Type} {f : Nat × α → Nat × α} (hf : ∀ e, (f e).1 = e.1) (l : Tbl α) (n : Nat) :
    tget (l.map f) n = (tget l n).map fun c => (f (n, c)).2 := by
  induction l with
  | nil => rfl
  | cons e l ih =>
    obtain ⟨k, c⟩ := e
    have key := hf (k, c)
    rw [List.map_cons]
    by_cases hk : k = n
    · subst hk
      simp [tget, key]
    · simp [tget, key, hk]
      exact ih

theorem ctx_map {f : Nat × Ctx → Nat × Ctx} (hf : ∀ e, (f e).1 = e.1) (h : (tget s.ctxs n).isSome = true) :
    ({ s with ctxs := s.ctxs.map f } : State).ctx n = (f (n, s.ctx n)).2 := by
  obtain ⟨c, hc⟩ := Option.isSome_iff_exists.1 h
  simp [State.ctx, tget_map hf, hc]

theorem ctx_map_absent {f : Nat × Ctx → Nat × Ctx} (hf : ∀ e, (f e).1 = e.1) (h : (tget s.ctxs n).isSome = false) :
    ({ s with ctxs := s.ctxs.map f } : State).ctx n = s.ctx n := by
  simp only [Option.isSome_eq_false_iff, Option.isNone_iff_eq_none] at h
  simp [State.ctx, tget_map hf, h]

/-! Contexts that a pop may wake keep their gang and their next instruction. -/

/-- Contexts may wake. -/
def State.Woken (s t : State) : Prop :=
  ∀ n, (t.ctx n).npc = (s.ctx n).npc ∧ ((t.ctx n).state = (s.ctx n).state ∨ (t.ctx n).state = .live)

theorem State.Woken.trans (h : s.Woken t) (k : t.Woken u) : s.Woken u := by
  intro n
  obtain ⟨npc, state⟩ := h n
  obtain ⟨npc2, state2⟩ := k n
  exact ⟨npc2.trans npc, state2.elim (fun same => same ▸ state) .inr⟩

theorem State.QueuesMoved.woken (h : s.QueuesMoved t) : s.Woken t := by
  intro n
  by_cases hn : n = s.cur
  · obtain ⟨st, rs, woken, own⟩ := h.own
    subst hn
    rw [own]
    exact ⟨rfl, woken⟩
  · rcases h.others n hn with same | woke
    · rw [same]
      exact ⟨rfl, .inl rfl⟩
    · rw [woke]
      exact ⟨rfl, .inr rfl⟩

theorem woken_popGform (m : Nat) : s.Woken (s.popGform m) := by
  unfold State.popGform
  split
  · exact (queuesMoved_popAll (s := { s with cur := m }) _).woken
  · exact fun _ => ⟨rfl, .inl rfl⟩

theorem woken_foldl_popGform (l : List Nat) : s.Woken (l.foldl (fun s m => s.popGform m) s) := by
  induction l generalizing s with
  | nil => exact fun _ => ⟨rfl, .inl rfl⟩
  | cons m l ih => exact (woken_popGform m).trans ih

/-! The gang that forms (R201). -/

/-- What a member becomes. -/
def Ctx.InGang (g : Gang) (p : Word) (c : Ctx) : Prop := c.gang = some g ∧ c.state = .live ∧ c.pc = p ∧ c.npc = p

/-- A member at its GFORM, or ready at it. -/
def Ctx.AtGform (p : Word) (c : Ctx) : Prop := c.npc = p ∧ c.state ≠ .saving

theorem goOn_inGang {c : Ctx} {p : Word} (h : c.AtGform p) : Ctx.InGang g p { c.goOn c.npc with gang := some g } := by
  obtain ⟨npc, awake⟩ := h
  exact ⟨rfl, if_neg awake, npc, npc⟩

theorem formGang_step (f : Nat → Gang) (l : List Nat) {p : Word} (h : Ctx.InGang (f m) p (s.ctx m)) :
    Ctx.InGang (f m) p ((l.foldl (fun (s : State) (k : Nat) => s.modCtx k fun c => { c.goOn c.npc with gang := some (f k) }) s).ctx m) := by
  induction l generalizing s with
  | nil => exact h
  | cons k l ih =>
    refine ih ?_
    by_cases hk : m = k
    · subst hk
      obtain ⟨_, live, _, npc⟩ := h
      rw [State.ctx_modCtx]
      exact goOn_inGang ⟨npc, by rw [live]; decide⟩
    · rw [State.ctx_modCtx_other _ _ _ _ hk]
      exact h

theorem formGang_member (f : Nat → Gang) (l : List Nat) {p : Word} (hm : m ∈ l) (h : (s.ctx m).AtGform p) :
    Ctx.InGang (f m) p ((l.foldl (fun (s : State) (k : Nat) => s.modCtx k fun c => { c.goOn c.npc with gang := some (f k) }) s).ctx m) := by
  induction l generalizing s with
  | nil => exact absurd hm (List.not_mem_nil)
  | cons k l ih =>
    by_cases hk : m = k
    · subst hk
      refine formGang_step f l ?_
      rw [State.ctx_modCtx]
      exact goOn_inGang h
    · refine ih ((List.mem_cons.1 hm).resolve_left hk) ?_
      rw [State.ctx_modCtx_other _ _ _ _ hk]
      exact h

/-- The state in which a context has come to its GFORM (R201). -/
def State.atGform (s : State) (mask : Nat) : State :=
  s.modCtx s.cur fun c => { c with gang := some ⟨BitVec.ofNat 8 mask, 0, false, false⟩ }

/-- A member of the gang that a context forms has come to its GFORM (R201). -/
def State.gformArrived (s : State) (n m : Nat) : Bool :=
  m == n || (match (s.ctx m).state, (s.ctx m).gang with
    | .blocked .gform, some g => g.id == 0
    | _, _ => false)

/-- It has come to the same place with the same mask. -/
def State.gformSame (s : State) (c : Ctx) (mask m : Nat) : Bool :=
  (s.ctx m).pc == c.pc && ((s.ctx m).gang.map (·.mask)) == some (BitVec.ofNat 8 mask)

/-- It runs a task of the same launch. -/
def State.gformAlive (s : State) (c : Ctx) (m : Nat) : Bool :=
  let x := s.ctx m
  x.owner == c.owner && (x.task.bind (·.launch)) == (c.task.bind (·.launch)) && x.task.isSome && (match x.state with
    | .live | .blocked _ => true
    | _ => false)

/-- What a context does that has come to its GFORM (R201). -/
def gformMeet (b : Src) (w : Word) (n mask : Nat) (c : Ctx) : Ex Unit := do
  let s ← get
  let ms := gangMembers n mask
  if ms.any fun m => !s.gformAlive c m || (s.gformArrived n m && !s.gformSame c mask m) then do
    modify fun (s' : State) =>
      (ms.filter fun m => m != n && s.gformArrived n m).foldl (fun s m =>
        s.takeTrap m (s.ctx m).pc .gang (((s.ctx m).gang.map fun g => g.mask.setWidth 64).getD w) 0 false) s'
    trap .gang w 0
  if ms.all fun m => s.gformArrived n m then do
    pop [src b]
    modify fun (s : State) => s.formGang ((ms.filter fun m => m != n).foldl (fun (s : State) (m : Nat) => s.popGform m) s.newId.2) ms (BitVec.ofNat 8 mask)
  else blockOn .gform

theorem exec_gform_meet : exec (.gform b) s = runEx (do
    needGroup .gang
    let w ← pk1 (src b) []
    let s ← get
    let c ← me
    let formed : Bool := match c.gang with
      | some g => g.id != 0
      | none => false
    if wbits w 63 8 ≠ 0 ∨ popcount (wbits w 7 0) 8 < 2 ∨ isChannel (coreOf s.cur) ∨ wbits w 7 0 / 2 ^ (coreOf s.cur % 8) % 2 = 0 ∨ formed then
      trap .gang w 0
    modMe fun c => { c with gang := some ⟨BitVec.ofNat 8 (wbits w 7 0), 0, false, false⟩ }
    gformMeet b w s.cur (wbits w 7 0) c) s := rfl

/-- Every member has come, at the same place with the same mask (R201). -/
def State.GformReady (s : State) (n mask : Nat) (c : Ctx) : Prop :=
  ∀ m ∈ gangMembers n mask, s.gformAlive c m = true ∧ s.gformArrived n m = true ∧ s.gformSame c mask m = true

theorem gformMeet_ready {w : Word} {c : Ctx} (h : s.GformReady n mask c) : gformMeet b w n mask c s = .ok () (
    let t := s.popAll [src b]
    t.formGang (((gangMembers n mask).filter fun m => m != n).foldl (fun s m => s.popGform m) t.newId.2) (gangMembers n mask)
      (BitVec.ofNat 8 mask)) := by
  have fine : ((gangMembers n mask).any fun m => !s.gformAlive c m || (s.gformArrived n m && !s.gformSame c mask m)) = false := by
    rw [List.any_eq_false]
    intro m hm
    obtain ⟨alive, _, same⟩ := h m hm
    simp [alive, same]
  have all : ((gangMembers n mask).all fun m => s.gformArrived n m) = true := List.all_eq_true.2 fun m hm => (h m hm).2.1
  simp only [gformMeet, Ex.bind_apply, Ex.get_apply, fine, all, Bool.false_eq_true, if_false, if_true, Ex.pop_apply, Ex.modify_apply]

theorem exec_gform (hg : s.mayUse .gang = true) (hr : s.readable [src b] = true) (hx : s.gValue b.reg.toNat = BitVec.ofNat 64 mask)
    (hm : mask < 256) (hp : popcount mask 8 ≥ 2) (hc : isChannel (coreOf s.cur) = false) (hown : mask / 2 ^ (coreOf s.cur % 8) % 2 = 1)
    (hgang : s.here.gang = none) (hready : (s.atGform mask).GformReady s.cur mask s.here) : exec (.gform b) s = .next (
      let t := (s.atGform mask).popAll [src b]
      t.formGang (((gangMembers s.cur mask).filter fun m => m != s.cur).foldl (fun s m => s.popGform m) t.newId.2) (gangMembers s.cur mask)
        (BitVec.ofNat 8 mask)) := by
  rw [exec_gform_meet]
  refine runEx_ok _ _ _ ?_
  have value : (BitVec.ofNat 64 mask).toNat = mask := by simp; omega
  have low : wbits (BitVec.ofNat 64 mask) 7 0 = mask := by rw [wbits, bits, value]; omega
  have high : wbits (BitVec.ofNat 64 mask) 63 8 = 0 := by rw [wbits, bits, value]; omega
  simp [Ex.bind_apply, needGroup_ok s _ hg, pk1_ok s _ _ hr, hx, low, high, hgang, hc, Nat.not_lt.2 hp, show ¬ popcount mask 8 ≤ 1 by omega, hown]
  exact gformMeet_ready hready

/-! The members at a GFORM whose last one comes (R201). -/

theorem atGform_other (hm : m ≠ s.cur) : (s.atGform mask).ctx m = s.ctx m := State.ctx_modCtx_other _ _ _ _ hm

theorem atGform_own : (s.atGform mask).ctx s.cur = { s.here with gang := some ⟨BitVec.ofNat 8 mask, 0, false, false⟩ } := State.ctx_modCtx ..

/-- A member that waits at the same GFORM. -/
structure State.WaitsAtGform (s : State) (mask m : Nat) : Prop where
  state : (s.ctx m).state = .blocked .gform
  gang : (s.ctx m).gang = some ⟨BitVec.ofNat 8 mask, 0, false, false⟩
  pc : (s.ctx m).pc = s.here.pc
  owner : (s.ctx m).owner = s.here.owner
  task : (s.ctx m).task.isSome = true
  launch : (s.ctx m).task.bind (·.launch) = s.here.task.bind (·.launch)

theorem gformReady (ht : s.here.task.isSome = true) (hl : ∃ w, s.here.state = .live ∨ s.here.state = .blocked w)
    (hw : ∀ m ∈ gangMembers s.cur mask, m ≠ s.cur → s.WaitsAtGform mask m) : (s.atGform mask).GformReady s.cur mask s.here := by
  intro m hm
  by_cases own : m = s.cur
  · subst own
    obtain ⟨w, state⟩ := hl
    refine ⟨?_, by simp [State.gformArrived], by simp [State.gformSame, atGform_own]⟩
    rcases state with state | state <;> simp [State.gformAlive, atGform_own, ht, state]
  · obtain ⟨state, gang, pc, owner, task, launch⟩ := hw m hm own
    simp [State.gformAlive, State.gformArrived, State.gformSame, atGform_other own, state, gang, pc, owner, task, launch]

/-- The gang that forms: each member goes on attached, and the first one leads (R201). -/
theorem formGang_members (hl : ∃ w, s.here.state = .live ∨ s.here.state = .blocked w)
    (hw : ∀ m ∈ gangMembers s.cur mask, m ≠ s.cur → s.WaitsAtGform mask m) (hm : m ∈ gangMembers s.cur mask) :
    let t := (s.atGform mask).popAll [src b]
    Ctx.InGang ⟨BitVec.ofNat 8 mask, s.nextId, some m == (gangMembers s.cur mask).head?, true⟩ (s.ctx m).npc
      ((t.formGang (((gangMembers s.cur mask).filter fun m => m != s.cur).foldl (fun s m => s.popGform m) t.newId.2) (gangMembers s.cur mask)
        (BitVec.ofNat 8 mask)).ctx m) := by
  intro t
  have numbered : t.nextId = s.nextId := popAll_nextId _
  have woken : (s.atGform mask).Woken (((gangMembers s.cur mask).filter fun m => m != s.cur).foldl (fun s m => s.popGform m) t.newId.2) :=
    (queuesMoved_popAll _).woken.trans (woken_foldl_popGform (s := t.newId.2) _)
  obtain ⟨npc, state⟩ := woken m
  rw [← numbered]
  refine formGang_member (fun m => ⟨BitVec.ofNat 8 mask, t.nextId, some m == (gangMembers s.cur mask).head?, true⟩) _ hm ⟨?_, ?_⟩
  · rw [npc]
    by_cases own : m = s.cur
    · rw [own, atGform_own]
      rfl
    · rw [atGform_other own]
  · rcases state with same | live
    · rw [same]
      by_cases own : m = s.cur
      · rw [own, atGform_own]
        obtain ⟨w, state | state⟩ := hl <;> simp [state]
      · rw [atGform_other own, (hw m hm own).state]
        simp
    · rw [live]
      simp

/-! GLEAVE, GJOIN and GEND (R203). -/

section
variable (hg : s.mayUse .gang = true)
include hg

theorem exec_gleave_outside (h : s.here.gang = none) : exec .gleave s = .next s.done := by
  refine runEx_ok _ _ _ ?_
  simp [Ex.bind_apply, needGroup_ok s _ hg, h]

theorem exec_gjoin_outside (h : s.here.gang = none) : exec .gjoin s = .next s.done := by
  refine runEx_ok _ _ _ ?_
  simp [Ex.bind_apply, needGroup_ok s _ hg, h]

theorem exec_gend_outside (h : s.here.gang = none) : exec .gend s = .next s.done := by
  refine runEx_ok _ _ _ ?_
  simp [Ex.bind_apply, needGroup_ok s _ hg, h]

variable (h : s.here.gang = some g)
include h

theorem exec_gleave_follower (hl : g.leader = false) (ha : g.attached = true) : exec .gleave s = .next (s.detach s.cur).done := by
  refine runEx_ok _ _ _ ?_
  simp [Ex.bind_apply, needGroup_ok s _ hg, h, hl, ha]

theorem exec_gleave_detached (ha : g.attached = false) : exec .gleave s = .next s.done := by
  refine runEx_ok _ _ _ ?_
  simp [Ex.bind_apply, needGroup_ok s _ hg, h, ha]

/-- What a leader's GJOIN does with a member's context (R203). -/
def gjoinCollect (g : Gang) (pc : Word) (e : Nat × Ctx) : Nat × Ctx :=
  match e.2.gang, e.2.state with
  | some h, .blocked (.gjoin at_) => if h.id = g.id ∧ at_ = pc then (e.1, { e.2.goOn e.2.npc with gang := some { h with attached := true } }) else e
  | _, _ => e

theorem exec_gjoin_leader (hl : g.leader = true) (ha : g.attached = true) :
    exec .gjoin s = .next ({ s with ctxs := s.ctxs.map (gjoinCollect g s.here.pc) } : State).done := by
  refine runEx_ok _ _ _ ?_
  simp [Ex.bind_apply, needGroup_ok s _ hg, h, hl, ha]
  rfl

theorem exec_gend_leader (hl : g.leader = true) (ha : g.attached = true) : exec .gend s = .next (s.endGang s.cur false).done := by
  refine runEx_ok _ _ _ ?_
  simp [Ex.bind_apply, needGroup_ok s _ hg, h, hl, ha]

theorem exec_gend_follower (hl : g.leader = false) : exec .gend s = .next (s.modCtx s.cur fun c => { c with gang := none, buffer := [] }).done := by
  refine runEx_ok _ _ _ ?_
  simp [Ex.bind_apply, needGroup_ok s _ hg, h, hl]

end

theorem gjoinCollect_key (pc : Word) (e : Nat × Ctx) : (gjoinCollect g pc e).1 = e.1 := by
  unfold gjoinCollect
  split
  · split <;> rfl
  · rfl

theorem gjoinCollect_npc (pc : Word) (e : Nat × Ctx) : (gjoinCollect g pc e).2.npc = e.2.npc := by
  unfold gjoinCollect
  split
  · split <;> rfl
  · rfl

theorem gjoin_npc (pc : Word) : (({ s with ctxs := s.ctxs.map (gjoinCollect g pc) } : State).ctx n).npc = (s.ctx n).npc := by
  cases h : (tget s.ctxs n).isSome
  · rw [ctx_map_absent (gjoinCollect_key pc) h]
  · rw [ctx_map (gjoinCollect_key pc) h]
    exact gjoinCollect_npc pc _

end Sys2Proof.Machine

open Sys2Proof Sys2Proof.Machine

/-- Settles O26: a gang forms, is left, collected and ended. -/
theorem gangs : Obligations.Gangs := by
  intro s b mask hg ms
  refine ⟨?_, fun h => ⟨exec_gleave_outside hg h, exec_gjoin_outside hg h, exec_gend_outside hg h⟩, fun g h =>
    ⟨fun hl ha => exec_gleave_follower hg h hl ha, fun ha => exec_gleave_detached hg h ha, fun hl ha => ⟨_, exec_gjoin_leader hg h hl ha, ?_, ?_⟩,
      fun hl ha => exec_gend_leader hg h hl ha, fun hl => exec_gend_follower hg h hl⟩⟩
  · intro hr hx hm hp hc hown hgang ht hl hw
    have waits : ∀ m ∈ gangMembers s.cur mask, m ≠ s.cur → s.WaitsAtGform mask m := fun m hm hne =>
      let ⟨state, gang, pc, owner, task, launch⟩ := hw m hm hne
      ⟨state, gang, pc, owner, task, launch⟩
    refine ⟨_, exec_gform hg hr hx hm hp hc hown hgang (gformReady ht hl waits), fun m hmem => ?_⟩
    obtain ⟨gang, state, pc, _⟩ := formGang_members (b := b) hl waits hmem
    exact ⟨gang, state, pc⟩
  · rw [here_done]
    exact gjoin_npc _
  · intro m h' hm hlisted hgang hid hstate
    have collected : gjoinCollect g s.here.pc (m, s.ctx m) = (m, { (s.ctx m).goOn (s.ctx m).npc with gang := some { h' with attached := true } }) := by
      simp [gjoinCollect, hgang, hstate, hid]
    have ctx_eq : (({ s with ctxs := s.ctxs.map (gjoinCollect g s.here.pc) } : State).done).ctx m
        = { (s.ctx m).goOn (s.ctx m).npc with gang := some { h' with attached := true } } :=
      (State.ctx_modCtx_other _ _ _ _ hm).trans ((ctx_map (gjoinCollect_key _) hlisted).trans (by rw [collected]))
    rw [ctx_eq]
    exact ⟨rfl, rfl, by simp [Ctx.goOn, hstate, CtxState.awake]⟩
end

section
/-!
PROOFS. Randomness and stated interference (R122 to R126, R360).
-/

namespace Sys2Proof.Machine

variable {s : State} {d : GReg} {b c : Src} {x : Word}

theorem popAll_owner (ops : List Opnd) (o : Nat) : (s.popAll ops).owner o = s.owner o := by
  rw [(queuesMoved_popAll ops).rest]
  rfl

theorem popAll_cur (ops : List Opnd) : (s.popAll ops).cur = s.cur := (queuesMoved_popAll ops).cur_eq

theorem popAll_hereOwner (ops : List Opnd) : (s.popAll ops).here.owner = s.here.owner := by
  obtain ⟨_, _, _, own⟩ := (queuesMoved_popAll (s := s) ops).own
  rw [State.here, popAll_cur, own, State.here]

theorem rand_range {i : StreamId} {n : Nat} (h : n ≠ 0) : s.rand i n = (w64 (s.draw i n).1, (s.draw i n).2) := if_neg h

theorem exec_rand {n : Nat} (hn : (s.gValue b.reg.toNat).toNat % 2 ^ 32 = n) (hg : s.mayUse .base = true) (hr : s.readable [src b, dst d] = true) :
    let t := s.popAll [src b, dst d]
    let v := t.rand ⟨t.here.owner, .prog, 0, t.cur⟩ n
    exec (.rand d b) s = .next (v.2.wrote d v.1).done := by
  refine runEx_ok _ _ _ ?_
  simp only [Ex.bind_apply, needGroup_ok s _ hg, rd1_ok s _ _ hr, src_valueIn, hn, Ex.get_apply, Ex.me_apply, Ex.set_apply, Ex.wr_apply, Ex.advance_apply]

theorem exec_reseed {o : Nat} (hg : s.mayUse .base = true) (hr : s.readable [src b, src c] = true)
    (hl : s.here.level = .f ∨ (s.here.level = .s ∧ c.reg = 0)) (ho : (if s.here.level = .f then (s.gValue c.reg.toNat).toNat % 16 else s.here.owner) = o)
    (hen : s.here.level = .f → (s.gValue c.reg.toNat).toNat < 16 ∧ (s.owner o).active.en = true) (hs : (s.owner o).oldSeed = none)
    (hh : s.layoutHeld o = false) (hb : b.reg ≠ 0) :
    exec (.reseed b c) s = .next ((s.popAll [src b, src c]).reseed o (s.gValue b.reg.toNat)).done := by
  have level : needLevel (fun l => l == .f || (l == .s && c.reg == 0)) s = .ok () s := needLevel_ok s _ (by
    rcases hl with f | ⟨l, own⟩
    · simp [f]
    · simp [l, own])
  have held : s.reseedHeld o = false := by simp [State.reseedHeld, hs, hh]
  have enabled : ¬ (s.here.level = .f ∧ (16 ≤ (s.gValue c.reg.toNat).toNat ∨ (s.owner o).active.en = false)) := by
    rintro ⟨f, bad⟩
    obtain ⟨small, en⟩ := hen f
    rw [en] at bad
    simp at bad
    omega
  refine runEx_ok _ _ _ ?_
  simp only [Ex.bind_apply, needGroup_ok s _ hg, level, pk2_ok s _ _ _ hr, src_valueIn, Ex.me_apply, Ex.get_apply, ho]
  rw [if_neg enabled]
  simp only [Ex.bind_apply, held, Bool.false_eq_true, if_false, Ex.pop_apply, Ex.modify_apply, Ex.advance_apply]
  rw [if_neg hb]

/-- The state after EXQ, whose word is on its way (R122, R360). -/
def State.answered (t : State) (d : GReg) (v : Word) : State :=
  ((t.began (.g d.toNat) none false).post [.producerArrive t.cur t.nextId (.word v)]).done

theorem exec_exq (hg : s.mayUse .stat = true) (hr : s.readable [src b, src c, dst d] = true) :
    let t := s.popAll [src b, src c, dst d]
    exec (.exq d b c) s = .next (t.answered d (t.exqWord t.here.owner (s.gValue b.reg.toNat) (s.gValue c.reg.toNat))) := by
  refine runEx_ok _ _ _ ?_
  simp [Ex.bind_apply, needGroup_ok s _ hg, rd2_ok s _ _ _ hr, (regsMoved_began d.isLt _ _).cur_eq, State.answered]

theorem exqWord_stated {o : Nat} {y : Word} (hx : x &&& ~~~0x37 = 0) (h7 : x.toNat % 8 ≠ 7) (h2 : x.toNat % 8 = 2 → s.squareFenced = false) :
    s.exqWord o x y = BitVec.ofNat 64 (exq ((s.owner o).active.quota (x.toNat / 16 % 4) (x.toNat % 8)) y.toNat) := by
  have only : onlyBits x 0x37 = true := beq_iff_eq.2 hx
  have kind : wbits x 2 0 = x.toNat % 8 := wbits_low x 2
  have square : ¬ (x.toNat % 8 = 2 ∧ s.squareFenced = true) := fun ⟨two, fenced⟩ => by simp [h2 two] at fenced
  simp only [State.exqWord, kind, only, h7, if_neg square]
  rfl

theorem exqWord_unstated {o : Nat} {y : Word} (hx : x &&& ~~~0x37 ≠ 0 ∨ x.toNat % 8 = 7) : s.exqWord o x y = BitVec.allOnes 64 := by
  have kind : wbits x 2 0 = x.toNat % 8 := wbits_low x 2
  have bad : wbits x 2 0 = 7 ∨ onlyBits x 0x37 = false := by
    rw [kind]
    exact hx.symm.imp_right beq_eq_false_iff_ne.2
  exact if_pos bad

/-- The state after EXH: the counter is written to its destination, and CLEAR zeroes it (R123, R360). -/
def State.counterRead (t : State) (d : GReg) (x : Word) (key : Nat) : State :=
  let v := t.wrote d (((tget t.bins key).getD 0).setWidth 64)
  if x.getLsbD 10 then { v with bins := tdel v.bins key } else v

section
variable (hg : s.mayUse .stat = true) (hr : s.readable [src b, dst d] = true) (hu : (s.gValue b.reg.toNat).getLsbD 16 = true → s.here.level ≠ .u)
include hg hr hu

theorem exec_exh {key : Nat} (hk : exhKey s.here.owner (s.gValue b.reg.toNat) = some key) :
    exec (.exh d b) s = .next ((s.popAll [src b]).counterRead d (s.gValue b.reg.toNat) key).done := by
  have allowed : ¬ ((s.gValue b.reg.toNat).getLsbD 16 = true ∧ s.here.level = .u) := fun ⟨bit, level⟩ => hu bit level
  refine runEx_ok _ _ _ ?_
  simp only [Ex.bind_apply, needGroup_ok s _ hg, pk1_ok s _ _ hr, src_valueIn, Ex.me_apply, hk, if_neg allowed, Ex.pop_apply, Ex.get_apply,
    Ex.wr_apply, State.counterRead]
  split <;> simp [Ex.bind_apply]

theorem exec_exh_unstated (hk : exhKey s.here.owner (s.gValue b.reg.toNat) = none) :
    exec (.exh d b) s = .next ((s.popAll [src b]).wrote d 0).done := by
  have allowed : ¬ ((s.gValue b.reg.toNat).getLsbD 16 = true ∧ s.here.level = .u) := fun ⟨bit, level⟩ => hu bit level
  refine runEx_ok _ _ _ ?_
  simp only [Ex.bind_apply, needGroup_ok s _ hg, pk1_ok s _ _ hr, src_valueIn, Ex.me_apply, hk, if_neg allowed, Ex.pop_apply, Ex.get_apply,
    Ex.wr_apply, Ex.advance_apply]

end

theorem exhKey_stated {o : Nat} (hx : x &&& ~~~0x1F77F = 0) (h7 : x.toNat / 16 % 8 ≠ 7) :
    exhKey o x = some (binKey (x.toNat / 256 % 4) (if x.getLsbD 16 then x.toNat / 4096 % 16 else o) (x.toNat / 16 % 8) (x.toNat % 16)) := by
  have only : onlyBits x 0x1F77F = true := beq_iff_eq.2 hx
  have low : wbits x 3 0 = x.toNat % 16 := wbits_low x 3
  have cls : wbits x 6 4 = x.toNat / 16 % 8 := rfl
  simp only [exhKey, only, cls, h7, low]
  rfl

theorem exhKey_unstated {o : Nat} (hx : x &&& ~~~0x1F77F ≠ 0 ∨ x.toNat / 16 % 8 = 7) : exhKey o x = none := by
  have bad : wbits x 6 4 = 7 ∨ onlyBits x 0x1F77F = false := hx.symm.imp_right beq_eq_false_iff_ne.2
  exact if_pos bad

end Sys2Proof.Machine

open Sys2Proof Sys2Proof.Machine

/-- Settles O27: draws, the restart of an owner's streams, stated bounds and wait counters. -/
theorem randomAndStatistics : Obligations.RandomAndStatistics := by
  intro s d b c x y n st s1 draw
  have own : (⟨s1.here.owner, .prog, 0, s1.cur⟩ : StreamId) = st := by rw [popAll_hereOwner, popAll_cur]
  refine ⟨fun hg hr => ⟨fun h0 => ?_, fun h0 => ?_⟩, ?_, fun hg hr => ?_, fun hg hr hu => ?_⟩
  · rw [exec_rand h0 hg hr, ← own]
    rfl
  · rw [exec_rand rfl hg hr, rand_range h0]
    rfl
  · intro hg hr hl o hen hs hh hb
    exact exec_reseed hg hr hl rfl hen hs hh hb
  · intro q gives
    have owner : (s.popAll [src b, src c, dst d]).owner (s.popAll [src b, src c, dst d]).here.owner = s.owner s.here.owner := by
      rw [popAll_owner, popAll_hereOwner]
    refine ⟨fun hx h7 h2 => ?_, fun hx => ?_⟩
    · rw [exec_exq hg hr, exqWord_stated hx h7 h2, owner]
      rfl
    · rw [exec_exq hg hr, exqWord_unstated hx]
      rfl
  · intro t key
    exact ⟨fun hx h7 => exec_exh hg hr hu (exhKey_stated hx h7), fun hx => exec_exh_unstated hg hr hu (exhKey_unstated hx)⟩
end

section
/-!
PROOFS. System registers (R361 to R363).
-/

namespace Sys2Proof.Machine

variable {s : State} {d : GReg} {n : BitVec 12} {r : SysReg}

theorem onlyBits_iff (x : Word) (m : Nat) : onlyBits x m = true ↔ x &&& ~~~(w64 m) = 0 := beq_iff_eq

theorem wbits_plev (x : Word) : wbits x 9 8 = 3 ↔ (x >>> 8) &&& 3 = 3 := by
  rw [wbits_shift, ← BitVec.toNat_inj, BitVec.toNat_and]
  exact iff_of_eq (congrArg (· = _) (Nat.and_two_pow_sub_one_eq_mod _ 2).symm)

theorem ecauseRead_eq (x : Word) : ecauseRead x = if (x >>> 8) &&& 3 = 3 then x &&& ~~~(0x300 : Word) else x := by
  simp only [ecauseRead, wbits_plev]

/-- The numbers that R362 lists. -/
def sysNumbers : List Nat :=
  [0x000, 0x001, 0x010, 0x011, 0x012, 0x013, 0x014, 0x015, 0x016, 0x017, 0x020, 0x021, 0x030, 0x031, 0x032, 0x033, 0x034, 0x035, 0x036, 0x037,
    0x038, 0x039, 0x040, 0x041, 0x042, 0x043, 0x050]

theorem sysReg_unlisted {k : Nat} (h : k ∉ sysNumbers) : sysReg k = none := by
  unfold sysReg
  split <;> simp [sysNumbers] at h ⊢

section
variable (hg : s.mayUse .base = true)
include hg

theorem exec_mfs (hn : sysReg n.toNat = some r) (hl : r.reads ≤ levelNum s.here.level) (hd : s.dstReady d.toNat = true) :
    exec (.mfs d n) s = .next (s.wrote d (s.sysRead n.toNat)).done := by
  refine runEx_ok _ _ _ ?_
  simp only [Ex.bind_apply, needGroup_ok s _ hg, hn, needLevel_ok s (fun l => decide (r.reads ≤ levelNum l)) (decide_eq_true hl),
    checkDest_ok s _ hd, Ex.get_apply, Ex.wr_apply, Ex.advance_apply]

theorem exec_mfs_priv (hn : sysReg n.toNat = some r) (hl : levelNum s.here.level < r.reads) :
    exec (.mfs d n) s = .next (s.takeTrap s.cur s.here.pc .priv (s.here.head.setWidth 64) 0 false) := by
  refine runEx_done _ _ _ ?_
  simp only [Ex.bind_apply, needGroup_ok s _ hg, hn,
    needLevel_priv s (fun l => decide (r.reads ≤ levelNum l)) (decide_eq_false (Nat.not_le.2 hl))]

theorem exec_mfs_undef (hn : sysReg n.toNat = none) :
    exec (.mfs d n) s = .next (s.takeTrap s.cur s.here.pc .undef (s.here.head.setWidth 64) 0 false) := by
  refine runEx_done _ _ _ ?_
  simp only [Ex.bind_apply, needGroup_ok s _ hg, hn, undef_apply]

end

/-- What MFS reads: a number, the lowest level that reads it, and its value (R362). -/
def State.readTable (s : State) : List (Nat × Nat × Word) :=
  let c := s.here
  let o := s.owner c.owner
  let lv : Nat := match c.level with
    | .u => 0 | .s => 1 | .f => 2
  let lswin (i : Nat) : Word := (tget (s.core (coreOf s.cur)).lswin i).getD 0
  let ec : Word := if (c.ecause >>> 8) &&& 3 = 3 then c.ecause &&& ~~~(0x300 : Word) else c.ecause
  [(0x000, 0, BitVec.ofNat 64 (s.cur + 2 ^ 16 * c.owner + 2 ^ 20 * c.space.toNat + 2 ^ 36 * lv)), (0x001, 0, s.dtc), (0x010, 1, c.epc.setWidth 64),
    (0x011, 1, ec), (0x012, 1, c.eval), (0x013, 1, c.einfo), (0x014, 0, c.erf0), (0x015, 0, c.erf1), (0x016, 1, o.tvecS.setWidth 64),
    (0x017, 2, s.tvecF.setWidth 64), (0x020, 0, c.waitlim), (0x021, 0, c.spcount.setWidth 64), (0x030, 0, o.ctbase), (0x031, 0, o.ctlen),
    (0x032, 1, o.gtqbase), (0x033, 1, o.gtqlen), (0x034, 1, o.sptab), (0x035, 1, o.fqbase), (0x036, 1, s.conctxRead c.owner), (0x037, 1, o.savearea),
    (0x038, 1, o.stkbase), (0x039, 1, o.stksize), (0x040, 0, lswin 0), (0x041, 0, lswin 1), (0x042, 0, lswin 2), (0x043, 0, lswin 3),
    (0x050, 0, BitVec.ofNat 64 (s.dtc.toNat % 153600))]

theorem readTable_numbers : (s.readTable.map Prod.fst) = sysNumbers := rfl

theorem readTable_listed : ∀ e ∈ s.readTable, e.1 < 2 ^ 12 ∧ s.sysRead e.1 = e.2.2 ∧ ∃ r, sysReg e.1 = some r ∧ r.reads = e.2.1 := by
  simp only [State.readTable, ← ecauseRead_eq]
  iterate 27 refine List.forall_mem_cons.2 ⟨⟨of_decide_eq_true rfl, rfl, _, rfl, rfl⟩, ?_⟩
  exact List.forall_mem_nil _

end Sys2Proof.Machine

open Sys2Proof Sys2Proof.Machine

/-- Settles O28: each listed number is read by the levels of its row, and no other number is. -/
theorem systemReads : Obligations.SystemReads := by
  intro s d hg c o lv lswin ec table
  refine ⟨fun e he => ?_, fun n hn => ?_⟩
  · obtain ⟨small, value, r, listed, level⟩ := readTable_listed (s := s) e he
    have number : (BitVec.ofNat 12 e.1).toNat = e.1 := by
      rw [BitVec.toNat_ofNat]
      exact Nat.mod_eq_of_lt small
    have listed' : sysReg (BitVec.ofNat 12 e.1).toNat = some r := by rw [number, listed]
    refine ⟨fun hl hd => ?_, fun hl => exec_mfs_priv hg listed' (level ▸ hl)⟩
    rw [exec_mfs hg listed' (level ▸ hl) hd, number, value]
  · refine exec_mfs_undef hg (sysReg_unlisted fun mem => ?_)
    rw [← readTable_numbers (s := s), List.mem_map] at mem
    obtain ⟨e, he, eq⟩ := mem
    exact hn e he eq
end

section
/-!
PROOFS. System registers written (R362, R363).
-/

namespace Sys2Proof.Machine

variable {s : State} {a : GReg} {n : BitVec 12} {r : SysReg}

/-- The ranges of R362 in the spec's own terms. -/
def inSysRange (n : Nat) (v : Word) : Prop :=
  (n = 0x031 → v.toNat ≤ 2 ^ 20) ∧ (n = 0x039 → v ≠ 0) ∧ (0x040 ≤ n → (v >>> 16).toNat % 2 ^ 14 ≤ 8192)

theorem sysRange_of {k : Nat} {v : Word} (h : inSysRange k v) : sysRange k v = true := by
  obtain ⟨ctlen, stksize, lswin⟩ := h
  unfold sysRange
  split
  · exact decide_eq_true (ctlen rfl)
  · exact bne_iff_ne.2 (stksize rfl)
  iterate 4 · rw [wbits_shift]; exact decide_eq_true (lswin (by decide))
  · rfl

section
variable (hg : s.mayUse .base = true) (hn : sysReg n.toNat = some r)
include hg hn

theorem exec_mts_priv (hl : levelNum s.here.level < r.writes) :
    exec (.mts n a) s = .next (s.takeTrap s.cur s.here.pc .priv (s.here.head.setWidth 64) 0 false) := by
  refine runEx_done _ _ _ ?_
  simp only [Ex.bind_apply, needGroup_ok s _ hg, hn,
    needLevel_priv s (fun l => decide (r.writes ≤ levelNum l)) (decide_eq_false (Nat.not_le.2 hl))]

variable (hl : r.writes ≤ levelNum s.here.level) (hr : s.readable [src0 a] = true)
include hl hr

theorem exec_mts_reserved (hv : s.gValue a.toNat &&& ~~~w64 r.mask ≠ 0) :
    exec (.mts n a) s = .next (s.takeTrap s.cur s.here.pc .undef (s.here.head.setWidth 64) 0 false) := by
  have bad : onlyBits (s.gValue a.toNat) r.mask = false ∨ sysRange n.toNat (s.gValue a.toNat) = false := Or.inl (beq_eq_false_iff_ne.2 hv)
  refine runEx_done _ _ _ ?_
  simp only [Ex.bind_apply, needGroup_ok s _ hg, hn, needLevel_ok s (fun l => decide (r.writes ≤ levelNum l)) (decide_eq_true hl),
    pk1_ok s _ _ hr, src0_valueIn, if_pos bad, undef_apply]

variable (hv : s.gValue a.toNat &&& ~~~w64 r.mask = 0) (hrange : sysRange n.toNat (s.gValue a.toNat) = true)
include hv hrange

theorem exec_mts (hq : n.toNat ≠ 0x035) : exec (.mts n a) s = .next ((s.popAll [src0 a]).sysWrite n.toNat (s.gValue a.toNat)).done := by
  have fine : ¬ (onlyBits (s.gValue a.toNat) r.mask = false ∨ sysRange n.toNat (s.gValue a.toNat) = false) := by
    simp [(onlyBits_iff _ _).2 hv, hrange]
  refine runEx_ok _ _ _ ?_
  simp only [Ex.bind_apply, needGroup_ok s _ hg, hn, needLevel_ok s (fun l => decide (r.writes ≤ levelNum l)) (decide_eq_true hl),
    pk1_ok s _ _ hr, src0_valueIn, if_neg fine, if_neg hq, Ex.pop_apply, Ex.modify_apply, Ex.advance_apply]

theorem exec_mts_ring {f : Option Nat} (hq : n.toNat = 0x035) (hf : formOf (s.gValue a.toNat) = .page) (hring : ringFrame (s.gValue a.toNat) s = .ok f s) :
    exec (.mts n a) s = .next
      (((s.modOwner s.here.owner fun o => { o with fqFrame := f }).popAll [src0 a]).sysWrite n.toNat (s.gValue a.toNat)).done := by
  have fine : ¬ (onlyBits (s.gValue a.toNat) r.mask = false ∨ sysRange n.toNat (s.gValue a.toNat) = false) := by
    simp [(onlyBits_iff _ _).2 hv, hrange]
  refine runEx_ok _ _ _ ?_
  simp only [Ex.bind_apply, needGroup_ok s _ hg, hn, needLevel_ok s (fun l => decide (r.writes ≤ levelNum l)) (decide_eq_true hl),
    pk1_ok s _ _ hr, src0_valueIn, if_neg fine, if_pos hq]
  rw [if_neg (not_not_intro hf)]
  simp only [Ex.bind_apply, hring, Ex.modify_apply, Ex.pop_apply, Ex.advance_apply]
  rfl

end

theorem ringFrame_none {v : Word} (h : v = 0) : ringFrame v s = .ok none s := by simp [ringFrame, h]

theorem ringFrame_pin {v : Word} {pa f : Nat} {e : TlbEntry} (h0 : v ≠ 0) (hp : s.pageOk v .read pa e = true) (hct : e.ct = 2) (hfe : e.fe = true)
    (hf : frameOf pa = some f) (hpin : (s.fotAt f).getLsbD 7 = true) : ringFrame v s = .ok (some pa) s := by
  have sc : e.ct = 2 ∧ e.fe = true ∧ (s.fotAt f).getLsbD 7 = true := ⟨hct, hfe, hpin⟩
  simp only [ringFrame, if_neg h0, Ex.bind_apply, translate_ok s _ _ _ _ _ hp, Ex.get_apply, hf, if_pos sc]
  rfl

/-- What MTS writes, the fault ring apart: a number, the lowest level that writes it, the bits that it may set, and the state then (R362, R363). -/
def State.writeTable (t : State) (v : Word) : List (Nat × Nat × Word × State) :=
  let ctx (f : Ctx → Ctx) : State := t.modCtx t.cur f
  let own (f : Owner → Owner) : State := t.modOwner t.here.owner f
  let core (f : Core → Core) : State := t.modCore (coreOf t.cur) f
  let e : Word := if (v >>> 8) &&& 3 = 3 then v &&& ~~~(0x300 : Word) else v
  [(0x010, 1, 0x7FFFFFFFFFFFFF, ctx fun c => { c with epc := v.setWidth 55 }),
    (0x011, 1, 0x1FFF, ctx fun c => { c with ecause := (e &&& 0xFFF) ||| (c.ecause &&& 0x1000) }),
    (0x012, 1, BitVec.allOnes 64, ctx fun c => { c with eval := v }), (0x013, 1, BitVec.allOnes 64, ctx fun c => { c with einfo := v }),
    (0x016, 1, 0x7FFFFFFFFFFFFF, own fun o => { o with tvecS := v.setWidth 55 }), (0x017, 2, 0x7FFFFFFFFFFFFF, { t with tvecF := v.setWidth 55 }),
    (0x020, 0, 0xFFFFFFFF, ctx fun c => { c with waitlim := v }),
    (0x030, 1, 0x7FFFFFFFFFFFC0, (own fun o => { o with ctbase := v }).flushCallable t.here.owner none),
    (0x031, 1, 0x1FFFFF, (own fun o => { o with ctlen := v }).flushCallable t.here.owner none),
    (0x032, 1, 0x7FFFFFFFFFFFC0, own fun o => { o with gtqbase := v }), (0x033, 1, 0xFFFF, own fun o => { o with gtqlen := v }),
    (0x034, 1, 0xFFFFFFFF0000, own fun o => { o with sptab := v }), (0x036, 1, 0x1FFFF, own fun o => { o with conctx := v }),
    (0x037, 1, 0xFFFFFFFFF000, own fun o => { o with savearea := v }), (0x038, 1, 0xFFFFFFFF0000, own fun o => { o with stkbase := v }),
    (0x039, 1, 0xFF, own fun o => { o with stksize := v }),
    (0x040, 1, 0xF3FFF1FFF, core fun k => { k with lswin := tset k.lswin 0 v }), (0x041, 1, 0xF3FFF1FFF, core fun k => { k with lswin := tset k.lswin 1 v }),
    (0x042, 1, 0xF3FFF1FFF, core fun k => { k with lswin := tset k.lswin 2 v }), (0x043, 1, 0xF3FFF1FFF, core fun k => { k with lswin := tset k.lswin 3 v })]

theorem writeTable_listed {t : State} {v : Word} : ∀ z ∈ t.writeTable v,
    z.1 < 2 ^ 12 ∧ z.1 ≠ 0x035 ∧ t.sysWrite z.1 v = z.2.2.2 ∧ ∃ r, sysReg z.1 = some r ∧ r.writes = z.2.1 ∧ w64 r.mask = z.2.2.1 := by
  simp only [State.writeTable, ← ecauseRead_eq]
  iterate 20 refine List.forall_mem_cons.2 ⟨⟨of_decide_eq_true rfl, of_decide_eq_true rfl, rfl, _, rfl, rfl, rfl⟩, ?_⟩
  exact List.forall_mem_nil _

end Sys2Proof.Machine

open Sys2Proof Sys2Proof.Machine

/-- Settles O29: each row of the table of R362, and the fault ring's base with its frame. -/
theorem systemWrites : Obligations.SystemWrites := by
  intro s a hg hr c v lv t ctx own core e table inRange ring
  refine ⟨fun hl hv => ⟨fun h0 => ?_, fun pa en f h0 hf hp hct hfe hfr hpin => ?_⟩, fun z hz => ?_⟩
  · have form : formOf (s.gValue a.toNat) = .page := by
      rw [show s.gValue a.toNat = 0 from h0]
      decide
    exact exec_mts_ring (n := 0x035) hg rfl hl hr hv rfl rfl form (ringFrame_none h0)
  · exact exec_mts_ring (n := 0x035) hg rfl hl hr hv rfl rfl hf (ringFrame_pin h0 hp hct hfe hfr hpin)
  · obtain ⟨small, base, written, r, listed, level, mask⟩ := writeTable_listed (t := t) (v := v) z hz
    have number : (BitVec.ofNat 12 z.1).toNat = z.1 := by
      rw [BitVec.toNat_ofNat]
      exact Nat.mod_eq_of_lt small
    have listed' : sysReg (BitVec.ofNat 12 z.1).toNat = some r := by rw [number, listed]
    rw [← level, ← mask]
    refine ⟨fun hl hv range => ?_, fun hl hv => exec_mts_reserved hg listed' hl hr hv, fun hl => exec_mts_priv hg listed' hl⟩
    rw [← written]
    have range' : sysRange (BitVec.ofNat 12 z.1).toNat v = true := number.symm ▸ sysRange_of range
    have base' : (BitVec.ofNat 12 z.1).toNat ≠ 0x035 := number.symm ▸ base
    rw [exec_mts hg listed' hl hr hv range' base', number]
end

section
/-!
PROOFS. Taking a trap and returning from one (R204, R216, R217, R364).
-/

namespace Sys2Proof.Machine

variable {s t : State} {n : Nat} {epc val info : Word} {cause : Cause} {imprecise : Bool}

theorem detach_alone (h : (s.ctx n).gang = none) : s.detach n = s := by simp [State.detach, h]

/-- A context at a trap's entry: EPC, the handler's pc, and no instruction or wait held (R217). -/
def Ctx.entered (c : Ctx) (epc pc : Word) : Ctx :=
  { c with epc := epc.setWidth 55, pc := pc, held := none, lastWait := none, state := c.state.awake, refusals := 0, peerBlocks := [] }

theorem takeTrap_f (h : ((s.detach n).ctx n).level = .f) : s.takeTrap n epc cause val info imprecise =
    (s.detach n).modCtx n fun c =>
      { c.entered epc ((s.detach n).tvecF.setWidth 64) with ecause := (c.ecause &&& ~~~(0xFF : Word)) ||| cause.code.setWidth 64 } :=
  if_pos h

theorem takeTrap_fault (h : ((s.detach n).ctx n).level ≠ .f)
    (ha : ((s.detach n).ctx n).ecause.getLsbD 10 = true ∨ ((s.detach n).owner ((s.detach n).ctx n).owner).tvecS = 0) :
    s.takeTrap n epc cause val info imprecise = (s.detach n).taskFault n cause.code val := by
  simp only [State.takeTrap]
  rw [if_neg h, if_pos ha]

theorem ecauseOf_precise {code : BitVec 8} {l : Level} {k : Nat} (h : code.toNat = k) :
    ecauseOf code l false = BitVec.ofNat 64 (k + 256 * levelNum l + 1024) := by simp [ecauseOf, h, w64]

theorem takeTrap_s (h : ((s.detach n).ctx n).level ≠ .f) (ha : ((s.detach n).ctx n).ecause.getLsbD 10 = false)
    (hv : ((s.detach n).owner ((s.detach n).ctx n).owner).tvecS ≠ 0) : s.takeTrap n epc cause val info imprecise =
      (s.detach n).modCtx n fun c =>
        { c.entered epc (((s.detach n).owner ((s.detach n).ctx n).owner).tvecS.setWidth 64) with
          eval := val, einfo := info, ecause := ecauseOf cause.code c.level imprecise, level := .s } := by
  have free : ¬ (((s.detach n).ctx n).ecause.getLsbD 10 = true ∨ ((s.detach n).owner ((s.detach n).ctx n).owner).tvecS = 0) := by
    rintro (active | unset)
    · exact Bool.false_ne_true (ha.symm.trans active)
    · exact hv unset
  simp only [State.takeTrap]
  rw [if_neg h, if_neg free]
  rfl

theorem sameMemory_modCtx (f : Ctx → Ctx) : s.sameMemory (s.modCtx n f) := ⟨fun _ => rfl, fun _ => rfl, fun _ => ⟨fun _ => rfl, rfl, rfl⟩⟩

theorem sameOthers_modCtx (f : Ctx → Ctx) : s.sameOthers (s.modCtx n f) n := fun _ hm => .inl (State.ctx_modCtx_other _ _ _ _ hm)

/-! A return (R217): what is issued again changes neither the level nor the pc. -/

/-- Two states run the same context, with the same level, pc and ECAUSE. -/
structure State.SameReturn (s t : State) (n : Nat) : Prop where
  cur : t.cur = s.cur
  level : (t.ctx n).level = (s.ctx n).level
  pc : (t.ctx n).pc = (s.ctx n).pc
  ecause : (t.ctx n).ecause = (s.ctx n).ecause

theorem State.SameReturn.refl (s : State) (n : Nat) : s.SameReturn s n := ⟨rfl, rfl, rfl, rfl⟩

theorem State.SameReturn.trans {u : State} (h : s.SameReturn t n) (g : t.SameReturn u n) : s.SameReturn u n :=
  ⟨g.cur.trans h.cur, g.level.trans h.level, g.pc.trans h.pc, g.ecause.trans h.ecause⟩

theorem sameReturn_foldl {α : Type} {f : State → α → State} (hf : ∀ (s : State) (a : α), s.SameReturn (f s a) n) (l : List α) :
    s.SameReturn (l.foldl f s) n := by
  induction l generalizing s with
  | nil => exact .refl s n
  | cons a l ih => exact (hf s a).trans ih

theorem sameReturn_modCtx {f : Ctx → Ctx} (hl : (f (s.ctx n)).level = (s.ctx n).level) (hp : (f (s.ctx n)).pc = (s.ctx n).pc)
    (he : (f (s.ctx n)).ecause = (s.ctx n).ecause) : s.SameReturn (s.modCtx n f) n := by
  refine ⟨rfl, ?_, ?_, ?_⟩ <;> rw [State.ctx_modCtx] <;> assumption

theorem State.TrafficMoved.sameReturn (h : s.TrafficMoved t) : s.SameReturn t n := by
  rw [h]
  exact ⟨rfl, rfl, rfl, rfl⟩

theorem sameReturn_emptyAgain (r : Nat) : s.SameReturn (s.emptyAgain n r) n := by
  have unmarked : s.SameReturn (s.modCtx n fun c => { c with markers := tdel c.markers r }) n := sameReturn_modCtx rfl rfl rfl
  unfold State.emptyAgain
  simp only
  split
  · exact unmarked
  · split
    · exact unmarked.trans (sameReturn_modCtx rfl rfl rfl)
    · split
      · exact unmarked
      · exact unmarked.trans ⟨rfl, rfl, rfl, rfl⟩

theorem sameReturn_reissueAll : s.SameReturn (s.reissueAll n) n := by
  have cleared : s.SameReturn (s.modCtx n fun c => { c with reissue := [] }) n := sameReturn_modCtx rfl rfl rfl
  refine cleared.trans (sameReturn_foldl (fun s e => ?_) _)
  have emptied : s.SameReturn (if e.2.queued then s else e.2.dest.regs.foldl (fun s r => s.emptyAgain n r) s) n := by
    split
    · exact .refl s n
    · exact sameReturn_foldl (fun _ r => sameReturn_emptyAgain r) _
  exact (emptied.trans (sameReturn_modCtx rfl rfl rfl)).trans (trafficMoved_toSlice _).sameReturn

/-- The level that a return restores (R213, R217). -/
def Ctx.returns (c : Ctx) : Level :=
  let p : Word := (c.ecause >>> 8) &&& 3
  if c.level = .f then (if p = 0 then .u else if p = 1 then .s else .f) else (if p = 1 then .s else .u)

theorem returns_cases {c : Ctx} : c.returns =
    let p : Word := (c.ecause >>> 8) &&& 3
    if p = 0 then .u else if p = 1 then .s else if c.level = .f then .f else .u := by
  simp only [Ctx.returns]
  by_cases hl : c.level = .f
  · simp only [hl, if_true]
  · simp only [hl, if_false]
    split
    · next h1 => rw [h1]; rfl
    · split <;> rfl

theorem wbits_plev_eq (x : Word) (k : Nat) (hk : k < 4) : wbits x 9 8 = k ↔ (x >>> 8) &&& 3 = BitVec.ofNat 64 k := by
  rw [wbits_shift, ← BitVec.toNat_inj, BitVec.toNat_and, BitVec.toNat_ofNat, Nat.mod_eq_of_lt (by omega : k < 2 ^ 64)]
  exact iff_of_eq (congrArg (· = _) (Nat.and_two_pow_sub_one_eq_mod _ 2).symm)

theorem returns_eq {c : Ctx} : c.returns = if c.level = .f then
    (if wbits c.ecause 9 8 = 0 then Level.u else if wbits c.ecause 9 8 = 1 then .s else .f) else returnLevel c.ecause := by
  simp only [Ctx.returns, returnLevel, wbits_plev_eq _ 0 (by decide), wbits_plev_eq _ 1 (by decide)]
  rfl

theorem doEret_raise (h : (s.ctx n).ecause.getLsbD 11 = true) :
    s.doEret n = s.taskFault n ((s.ctx n).ecause.extractLsb' 0 8) (s.ctx n).eval := if_pos h

theorem doEret_return (h : (s.ctx n).ecause.getLsbD 11 = false) : s.doEret n =
    (s.modCtx n fun c => { c with level := (s.ctx n).returns, pc := c.epc.setWidth 64, ecause := c.ecause &&& ~~~(0x400 : Word),
                                  held := none, lastWait := none, state := .live }).reissueAll n := by
  have calmly : ¬ (s.ctx n).ecause.getLsbD 11 = true := fun raise => Bool.false_ne_true (h.symm.trans raise)
  simp only [State.doEret, ← returns_eq]
  rw [if_neg calmly]

theorem trap_apply {α : Type} : (trap cause val info : Ex α) s = .error .done (s.takeTrap s.cur s.here.pc cause val info false) := rfl

section
variable (hg : s.mayUse .base = true)
include hg

theorem exec_svc (i : BitVec 16) : exec (.svc i) s = .next (s.takeTrap s.cur s.here.npc .svc (i.setWidth 64) 0 false) := by
  refine runEx_ok _ _ _ ?_
  simp only [Ex.bind_apply, needGroup_ok s _ hg, Ex.me_apply, Ex.modify_apply]

theorem exec_brk (i : BitVec 16) : exec (.brk i) s = .next (s.takeTrap s.cur s.here.pc .brk (i.setWidth 64) 0 false) := by
  refine runEx_done _ _ _ ?_
  simp only [Ex.bind_apply, needGroup_ok s _ hg, trap_apply]

variable (hl : s.here.level ≠ .u)
include hl

theorem exec_eret_raise (h : s.here.ecause.getLsbD 11 = true) :
    exec .eret s = .next (s.taskFault s.cur (s.here.ecause.extractLsb' 0 8) s.here.eval) := by
  refine runEx_ok _ _ _ ?_
  simp only [Ex.bind_apply, needGroup_ok s _ hg, needLevel_ok s (fun l => l != .u) (bne_iff_ne.2 hl), Ex.me_apply, if_pos h, Ex.modify_apply]
  rw [doEret_raise h]
  rfl

theorem exec_eret_return {pa : Nat} {e : TlbEntry} (h : s.here.ecause.getLsbD 11 = false) (hc : s.codeAt (s.here.epc.setWidth 64) pa e = true) :
    exec .eret s = .next (s.doEret s.cur) := by
  have calmly : ¬ s.here.ecause.getLsbD 11 = true := fun raise => Bool.false_ne_true (h.symm.trans raise)
  refine runEx_ok _ _ _ ?_
  simp only [Ex.bind_apply, needGroup_ok s _ hg, needLevel_ok s (fun l => l != .u) (bne_iff_ne.2 hl), Ex.me_apply, if_neg calmly, Ex.get_apply,
    checkTarget_ok s _ pa e hc, Ex.set_apply]

end

end Sys2Proof.Machine

open Sys2Proof Sys2Proof.Machine

/-- Settles O30: SVC and BRK take their traps, and ERET returns from one or raises it to the nest. -/
theorem trapsOnRequest : Obligations.TrapsOnRequest := by
  intro s i pa e hg c lv tv enters entersF
  refine ⟨fun alone => ⟨fun hl ha hv => ?_, fun hl => ?_⟩, fun hl hr hc => ?_, fun hl hr => exec_eret_raise hg hl hr⟩
  · have same : s.detach s.cur = s := detach_alone alone
    have entry (epc : Word) (cause : Cause) (code : Nat) (hcode : cause.code.toNat = code) :
        Host.Outcome.next (s.takeTrap s.cur epc cause (i.setWidth 64) 0 false) = enters epc code := by
      rw [takeTrap_s (by rwa [same]) (by rwa [same]) (by rwa [same]), same]
      simp only [ecauseOf_precise hcode, enters, show lv = levelNum (s.ctx s.cur).level from rfl, State.modCtx]
      rfl
    rw [exec_svc hg, exec_brk hg]
    exact ⟨entry c.npc .svc 0x11 rfl, entry c.pc .brk 0x12 rfl⟩
  · have same : s.detach s.cur = s := detach_alone alone
    rw [exec_svc hg, exec_brk hg, takeTrap_f (by rwa [same]), takeTrap_f (by rwa [same]), same]
    constructor <;> rfl
  · rw [exec_eret_return hg hl hr hc, doEret_return hr]
    rfl

/-- Settles O55: the three ways of taking a trap, and the return from one. -/
theorem trapEntry : Obligations.TrapEntry := by
  intro s n epc val info cause imprecise pa e s0 c tv lv t x
  refine ⟨fun hl => ?_, fun hl ha => takeTrap_fault hl ha, fun hl ha hv => ?_, fun hcase => ?_, fun hg hl => ⟨exec_eret_raise hg hl, fun hr hc => ?_⟩⟩
  · have entry : x = _ := congrArg (State.ctx · n) (takeTrap_f hl)
    rw [entry, State.ctx_modCtx]
    exact ⟨rfl, rfl, hl, rfl, rfl, rfl⟩
  · have entry : x = _ := congrArg (State.ctx · n) (takeTrap_s hl ha hv)
    rw [entry, State.ctx_modCtx]
    refine ⟨rfl, rfl, rfl, ?_, rfl, rfl⟩
    show ecauseOf cause.code c.level imprecise = _
    rw [ecauseOf, Nat.mul_comm]
    rfl
  · have entry : ∃ f : Ctx → Ctx, t = s0.modCtx n f ∧ (f c).g = c.g ∧ (f c).gFull = c.gFull ∧ (f c).vset = c.vset ∧ (f c).bind = c.bind
        ∧ (f c).producers = c.producers ∧ (f c).owner = c.owner ∧ (f c).space = c.space := by
      rcases Classical.em (c.level = .f) with hl | hl
      · exact ⟨_, takeTrap_f hl, rfl, rfl, rfl, rfl, rfl, rfl, rfl⟩
      · obtain ⟨ha, hv⟩ := hcase.resolve_left hl
        exact ⟨_, takeTrap_s hl ha hv, rfl, rfl, rfl, rfl, rfl, rfl, rfl⟩
    obtain ⟨f, moved, kept⟩ := entry
    have own : x = f c := (congrArg (State.ctx · n) moved).trans (State.ctx_modCtx _ _ _)
    rw [own, moved]
    exact ⟨sameMemory_modCtx f, sameOthers_modCtx f, kept⟩
  · refine ⟨_, exec_eret_return hg hl hr hc, ?_⟩
    intro p
    rw [doEret_return hr]
    have back := sameReturn_reissueAll (n := s.cur) (s := s.modCtx s.cur fun c =>
      { c with level := (s.ctx s.cur).returns, pc := c.epc.setWidth 64, ecause := c.ecause &&& ~~~(0x400 : Word),
               held := none, lastWait := none, state := .live })
    rw [State.here, back.cur]
    refine ⟨back.level.trans ?_, back.pc.trans ?_, back.ecause.trans ?_⟩ <;> erw [State.ctx_modCtx]
    · show (s.ctx s.cur).returns = _
      rw [returns_cases]
      rfl
    · rfl
    · rfl
end

section
/-!
PROOFS. TLB instructions (R140, R365).
-/

namespace Sys2Proof.Machine

variable {s : State} {b c : Src}

theorem field16 (x : Word) (w : Nat) : wbits x (15 + w) 16 = x.toNat / 2 ^ 16 % 2 ^ w := by
  rw [wbits, bits, show 15 + w + 1 - 16 = w by omega]

section
variable (hg : s.mayUse .base = true)
include hg

theorem exec_tlbi1 (hr : s.readable [src b, src c] = true) (hl : s.here.level ≠ .u) (hy : s.gValue c.reg.toNat &&& ~~~0xFFFF0003 = 0) :
    let x := s.gValue b.reg.toNat
    let y := s.gValue c.reg.toNat
    let t := s.popAll [src b, src c]
    exec (.tlbi1 b c) s = .next (t.postInval t.cur ⟨false, t.here.owner, y.extractLsb' 16 16, wbits x 54 16, y.getLsbD 0, y.getLsbD 1⟩).done := by
  have fine : ¬ onlyBits (s.gValue c.reg.toNat) 0xFFFF0003 = false := by simp [(onlyBits_iff _ _).2 hy]
  refine runEx_ok _ _ _ ?_
  simp only [Ex.bind_apply, needGroup_ok s _ hg, needLevel_ok s (fun l => l != .u) (bne_iff_ne.2 hl), pk2_ok s _ _ _ hr, src_valueIn, if_neg fine,
    Ex.pop_apply, Ex.modify_apply, Ex.advance_apply, State.here]

theorem exec_tlbi2 (hr : s.readable [src b, src c] = true) (hl : s.here.level = .f) (hy : s.gValue c.reg.toNat &&& ~~~0xF0001 = 0) :
    let x := s.gValue b.reg.toNat
    let y := s.gValue c.reg.toNat
    let t := s.popAll [src b, src c]
    exec (.tlbi2 b c) s = .next (t.postInval t.cur ⟨true, wbits y 19 16, 0, wbits x 47 16, y.getLsbD 0, false⟩).done := by
  have fine : ¬ onlyBits (s.gValue c.reg.toNat) 0xF0001 = false := by simp [(onlyBits_iff _ _).2 hy]
  refine runEx_ok _ _ _ ?_
  simp only [Ex.bind_apply, needGroup_ok s _ hg, needF_ok hl, pk2_ok s _ _ _ hr, src_valueIn, if_neg fine,
    Ex.pop_apply, Ex.modify_apply, Ex.advance_apply]

theorem exec_tlbsync (hl : s.here.level ≠ .u) (hi : (s.invals.any fun e => e.1 == s.cur) = false) :
    exec .tlbsync s = .next (s.flushCallable s.here.owner none).done := by
  have none : ¬ (s.invals.any fun e => e.1 == s.cur) = true := by simp only [hi]; exact Bool.false_ne_true
  refine runEx_ok _ _ _ ?_
  simp only [Ex.bind_apply, needGroup_ok s _ hg, needLevel_ok s (fun l => l != .u) (bne_iff_ne.2 hl), Ex.get_apply, if_neg none, Ex.modify_apply,
    Ex.advance_apply, State.here]

end

end Sys2Proof.Machine

open Sys2Proof Sys2Proof.Machine

/-- Settles O31: invalidations are posted to every core, and TLBSYNC goes on once none is outstanding. -/
theorem tlbMaintenance : Obligations.TlbMaintenance := by
  intro s b c hg x y t posted
  refine ⟨fun hr hl hy => ?_, fun hr hl hy => ?_, exec_tlbsync hg⟩
  · rw [exec_tlbi1 hg hr hl hy, field16 _ 39]
    rfl
  · rw [exec_tlbi2 hg hr hl hy, field16 _ 32, field16 _ 4]
    rfl
end

section
/-!
PROOFS. The end of a link's retraining (R31, R32), in a state whose table of links lists a link twice.
-/

open Sys2Proof Sys2Proof.Machine

/-- Refutes O32: the table of links lists link 0 as retraining and again as fenced, which no step leaves behind but the statement allows. The end of the
retraining takes the first entry alone out, and the link reads as fenced. -/
theorem not_packageEvents : ¬ Obligations.PackageEvents := by
  unfold Obligations.PackageEvents
  intro h
  obtain ⟨-, -, -, ends, -⟩ := h { State.reset with links := [(0, .retraining), (0, .fenced)] } 0 (Sys2Proof.Tests.wBoot true false [])
  obtain ⟨⟨t, run, up⟩, -⟩ := ends rfl
  obtain rfl : { State.reset with links := [(0, .fenced)] } = t := Host.Outcome.next.inj run
  exact absurd up (by decide)
end

section
/-!
PROOFS. What an access at a block's home changes (R107 to R112, R183, R385): memory, lines and directory entries, and the traffic that it makes.
-/

namespace Sys2Proof.Machine

variable {s t u : State} {o core pa block : Nat}

/-- What an access at a home may change. -/
def State.HomeMoved (s t : State) : Prop :=
  t = { s with
    mem := t.mem, tags := t.tags, tagBuf := t.tagBuf, dir := t.dir, cores := t.cores, slices := t.slices, fresh := t.fresh,
    agenda := t.agenda, later := t.later, resources := t.resources, streams := t.streams, nextId := t.nextId }

theorem State.HomeMoved.refl (s : State) : s.HomeMoved s := rfl

theorem State.HomeMoved.trans (h : s.HomeMoved t) (g : t.HomeMoved u) : s.HomeMoved u := by
  unfold State.HomeMoved at *
  rw [h] at g
  exact g

theorem State.TrafficMoved.home (h : s.TrafficMoved t) : s.HomeMoved t := by
  unfold State.HomeMoved
  rw [h]

theorem homeMoved_foldl {α : Type} {f : State → α → State} (hf : ∀ (s : State) (a : α), s.HomeMoved (f s a)) (l : List α) :
    s.HomeMoved (l.foldl f s) := by
  induction l generalizing s with
  | nil => exact .refl s
  | cons a l ih => exact (hf s a).trans ih

theorem homeMoved_ite {c : Prop} [Decidable c] (h : s.HomeMoved t) (g : s.HomeMoved u) : s.HomeMoved (if c then t else u) := by
  split
  · exact h
  · exact g

theorem homeMoved_modCore (f : Core → Core) : s.HomeMoved (s.modCore core f) := rfl

theorem homeMoved_modSlice (f : Slice → Slice) : s.HomeMoved (s.modSlice core f) := rfl

theorem homeMoved_setDir (d : Dir) : s.HomeMoved (s.setDir block d) := rfl

theorem homeMoved_writeHome (d : Block) (t : Tag) : s.HomeMoved (s.writeHome pa d t) := rfl

theorem homeMoved_dropClean : s.HomeMoved (s.dropClean block) := rfl

theorem homeMoved_recall : s.HomeMoved (s.recall pa) := by
  have written (p : Prop) [Decidable p] : s.HomeMoved (if p then s.writeHome pa (s.coherent pa).1 (s.coherent pa).2 else s) :=
    homeMoved_ite (homeMoved_writeHome _ _) (.refl s)
  refine (written _).trans (State.HomeMoved.trans (homeMoved_foldl (fun s c => ?_) _) (homeMoved_setDir _))
  split
  · exact homeMoved_modCore _
  · exact homeMoved_modCore _
  · exact .refl s

/-! The last-level cache (R107 to R111). -/

theorem homeMoved_request (k j : Nat) (ev : List Instr) : s.HomeMoved (s.request k j o ev) := (trafficMoved_enqueue _).home

theorem homeMoved_tagTouch : s.HomeMoved (s.tagTouch o pa).2 := by
  unfold State.tagTouch
  simp only
  generalize (if s.sharedFrame pa then o else s.placer pa) = p
  split <;> rfl

theorem homeMoved_chargeTag (fill : Bool) : s.HomeMoved (s.chargeTag o pa fill).2 := by
  have touched : s.HomeMoved (s.tagTouch o pa).2 := homeMoved_tagTouch
  unfold State.chargeTag
  split <;> rename_i s1 missed <;> rw [missed] at touched
  · exact touched.trans (homeMoved_request _ _ _)
  · exact touched

theorem homeMoved_chargeChannel (write fill : Bool) : s.HomeMoved (s.chargeChannel o pa write fill) :=
  (homeMoved_chargeTag fill).trans (homeMoved_request _ _ _)

theorem homeMoved_victimWay (c p set : Nat) : s.HomeMoved (s.victimWay c o p set).2 := by
  unfold State.victimWay
  simp only
  split
  · exact .refl s
  · split
    · exact .refl s
    · exact (trafficMoved_draw _ (popcount (s.ways c p set) 16)).home

theorem homeMoved_llcFill (whole : Bool) : s.HomeMoved (s.llcFill o pa whole) := by
  have chosen : s.HomeMoved (s.victimWay (channelOf pa) o (s.placer pa) (llcSet (s.dieRec (s.placer pa) (channelOf pa / 64)) (s.owner (s.placer pa)).seed pa)).2 :=
    homeMoved_victimWay _ _ _
  unfold State.llcFill
  simp only
  split <;> rename_i s1 way <;> rw [way] at chosen
  · exact chosen
  · refine chosen.trans ?_
    have written (old : Option LlcLine) : s1.HomeMoved (match old with
        | some l => if l.dirty then s1.chargeChannel o (64 * l.block) true false else s1
        | none => s1) := by
      split
      · exact homeMoved_ite (homeMoved_chargeChannel _ _) (.refl s1)
      · exact .refl s1
    have placed (s2 : State) : s2.HomeMoved (if whole then s2.chargeTag o pa true else (true, s2.chargeChannel o pa false true)).2 := by
      cases whole
      · exact homeMoved_chargeChannel false true
      · exact homeMoved_chargeTag true
    exact ((written (List.find? _ (s1.slice (channelOf pa)).lines)).trans (placed _)).trans (homeMoved_modSlice _)

theorem homeMoved_homeTouch (write whole : Bool) : s.HomeMoved (s.homeTouch o pa write whole) := by
  have filled : s.HomeMoved (match s.llcFind pa with
      | some _ => s
      | none => if s.noWay pa then s else s.llcFill o pa whole) := by
    split
    · exact .refl s
    · exact homeMoved_ite (.refl s) (homeMoved_llcFill whole)
  unfold State.homeTouch
  split
  · exact homeMoved_ite (filled.trans (homeMoved_modSlice _)) filled
  · exact homeMoved_request _ _ _
  · exact .refl s

theorem homeMoved_homeUpdate (whole : Bool) (f : Block → Tag → Block × Tag) : s.HomeMoved (s.homeUpdate o pa whole f) :=
  (((homeMoved_homeTouch true whole).trans homeMoved_recall).trans (homeMoved_writeHome _ _)).trans homeMoved_dropClean

/-! The accesses that the model moves at once (R384). -/

theorem homeMoved_unitTouch (ctx unit : Nat) (write whole : Bool) : s.HomeMoved (s.unitTouch o core ctx unit pa write whole) := by
  unfold State.unitTouch
  simp only
  split
  · exact (trafficMoved_toSlice _).home
  · exact (trafficMoved_newId.trans (trafficMoved_enqueue _)).home
  · exact .refl s

theorem homeMoved_slotTouch (ctx : Nat) (write whole : Bool) : s.HomeMoved (s.slotTouch o core ctx pa write whole) := homeMoved_unitTouch _ _ _ _

theorem homeMoved_unitUpdate (ctx unit : Nat) (whole : Bool) (f : Block → Tag → Block × Tag) : s.HomeMoved (s.unitUpdate o core ctx unit pa whole f) :=
  (((homeMoved_unitTouch ctx unit true whole).trans homeMoved_recall).trans (homeMoved_writeHome _ _)).trans homeMoved_dropClean

theorem homeMoved_slotUpdate (ctx : Nat) (whole : Bool) (f : Block → Tag → Block × Tag) : s.HomeMoved (s.slotUpdate o core ctx pa whole f) :=
  homeMoved_unitUpdate _ _ _ _

end Sys2Proof.Machine
end

section
/-!
PROOFS. Notifications, records and their completion, shadow entries and feature negotiation (R39 to R57).
-/

namespace Sys2Proof.Machine

variable {s t : State} {o v id word : Nat} {val : Word} {c : Cmd} {x : Completion}

theorem ne_true {b : Bool} (h : b = false) : ¬ b = true := fun t => Bool.false_ne_true (h.symm.trans t)

/-! Notifications (R39, R46). -/

theorem exec_notify_held (h : s.link 20 = .retraining) : exec (.notify o v) s = .next (s.postLater [.notify o v]) := if_pos h

theorem exec_notify_dead (h : s.link 20 ≠ .retraining) (hv : s.vcpLive o v = false) : exec (.notify o v) s = .next s :=
  (if_neg h).trans (if_pos hv)

theorem exec_notify (h : s.link 20 ≠ .retraining) (hv : s.vcpLive o v = true) (hh : (s.vcp o v).halted = false)
    (h0 : s.vcpWord o v 0 = (s.vcp o v).w0) (h1 : s.vcpWord o v 8 = (s.vcp o v).w1) :
    let q := s.vcp o v
    let s0 := s.vcpTouch o v q.base
    let prod := (s0.vcpWord o v 0x10).extractLsb' 0 32
    exec (.notify o v) s = if q.size < (prod - q.cons).toNat then
        .next (((s0.modVcp o v fun q => { q with halted := true, run := false }).report (.halted o v)).putStatus o v)
      else .next ((s0.modVcp o v fun q => { q with prod := prod, armed := true }).post [.vcpTakeRecord o v]) := by
  have live : ¬ s.vcpLive o v = false := by simp [hv]
  have same : (s.vcpWord o v 0 == (s.vcp o v).w0 && s.vcpWord o v 8 == (s.vcp o v).w1) = true := by simp [h0, h1]
  show execNotify o v s = _
  unfold execNotify
  rw [if_neg h, if_neg live]
  simp only [same, if_true, if_neg (ne_true hh)]

/-! The taking of records (R46, R49, R57). -/

theorem exec_vcpTakeRecord (hv : (s.vcp o v).valid = true) (hr : (s.vcp o v).run = true) (ha : (s.vcp o v).armed = true)
    (hw : (s.vcp o v).wait = none) (hb : s.beginning o v = false) (hf : s.ringHeld o v = false) (hi : (s.vcp o v).indirect = none) :
    let q := s.vcp o v
    let a := q.base + 0x100 + 64 * (q.cons.toNat % q.size)
    let r : Cmd := ⟨o, q.owner, v, q.cons.toNat, true, (s.coherent a).1⟩
    exec (.vcpTakeRecord o v) s = if q.cons = q.prod ∨ q.size = 0 then .next s
      else .next (if s.mayTake r none then (s.vcpTouch o v a).takeCmd r none else s) := by
  show execVcpTakeRecord o v s = _
  unfold execVcpTakeRecord
  simp only [hv, hr, ha, hw, hb, hf, hi, Bool.not_true, Option.isSome_none, Bool.or_self, if_neg Bool.false_ne_true]

theorem runCmd_badkind (h : s.kindOk c = false) : s.runCmd c = s.finishCmd c 2 := if_pos h

theorem runCmd_badrec (h : s.kindOk c = true) (hc : c.ok = false) : s.runCmd c = s.finishCmd c 3 := by
  have kind : ¬ s.kindOk c = false := by simp [h]
  exact (if_neg kind).trans (if_pos hc)

theorem exec_indirect {e : OutCmd} (h : (s.vcp c.fn c.vcp).out.find? (fun e => e.cmd == c) = some e) :
    let n := wbits (c.word 1) 12 0
    let ahead := if (c.word 1).getLsbD 13 then ([], s) else s.readBuffer c n
    exec (.indirect c) s = .next ((ahead.2.modVcp c.fn c.vcp fun q => { q with
      indirect := some ⟨e.id, c, 0, n, (c.word 1).getLsbD 13, ahead.1⟩ }).post [.vcpTakeRecord c.fn c.vcp]) := by
  show execIndirect c s = _
  unfold execIndirect
  simp only [h]

/-! Completions (R53, R54). -/

theorem exec_recordComplete_gone (h : (s.completions.find? fun x => x.id == id) = none) : exec (.recordComplete id) s = .next s := by
  show execRecordComplete id s = _
  unfold execRecordComplete
  rw [h]

theorem decrementFor_zero {core : Nat} {space : BitVec 16} {l : Level} : s.decrementFor core o space l 0 id = s := if_pos rfl

/-- A completion's record is written, and its counter's decrement on its way (R53). -/
def State.recorded (s : State) (x : Completion) : State :=
  let t := (s.putRecord x).decrementFor (porterCore x.die) x.owner x.space x.level x.jc x.id
  { t with completions := mapIf (fun y : Completion => y.id == x.id) (fun y => { y with written := true }) t.completions }

theorem mapIf_filter_ne (l : List Completion) (f : Completion → Completion) (hf : ∀ y, (f y).id = y.id) :
    (mapIf (fun y : Completion => y.id == id) f l).filter (fun y => y.id != id) = l.filter fun y => y.id != id := by
  induction l with
  | nil => rfl
  | cons y l ih =>
    by_cases h : y.id = id
    · have h' : (f y).id = id := (hf y).trans h
      simpa [mapIf, h, h'] using ih
    · simpa [mapIf, h] using ih

theorem ringCount_plain (h : x.toRing = false) : s.ringCount x = { s with
    irqs := match x.irq, x.vcp with
      | true, some p => s.irqs ++ [p]
      | _, _ => s.irqs } := by
  simp only [State.ringCount, h, if_neg Bool.false_ne_true]
  cases x.vcp <;> cases x.irq <;> rfl

theorem completed_plain (h : x.toRing = false) (hl : x.launch = none) (ho : x.out = none) (hn : x.node = none) : s.completed x = { s with
    completions := s.completions.filter fun y => y.id != x.id
    irqs := match x.irq, x.vcp with
      | true, some p => s.irqs ++ [p]
      | _, _ => s.irqs } := by
  simp only [State.completed, hl, ho, hn, ringCount_plain h]

section
variable (hx : (s.completions.find? fun x => x.id == id) = some x)
include hx

theorem completion_id : x.id = id := by simpa using List.find?_some hx

theorem exec_recordComplete_new (hw : x.written = false) (hh : s.recordHeld x = false) :
    exec (.recordComplete id) s = .next (if (s.recorded x).counterOut id then (s.recorded x).postLater [.recordComplete id] else (s.recorded x).completed x) := by
  show execRecordComplete id s = _
  unfold execRecordComplete State.recorded
  rw [hx, completion_id hx]
  simp only [hw, hh, if_true, if_neg Bool.false_ne_true]

theorem exec_recordComplete_written (hw : x.written = true) (hc : s.counterOut id = false) :
    exec (.recordComplete id) s = .next (s.completed x) := by
  show execRecordComplete id s = _
  unfold execRecordComplete
  rw [hx]
  simp only [hw, if_neg Bool.true_eq_false.mp, if_neg (ne_true hc)]

/-- A completion with no record and no counter is only counted out, and raises its interrupt (R53). -/
theorem exec_recordComplete_bare (hw : x.written = false) (hj : x.jc = 0) (hr : x.write = false) (hl : x.launch = none) (ho : x.out = none)
    (hn : x.node = none) (hc : s.counterOut id = false) :
    exec (.recordComplete id) s = .next { s with
      completions := s.completions.filter fun y => y.id != id
      irqs := match x.irq, x.vcp with
        | true, some p => s.irqs ++ [p]
        | _, _ => s.irqs } := by
  have ring : x.toRing = false := by simp [Completion.toRing, hr]
  have free : s.recordHeld x = false := by simp [State.recordHeld, ring]
  have unwritten : s.putRecord x = s := by simp [State.putRecord, ring, hr]
  have done : s.recorded x =
      { s with completions := mapIf (fun y : Completion => y.id == x.id) (fun y => { y with written := true }) s.completions } := by
    simp only [State.recorded, unwritten, hj, decrementFor_zero]
  have counted : ¬ (s.recorded x).counterOut id = true := by
    rw [done]
    exact ne_true hc
  rw [exec_recordComplete_new hx hw free, if_neg counted, done]
  rw [completed_plain ring hl ho hn, completion_id hx]
  simp only [mapIf_filter_ne s.completions (fun y => { y with written := true }) fun _ => rfl]

end

/-! Shadow entries (R47) and feature negotiation (R42). -/

theorem homeMoved_vcpPut (off : Nat) (w : Word) : s.HomeMoved (s.vcpPut o v off w) := by
  unfold State.vcpPut State.vcpUpdate
  exact homeMoved_slotUpdate _ _ _

theorem homeMoved_putStatus : s.HomeMoved (s.putStatus o v) := by
  unfold State.putStatus
  exact homeMoved_vcpPut _ _

theorem vcp_putStatus {o' v' : Nat} : (s.putStatus o v).vcp o' v' = s.vcp o' v' := by
  rw [homeMoved_putStatus (s := s) (o := o) (v := v)]
  rfl

theorem vcp_modVcp (f : Vcp → Vcp) : (s.modVcp o v f).vcp o v = f (s.vcp o v) := by
  simp [State.vcp, State.modVcp, tget_tset_same]

/-- A shadow entry after a write to it that leaves it valid or not (R47). -/
def Vcp.rewritten (q : Vcp) (valid : Bool) (word : Nat) (val : Word) : Vcp :=
  let put : Vcp := { q with
    valid := valid, tamper := false,
    w0 := if word = 0 then shadowWord 0 val else q.w0,
    w1 := if word = 1 then shadowWord 1 val else q.w1 }
  let stopped : Vcp := if valid then put else { put with
    prod := put.cons, indirect := none, out := put.out.filter fun e => (put.indirect.map (·.id)) != some e.id || e.left != 0 }
  if stopped.halted && valid then { stopped with halted := false, run := true, armed := false, prod := stopped.cons } else stopped

theorem exec_shadowQcbWrite {valid : Bool} (hv : (if word = 2 then val.getLsbD 0 else (s.vcp o v).valid) = valid) :
    ∃ t, exec (.shadowQcbWrite o v word val) s = .next t ∧ t.vcp o v = (s.vcp o v).rewritten valid word val := by
  subst hv
  exact ⟨_, rfl, vcp_putStatus.trans (vcp_modVcp _)⟩

theorem rewritten_invalid {q : Vcp} : (q.rewritten false word val).valid = false ∧ (q.rewritten false word val).tamper = false
    ∧ (q.rewritten false word val).prod = q.cons ∧ (q.rewritten false word val).indirect = none := by
  simp [Vcp.rewritten]

theorem rewritten_words {q : Vcp} {valid : Bool} : (q.rewritten valid word val).tamper = false
    ∧ (q.rewritten valid word val).halted = (q.halted && !valid)
    ∧ (q.rewritten valid word val).w0 = (if word = 0 then val &&& 0xFFFFFFFFFFFF0000 else q.w0)
    ∧ (q.rewritten valid word val).w1 = (if word = 1 then val &&& 0x0000FFFF007F01FF else q.w1) := by
  cases valid
  · simp +contextual [Vcp.rewritten, shadowWord]
  · cases hq : q.halted <;> simp +contextual [Vcp.rewritten, shadowWord, hq]

theorem exec_featCommit (hs : (s.owner o).featState ≠ 1) (hv : val.getLsbD 0 = true) :
    exec (.featCommit o val) s = .next (s.modOwner o fun w => { w with
      featState := if w.accept &&& ~~~w.offer = 0 ∧ w.accept.getLsbD 0 = true then 1 else 2 }) := by
  have ready : ¬ (val.getLsbD 0 = false ∨ (s.owner o).featState = 1) := by
    rintro (off | running)
    · exact Bool.false_ne_true (off.symm.trans hv)
    · exact hs running
  refine (if_neg ready).trans ?_
  simp only [Bool.and_eq_true, beq_iff_eq]
  rfl

theorem exec_featCommit_ignored (h : (s.owner o).featState = 1 ∨ val.getLsbD 0 = false) : exec (.featCommit o val) s = .next s := if_pos h.symm

end Sys2Proof.Machine

open Sys2Proof Sys2Proof.Machine

/-- Settles O33: each step of a host queue, by the lemma of its constructor. -/
theorem hostQueues : Obligations.HostQueues := by
  intro s o v word id val c q
  refine ⟨exec_notify_held, exec_notify_dead, fun h hv hh h0 h1 => ?_, fun hv hr ha hw hb hf hi => ⟨fun he => ?_, fun he hz => ?_⟩,
    runCmd_badkind, runCmd_badrec, fun e he => ?_, exec_recordComplete_gone, fun x hx => ⟨exec_recordComplete_bare hx, fun hw hh => ?_,
    exec_recordComplete_written hx⟩, fun hw hv => ?_, fun hw => ?_, ⟨exec_featCommit, exec_featCommit_ignored⟩, rfl⟩
  · intro s0 prod
    rw [exec_notify h hv hh h0 h1]
    exact ⟨fun fits => if_neg (Nat.not_lt.2 fits), fun past => if_pos past⟩
  · rw [exec_vcpTakeRecord hv hr ha hw hb hf hi]
    exact if_pos (.inl he)
  · intro a r may
    rw [exec_vcpTakeRecord hv hr ha hw hb hf hi]
    refine (if_neg (not_or.2 ⟨he, hz⟩)).trans ?_
    exact congrArg _ (if_pos may)
  · rw [exec_indirect he, wbits_low]
  · rw [exec_recordComplete_new hx hw hh, State.recorded, completion_id hx]
  · subst hw
    obtain ⟨t, run, shadow⟩ := exec_shadowQcbWrite (s := s) (o := o) (v := v) ((if_pos rfl).trans hv)
    exact ⟨t, run, shadow ▸ rewritten_invalid⟩
  · have valid : (if word = 2 then val.getLsbD 0 else (s.vcp o v).valid) = (word == 2 || (s.vcp o v).valid) := by
      rcases hw with low | ⟨rfl, on⟩
      · simp [show word ≠ 2 by omega]
      · exact on
    obtain ⟨t, run, shadow⟩ := exec_shadowQcbWrite valid
    exact ⟨t, run, shadow ▸ rewritten_words⟩
end

section
/-!
PROOFS. The command records and what completes them (R50 to R52).
-/

namespace Sys2Proof.Machine

variable {s s1 : State} {c : Cmd} {pa : Nat}

section
variable (h1 : c.word 1 ≠ 0)
include h1

theorem exec_cmdCopy_bad (h : s.cmdSidesOk c = false) : exec (.cmdCopy c) s = .next (s.finishCmd c 4) :=
  (if_neg h1).trans (if_pos h)

theorem exec_cmdCopy (h : s.cmdSidesOk c = true) (hq : s.copyQueueFull (s.vcpDie c.fn c.vcp) c.owner = false) :
    ∃ t r, exec (.cmdCopy c) s = .next t ∧ t.copies = s.copies ++ [r] ∧ r.src = c.word 2 ∧ r.dst = c.word 3 ∧ r.blocks = (c.word 1).toNat / 64
      ∧ r.owner = c.owner ∧ r.level = .u ∧ r.space = s.vcpSpace c.fn c.vcp ∧ r.cmd = some c := by
  have sides : ¬ s.cmdSidesOk c = false := by simp [h]
  exact ⟨_, _, ((if_neg h1).trans (if_neg sides)).trans (if_neg (ne_true hq)), rfl, rfl, rfl, rfl, rfl, rfl, rfl, rfl⟩

end

/-! WAIT (R50). -/

/-- COND of a WAIT, in the spec's terms (R50). -/
def condHolds (c : Cmd) (w : Word) : Prop :=
  if (c.word 1).toNat % 4 = 0 then (c.word 3).toNat ≤ w.toNat else if (c.word 1).toNat % 4 = 1 then w = c.word 3 else w ≠ c.word 3

theorem condMet_iff (w : Word) : condMet (wbits (c.word 1) 1 0) w (c.word 3) = true ↔ condHolds c w := by
  rw [show wbits (c.word 1) 1 0 = (c.word 1).toNat % 4 from wbits_low _ 1, condHolds]
  unfold condMet
  split <;> rename_i h
  · rw [if_pos h]
    exact decide_eq_true_iff
  · rw [h]
    exact beq_iff_eq
  · rw [if_neg (by assumption), if_neg h]
    exact bne_iff_ne

/-- The word that a WAIT's condition is about. -/
def State.seenWord (s : State) (pa : Nat) : Word := BitVec.ofNat 64 (blockBytes (s.coherent pa).1 (pa % 64) 8)

theorem waitCheck_access (h : s.cmdWord c .read = (none, s1)) : s.waitCheck c = (.access, s1) := by simp [State.waitCheck, h]

theorem waitCheck_met (h : s.cmdWord c .read = (some pa, s1)) (hm : condHolds c (s1.seenWord pa)) : s.waitCheck c = (.met, s1) := by
  simp only [State.waitCheck, h]
  exact congrArg (·, s1) (if_pos ((condMet_iff _).2 hm))

theorem waitCheck_no (h : s.cmdWord c .read = (some pa, s1)) (hm : ¬ condHolds c (s1.seenWord pa)) : s.waitCheck c = (.no, s1) := by
  simp only [State.waitCheck, h]
  exact congrArg (·, s1) (if_neg fun met => hm ((condMet_iff _).1 met))

theorem exec_wait : exec (.wait c) s = match s.waitCheck c with
    | (.access, s1) => .next (s1.finishCmd c 4)
    | (.met, s1) => .next (s1.finishCmd c 0)
    | (.no, s1) => .next (s1.modVcp c.fn c.vcp fun q => { q with wait := some c }) := rfl

theorem exec_waitMet (hw : (s.vcp c.fn c.vcp).wait = some c) (h : s.waitCheck c = (.met, s1)) : exec (.waitMet c) s = .next (s1.endWait c 0) := by
  show execWaitMet c s = _
  unfold execWaitMet
  rw [if_neg (not_not_intro hw), h]

theorem exec_waitTimeout (hw : (s.vcp c.fn c.vcp).wait = some c) (h6 : c.word 6 ≠ 0) (hl : (c.word 6).toNat < s.dtc.toNat) :
    exec (.waitTimeout c) s = .next (s.endWait c 6) := by
  have late : c.late s.dtc = true := by
    simp only [Cmd.late, Bool.and_eq_true, bne_iff_ne]
    exact ⟨h6, decide_eq_true hl⟩
  exact if_pos ⟨hw, late⟩

/-! SIGNAL (R50). -/

theorem exec_signal_access (h : s.cmdWord c (if c.word 1 = 1 then .atomic else .write) = (none, s1)) :
    exec (.signal c) s = .next (s1.finishCmd c 4) := by
  show execSignal c s = _
  unfold execSignal
  simp only [beq_iff_eq, h]

theorem exec_signal (h : s.cmdWord c (if c.word 1 = 1 then .atomic else .write) = (some pa, s1)) :
    let old := s1.seenWord pa
    let new : Word := if c.word 1 = 1 then old + c.word 3 else c.word 3
    let u := s.vcpUnit c.fn c.vcp
    exec (.signal c) s = .next (((s1.slotUpdate c.owner u (16 * u) pa false fun d t =>
      (mergeBytes d (placeBytes (pa % 64) new.toNat) (rangeMask (pa % 64) 8), t)).checkBlock pa).finishCmd c 0) := by
  show execSignal c s = _
  unfold execSignal
  simp only [beq_iff_eq, h]
  rfl

/-! WSOPEN (R50). -/

theorem exec_wsopenComplete (ho : ((s.vcp c.fn c.vcp).out.any fun e => e.cmd == c) = true) (hr : (c.dies.any fun d => s.runsOn c.owner d) = false) :
    exec (.wsopenComplete c) s = .next ((c.dies.foldl (fun s d => s.modPorter d fun p => { p with
      windowOpen := addNew p.windowOpen c.owner }) s).finishCmd c 0) := by
  have out : ¬ (!((s.vcp c.fn c.vcp).out.any fun e => e.cmd == c)) = true := by rw [ho]; exact Bool.false_ne_true
  exact (if_neg out).trans (if_neg (ne_true hr))

end Sys2Proof.Machine

open Sys2Proof Sys2Proof.Machine

/-- Settles O34: each command record, by the lemma of its constructor. -/
theorem hostCommands : Obligations.HostCommands := by
  intro s c q die u
  refine ⟨rfl, fun h1 => if_pos h1, exec_cmdCopy_bad, exec_cmdCopy, fun s1 h => ?_, fun pa s1 h => ⟨fun met => ⟨?_, fun hw => ?_⟩, fun met => ?_⟩,
    exec_waitTimeout, fun _ => ⟨fun s1 h => exec_signal_access h, fun pa s1 h => exec_signal h⟩, rfl, exec_wsopenComplete, rfl⟩
  · rw [exec_wait, waitCheck_access h]
  · rw [exec_wait, waitCheck_met h met]
  · exact exec_waitMet hw (waitCheck_met h met)
  · rw [exec_wait, waitCheck_no h met]
end

section
/-!
PROOFS. Host accesses to device memory and registers (R36 to R41, R47, R58 to R61).
-/

namespace Sys2Proof.Machine

variable {s s1 : State} {a : HostAccess} {o off fn bar x pa v : Nat} {val : Word}

theorem memoryOffset_outside (hm : s.memoryOffset a = some x)
    (h : (s.owner a.owner).active.en = false ∨ s.functions.getLsbD a.owner = false ∨ s.window a.owner < x + a.size) : s.hostTarget a = (none, s) := by
  have outside : (s.owner a.owner).active.en = false ∨ s.functions.getLsbD a.owner = false ∨ s.recovery = true ∨ s.window a.owner < x + a.size := by
    rcases h with off | unreached | far
    · exact .inl off
    · exact .inr (.inl unreached)
    · exact .inr (.inr (.inr far))
  unfold State.hostTarget
  rw [hm]
  exact if_pos outside

section
variable (hl : s.link 20 = .up) (hs : s.stopped = false)
include hl hs

theorem exec_hostBar2Access : exec (.hostBar2Access a) s = match s.registerArea a.owner a.bar a.offset with
    | some (bar, x) => .next (s.hostRegister a bar x)
    | none =>
      match s.hostTarget a with
      | (none, s1) => .next { s1.report (.badHostAccess a.owner a.offset) with hostAnswer := none }
      | (some pa, s1) =>
        if a.write then
          .next ((s1.slotUpdate a.owner hostUnit (16 * hostUnit) pa false fun d t =>
            (mergeBytes d (placeBytes (pa % 64) a.data.toNat) (rangeMask (pa % 64) a.size), t)).checkBlock pa)
        else
          let v := w64 (blockBytes (s1.coherent pa).1 (pa % 64) a.size)
          .next { s1.slotTouch a.owner hostUnit (16 * hostUnit) pa false false with hostAnswer := some v } := by
  have held : ¬ s.link 20 = .retraining := by rw [hl]; decide
  have dead : ¬ (s.link 20 = .fenced ∨ s.stopped = true) := by rw [hl, hs]; decide
  exact (if_neg held).trans (if_neg dead)

theorem exec_hostBar2Access_bad (hr : s.registerArea a.owner a.bar a.offset = none) (ht : s.hostTarget a = (none, s1)) :
    exec (.hostBar2Access a) s = .next { s1.report (.badHostAccess a.owner a.offset) with hostAnswer := none } := by
  rw [exec_hostBar2Access hl hs, hr, ht]

theorem exec_hostBar2Access_memory (hr : s.registerArea a.owner a.bar a.offset = none) (ht : s.hostTarget a = (some pa, s1)) :
    exec (.hostBar2Access a) s = if a.write then
        .next ((s1.slotUpdate a.owner hostUnit (16 * hostUnit) pa false fun d t =>
          (mergeBytes d (placeBytes (pa % 64) a.data.toNat) (rangeMask (pa % 64) a.size), t)).checkBlock pa)
      else .next { s1.slotTouch a.owner hostUnit (16 * hostUnit) pa false false with
        hostAnswer := some (w64 (blockBytes (s1.coherent pa).1 (pa % 64) a.size)) } := by
  rw [exec_hostBar2Access hl hs, hr, ht]

theorem exec_hostBar2Access_register (hr : s.registerArea a.owner a.bar a.offset = some (bar, x)) (hw : a.write = false) :
    exec (.hostBar2Access a) s = .next { s with
      hostAnswer := some (w64 ((s.barWord a.owner bar (x - x % 8)).toNat / 2 ^ (8 * (x % 8)) % 2 ^ (8 * a.size))) } := by
  rw [exec_hostBar2Access hl hs, hr]
  exact congrArg _ (if_neg (ne_true hw))

theorem exec_registerWrite (hb : bar < 6) (hr : s.registerArea fn bar off = some (bar, off)) :
    exec (.registerWrite fn bar off val) s = .next (s.registerWritten fn bar off val) := by
  have held : ¬ s.link 20 = .retraining := by rw [hl]; decide
  have dead : ¬ (s.link 20 = .fenced ∨ s.stopped = true) := by rw [hl, hs]; decide
  refine (((if_neg held).trans (if_neg dead)).trans (if_neg (Nat.not_le.2 hb))).trans ?_
  rw [hr]

variable (hrec : s.recovery = false)
include hrec

theorem exec_registerWrite_step {i : Instr} (hb : bar < 6) (hr : s.registerArea fn bar off = some (bar, off)) (hi : registerStep fn bar off val = some i) :
    exec (.registerWrite fn bar off val) s = .next (s.post [i]) := by
  rw [exec_registerWrite hl hs hb hr, State.registerWritten, if_neg (ne_true hrec), hi]

theorem exec_registerWrite_put (hb : bar < 6) (hr : s.registerArea fn bar off = some (bar, off)) (hi : registerStep fn bar off val = none) :
    exec (.registerWrite fn bar off val) s = .next (s.registerPut fn bar off val) := by
  rw [exec_registerWrite hl hs hb hr, State.registerWritten, if_neg (ne_true hrec), hi]

end

/-! Where a register lies, and its step (R36, R39, R41, R47, R58, R61). -/

theorem registerArea_bar0 (hrec : s.recovery = false) (hm : s.mld = false) (hf : s.functions.getLsbD fn = true) (ho : off < 0x800000) :
    s.registerArea fn 0 off = some (0, off) := by
  have reached : ¬ (s.recovery = true ∨ s.functions.getLsbD fn = false) := by
    rintro (r | f)
    · exact Bool.false_ne_true (hrec.symm.trans r)
    · exact Bool.false_ne_true (f.symm.trans hf)
  unfold State.registerArea
  rw [if_neg (by decide), if_neg reached, if_neg (ne_true hm), if_pos ⟨rfl, ho⟩]

theorem registerArea_bar4 (ho : off < 0x100000) : s.registerArea 0 4 off = some (4, off) := by
  unfold State.registerArea
  rw [if_pos rfl, if_pos ⟨ho, .inl rfl⟩]

theorem registerStep_notify (hv : v < 64) : registerStep fn 0 (65536 * v) val = some (.notify fn v) := by
  unfold registerStep
  rw [if_pos rfl, if_pos (by omega), if_pos (by omega), show 65536 * v / 65536 = v by omega]

theorem registerStep_shadow {word : Nat} (ho : o < 16) (hv : v < 64) (hw : word < 3) :
    registerStep fn 4 (0x40000 + 64 * (64 * o + v) + 8 * word) val = some (.shadowQcbWrite o v word val) := by
  unfold registerStep
  rw [if_neg (by decide), if_pos rfl, if_neg (by omega), if_pos (by omega)]
  have entry : (0x40000 + 64 * (64 * o + v) + 8 * word - 0x40000) / 64 = 64 * o + v := by omega
  have word : (0x40000 + 64 * (64 * o + v) + 8 * word) % 64 / 8 = word := by omega
  simp only [entry, word]
  rw [show (64 * o + v) / 64 = o by omega, show (64 * o + v) % 64 = v by omega]

theorem registerStep_layout : registerStep fn 4 0x30008 val = match val.toNat % 4 with
    | 1 => some .layoutCommit
    | 2 => some .layoutDiscard
    | _ => none := by
  rw [show val.toNat % 4 = wbits val 1 0 from (wbits_low val 1).symm]
  rfl

theorem registerStep_staged (ho : o < 16) (hf : off < 256) : registerStep fn 4 (0x10000 + 256 * o + off) val = none := by
  unfold registerStep
  rw [if_neg (by decide), if_pos rfl, if_neg (by omega), if_neg (by omega)]

theorem registerPut_staged (ho : o < 16) (hf : off < 256) : s.registerPut fn 4 (0x10000 + 256 * o + off) val =
    s.stage fun s => s.modOwner o fun w => { w with staged := w.staged.put o (off / 8 * 8) val } := by
  unfold State.registerPut
  rw [if_neg (by simp), if_pos (by omega)]
  simp only [show (0x10000 + 256 * o + off - 0x10000) / 256 = o by omega, show (0x10000 + 256 * o + off) % 256 = off by omega]

theorem registerPut_accept : s.registerPut fn 0 0x400010 val = if (s.owner fn).featState = 1 then s else s.modOwner fn fun w => { w with
    accept := (w.accept &&& ~~~(BitVec.ofNat 128 (2 ^ 64 - 1))) ||| val.setWidth 128 } := by
  have same : BitVec.ofNat 128 (2 ^ (64 * ((0x400010 - 0x400010) / 8)) * val.toNat) = val.setWidth 128 := by
    apply BitVec.eq_of_toNat_eq
    simp
  unfold State.registerPut
  rw [if_pos ⟨rfl, .inl rfl⟩]
  simp only [same] <;> rfl

theorem barWord_notify (hv : v < 64) : s.barWord o 0 (65536 * v) = if (s.vcp o v).valid then (s.vcp o v).status else 0 := by
  have page : 65536 * v / 65536 = v := by omega
  have start : 65536 * v % 65536 = 0 := by omega
  unfold State.barWord State.bar0Word
  rw [if_pos rfl, if_pos (by omega)]
  simp only [page, start, true_and]

end Sys2Proof.Machine

open Sys2Proof Sys2Proof.Machine

/-- Settles O35: accesses to memory and registers, each by the region it reaches. -/
theorem hostAccesses : Obligations.HostAccesses := by
  intro s a o off val hl hs
  refine ⟨fun x hr hm h => exec_hostBar2Access_bad hl hs hr (memoryOffset_outside hm h), fun pa s1 hr ht => ?_,
    fun bar x hr hw => exec_hostBar2Access_register hl hs hr hw, fun v hv => barWord_notify hv, fun hrec hm hf => ?_, fun hrec => ?_⟩
  · rw [exec_hostBar2Access_memory hl hs hr ht]
    exact ⟨fun hw => if_pos hw, fun hw => if_neg (ne_true hw)⟩
  · have area {off : Nat} (ho : off < 0x800000) := registerArea_bar0 hrec hm hf ho
    refine ⟨fun v hv => ?_, ?_, fun hc => ?_, fun hc => ?_⟩
    · exact exec_registerWrite_step hl hs hrec (by decide) (area (by omega)) (registerStep_notify hv)
    · exact exec_registerWrite_step hl hs hrec (by decide) (area (by decide)) rfl
    · rw [exec_registerWrite_put hl hs hrec (by decide) (area (by decide)) rfl, registerPut_accept, if_neg hc]
    · rw [exec_registerWrite_put hl hs hrec (by decide) (area (by decide)) rfl, registerPut_accept, if_pos hc]
  · refine ⟨fun hv => ?_, fun hv => ?_, fun v word ho hv hw => ?_, fun ho hf => ⟨fun hz => ?_, fun hz => ?_⟩⟩
    · exact exec_registerWrite_step hl hs hrec (by decide) (registerArea_bar4 (by decide)) (registerStep_layout.trans (by rw [hv]; rfl))
    · exact exec_registerWrite_step hl hs hrec (by decide) (registerArea_bar4 (by decide)) (registerStep_layout.trans (by rw [hv]; rfl))
    · exact exec_registerWrite_step hl hs hrec (by decide) (registerArea_bar4 (by omega)) (registerStep_shadow ho hv hw)
    · rw [exec_registerWrite_put hl hs hrec (by decide) (registerArea_bar4 (by omega)) (registerStep_staged ho hf), registerPut_staged ho hf]
      exact congrArg _ (if_pos hz)
    · rw [exec_registerWrite_put hl hs hrec (by decide) (registerArea_bar4 (by omega)) (registerStep_staged ho hf), registerPut_staged ho hf]
      exact congrArg _ (if_neg hz)
end

section
/-!
PROOFS. Layout commits, sweeps, swaps and pool slices (R60 to R70).
-/

namespace Sys2Proof.Machine

variable {s t : State} {p n o m c : Nat}

/-! Owners and pools changed one after the other. -/

theorem owner_modOwner (s : State) (n : Nat) (f : Owner → Owner) : (s.modOwner n f).owner n = f (s.owner n) := by
  simp [State.owner, State.modOwner, tget_tset_same]

theorem owner_modOwner_other (s : State) {n m : Nat} (f : Owner → Owner) (h : m ≠ n) : (s.modOwner n f).owner m = s.owner m := by
  simp [State.owner, State.modOwner, tget_tset_other _ _ _ _ h]

theorem pool_modPool (s : State) (n : Nat) (f : Pool → Pool) : (s.modPool n f).pool n = f (s.pool n) := by
  simp [State.pool, State.modPool, tget_tset_same]

theorem pool_modPool_other (s : State) {n m : Nat} (f : Pool → Pool) (h : m ≠ n) : (s.modPool n f).pool m = s.pool m := by
  simp [State.pool, State.modPool, tget_tset_other _ _ _ _ h]

/-- The staged record of an owner is its active one again (R61). -/
def State.restage (s : State) (l : List Nat) : State := l.foldl (fun (s : State) o => s.modOwner o fun w => { w with staged := w.active }) s

theorem restage_owner (l : List Nat) : ∃ owners, s.restage l = { s with owners := owners }
    ∧ ∀ o, ((s.restage l).owner o).active = (s.owner o).active
      ∧ (o ∈ l ∨ (s.owner o).staged = (s.owner o).active → ((s.restage l).owner o).staged = (s.owner o).active) := by
  induction l generalizing s with
  | nil => exact ⟨_, rfl, fun o => ⟨rfl, fun h => h.resolve_left (List.not_mem_nil)⟩⟩
  | cons a l ih =>
    obtain ⟨owners, rest, each⟩ := ih (s := s.modOwner a fun w => { w with staged := w.active })
    refine ⟨owners, rest, fun o => ?_⟩
    obtain ⟨active, staged⟩ := each o
    by_cases h : o = a
    · subst h
      rw [owner_modOwner] at active staged
      exact ⟨active, fun _ => staged (.inr rfl)⟩
    · rw [owner_modOwner_other _ _ h] at active staged
      exact ⟨active, fun hm => staged (hm.imp_left fun mem => (List.mem_cons.1 mem).resolve_left h)⟩

/-- The staged slice length of a pool is its active one again (R61). -/
def State.restagePools (s : State) (l : List Nat) : State := l.foldl (fun (s : State) p => s.modPool p fun q => { q with staged := q.active }) s

theorem restagePools_pool (l : List Nat) : ∃ pools, s.restagePools l = { s with pools := pools }
    ∧ ∀ i, i ∈ l ∨ (s.pool i).staged = (s.pool i).active → ((s.restagePools l).pool i).staged = (s.pool i).active := by
  induction l generalizing s with
  | nil => exact ⟨_, rfl, fun i h => h.resolve_left (List.not_mem_nil)⟩
  | cons a l ih =>
    obtain ⟨pools, rest, each⟩ := ih (s := s.modPool a fun q => { q with staged := q.active })
    refine ⟨pools, rest, fun i hm => ?_⟩
    have staged := each i
    by_cases h : i = a
    · subst h
      rw [pool_modPool] at staged
      exact staged (.inr rfl)
    · rw [pool_modPool_other _ _ h] at staged
      exact staged (hm.imp_left fun mem => (List.mem_cons.1 mem).resolve_left h)

/-! Commit and discard (R61 to R65). -/

theorem exec_layoutCommit_busy (h : s.layout.state ≠ 0) :
    exec .layoutCommit s = .next { s with layout := { s.layout with err := 8, eowner := 0 } } := if_pos h

theorem exec_layoutDiscard_busy (h : s.layout.state ≠ 0) : exec .layoutDiscard s = .next s := if_pos h

theorem exec_layoutCommit_refused (h : s.layout.state = 0) (hc : s.layoutCheck = some (c, o)) : exec .layoutCommit s =
    .next { s with layout := { s.layout with err := BitVec.ofNat 8 c, eowner := BitVec.ofNat 4 o, stagelock := false } } := by
  refine (if_neg (not_not_intro h)).trans ?_
  rw [hc]

/-- A commit that has passed its checks (R64). -/
def State.commitChecked (s : State) (hit : List Nat) : State :=
  { s with layout := { s.layout with state := 1, err := 0, eowner := 0, stagelock := false, affected := hit } }

theorem exec_layoutCommit (h : s.layout.state = 0) (hc : s.layoutCheck = none) :
    exec .layoutCommit s = .next (s.commitChecked ((upTo 16).filter fun o => (s.stagedRec o).affects (s.owner o).active)).checkPassed := by
  refine (if_neg (not_not_intro h)).trans ?_
  rw [hc]
  rfl

theorem checkPassed_commitChecked (hit : List Nat) : (s.commitChecked hit).checkPassed = if s.poolSwitching then s.commitChecked hit else (s.commitChecked hit).quiesce := by
  have same : (s.commitChecked hit).poolSwitching = s.poolSwitching := rfl
  cases hs : s.poolSwitching
  · exact if_pos ⟨rfl, same.trans hs⟩
  · exact if_neg fun both => Bool.false_ne_true (both.2.symm.trans (same.trans hs))

theorem exec_layoutDiscard (h : s.layout.state = 0) : ∃ t, exec .layoutDiscard s = .next t ∧ (∀ o, o < 16 → (t.owner o).staged = (s.owner o).active)
    ∧ (∀ i, i < 4 → (t.pool i).staged = (s.pool i).active) ∧ t.layout = s.layout := by
  have run : exec .layoutDiscard s = .next ((s.restage (upTo 16)).restagePools (upTo 4)) := if_neg (not_not_intro h)
  obtain ⟨owners, hs1, each⟩ := restage_owner (s := s) (upTo 16)
  obtain ⟨pools, hs2, pool⟩ := restagePools_pool (s := s.restage (upTo 16)) (upTo 4)
  refine ⟨_, run, ?_⟩
  generalize s.restage (upTo 16) = s1 at hs1 each hs2 pool
  refine ⟨fun o ho => ?_, fun i hi => ?_, ?_⟩
  · rw [hs2]
    exact (each o).2 (.inl (List.mem_range.2 ho))
  · rw [pool i (.inl (List.mem_range.2 hi)), hs1]
    rfl
  · rw [hs2, hs1]

/-! Quiesce, sweep and swap (R65, R66). -/

theorem exec_layoutQuiesceDone_early (h : s.layout.state ≠ 2) : exec .layoutQuiesceDone s = .next s := if_pos h

theorem exec_layoutQuiesceDone (h : s.layout.state = 2) (hc : s.cupboardLeft = none) : exec .layoutQuiesceDone s = if s.quiesced = false then .next s
    else .next (({ s with layout := { s.layout with state := 3 } } : State).layoutSweep.clearLost.post [.layoutSweepDone]) := by
  refine (if_neg (not_not_intro h)).trans ?_
  rw [hc]

theorem exec_layoutQuiesceDone_left (h : s.layout.state = 2) (hc : s.cupboardLeft = some o) : exec .layoutQuiesceDone s =
    .next (({ s with layout := { s.layout with state := 0, err := 7, eowner := BitVec.ofNat 4 o, affected := [] } } : State).resumeOwners
      s.layout.affected) := by
  refine (if_neg (not_not_intro h)).trans ?_
  rw [hc]

theorem exec_layoutSweepDone (h : s.layout.state = 3) (hw : (s.layout.affected.any fun o => s.slices.any fun e => s.sweepWrites e.1 o) = false)
    (hc : (s.coresLost.any fun c => !(s.coreCleared c)) = false) :
    exec .layoutSweepDone s = .next { s with layout := { s.layout with state := 4, swapAt := s.dtc + 2400 } } := by
  refine (if_neg (not_not_intro h)).trans (if_neg ?_)
  rw [hw, hc]
  exact Bool.false_ne_true

/-- What the adoption of records changes beside the owners themselves: the streams of those that are disabled (R66, R106). -/
theorem adopt_foldl (l : List (Nat × OwnerRec)) : ∃ owners streams,
    l.foldl (fun (s : State) e => s.adopt e.1 e.2) s = { s with owners := owners, streams := streams } := by
  induction l generalizing s with
  | nil => exact ⟨_, _, rfl⟩
  | cons e l ih =>
    obtain ⟨owners, streams, rest⟩ := ih (s := s.adopt e.1 e.2)
    refine ⟨owners, streams, rest.trans ?_⟩
    unfold State.adopt
    simp only
    split <;> rfl

theorem adopt_active (r : OwnerRec) : ((s.adopt o r).owner o).active = r ∧ ∀ m, m ≠ o → (s.adopt o r).owner m = s.owner m := by
  unfold State.adopt
  simp only
  refine ⟨by rw [owner_modOwner], fun m hm => ?_⟩
  rw [owner_modOwner_other _ _ hm]
  split <;> rfl

/-- Each of the owners has the record that it adopts. -/
theorem adopt_foldl_active (r : Nat → OwnerRec) (l : List Nat) (h : o ∈ l ∨ (s.owner o).active = r o) :
    (((l.map fun o => (o, r o)).foldl (fun (s : State) e => s.adopt e.1 e.2) s).owner o).active = r o := by
  induction l generalizing s with
  | nil => exact h.resolve_left List.not_mem_nil
  | cons a l ih =>
    obtain ⟨own, others⟩ := adopt_active (s := s) (o := a) (r a)
    refine ih (s := s.adopt a (r a)) ?_
    by_cases ho : o = a
    · exact .inr (by rw [ho, own])
    · rw [others o ho]
      exact h.imp_left fun mem => (List.mem_cons.1 mem).resolve_left ho

theorem trafficMoved_touchAll : s.TrafficMoved s.touchAll :=
  trafficMoved_foldl (fun _ _ => trafficMoved_foldl (fun _ _ => trafficMoved_touch) _) _

theorem foldl_modPool (f : State → Nat → Pool → Pool) (l : List Nat) :
    ∃ pools, l.foldl (fun (s : State) p => s.modPool p (f s p)) s = { s with pools := pools } := by
  induction l generalizing s with
  | nil => exact ⟨_, rfl⟩
  | cons p l ih => exact (ih (s := s.modPool p (f s p))).imp fun _ h => h

theorem adoptPools_rest : ∃ pools, s.adoptPools = { s with pools := pools } := foldl_modPool _ _

theorem resumeOwners_rest (l : List Nat) : ∃ ctxs agenda, s.resumeOwners l = { s with ctxs := ctxs, agenda := agenda } := ⟨_, _, rfl⟩

theorem exec_layoutSwap_early (h : s.layout.state ≠ 4 ∨ s.dtc ≠ s.layout.swapAt) : exec .layoutSwap s = .next s := if_pos h

theorem exec_layoutSwap (h : s.layout.state = 4) (hd : s.dtc = s.layout.swapAt) (hc : s.cores = []) : ∃ t, exec .layoutSwap s = .next t
    ∧ t.layout.state = 0 ∧ t.layout.lver = s.layout.lver + 1 ∧ t.layout.ltick = s.dtc ∧ t.layout.affected = []
    ∧ ∀ o, o < 16 → (t.owner o).active = s.stagedRec o := by
  have due : ¬ (s.layout.state ≠ 4 ∨ s.dtc ≠ s.layout.swapAt) := by simp [h, hd]
  refine ⟨_, if_neg due, ?_⟩
  generalize hs1 : ((upTo 16).map fun o => (o, s.stagedRec o)).foldl (fun (s : State) e => s.adopt e.1 e.2) s.touchAll = s1
  have active (o : Nat) (ho : o < 16) : (s1.owner o).active = s.stagedRec o := by
    rw [← hs1]
    exact adopt_foldl_active s.stagedRec (upTo 16) (.inl (List.mem_range.2 ho))
  obtain ⟨owners, streams, adopted⟩ := adopt_foldl (s := s.touchAll) ((upTo 16).map fun o => (o, s.stagedRec o))
  rw [hs1, trafficMoved_touchAll (s := s)] at adopted
  have cores : s1.cores = [] := by rw [adopted]; exact hc
  have layout : s1.layout = s.layout := by rw [adopted]
  obtain ⟨pools, pooled⟩ := adoptPools_rest (s := s1)
  simp only [pooled, cores, List.map_nil, List.foldl_nil]
  refine ⟨rfl, ?_, rfl, rfl, active⟩
  rw [← layout]
  rfl

/-! Slices of pools (R68 to R70). -/

section
variable (hs : (s.pool p).switching = none) (hl : s.layout.state.toNat = 0 ∨ 4 ≤ s.layout.state.toNat)
include hs hl

theorem slice_open : ¬ ((s.pool p).switching.isSome = true ∨ (1 ≤ s.layout.state.toNat ∧ s.layout.state.toNat ≤ 3)) := by
  rw [hs]
  simp only [Option.isSome_none, Bool.false_eq_true, false_or]
  omega

theorem exec_poolSliceEnd_idle (hc : (s.pool p).current = none) (hn : s.poolNext p none = some m) :
    exec (.poolSliceEnd p) s = .next ((s.modPool p fun q => { q with switching := some m }).post [.poolSwitchDone p]) := by
  refine (if_neg (slice_open hs hl)).trans ?_
  simp only [hc, hn]

variable (hc : (s.pool p).current = some o)
include hc

theorem exec_poolSliceEnd_early (hd : (s.dtc - (s.pool p).start).toNat < (s.pool p).active.toNat) : exec (.poolSliceEnd p) s = .next s := by
  refine (if_neg (slice_open hs hl)).trans ?_
  simp only [hc, if_pos hd]

theorem exec_poolSliceEnd_renewed (hd : (s.pool p).active.toNat ≤ (s.dtc - (s.pool p).start).toNat) (hn : s.poolNext p (some o) = none) :
    exec (.poolSliceEnd p) s = .next (s.modPool p fun q => { q with start := s.dtc }) := by
  refine (if_neg (slice_open hs hl)).trans ?_
  simp only [hc, if_neg (Nat.not_lt.2 hd), hn]

theorem exec_poolSliceEnd (hd : (s.pool p).active.toNat ≤ (s.dtc - (s.pool p).start).toNat) (hn : s.poolNext p (some o) = some m) :
    let out := (s.runningCtxs o).filter fun n => (s.owner o).active.coreList.contains (coreOf n)
    exec (.poolSliceEnd p) s =
      .next ((out.foldl (fun s n => s.sliceOut n) (s.modPool p fun q => { q with switching := some m })).post [.poolSwitchDone p]) := by
  refine (if_neg (slice_open hs hl)).trans ?_
  simp only [hc, if_neg (Nat.not_lt.2 hd), hn]

end

theorem exec_poolSwitchDone_none (h : (s.pool p).switching = none) : exec (.poolSwitchDone p) s = .next s := by
  show execPoolSwitchDone p s = _
  simp only [execPoolSwitchDone, h]

theorem exec_poolSwitchDone_free (h : (s.pool p).switching = some m) (hc : (s.pool p).current = none) :
    exec (.poolSwitchDone p) s = .next (s.poolIn p m) := by
  show execPoolSwitchDone p s = _
  simp only [execPoolSwitchDone, h, hc]

theorem exec_poolSwitchDone (h : (s.pool p).switching = some m) (hc : (s.pool p).current = some o) (hf : s.poolFree o = true)
    (hcl : ((s.owner o).active.coreList.any fun c => !((s.clearPool o).coreCleared c)) = false) : exec (.poolSwitchDone p) s =
      .next (((s.owner o).active.coreList.zipIdx.foldl (fun (s : State) (c : Nat × Nat) => s.coreOut o c.1 c.2) (s.clearPool o)).poolIn p m) := by
  have free : ¬ s.poolFree o = false := by simp [hf]
  show execPoolSwitchDone p s = _
  simp only [execPoolSwitchDone, h, hc, if_neg free, if_neg (ne_true hcl)]

/-- A member without cores comes in at once (R68). -/
theorem poolIn_coreless (h : (s.owner m).active.coreList = []) (hl : s.layout.state ≠ 1) :
    ((s.poolIn p m).pool p).current = some m ∧ ((s.poolIn p m).pool p).switching = none ∧ ((s.poolIn p m).pool p).start = s.dtc := by
  have cores : ((s.modPool p fun q => { q with current := some m, switching := none, start := s.dtc }).owner m).active.coreList = [] := h
  have unchecked (l : List Instr) : ((s.modPool p fun q => { q with current := some m, switching := none, start := s.dtc }).post l).checkPassed =
      (s.modPool p fun q => { q with current := some m, switching := none, start := s.dtc }).post l := if_neg fun both => hl both.1
  have came : (s.poolIn p m).pool p = { s.pool p with current := some m, switching := none, start := s.dtc } := by
    simp only [State.poolIn, cores, List.zipIdx_nil, List.foldl_nil, unchecked]
    exact pool_modPool s p fun q => { q with current := some m, switching := none, start := s.dtc }
  rw [came]
  exact ⟨rfl, rfl, rfl⟩

theorem exec_sliceendForceSave_early {x : Word} (h : (s.ctx n).sliceSince = some x) (hd : (s.dtc - x).toNat < 100000) :
    exec (.sliceendForceSave n) s = .next s := by
  show execSliceendForceSave n s = _
  simp only [execSliceendForceSave, h, if_pos hd]

theorem exec_sliceendForceSave {x : Word} (h : (s.ctx n).sliceSince = some x) (hd : 100000 ≤ (s.dtc - x).toNat)
    (hst : (s.ctx n).state = .live ∨ ((∃ w, (s.ctx n).state = .blocked w) ∧ (s.ctx n).state.savable = true)) :
    exec (.sliceendForceSave n) s = .next (s.fullSave n) := by
  show execSliceendForceSave n s = _
  simp only [execSliceendForceSave, h, if_neg (Nat.not_lt.2 hd)]
  rcases hst with live | ⟨⟨w, blocked⟩, savable⟩
  · rw [live]
  · rw [blocked] at savable ⊢
    exact congrArg _ (if_pos savable)

end Sys2Proof.Machine

open Sys2Proof Sys2Proof.Machine

/-- Settles O36: each step of a commit and of a pool's slices. -/
theorem layoutEvents : Obligations.LayoutEvents := by
  intro s p ctx
  refine ⟨fun h => ⟨exec_layoutCommit_busy h, exec_layoutDiscard_busy h⟩, fun c o => exec_layoutCommit_refused, fun h hc => ?_, exec_layoutDiscard,
    exec_layoutQuiesceDone_early, fun h hc => ?_, fun o => exec_layoutQuiesceDone_left, exec_layoutSweepDone, exec_layoutSwap_early, exec_layoutSwap,
    ?_, exec_poolSwitchDone_none, fun m h hc => ⟨exec_poolSwitchDone_free h hc, fun hm hl => ⟨_, exec_poolSwitchDone_free h hc, poolIn_coreless hm hl⟩⟩,
    fun m o => exec_poolSwitchDone, fun t ht => ⟨exec_sliceendForceSave_early ht, exec_sliceendForceSave ht⟩⟩
  · intro hit t
    refine ⟨?_, fun hh hsw => ?_⟩
    · rw [exec_layoutCommit h hc, checkPassed_commitChecked]
      rfl
    · rw [exec_layoutCommit h hc, checkPassed_commitChecked, if_neg (ne_true hsw), show (upTo 16).filter _ = [] from hh]
      rfl
  · rw [exec_layoutQuiesceDone h hc]
    exact ⟨fun hq => if_pos hq, fun hq => if_neg (by simp [hq])⟩
  · intro q hs hl
    exact ⟨fun o hc hd => exec_poolSliceEnd_early hs hl hc hd, fun o hc hd hn => exec_poolSliceEnd_renewed hs hl hc hd hn,
      fun o m hc hd hn => exec_poolSliceEnd hs hl hc hd hn, fun m hc hn => exec_poolSliceEnd_idle hs hl hc hn⟩
end

section
/-!
PROOFS. Launches at their Porters (R71 to R75, R85 to R87, R101 to R103).
-/

namespace Sys2Proof.Machine

variable {s s1 : State} {id die o co c n d : Nat} {l : Launch}

/-! The choice of a launch (R74, R86). -/

theorem exec_porterSelect (hr : s.reserving die = none) (hi : s.instantiating die = false) (hc : s.choose die = (some l, s1))
    (ha : ((s.foreignAsks die).any fun f => f.outranks l) = false) :
    exec (.porterSelect die) s = if l.preempted then .next ((s1.restoreLaunch l).post [.porterSelect die]) else .next (s1.reserve l) := by
  show execPorterSelect die s = _
  simp only [execPorterSelect, hr, if_neg (ne_true hi), hc, if_neg (ne_true ha)]

theorem exec_porterSelect_none (hr : s.reserving die = none) (hi : s.instantiating die = false) (hc : s.choose die = (none, s1)) :
    exec (.porterSelect die) s = .next s := by
  show execPorterSelect die s = _
  simp only [execPorterSelect, hr, if_neg (ne_true hi), hc]

theorem exec_porterSelect_overtaken (hr : s.reserving die = some (l, c)) (hc : (s.porter c).commit = false) (hh : s.higherCandidate die l = true) :
    exec (.porterSelect die) s = .next (s.post [.reserveRollback c]) := by
  have overtaken : (!(s.porter c).commit && s.higherCandidate die l) = true := by rw [hc, hh]; rfl
  show execPorterSelect die s = _
  simp only [execPorterSelect, hr, if_pos overtaken]

/-! Age and deadline (R52, R72, R75). -/

section
variable (hl : tget s.launches id = some l)
include hl

theorem exec_launchAge (ha : l.ages = true) :
    exec (.launchAge id) s = .next ((s.setLaunch { l with age := (s.dtc - l.since).toNat / 240000 }).post [.porterSelect l.die]) := by
  show execLaunchAge id s = _
  simp only [execLaunchAge, hl, if_pos ha]

theorem exec_launchDeadlineExpire (h : l.late s.dtc = true) :
    exec (.launchDeadlineExpire id) s = .next ((if (s.porter l.die).busy = some id then s.porterDone l.die else s).finishLaunch l 5) := by
  show execLaunchDeadlineExpire id s = _
  simp only [execLaunchDeadlineExpire, hl, if_pos h]

theorem exec_launchDeadlineExpire_early (h : l.late s.dtc = false) : exec (.launchDeadlineExpire id) s = .next s := by
  show execLaunchDeadlineExpire id s = _
  simp only [execLaunchDeadlineExpire, hl, if_neg (ne_true h)]

theorem exec_preemptSavesDone (hs : l.state = .waiting) (hv : l.victims ≠ []) (hg : s.victimsGone l = true) :
    let back (e : Nat × Launch) : Nat × Launch :=
      if l.victims.contains e.1 ∧ e.2.state = .dispatched then (e.1, { e.2 with state := .queued, since := s.dtc - w64 e.2.waited }) else e
    exec (.preemptSavesDone id) s = .next ((({ s with launches := s.launches.map back } : State).setLaunch
      { l with victims := [] }).post [.launchRetry l.die l.owner]) := by
  have gone : ¬ (l.state ≠ .waiting ∨ l.victims = [] ∨ s.victimsGone l = false) := by simp [hs, hv, hg]
  show execPreemptSavesDone id s = _
  simp only [execPreemptSavesDone, hl, if_neg gone]

end

/-! Reservation and commit (R80, R85 to R87). -/

theorem exec_porter_free (h : (s.porter die).busy = none) :
    exec (.reserveComplete die) s = .next s ∧ exec (.reserveRollback die) s = .next s ∧ exec (.commitDone die) s = .next s := by
  have none : (s.porter die).busy.bind (tget s.launches) = none := by rw [h]; rfl
  refine ⟨?_, ?_, ?_⟩
  · show execReserveComplete die s = _
    simp only [execReserveComplete, none]
  · show execReserveRollback die s = _
    simp only [execReserveRollback, none]
  · show execCommitDone die s = _
    simp only [execCommitDone, none]

section
variable (hl : (s.porter die).busy.bind (tget s.launches) = some l)
include hl

theorem exec_reserveComplete_late (hs : l.state = .reserve) (h : l.late s.dtc = true) :
    exec (.reserveComplete die) s = .next ((s.porterDone die).finishLaunch l 5) := by
  show execReserveComplete die s = _
  simp only [execReserveComplete, hl, if_neg (not_not_intro hs), if_pos h]

theorem exec_reserveComplete_wait (hs : l.state = .reserve) (h : l.late s.dtc = false) (hb : s.buildRoot l = .wait) :
    exec (.reserveComplete die) s = .next (((s.setLaunch { l with state := .waiting }).porterDone die).preemptFor { l with state := .waiting }) := by
  show execReserveComplete die s = _
  simp only [execReserveComplete, hl, if_neg (not_not_intro hs), if_neg (ne_true h), hb]

theorem exec_reserveComplete_comb (hs : l.state = .reserve) (h : l.late s.dtc = false) (hb : s.buildRoot l = .comb n c) :
    let m : Launch := { l with fault := some ⟨Cause.combinator.code, n, c, w64 c⟩ }
    exec (.reserveComplete die) s = .next (((s.setLaunch m).porterDone die).finishLaunch m 1) := by
  show execReserveComplete die s = _
  simp only [execReserveComplete, hl, if_neg (not_not_intro hs), if_neg (ne_true h), hb]

theorem exec_reserveComplete {root : Nat} (hs : l.state = .reserve) (h : l.late s.dtc = false) (hb : s.buildRoot l = .ok s1 root) :
    ∃ t, exec (.reserveComplete die) s = .next t ∧ Instr.commitDone die ∈ t.agenda := by
  show ∃ t, execReserveComplete die s = _ ∧ _
  simp only [execReserveComplete, hl, if_neg (not_not_intro hs), if_neg (ne_true h), hb]
  exact ⟨_, rfl, by simp⟩

theorem exec_reserveRollback (hc : (s.porter die).commit = false) : exec (.reserveRollback die) s =
    .next ((((s.setLaunch { l with state := .queued }).modPorter die fun p => { p with busy := none }).freeForeign die).postLater [.porterSelect die]) := by
  show execReserveRollback die s = _
  simp only [execReserveRollback, hl, if_neg (ne_true hc)]

theorem exec_commitDone (hc : (s.porter die).commit = true) (hr : ((s.porter die).records.any fun r => r.2.launch == some l.id) = false) :
    exec (.commitDone die) s = .next ((((s.setLaunch { l with state := .dispatched }).porterDone die).endEmpty l.id).tryFinish l.id) := by
  have committed : ¬ (s.porter die).commit = false := by simp [hc]
  show execCommitDone die s = _
  simp only [execCommitDone, hl, if_neg committed, if_neg (ne_true hr)]

end

theorem exec_launchRetry
    (hl : firstLaunch (s.launches.filterMap fun e =>
      if e.2.die = die ∧ e.2.owner = o ∧ e.2.state = .waiting ∧ e.2.victims = [] ∧ s.launchHeld e.2 = false ∧ e.2.late s.dtc = false then some e.2 else none)
      = some l)
    (hf : s.restoreFirst l = false) (hr : s.reserving die = none) (hi : s.instantiating die = false)
    (ha : ((s.foreignAsks die).any fun f => f.outranks l) = false) : exec (.launchRetry die o) s = .next (s.reserve l) := by
  have ready : ¬ ((s.reserving die).isSome = true ∨ s.instantiating die = true ∨ ((s.foreignAsks die).any fun f => f.outranks l) = true) := by
    rw [hr, hi, ha]
    simp
  show execLaunchRetry die o s = _
  simp only [execLaunchRetry, hl, if_neg (ne_true hf), if_neg ready]

/-! The reservation of a device-domain root (R87). -/

theorem porter_modPorter (s : State) (n : Nat) (f : Porter → Porter) : (s.modPorter n f).porter n = f (s.porter n) := by
  simp [State.porter, State.modPorter, tget_tset_same]

/-- The next Porter that a device-domain root asks (R87). -/
def nextForeign (die co : Nat) : Option Nat := (upTo 4).find? fun d => decide (die < d) && d != co

theorem nextForeign_none (h : ∀ d, die < d → d < 4 → d = co) : nextForeign die co = none := by
  refine List.find?_eq_none.2 fun d hd => ?_
  simp only [Bool.and_eq_true, decide_eq_true_eq, bne_iff_ne, not_and, Decidable.not_not]
  exact fun hlt => h d hlt (List.mem_range.1 hd)

theorem nextForeign_some (hd : die < d) (h4 : d < 4) (hco : d ≠ co) (h : ∀ x, die < x → x < d → x = co) : nextForeign die co = some d := by
  refine List.find?_range_eq_some.2 ⟨by simp [hd, hco], List.mem_range.2 h4, fun x hx => ?_⟩
  simp only [Bool.not_eq_true', Bool.and_eq_false_imp, decide_eq_true_eq, bne_eq_false_iff_eq]
  exact fun hlt => h x hlt hx

theorem exec_foreignReserveRequest (hl : (s.porter co).busy.bind (tget s.launches) = some l) (hs : l.state = .reserve) (hr : s.reserving die = none)
    (hi : s.instantiating die = false) (ha : ((s.foreignAsks die).any fun f => f.outranks l) = false) (hh : s.higherCandidate die l = false) :
    let u := s.modPorter die fun p => { p with foreign := [co] }
    exec (.foreignReserveRequest die co) s = .next (u.post [match nextForeign die co with
      | some d => .foreignReserveRequest d co
      | none => .reserveComplete co]) := by
  have ready : ¬ (s.instantiating die = true ∨ ((s.foreignAsks die).any fun f => f.outranks l) = true ∨ s.higherCandidate die l = true) := by
    rw [hi, ha, hh]
    simp
  show execForeignReserveRequest die co s = _
  simp only [execForeignReserveRequest, hl, if_neg (not_not_intro hs), hr, if_neg ready]
  show (match nextForeign die co with
    | some d => _
    | none => _) = _
  cases nextForeign die co <;> rfl

end Sys2Proof.Machine

open Sys2Proof Sys2Proof.Machine

/-- Settles O37: each step of a Porter, by the lemma of its constructor. -/
theorem launchScheduling : Obligations.LaunchScheduling := by
  intro s id die o co space level cidx g3 g4 g5 g6 p asked
  refine ⟨fun hr hi => ⟨fun l s1 hc ha => ?_, fun s1 => exec_porterSelect_none hr hi⟩, fun l c => exec_porterSelect_overtaken, fun l => exec_launchAge,
    fun l hl => ⟨fun h hb => ?_, fun h hb => ?_, exec_launchDeadlineExpire_early hl⟩, exec_porter_free, fun l hl => ⟨exec_reserveComplete_late hl,
      fun hs h => ⟨exec_reserveComplete_wait hl hs h, fun s1 root => exec_reserveComplete hl hs h, fun n c => exec_reserveComplete_comb hl hs h⟩,
      exec_reserveRollback hl, exec_commitDone hl⟩, fun l => exec_launchRetry, fun l hl hs hr hi ha hh h4 => ?_, fun l => exec_preemptSavesDone, rfl⟩
  · rw [exec_porterSelect hr hi hc ha]
    exact ⟨fun hp => if_neg (ne_true hp), fun hp => if_pos hp⟩
  · rw [exec_launchDeadlineExpire hl h, if_neg hb]
  · rw [exec_launchDeadlineExpire hl h, if_pos hb]
  · refine ⟨_, exec_foreignReserveRequest hl hs hr hi ha hh, ?_, fun last => ?_, fun d hd h4 hco first => ?_⟩
    · show ((s.modPorter die fun p => { p with foreign := [co] }).porter die).foreign = [co]
      rw [porter_modPorter]
    · rw [nextForeign_none last]
      simp
    · rw [nextForeign_some hd h4 hco first]
      simp
end

section
/-!
PROOFS. Task records, children, continuations and diffusion (R78 to R93, R96, R97).
-/

namespace Sys2Proof.Machine

variable {s s1 : State} {core o node child n k : Nat} {r t : TaskRec} {rest : List TaskRec} {p : Node} {l : Launch} {c : Core}

/-- A context that is listed and blocked on a wait that a wake-up names goes on. -/
theorem ctx_wakeIf_listed {q : Nat → Wait → Bool} {w : Wait} (hn : (tget s.ctxs n).isSome = true) (hs : (s.ctx n).state = .blocked w) (hq : q n w = true) :
    ((s.wakeIf q).ctx n).state = .live := by
  obtain ⟨x, hx⟩ := Option.isSome_iff_exists.1 hn
  have state : x.state = .blocked w := by simpa [State.ctx, hx] using hs
  unfold State.ctx State.wakeIf
  rw [tget_map fun e => by
    split
    · split <;> rfl
    · rfl, hx]
  simp [state, hq]

theorem exec_inboxRecordArrive (h : (s.ctx (16 * core)).kernelIdle = false) : ∃ t, exec (.inboxRecordArrive core r) s = .next t
    ∧ (t.core core).inbox = (s.core core).inbox ++ [r]
    ∧ ((s.ctx (16 * core)).state = .blocked .inbox → (tget s.ctxs (16 * core)).isSome = true → (t.ctx (16 * core)).state = .live) := by
  refine ⟨_, if_neg (ne_true h), ?_, fun hs hn => ?_⟩
  · exact congrArg Core.inbox (State.core_modCore s core fun c => { c with inbox := c.inbox ++ [r] })
  · exact ctx_wakeIf_listed (w := .inbox) hn hs (by simp)

/-! Later children of a composite (R82, R89, R390). -/

theorem exec_compositeInstantiate_gone (h : tget s.nodes node = none) : exec (.compositeInstantiate node child) s = .next s := by
  show execCompositeInstantiate node child s = _
  simp only [execCompositeInstantiate, h]

section
variable (hp : tget s.nodes node = some p) (he : p.state ≠ .ended) (hl : tget s.launches p.launch = some l)
include hp he hl

theorem exec_compositeInstantiate_peer (hd : eDom p.entry = 5) :
    exec (.compositeInstantiate node child) s = .next (s.peerChild p child (s.instanceOf (some p) child)) := by
  show execCompositeInstantiate node child s = _
  simp only [execCompositeInstantiate, hp, if_neg he, hl, if_pos hd]

theorem exec_compositeInstantiate (hd : eDom p.entry ≠ 5) (hpre : l.preempted = false) (hr : s.porterReady l.die p = true)
    (hb : s.instanceBusy p.cores = false) : exec (.compositeInstantiate node child) s =
      match s.instantiate l.die l (some p) (laterChild p child) (s.childCores p) [] with
      | .ok s1 _ => .next ((s1.commitNodes l.die s.nextId).endEmpty l.id)
      | .wait => .next (s.childFails p child (p.level + 1) (laterChild p child).cidx)
      | .comb level c => .next (s.childFails p child level c) := by
  have ready : ¬ (l.preempted = true ∨ s.porterReady l.die p = false ∨ s.instanceBusy p.cores = true) := by
    rw [hpre, hr, hb]
    simp
  show execCompositeInstantiate node child s = _
  simp only [execCompositeInstantiate, hp, if_neg he, hl, if_neg hd, if_neg ready] <;> rfl

end

/-! Segments and local queues (R96, R97). -/

theorem exec_gtqSegmentTake (hs : s.segment o (clusterOf core) = t :: rest) (hc : s.contCount core o < 8) (hn : (s.core core).conts.length < 32)
    (ho : s.coreOpen core o = true) :
    let n := (s.owner o).gtqlen.toNat
    let head := (s.segmentPlace o (clusterOf core) + n - (rest.length + 1) % max 1 n) % max 1 n
    let u := s.deviceRead core t.owner t.space .s (s.segmentAddress o (clusterOf core) head)
    exec (.gtqSegmentTake core o) s = .next ((((u.setSegment o (clusterOf core) rest).modCore core fun c => { c with conts := c.conts ++ [t] }).wakeIf
      fun _ w => w == .segment).contStep core) := by
  have room : ¬ (8 ≤ s.contCount core o ∨ 32 ≤ (s.core core).conts.length ∨ s.coreOpen core o = false) := by
    simp [ho]
    omega
  show execGtqSegmentTake core o s = _
  simp only [execGtqSegmentTake, hs, if_neg room]

theorem exec_gtqSegmentTake_empty (hs : s.segment o (clusterOf core) = []) : exec (.gtqSegmentTake core o) s = .next s := by
  show execGtqSegmentTake core o s = _
  simp only [execGtqSegmentTake, hs]

theorem exec_diffusionRecordArrive (h : (s.ctx (16 * core)).kernelIdle = false) :
    exec (.diffusionRecordArrive core r) s = .next (s.modCore core fun c => { c with conts := c.conts ++ [r] }) := by
  refine congrArg Host.Outcome.next (if_neg ?_)
  exact ne_true h

/-- What the listed cores send at a tick (R97). -/
def State.sends (s : State) : List (Nat × Nat × TaskRec) :=
  s.cores.flatMap fun e => if 1024 ≤ e.1 then [] else
    (upTo 16).flatMap fun o =>
      ((e.2.conts.filter fun t => t.owner == o).zip (s.diffuse e.1 o)).map fun (t, m) => (e.1, m, t)

/-- A record that is sent is no longer in its core's queue (R97). -/
def State.taken (s : State) (x : Nat × Nat × TaskRec) : State :=
  s.modCore x.1 fun c => { c with conts := dropFirst (fun t => t == x.2.2) c.conts }

theorem exec_diffusionTick : exec .diffusionTick s =
    .next ((s.sends.foldl State.taken s).post (s.sends.map fun x => Instr.diffusionRecordArrive x.2.1 x.2.2)) := rfl

theorem foldl_taken_agenda (l : List (Nat × Nat × TaskRec)) : (l.foldl State.taken s).agenda = s.agenda := by
  induction l generalizing s with
  | nil => rfl
  | cons x l ih => exact ih

theorem core_single (hs : s.cores = [(core, c)]) : s.core core = c := by simp [State.core, hs, tget]

/-- A core with one record alone sends nothing. -/
theorem diffuse_single (hs : s.cores = [(core, c)]) (hc : c.conts = [t]) : s.diffuse core o = [] := by
  have few : s.contCount core o ≤ 1 := by
    rw [State.contCount, core_single hs, hc]
    exact List.countP_le_length
  refine List.flatMap_eq_nil_iff.2 fun m _ => ?_
  have none : (s.contCount core o - s.contCount m o) / 5 = 0 := by omega
  rw [none]
  exact ite_self _

theorem exec_diffusionTick_single (hs : s.cores = [(core, c)]) (hc : c.conts = [t]) : exec .diffusionTick s = .next s := by
  have none : s.sends = [] := by
    simp [State.sends, hs, diffuse_single hs hc]
  rw [exec_diffusionTick, none]
  simp [State.post]

/-- The first record of an owner goes to the first neighbour that holds five fewer. -/
theorem mem_sends {m : Nat} {ms : List Nat} (hs : s.cores = [(core, c)]) (h1024 : core < 1024) (ho : o < 16) (hc : c.conts = t :: rest) (ht : t.owner = o)
    (hn : neighbours core = m :: ms) (hm : (s.owner o).active.cores.getLsbD m = true) (h5 : 5 ≤ s.contCount core o - s.contCount m o) :
    (core, m, t) ∈ s.sends := by
  obtain ⟨k, some⟩ : ∃ k, (s.contCount core o - s.contCount m o) / 5 = k + 1 := ⟨(s.contCount core o - s.contCount m o) / 5 - 1, by omega⟩
  have first : s.diffuse core o = m :: (List.replicate k m ++ ms.flatMap fun m =>
      if (s.owner o).active.cores.getLsbD m then List.replicate ((s.contCount core o - s.contCount m o) / 5) m else []) := by
    simp only [State.diffuse, hn, List.flatMap_cons, if_pos hm, some, List.replicate_succ, List.cons_append]
  refine List.mem_flatMap.2 ⟨(core, c), by rw [hs]; exact List.mem_singleton_self _, ?_⟩
  rw [if_neg (Nat.not_le.2 h1024)]
  refine List.mem_flatMap.2 ⟨o, List.mem_range.2 ho, ?_⟩
  simp only [hc, first, List.filter_cons, ht, beq_self_eq_true, if_true, List.zip_cons_cons, List.map_cons]
  exact List.mem_cons_self

end Sys2Proof.Machine

open Sys2Proof Sys2Proof.Machine

/-- Settles O38: records that arrive, children that are instantiated, and continuations that move. -/
theorem taskEvents : Obligations.TaskEvents := by
  intro s core o node child r
  refine ⟨?_, exec_compositeInstantiate_gone, fun p l hp he hl => ⟨exec_compositeInstantiate_peer hp he hl, fun hd hpre hr hb => ?_⟩,
    fun t rest => exec_gtqSegmentTake, exec_gtqSegmentTake_empty, fun c t hs _ hc => exec_diffusionTick_single hs hc,
    fun c t rest m ms hs h1024 ho hc ht hn hm h5 => ⟨_, exec_diffusionTick, ?_⟩, exec_diffusionRecordArrive⟩
  · cases idle : (s.ctx (16 * core)).kernelIdle
    · obtain ⟨t, run, inbox⟩ := exec_inboxRecordArrive (r := r) idle
      exact ⟨t, run, fun _ => inbox⟩
    · exact ⟨_, if_pos idle, fun h => absurd h (by decide)⟩
  · intro built
    rw [exec_compositeInstantiate hp he hl hd hpre hr hb]
    exact ⟨fun s1 root h => by rw [show s.instantiate _ _ _ _ _ _ = _ from h], fun h => by rw [show s.instantiate _ _ _ _ _ _ = _ from h],
      fun n c h => by rw [show s.instantiate _ _ _ _ _ _ = _ from h]⟩
  · rw [State.post_agenda, foldl_taken_agenda]
    exact List.mem_append_right _ (List.mem_map_of_mem (f := fun x : Nat × Nat × TaskRec => Instr.diffusionRecordArrive x.2.1 x.2.2)
      (mem_sends hs h1024 ho hc ht hn hm h5))
end

section
/-!
PROOFS. The slot of a channel for an owner whose number is past 15 (R22).
-/

namespace Sys2Proof.Machine

/-- An access of owner 16, which no machine has: owners are numbered 0 to 15 (R59). -/
def strangeAccess : ChanReq := ⟨16, 0, false, false, false, false⟩

/-- A machine whose first sub-channel has that owner in its calendar, and its access in the queue. -/
def strangeCalendar : State :=
  { State.reset with resources := [(resKey 1 0, ⟨[16], [⟨16, 1, 1, [], [.lp6ReadRepeat 0 strangeAccess .good], 0⟩], 0⟩)] }

/-- The steps in flight after a step of the machine. -/
def agendaAfter : Host.Outcome State Fault Refusal → List Instr
  | .next t => t.agenda
  | _ => []

/-- The slot takes the access out of its queue, looks for its owner among 0 to 15 alone, and leaves the read on its way. -/
theorem agendaAfter_strange : (agendaAfter (exec (.channelSlot 0 0 .good) strangeCalendar)).length = 1 := by decide +kernel

end Sys2Proof.Machine

open Sys2Proof Sys2Proof.Machine

/-- Refutes O39: the clause of a channel's slot holds for every owner number, and one past 15, which the statement allows, is not found among the owners
that the slot may have served. Its read stays on its way instead of ending. -/
theorem not_resourceEvents : ¬ Obligations.ResourceEvents := by
  unfold Obligations.ResourceEvents
  intro h
  obtain ⟨-, -, -, -, -, -, -, slot, -⟩ := h strangeCalendar 0 0 0 0 0 (Tests.wReq .take 0) strangeAccess
  have read := slot 1 .good rfl rfl (by decide) rfl rfl
  have none : (agendaAfter (exec (.channelSlot 0 0 .good) strangeCalendar)).length = 0 := by
    rw [read]
    rfl
  rw [agendaAfter_strange] at none
  exact absurd none (by decide)
end

section
/-!
PROOFS. The steps of tile tasks and copies (R98 to R100, R230, R337 to R350).
-/

namespace Sys2Proof.Machine

variable {s s1 : State} {cl e o pa slot id n : Nat} {t : Tile} {c : CopyReq}

theorem cluster_modCluster (s : State) (n : Nat) (f : Cluster → Cluster) : (s.modCluster n f).cluster n = f (s.cluster n) := by
  simp [State.cluster, State.modCluster, tget_tset_same]

theorem cluster_post (l : List Instr) : (s.post l).cluster n = s.cluster n := rfl

theorem acc_modTile (f : Tile → Tile) : ((s.modTile cl id f).cluster cl).acc = (s.cluster cl).acc := by
  rw [State.modTile, cluster_modCluster]

theorem mem_mapIf {α : Type} {p : α → Bool} {f : α → α} {l : List α} {x : α} (hx : x ∈ l) (hp : p x = true) : f x ∈ mapIf p f l :=
  List.mem_map.2 ⟨x, hx, if_pos hp⟩

theorem exec_tileJcNotify : ∃ t, exec (.tileJcNotify cl pa) s = .next t
    ∧ ∀ x ∈ (s.cluster cl).tiles, x.wjc = some pa → { x with jcReady := true, wjc := none } ∈ (t.cluster cl).tiles := by
  refine ⟨_, rfl, fun x hx hw => ?_⟩
  have noted : { x with jcReady := true, wjc := none } ∈ ((s.modCluster cl fun k => { k with
      tiles := mapIf (fun t : Tile => t.wjc == some pa) (fun t => { t with jcReady := true, wjc := none }) k.tiles }).cluster cl).tiles := by
    rw [cluster_modCluster]
    exact mem_mapIf (f := fun t : Tile => { t with jcReady := true, wjc := none }) hx (by simp [hw])
  exact noted

theorem exec_tileSlot_none (h : (s.cluster cl).tiles.find? (fun t => s.tileStartable cl o t) = none) : exec (.tileSlot cl o) s = .next s := by
  show execTileSlot cl o s = _
  simp only [execTileSlot, h]

theorem exec_tileSlot (ht : (s.cluster cl).tiles = [t]) (hs : s.tileStartable cl o t = true) (he : s.tileEngine cl t = some e) :
    exec (.tileSlot cl o) s = .next ((s.modCluster cl fun k => { k with
      tiles := [{ t with engine := some e, busy := 40 }], acc := if tAcc t.body then k.acc else tset k.acc (t.accSlot e) [] }).post [.tileKStep cl e]) := by
  have first : (s.cluster cl).tiles.find? (fun t => s.tileStartable cl o t) = some t := by
    rw [ht]
    exact List.find?_cons_of_pos hs
  show execTileSlot cl o s = _
  unfold execTileSlot
  rw [first]
  simp only [he, State.modCluster, ht, mapIf, List.map_cons, List.map_nil, beq_self_eq_true, if_true]

section
variable (h : s.tileOn cl e = none)
include h

theorem exec_tile_idle : exec (.tileKStep cl e) s = .next s ∧ exec (.tileOverrun cl e) s = .next s ∧ exec (.tileTaskComplete cl e) s = .next s := by
  refine ⟨?_, ?_, ?_⟩
  · show execTileKStep cl e s = _
    simp only [execTileKStep, h]
  · show execTileOverrun cl e s = _
    simp only [execTileOverrun, h]
  · show execTileTaskComplete cl e s = _
    simp only [execTileTaskComplete, h]

end

section
variable (h : s.tileOn cl e = some t)
include h

theorem exec_tileOverrun : exec (.tileOverrun cl e) s = .next (s.tileStop cl e t 0x41 (min t.k (tNk t.body))) := by
  show execTileOverrun cl e s = _
  simp only [execTileOverrun, h]

theorem exec_tileKStep (hw : t.waiting = false) (hr : t.result = none) : exec (.tileKStep cl e) s = .next (s.tileStep cl e t) := by
  have runs : ¬ (t.waiting = true ∨ t.result.isSome = true) := by simp [hw, hr]
  show execTileKStep cl e s = _
  simp only [execTileKStep, h, if_neg runs]

end

/-! A step of a task (R338, R342). -/

theorem tileStep_fetching (hk : t.k < tNk t.body) (hf : s.tileFetching t = true) : s.tileStep cl e t = s.postLater [.tileKStep cl e] :=
  if_pos ⟨Nat.le_of_lt hk, hf⟩

theorem tileStep_overrun (hk : t.k < tNk t.body) (hf : s.tileFetching t = false) (hb : 7200 < t.busy + 32) :
    s.tileStep cl e t = s.post [.tileOverrun cl e] := by
  unfold State.tileStep
  rw [if_neg fun both => ne_true hf both.2, if_pos hk, if_pos hb]

/-- The rows of the operands of a K step (R338). -/
def Tile.rows (t : Tile) : List Word :=
  let rows (base : Word) (stride : Nat) : List Word := (upTo 64).map fun r => base + w64 (r * stride + 64 * t.k)
  rows (tW t.body 1) (tAstride t.body) ++ rows (tW t.body 2) (tBstride t.body)

section
variable {l : List (Block × Tag)} (hk : t.k < tNk t.body) (hf : s.tileFetching t = false) (hb : t.busy + 32 ≤ 7200)
  (hl : (s.modTile cl t.id fun u => { u with fetching := [] }).engineReads t.agent t.rows = (.ok l, s1))
include hk hf hb hl

theorem tileStep_bad (hp : badPair t.cb4 (l.take 64) (l.drop 64) = true) : s.tileStep cl e t = s1.tileStop cl e t Cause.badfmt.code t.k := by
  unfold State.tileStep
  rw [if_neg fun both => ne_true hf both.2, if_pos hk, if_neg (Nat.not_lt.2 hb)]
  simp only [Tile.rows] at hl
  simp only [hl, if_pos hp]

theorem tileStep_read (hp : badPair t.cb4 (l.take 64) (l.drop 64) = false) : tget ((s.tileStep cl e t).cluster cl).acc (t.accSlot e) =
      some (stepSlot t.books ((tget (s1.cluster cl).acc (t.accSlot e)).getD []) (l.take 64) (l.drop 64))
    ∧ Instr.tileKStep cl e ∈ (s.tileStep cl e t).agenda := by
  unfold State.tileStep
  rw [if_neg fun both => ne_true hf both.2, if_pos hk, if_neg (Nat.not_lt.2 hb)]
  simp only [Tile.rows] at hl
  simp only [hl, if_neg (ne_true hp)]
  refine ⟨?_, by simp⟩
  simp only [cluster_post, acc_modTile, cluster_modCluster, tget_tset_same]

end

theorem tileStep_end (hf : tNk t.body < t.k ∨ s.tileFetching t = false) (hk : tNk t.body ≤ t.k) (hs : (blockWord t.body 0).getLsbD 1 = false) :
    s.tileStep cl e t = s.tileStop cl e t 0 0 := by
  have idle : ¬ (t.k ≤ tNk t.body ∧ s.tileFetching t = true) := fun ⟨le, fetching⟩ =>
    hf.elim (fun past => absurd le (Nat.not_le.2 past)) fun none => ne_true none fetching
  unfold State.tileStep
  rw [if_neg idle, if_neg (Nat.not_lt.2 hk)]
  exact if_pos hs

/-! The end of a task (R340). -/

theorem exec_tileTaskComplete_fetching (h : s.tileOn cl e = some t) (hw : t.waiting = false) (hf : s.tileFetching t = true) :
    exec (.tileTaskComplete cl e) s = .next (s.postLater [.tileTaskComplete cl e]) := by
  show execTileTaskComplete cl e s = _
  simp only [execTileTaskComplete, h, if_neg (ne_true hw), if_pos hf]

/-- A task that has ended leaves its engine and its locks (R340, log 79). -/
def State.tileDone (s : State) (cl : Nat) (t : Tile) : State :=
  (if t.observed then s.modCluster cl fun k => { k with tiles := k.tiles.filter fun u => u.id != t.id }
    else s.modTile cl t.id fun _ => { t with done := true, engine := none }).freeLocks t.core t.id

theorem exec_tileTaskComplete {r : BitVec 8} (h : s.tileOn cl e = some t) (hw : t.waiting = false) (hdk : t.dk = none) (hr : t.result = some r)
    (hf : s.tileFetching t = false) (hm : r ≠ 0 ∨ s.engineMerges t.agent t.scope t.dest.1 t.dest.2 = none)
    (hk : (blockWord t.body 7).toNat % 4 = 0) (hq : (blockWord t.body 0).getLsbD 2 = false) :
    exec (.tileTaskComplete cl e) s = .next (s.tileDone cl t) := by
  have merged : (if t.result = some 0 then s.engineMerges t.agent t.scope t.dest.1 t.dest.2 else none) = none := by
    rw [hr]
    rcases hm with cause | clean
    · exact if_neg fun zero => cause (Option.some.inj zero)
    · rw [clean]
      exact ite_self _
  have kind : tDkind t.body = 0 := BitVec.eq_of_toNat_eq (by rw [tDkind, BitVec.extractLsb'_toNat]; simpa [tW] using hk)
  have quiet : ¬ (tRq t.body = true ∧ t.observed = false ∧ (s.ctx t.ctx).resultsFull = true) := fun both => ne_true hq both.1
  have unpushed (left : Bool) : ¬ (tRq t.body = true ∧ left = false) := fun both => ne_true hq both.1
  have same : ({ t with done := true, engine := none, waiting := false, result := some (t.result.getD 0) } : Tile) = { t with done := true, engine := none } := by
    cases t
    simp_all
  have checked : s.dkCheck t.agent (tDkind t.body) (tDaddr t.body) = (.ok .none, s) := if_pos kind
  show execTileTaskComplete cl e s = _
  simp only [execTileTaskComplete, h, if_neg (ne_true hw), if_neg (ne_true hf), merged, checked, if_neg quiet, if_neg (unpushed _)]
  simp only [same]
  exact (ite_self _).trans rfl

/-! Accumulator slots (R230). -/

/-- The task that claims an accumulator slot of a cluster. -/
def State.slotHolder (s : State) (cl slot : Nat) : Option TaskRec :=
  (List.range 8).findSome? fun m => ((s.tasksOn (8 * cl + m)).find? fun t => t.2.acc.contains slot).map (·.2)

theorem exec_accSlotSave_none (h : s.slotHolder cl slot = none) : exec (.accSlotSave cl slot) s = .next s := by
  show execAccSlotSave cl slot s = _
  unfold execAccSlotSave
  rw [show List.findSome? _ (upTo 8) = _ from h]

theorem exec_accSlotSave {t : TaskRec} (h : s.slotHolder cl slot = some t) (ht : (s.cluster cl).tiles = []) (hs : s.saveSlot cl slot t.owner = some s1) :
    exec (.accSlotSave cl slot) s = .next (s1.modCluster cl fun k => { k with
      savedAcc := if k.savedAcc.contains (t.owner, slot) then k.savedAcc else k.savedAcc ++ [(t.owner, slot)] }) := by
  show execAccSlotSave cl slot s = _
  unfold execAccSlotSave
  rw [show List.findSome? _ (upTo 8) = _ from h]
  simp only [ht, List.any_nil, Bool.false_eq_true, if_false, hs]

/-! The end of a copy (R349, R350). -/

theorem exec_copyComplete_gone (h : s.copies.find? (fun c => c.id == id && !c.done) = none) : exec (.copyComplete cl e id) s = .next s := by
  show execCopyComplete cl e id s = _
  simp only [execCopyComplete, h]

section
variable (h : s.copies.find? (fun c => c.id == id && !c.done) = some c) (hw : c.waiting = false)
include h hw

theorem exec_copyComplete_busy (hb : c.unacked ≠ 0 ∨ s.engineBusy id = true) :
    exec (.copyComplete cl e id) s = .next (s.postLater [.copyComplete cl e id]) := by
  show execCopyComplete cl e id s = _
  simp only [execCopyComplete, h, if_neg (ne_true hw), if_pos hb]

theorem exec_copyComplete (hdk : c.dk = none) (hk : c.dkind = 0) (hq : c.rq = false) (hc : c.cmd = none) (hu : c.unacked = 0) (hb : s.engineBusy id = false)
    (hm : (if c.result = some 0 then s.engineMerges c.agent c.scope c.dst (64 * c.blocks) else none) = none) :
    exec (.copyComplete cl e id) s = .next ((if c.observed then { s with copies := s.copies.filter fun x => x.id != id }
      else s.modCopy c.id fun _ => { c with done := true }).freeLocks c.core c.id) := by
  have idle : ¬ (c.unacked ≠ 0 ∨ s.engineBusy id = true) := by simp [hu, hb]
  have checked : s.dkCheck c.agent c.dkind c.dkAddr = (.ok .none, s) := if_pos hk
  show execCopyComplete cl e id s = _
  simp only [execCopyComplete, h, if_neg (ne_true hw), if_neg idle, hm, checked, hdk, Option.isSome_none, if_neg Bool.false_ne_true]
  cases c.ctx <;>
    simp only [hq, hc, Bool.false_and, Bool.false_eq_true, false_and, if_false, State.dkAct, hw]

end

theorem exec_waittWake {w : Word} (hs : (s.ctx n).state = .blocked (.waitt w)) (hn : (tget s.ctxs n).isSome = true) (hd : w.toNat ≤ s.dtc.toNat) :
    ∃ u, exec (.waittWake n) s = .next u ∧ (u.ctx n).state = .live ∧ (u.ctx n).pc = (s.ctx n).pc := by
  refine ⟨_, rfl, ctx_wakeIf_listed hn hs (by simp [hd]), ?_⟩
  have kept (p : Nat → Wait → Bool) : ((s.wakeIf p).ctx n).pc = (s.ctx n).pc :=
    (ctx_wakeIf p n).elim (fun same => congrArg Ctx.pc same) fun woken => by rw [woken]
  exact kept _

end Sys2Proof.Machine

open Sys2Proof Sys2Proof.Machine

/-- Settles O40: each step of an engine, by the lemma of its constructor. -/
theorem engineEvents : Obligations.EngineEvents := by
  intro s cl e o pa slot id ctx
  refine ⟨exec_tileJcNotify, exec_tileSlot_none, fun t => exec_tileSlot, exec_tile_idle, fun t ht => ⟨exec_tileOverrun ht, fun hw hr hk => ⟨fun hf => ?_,
      fun hf hb => ?_, fun hf hb => ?_⟩, fun hw hr hf hk hs => ?_, exec_tileTaskComplete_fetching ht, fun r => exec_tileTaskComplete ht⟩,
    ⟨exec_accSlotSave_none, fun t s1 => exec_accSlotSave⟩, exec_copyComplete_gone, fun c hc hw hdk hk hq hcmd =>
      ⟨exec_copyComplete_busy hc hw, fun hu hb hr => ?_, fun hu hb hr hm => ?_⟩, fun t => exec_waittWake⟩
  · rw [exec_tileKStep ht hw hr, tileStep_fetching hk hf]
  · rw [exec_tileKStep ht hw hr, tileStep_overrun hk hf hb]
  · intro rows l s1 hl
    refine ⟨fun hp => ?_, fun hp => ⟨_, exec_tileKStep ht hw hr, tileStep_read hk hf hb hl hp⟩⟩
    rw [exec_tileKStep ht hw hr, tileStep_bad hk hf hb hl hp]
  · rw [exec_tileKStep ht hw hr, tileStep_end hf hk hs]
  · exact exec_copyComplete hc hw hdk hk hq hcmd hu hb (if_neg hr)
  · exact exec_copyComplete hc hw hdk hk hq hcmd hu hb (by rw [hm, ite_self])
end

section
/-!
PROOFS. Words at their homes (R170 to R174, R228, R313 to R317, R385).
-/

namespace Sys2Proof.Machine

variable {s : State} {r : Req} {f : State → State}

theorem atLine_here {o : Nat} {whole : Bool} {again : Instr} (h : lineHere s r.pa = true) : s.atLine o r.pa whole again f = f s := by
  unfold lineHere at h
  unfold State.atLine
  cases hr : regionOf r.pa with
  | lp6 =>
    rw [hr] at h
    cases hl : s.llcFind r.pa with
    | none => rw [hl] at h; cases h
    | some l =>
      rw [hl] at h
      exact if_neg fun hf => by simp [hf] at h
  | _ => rfl

/-- An operation acts at its home once its line is there and its frame allows it (R107, R385). -/
theorem homeOp_here (hc : s.fillCheck r (opWrites r.op) = none) (h : lineHere s r.pa = true) : s.homeOp r f = f s := by
  rw [State.homeOp, hc]
  exact (if_neg fun t => Bool.false_ne_true t.1).trans (atLine_here h)

theorem takeHome_full (hb : s.busy (r.pa / 64) = false) (hc : s.fillCheck r (r.op != .waitw) = none)
    (hf : isFullWord (((s.homeTouch r.owner r.pa true false).recall r.pa).tagAt (r.pa / 64)) r.pa = true) :
    let s1 := (s.homeTouch r.owner r.pa true false).recall r.pa
    s.takeHome r = (if r.op = .waitw then s1
      else (s1.setTag (r.pa / 64) (setFullWord (s1.tagAt (r.pa / 64)) r.pa false)).setHolder r.pa (some r.ctx)).answer r
        (if r.op = .trytake then .pair (s1.homeWord r.pa) 1 else .word (s1.homeWord r.pa)) := by
  intro s1
  simp only [State.takeHome, if_neg (ne_true hb), hc]
  exact if_pos hf

theorem takeHome_empty (hb : s.busy (r.pa / 64) = false) (hc : s.fillCheck r (r.op != .waitw) = none)
    (hf : isFullWord (((s.homeTouch r.owner r.pa true false).recall r.pa).tagAt (r.pa / 64)) r.pa = false) :
    let s1 := (s.homeTouch r.owner r.pa true false).recall r.pa
    s.takeHome r = if r.op = .trytake then s1.answer r (.pair 0 0) else (if r.op = .take then s1.raiseHolder r else s1).benchJoin r := by
  intro s1
  simp only [State.takeHome, if_neg (ne_true hb), hc]
  exact if_neg (ne_true hf)

theorem putHome_stores (hb : s.busy (r.pa / 64) = false) (hc : s.fillCheck r true = none)
    (hf : r.op = .put → isFullWord (s.coherent r.pa).2 r.pa = false) :
    s.putHome r = (((s.lowerHolder r.pa r.ctx).putWord r.owner r.pa r.x).answer r (.word 0)).ringReply r.pa := by
  simp only [State.putHome, if_neg (ne_true hb), hc]
  exact if_neg fun t => Bool.false_ne_true ((hf t.1).symm.trans t.2)

theorem putHome_refused (hb : s.busy (r.pa / 64) = false) (hc : s.fillCheck r true = none) (ho : r.op = .put)
    (hf : isFullWord (s.coherent r.pa).2 r.pa = true) : s.putHome r = s.answer r (.failed .typefault r.va 2) := by
  simp only [State.putHome, if_neg (ne_true hb), hc]
  exact if_pos ⟨ho, hf⟩

theorem amoHome_applies (hb : s.busy (r.pa / 64) = false) (hc : s.fillCheck r true = none) :
    let old := blockBytes (s.coherent r.pa).1 (r.pa % 64) r.size
    let u := (s.homeUpdate r.owner r.pa false fun d t => match amoFn r.fn r.size old r.c.toNat r.x.toNat with
      | some v => (mergeBytes d (placeBytes (r.pa % 64) v) (rangeMask (r.pa % 64) r.size), t)
      | none => (d, t)).checkBlock r.pa
    s.amoHome r = if r.op = .red then u.storeDone r.ctx else u.answer r (.word (BitVec.ofNat 64 old)) := by
  intro old u
  simp only [State.amoHome, if_neg (ne_true hb), hc]
  rfl

theorem barInit_eq (x : Word) : barInit x = BitVec.ofNat 64 (if x.toNat % 2 ^ 24 = 0 then 2 ^ 63 else x.toNat % 2 ^ 24) := by
  rw [barInit, wbits_low]
  split
  · next h => rw [h]; rfl
  · rfl

theorem initHome_counter (hb : s.busy (r.pa / 64) = false) (hc : s.fillCheck r true = none) (ho : r.op = .jcinit) :
    s.initHome r = ((s.storeWord r r.x).notifyZero r.pa r.x).performed r := by
  have hne : ¬ r.op = .barinit := by rw [ho]; exact nofun
  simp only [State.initHome, if_neg (ne_true hb), hc, if_neg hne]

theorem initHome_barrier (hb : s.busy (r.pa / 64) = false) (hc : s.fillCheck r true = none) (ho : r.op = .barinit) :
    s.initHome r = (s.storeWord r (BitVec.ofNat 64 (if r.x.toNat % 2 ^ 24 = 0 then 2 ^ 63 else r.x.toNat % 2 ^ 24))).performed r := by
  simp only [State.initHome, if_neg (ne_true hb), hc, if_pos ho, barInit_eq]

theorem jcdecHome_eq (hb : s.busy (r.pa / 64) = false) (hc : s.fillCheck r true = none) :
    let v : Word := BitVec.ofNat 64 (blockBytes (s.coherent r.pa).1 (r.pa % 64) 8)
    let v' : Word := if v = 0 then 0 else v - 1
    s.jcdecHome r = ((s.storeWord r v').notifyZero r.pa v').performed r := by
  intro v v'
  simp only [State.jcdecHome, if_neg (ne_true hb), hc]
  rfl

theorem ofNat_blockBytes_eq_zero {d : Block} {off : Nat} : (BitVec.ofNat 64 (blockBytes d off 8) : Word) = 0 ↔ blockBytes d off 8 = 0 := by
  have h : blockBytes d off 8 < 2 ^ 64 := Nat.mod_lt _ (Nat.two_pow_pos _)
  rw [← BitVec.toNat_inj, BitVec.toNat_ofNat, Nat.mod_eq_of_lt h]
  rfl

theorem jcwaitHome_eq (hb : s.busy (r.pa / 64) = false) (hc : s.fillCheck r false = none) :
    let s1 := s.homeTouch r.owner r.pa false false
    s.jcwaitHome r = if (BitVec.ofNat 64 (blockBytes (s1.coherent r.pa).1 (r.pa % 64) 8) : Word) = 0 then s1.answer r (.word 0)
      else s1.benchJoin r := by
  intro s1
  simp only [State.jcwaitHome, if_neg (ne_true hb), hc, ofNat_blockBytes_eq_zero]
  rfl

/-- The fields of a barrier's word (R317). -/
theorem barArrive_eq (w : Word) : barArrive w =
    let arr := (w.toNat / 2 ^ 24 + 1) % 2 ^ 24
    let ph := w.toNat / 2 ^ 48 % 2 ^ 15
    if arr = w.toNat % 2 ^ 24 then BitVec.ofNat 64 (w.toNat % 2 ^ 24 + 2 ^ 48 * ((ph + 1) % 2 ^ 15))
    else BitVec.ofNat 64 (w.toNat % 2 ^ 24 + 2 ^ 24 * arr + 2 ^ 48 * ph) := by
  simp only [barArrive, wbits_low]
  simp only [show wbits w 47 24 = w.toNat / 2 ^ 24 % 2 ^ 24 from rfl, show wbits w 62 48 = w.toNat / 2 ^ 48 % 2 ^ 15 from rfl, Nat.mod_add_mod]
  rfl

theorem bararrHome_eq (hb : s.busy (r.pa / 64) = false) (hc : s.fillCheck r true = none) :
    let w : Word := BitVec.ofNat 64 (blockBytes (s.coherent r.pa).1 (r.pa % 64) 8)
    s.bararrHome r = if r.x = 1 then s.storeWord r (w ||| 0x8000000000000000)
      else if w.getLsbD 63 then (if r.pid = 0 then s else s.answer r (.failed .brokenbar r.va 0))
      else if r.pid = 0 then s.storeWord r (barArrive w)
      else (s.storeWord r (barArrive w)).answer r (.word (BitVec.ofNat 64 (w.toNat / 2 ^ 48 % 2 ^ 15))) := by
  intro w
  simp only [State.bararrHome, if_neg (ne_true hb), hc]
  rfl

theorem barwaitHome_eq (hb : s.busy (r.pa / 64) = false) (hc : s.fillCheck r false = none) :
    let s1 := s.homeTouch r.owner r.pa false false
    let w : Word := BitVec.ofNat 64 (blockBytes (s1.coherent r.pa).1 (r.pa % 64) 8)
    s.barwaitHome r = if w.getLsbD 63 then s1.answer r (.failed .brokenbar r.va 0)
      else if w.toNat / 2 ^ 48 % 2 ^ 15 ≠ r.c.toNat % 2 ^ 15 then s1.answer r (.word w) else s1.benchJoin r := by
  intro s1 w
  simp only [State.barwaitHome, if_neg (ne_true hb), hc, wbits_low]
  rfl

theorem performed_zero (h : r.pid = 0) : s.performed r = s := if_pos h
theorem performed_answer (h : r.pid ≠ 0) : s.performed r = s.answer r (.word 0) := if_neg h

end Sys2Proof.Machine

open Sys2Proof Sys2Proof.Machine

/-- Settles O41: an operation whose line is there and whose frame allows it acts at once; each case is a branch of what its word then does. -/
theorem homeWordEvents : Obligations.HomeWordEvents := by
  intro s r hb hall hl old s1 tag s2 seen sends emptied as n bar arr ph next changed lowered put
  have hc (w : Bool) : s.fillCheck r w = none := hall r.op w
  have here (f : State → State) : (.next (s.homeOp r f) : Host.Outcome State Fault Refusal) = .next (f s) :=
    congrArg _ (homeOp_here (hc _) hl)
  refine ⟨fun hf => ⟨fun ho => ?_, ?_, ?_⟩, fun hf => ⟨fun ho => ?_, ?_, ?_⟩, fun ho hf => ?_, fun ho hf => ?_, fun ho => ?_, fun ho => ?_, ?_,
    fun ho hp => ?_, fun ho hp => ?_, fun ho hp => ?_, fun ho hp => ?_, fun hp => ?_, fun hp => ?_, fun h => ?_, fun h => ?_, fun hx => ?_,
    fun hx hp h => ?_, fun hx hp h => ?_, fun hx hp => ?_, fun h => ?_, fun h hp => ?_, fun h hp => ?_⟩ <;> refine (here _).trans ?_
  · rw [takeHome_full hb (hc _) hf, if_neg (by rw [ho]; exact nofun), if_neg (by rw [ho]; exact nofun)]; rfl
  · rw [takeHome_full (r := as .trytake) hb (hall .trytake _) hf]; rfl
  · rw [takeHome_full (r := as .waitw) hb (hall .waitw _) hf]; rfl
  · rw [takeHome_empty hb (hc _) hf, if_neg (by rw [ho]; exact nofun), if_pos ho]
  · rw [takeHome_empty (r := as .trytake) hb (hall .trytake _) hf]; rfl
  · rw [takeHome_empty (r := as .waitw) hb (hall .waitw _) hf]; rfl
  · rw [putHome_refused hb (hc _) ho hf]; rfl
  · rw [putHome_stores hb (hc _) fun _ => hf]; rfl
  · rw [show ({ r with op := .putx } : Req) = r by rw [← ho], putHome_stores hb (hc _) fun h => by rw [ho] at h; cases h]; rfl
  · rw [amoHome_applies hb (hc _), if_neg (by rw [ho]; exact nofun)]; rfl
  · rw [amoHome_applies (r := as .red) hb (hall .red _)]; rfl
  · rw [initHome_counter hb (hc _) ho, performed_zero hp]
  · rw [initHome_counter hb (hc _) ho, performed_answer hp]; rfl
  · rw [show ({ r with op := .barinit } : Req) = r by rw [← ho], initHome_barrier hb (hc _) ho, performed_zero hp]
  · rw [show ({ r with op := .barinit } : Req) = r by rw [← ho], initHome_barrier hb (hc _) ho, performed_answer hp]; rfl
  · rw [jcdecHome_eq hb (hc _), performed_zero hp]
  · rw [jcdecHome_eq hb (hc _), performed_answer hp]; rfl
  · rw [jcwaitHome_eq hb (hc _), if_pos h]; rfl
  · rw [jcwaitHome_eq hb (hc _), if_neg h]
  · rw [bararrHome_eq hb (hc _), if_pos hx]
  · rw [bararrHome_eq hb (hc _), if_neg hx, if_pos h, if_neg hp]; rfl
  · rw [bararrHome_eq hb (hc _), if_neg hx, if_neg (ne_true h), if_neg hp, barArrive_eq]; rfl
  · rw [bararrHome_eq hb (hc _), if_neg hx, if_pos hp, if_pos hp, barArrive_eq]
  · rw [barwaitHome_eq hb (hc _), if_pos h]; rfl
  · rw [barwaitHome_eq hb (hc _), if_neg (ne_true h), if_pos hp]; rfl
  · rw [barwaitHome_eq hb (hc _), if_neg (ne_true h), if_neg (not_not_intro hp)]
end

section
/-!
PROOFS. A window block filled (R148, R151), in a core whose table of tags lists a block twice.
-/

namespace Sys2Proof.Machine

/-- A window on block 0 of the local store, with no block filled. -/
def emptyWindow : Window := { lblk := 0, va := 0, nblk := 1, owner := 0, space := 0, level := .u, blocks := [] }

/-- The state after reset with that window in core 0, whose table of tags lists block 0 twice. -/
def twiceTagged : State := State.reset.modCore 0 fun c => { c with windows := [(0, emptyWindow)], lsTag := [(0, 1), (0, 1)] }

theorem twiceTagged_window : tget (twiceTagged.core 0).windows 0 = some emptyWindow := by
  rw [twiceTagged, State.core_modCore]
  rfl

theorem twiceTagged_tags : (twiceTagged.core 0).lsTag = [(0, 1), (0, 1)] := by
  rw [twiceTagged, State.core_modCore]

theorem core_wakeIf {s : State} (p : Nat → Wait → Bool) (n : Nat) : (s.wakeIf p).core n = s.core n := rfl

/-- A fill with the tag 0 deletes the first of the two entries. -/
theorem fill_twiceTagged : ((twiceTagged.fillWindow 0 0 0 0 0).core 0).lsTag = [(0, 1)] := by
  simp only [State.fillWindow, twiceTagged_window, core_wakeIf, State.core_modCore, twiceTagged_tags]
  rfl

end Sys2Proof.Machine

open Sys2Proof Sys2Proof.Machine

/-- Refutes O42: the table of tags of a core lists block 0 twice, which no step leaves behind but the statement allows. A fill with the tag 0 takes the first
entry alone out, and the block reads with the second. -/
theorem not_homeDataEvents : ¬ Obligations.HomeDataEvents := by
  unfold Obligations.HomeDataEvents
  intro h
  obtain ⟨-, -, -, -, fills, -⟩ := h twiceTagged (Sys2Proof.Tests.wReq .rds 0) 0 0 0 0 0 0 0 0 0 0 0
  obtain ⟨u, run, block, -⟩ := fills emptyWindow twiceTagged_window rfl
  obtain rfl : twiceTagged.fillWindow 0 0 0 0 0 = u := Host.Outcome.next.inj run
  have tag := congrArg Prod.snd block
  rw [State.lsBlock, show emptyWindow.lblk = 0 from rfl, fill_twiceTagged] at tag
  exact absurd tag (by decide)
end

section
/-!
PROOFS. The directory of a home (R163, R183 to R186, R371, R372).
-/

namespace Sys2Proof.Machine

variable {s : State} {r : Req} {b core : Nat}

/-! A read (R163, R183, R184). -/

section
variable (hc : s.fillCheck r false = none) (ho : r.op = .rds)
include hc ho

theorem rdsHome_pv (hp : r.ct = .pv) : let s1 := s.homeTouch r.owner r.pa false false
    s.rdsHome r = (s1.post [.l1Data r.core (r.pa / 64) .pv (s1.coherent r.pa).1 (s1.coherent r.pa).2]).respond r [] := by
  have hne : ¬ r.op = .winFill := by rw [ho]; exact nofun
  simp only [State.rdsHome, hc, if_neg hne, if_pos hp]

/-- A page that is not PV is granted by its block's directory entry. -/
theorem rdsHome_coherent (hp : r.ct ≠ .pv) (hr : regionOf r.pa = .lp6) (st : HomeState) : let s1 := s.homeTouch r.owner r.pa false false
    let b := r.pa / 64
    let d := s1.dirOf b
    d.st = st → s.rdsHome r = match st with
      | .unc => (s1.setDir b { d with st := .exc, owner := r.core }).sendData r .e
      | .shd => (s1.setDir b { d with sharers := addNew d.sharers r.core }).sendData r .s
      | .exc => if d.owner = r.core then s1.sendData r .e else s1.forward b r (.l1FwdS d.owner b r.core)
      | .own => s1.forward b r (.l1FwdS d.owner b r.core)
      | _ => s1.defer r := by
  have hne : ¬ r.op = .winFill := by rw [ho]; exact nofun
  rintro s1 b d rfl
  simp only [State.rdsHome, hc, if_neg hne, if_neg hp, hr]
  rfl

end

/-! A request to write (R184). -/

theorem rdxHome_coherent (hc : s.fillCheck r true = none) (st : HomeState) : let s1 := s.homeTouch r.owner r.pa true false
    let b := r.pa / 64
    let d := s1.dirOf b
    d.st = st → s.rdxHome r = match st with
      | .unc => (s1.setDir b { d with st := .exc, owner := r.core }).sendData r .m
      | .shd => s1.invalidate b .rdxInv r (d.sharers.filter fun c => c != r.core) none
      | .exc => if d.owner = r.core then s1.sendData r .m else s1.forward b r (.l1FwdX d.owner b r.core)
      | .own => s1.invalidate b .rdxInv r (d.sharers.filter fun c => c != r.core) (some d.owner)
      | _ => s1.defer r := by
  rintro s1 b d rfl
  simp only [State.rdxHome, hc]
  rfl

theorem invalidate_sharers {st : HomeState} {l : List Nat} (hl : l ≠ []) : s.invalidate b st r l none =
    l.foldl (fun s c => s.snoop r c (.l1Inv c b)) (s.setDir b { s.dirOf b with st := st, cur := some r, acks := l.length }) :=
  if_neg fun h => hl (List.length_eq_zero_iff.1 h)

theorem invalidate_owner {st : HomeState} {l : List Nat} {o : Nat} : s.invalidate b st r l (some o) =
    (l.foldl (fun s c => s.snoop r c (.l1Inv c b)) (s.setDir b { s.dirOf b with st := st, cur := some r, acks := l.length + 1 })).snoop r o
      (.l1FwdX o b r.core) := by
  have hn : ¬ l.length + 1 = 0 := Nat.succ_ne_zero _
  simp only [State.invalidate, Option.isSome_some, if_pos, if_neg hn]

theorem upgHome_shared (hs : (s.dirOf (r.pa / 64)).st = .shd) (hm : r.core ∈ (s.dirOf (r.pa / 64)).sharers) :
    s.upgHome r = s.invalidate (r.pa / 64) .upgGrant r ((s.dirOf (r.pa / 64)).sharers.filter fun c => c != r.core) none := by
  simp only [State.upgHome, hs]
  exact if_pos (List.contains_iff_mem.2 hm)

theorem upgHome_unshared (hs : (s.dirOf (r.pa / 64)).st = .unc ∨ (s.dirOf (r.pa / 64)).st = .exc) :
    s.upgHome r = s.rdxHome { r with op := .rdx } := by
  obtain hs | hs := hs <;> simp only [State.upgHome, hs]

/-! A write-back (R184, R186). -/

/-- The state in which a write-back has been written at its home. -/
def State.wroteBack (s : State) (r : Req) : State := (s.homeTouch r.owner r.pa true true).writeHome r.pa r.data r.tag

/-- The state in which a write-back has been acknowledged. -/
def State.ackedBack (s : State) (r : Req) : State := (s.post [.l1WbAck r.core (r.pa / 64)]).respond r []

theorem isEmpty_addNew (l : List Nat) (c : Nat) : (addNew l c).isEmpty = false := by
  unfold addNew
  split
  · next h => cases l with
    | nil => cases h
    | cons a l => rfl
  · simp

section
variable (hp : r.pid = 0)
include hp

theorem wbHome_foreign (h : (s.dirOf (r.pa / 64)).owner ≠ r.core) : s.wbHome r = s.ackedBack r := by
  simp only [State.wbHome, if_pos hp]
  exact if_pos h

theorem wbHome_exclusive (h : (s.dirOf (r.pa / 64)).owner = r.core) (hs : (s.dirOf (r.pa / 64)).st = .exc) :
    s.wbHome r = (if r.keep then s.wroteBack r else (s.wroteBack r).stabilise (r.pa / 64) .unc 0 []).ackedBack r := by
  simp only [State.wbHome, if_pos hp, hs]
  exact if_neg (not_not_intro h)

theorem wbHome_kept (h : (s.dirOf (r.pa / 64)).owner = r.core) (hs : (s.dirOf (r.pa / 64)).st = .own) (hk : r.keep = true) :
    s.wbHome r = ((s.wroteBack r).stabilise (r.pa / 64) .shd 0 (addNew (s.dirOf (r.pa / 64)).sharers r.core)).ackedBack r := by
  simp only [State.wbHome, if_pos hp, hs, if_pos hk, isEmpty_addNew, Bool.false_eq_true, if_false]
  exact if_neg (not_not_intro h)

theorem exec_homeWb (ho : r.op ≠ .write) (hc : s.fillCheck r (opWrites r.op) = none) (hl : lineHere s r.pa = true) :
    exec (.homeWb r) s = .next (s.wbHome r) := by
  show execHomeWb r s = _
  rw [execHomeWb, homeOp_here hc hl, if_neg ho, if_pos (Or.inl hp)]

end

/-! Answers to snoops (R184, R186, R372). -/

theorem invAck_counts (hs : (s.dirOf b).st = .rdxInv ∨ (s.dirOf b).st = .upgGrant) (ha : 1 < (s.dirOf b).acks) :
    s.invAck b core = s.setDir b { s.dirOf b with acks := (s.dirOf b).acks - 1, sharers := (s.dirOf b).sharers.filter fun c => c != core } := by
  have count : s.countAck b core = _ := if_neg (Nat.not_le.2 ha)
  obtain hs | hs := hs <;> (rw [State.invAck, hs]; exact count)

theorem invAck_late (h1 : (s.dirOf b).st ≠ .rdxInv) (h2 : (s.dirOf b).st ≠ .upgGrant) : s.invAck b core = s := by
  unfold State.invAck
  split
  · next h => exact absurd h h1
  · next h => exact absurd h h2
  · rfl

theorem ackStale_owner (hs : (s.dirOf b).st = .rdxInv) (ho : (s.dirOf b).owner = core) (hst : (s.dirOf b).stale = false) :
    s.ackStale b core = s.setDir b { s.dirOf b with stale := true } := by
  have half : s.ackStale b core = s.staleHalf b core := by simp only [State.ackStale, hs, if_pos ho]
  exact half.trans (if_neg (ne_true hst))

theorem fwdDone_read {q : Req} {clean : Bool} (hs : (s.dirOf b).st = .fwd) (hq : (s.dirOf b).cur = some q) (ho : q.op = .rds) :
    s.fwdDone b core clean = if clean then s.stabilise b .shd 0 (addNew (addNew (s.dirOf b).sharers core) q.core)
      else s.stabilise b .own core (addNew (s.dirOf b).sharers q.core) := by
  simp only [State.fwdDone, hs, hq, if_pos ho]

theorem fwdDone_write {q : Req} {clean : Bool} (hs : (s.dirOf b).st = .fwd) (hq : (s.dirOf b).cur = some q) (ho : q.op ≠ .rds) :
    s.fwdDone b core clean = s.stabilise b .exc q.core [] := by
  simp only [State.fwdDone, hs, hq, if_neg ho]

end Sys2Proof.Machine

open Sys2Proof Sys2Proof.Machine

/-- Settles O43: once its line is there a request acts by its block's directory entry, and so does each answer to a snoop. -/
theorem homeCoherence : Obligations.HomeCoherence := by
  rintro s r _ core clean rfl hr hc hl s1 s2 d1 d2 d others written acked
  have here (f : State → State) : (.next (s.homeOp r f) : Host.Outcome State Fault Refusal) = .next (f s) :=
    congrArg _ (homeOp_here (hc _) hl)
  have wb (ho : r.op ≠ .write) (hp : r.pid = 0) := exec_homeWb hp ho (hc _) hl
  refine ⟨fun ho => ?_, fun hs => ?_, fun hs hn => ?_, fun hs hw => ?_, fun hs hw => ?_, fun hs => ?_, fun hs hm hn => ?_, fun hs => ?_,
    fun ho hp => ⟨fun hw => ?_, fun hw hs hk => ?_, fun hw hs hk => ?_, fun hw hs hk => ?_⟩,
    fun hs ha => congrArg _ (invAck_counts hs ha), fun h1 h2 => congrArg _ (invAck_late h1 h2), fun hs hw hst => congrArg _ (ackStale_owner hs hw hst),
    fun q hs hq => ⟨fun ho => ⟨?_, ?_⟩, fun ho => ?_, ?_, ?_⟩, fun hs => ⟨?_, ?_⟩⟩
  · have rds : exec (.homeRds r) s = .next (s.rdsHome r) := (here _).trans (congrArg _ (if_pos (Or.inl ho)))
    exact ⟨fun hp => rds.trans (congrArg _ (rdsHome_pv (hc _) ho hp)), fun hp hws =>
      ⟨fun hs => rds.trans (congrArg _ (rdsHome_coherent (hc _) ho hp hr _ hs)), fun hs => rds.trans (congrArg _ (rdsHome_coherent (hc _) ho hp hr _ hs)),
        fun hs hw => rds.trans (congrArg _ ((rdsHome_coherent (hc _) ho hp hr _ hs).trans (if_neg hw))),
        fun hs hw => rds.trans (congrArg _ ((rdsHome_coherent (hc _) ho hp hr _ hs).trans (if_pos hw))),
        fun hs => rds.trans (congrArg _ (rdsHome_coherent (hc _) ho hp hr _ hs))⟩⟩
  · exact (here _).trans (congrArg _ (rdxHome_coherent (hc _) _ hs))
  · exact (here _).trans (congrArg _ ((rdxHome_coherent (hc _) _ hs).trans (invalidate_sharers hn)))
  · exact (here _).trans (congrArg _ ((rdxHome_coherent (hc _) _ hs).trans (if_neg hw)))
  · exact (here _).trans (congrArg _ ((rdxHome_coherent (hc _) _ hs).trans (if_pos hw)))
  · exact (here _).trans (congrArg _ ((rdxHome_coherent (hc _) _ hs).trans invalidate_owner))
  · exact (here _).trans (congrArg _ ((upgHome_shared hs hm).trans (invalidate_sharers hn)))
  · exact (here _).trans (congrArg _ (upgHome_unshared hs))
  · exact (wb ho hp).trans (congrArg _ (wbHome_foreign hp hw))
  · rw [wb ho hp, wbHome_exclusive hp hw hs, if_neg (ne_true hk)]
    rfl
  · rw [wb ho hp, wbHome_exclusive hp hw hs, if_pos hk]
    rfl
  · exact (wb ho hp).trans (congrArg _ (wbHome_kept hp hw hs hk))
  · exact congrArg _ (fwdDone_read hs hq ho)
  · exact congrArg _ (fwdDone_read hs hq ho)
  · exact congrArg _ (fwdDone_write hs hq ho)
  · show Host.Outcome.next (s.ackMiss (r.pa / 64) core) = _
    rw [State.ackMiss, show (s.dirOf (r.pa / 64)).st = _ from hs]
  · show Host.Outcome.next (s.ackStale (r.pa / 64) core) = _
    rw [State.ackStale, show (s.dirOf (r.pa / 64)).st = _ from hs]
  · show Host.Outcome.next (s.ackMiss (r.pa / 64) core) = _
    rw [State.ackMiss, show (s.dirOf (r.pa / 64)).st = _ from hs]
  · show Host.Outcome.next (s.ackStale (r.pa / 64) core) = _
    rw [State.ackStale, show (s.dirOf (r.pa / 64)).st = _ from hs]
end

section
/-!
PROOFS. The messages of an L1 (R183, R371).
-/

namespace Sys2Proof.Machine

variable {s : State} {core b req : Nat} {l : L1Line}

/-! A line that is not there. -/

section
variable (h : s.l1 core b = none)
include h

theorem invArrive_absent : s.invArrive core b = s.post [.homeAckMiss b core] := by rw [State.invArrive, h]
theorem fwdSArrive_absent : s.fwdSArrive core b req = s.post [.homeAckMiss b core] := by rw [State.fwdSArrive, h]
theorem fwdXArrive_absent : s.fwdXArrive core b req = s.post [.homeAckMiss b core] := by rw [State.fwdXArrive, h]
theorem grantArrive_absent : s.grantArrive core b = s := by rw [State.grantArrive, h]
theorem wbAckArrive_absent : s.wbAckArrive core b = s := by rw [State.wbAckArrive, h]

end

section
variable (h : s.l1 core b = some l)
include h

/-! Data and grants. -/

/-- The state that a line takes with a grant of a block of LP6 memory. -/
theorem dataArrive_waiting {g : Grant} {st : L1State} {data : Block} {tag : Tag} (hl : l.st = .isD ∨ l.st = .imD)
    (hg : (g = .s ∧ st = .s) ∨ (g = .e ∧ st = .e) ∨ (g = .m ∧ st = .m) ∨ (g = .pv ∧ st = .pv ∧ regionOf (64 * b) = .lp6)) :
    s.dataArrive core b g data tag = (s.setL1 core b { l with st := st, data := data, tag := tag, dirty := false }).settle core b := by
  cases l
  obtain ⟨rfl, rfl⟩ | ⟨rfl, rfl⟩ | ⟨rfl, rfl⟩ | ⟨rfl, rfl, hr⟩ := hg
  · obtain hl | hl := hl <;> (cases hl; rw [State.dataArrive, h])
  · obtain hl | hl := hl <;> (cases hl; rw [State.dataArrive, h])
  · obtain hl | hl := hl <;> (cases hl; rw [State.dataArrive, h])
  · obtain hl | hl := hl <;> (cases hl; rw [State.dataArrive, h, hr])

theorem grantArrive_upgrade (hl : l.st = .smG) : s.grantArrive core b = (s.setL1 core b { l with st := .m }).settle core b := by
  rw [State.grantArrive, h]
  exact if_pos hl

/-! An invalidation. -/

theorem invArrive_waiting (hl : l.st = .isD ∨ l.st = .imD) : s.invArrive core b = s.post [.homeInvAck b core] := by
  obtain hl | hl := hl <;> simp only [State.invArrive, h, hl]

theorem invArrive_upgrade (hl : l.st = .smG) :
    s.invArrive core b = (s.setL1 core b { l with st := .imD, dirty := false }).post [.homeInvAck b core] := by
  simp only [State.invArrive, h, hl]

theorem invArrive_writeback (hl : l.st = .miA) :
    s.invArrive core b = (s.setL1 core b { l with snoop := some (.l1Inv core b) }).post [.homeAckStale b core] := by
  cases l
  cases hl
  rw [State.invArrive, h]

theorem invArrive_held (hl : l.st = .m ∨ l.st = .o ∨ l.st = .e ∨ l.st = .s) : s.invArrive core b = (s.dropL1 core b).post [.homeInvAck b core] := by
  obtain hl | hl | hl | hl := hl <;> simp only [State.invArrive, h, hl]

/-! A forward that shares. -/

theorem fwdSArrive_waiting (hl : l.st = .isD ∨ l.st = .imD) : s.fwdSArrive core b req =
    if s.answering core b then s.setL1 core b { l with held := l.held ++ [.l1FwdS core b req] } else s.post [.homeAckMiss b core] := by
  cases l
  obtain hl | hl := hl <;> (cases hl; rw [State.fwdSArrive, h])

theorem fwdSArrive_upgrade (hl : l.st = .smG) (hd : l.dirty = true) (ha : s.answering core b = false) :
    s.fwdSArrive core b req = (s.setL1 core b l).handOver core b req l .s false := by
  cases l
  cases hl
  rw [State.fwdSArrive, h]
  exact if_pos ⟨hd, ha⟩

theorem fwdSArrive_writeback (hl : l.st = .miA) :
    s.fwdSArrive core b req = (s.setL1 core b { l with snoop := some (.l1FwdS core b req) }).post [.homeAckStale b core] := by
  cases l
  cases hl
  rw [State.fwdSArrive, h]

theorem fwdSArrive_owned (hl : l.st = .m ∨ l.st = .o) :
    s.fwdSArrive core b req = (s.setL1 core b { l with st := .o }).handOver core b req l .s false := by
  cases l
  obtain hl | hl := hl <;> (cases hl; rw [State.fwdSArrive, h])

theorem fwdSArrive_exclusive (hl : l.st = .e) :
    s.fwdSArrive core b req = (s.setL1 core b { l with st := .s }).handOver core b req l .s true := by
  cases l
  cases hl
  rw [State.fwdSArrive, h]

/-! A forward that takes the block. -/

theorem fwdXArrive_waiting (hl : l.st = .isD ∨ l.st = .imD) : s.fwdXArrive core b req =
    if s.answering core b then s.setL1 core b { l with held := l.held ++ [.l1FwdX core b req] } else s.post [.homeAckMiss b core] := by
  cases l
  obtain hl | hl := hl <;> (cases hl; rw [State.fwdXArrive, h])

theorem fwdXArrive_owned (hl : l.st = .m ∨ l.st = .o) : s.fwdXArrive core b req =
    if (s.dirOf b).st = .rdxInv then ((s.dropL1 core b).writeHome (64 * b) l.data l.tag).post [.homeFwdDone b core false]
    else (s.dropL1 core b).handOver core b req l .m false := by
  cases l
  obtain hl | hl := hl <;> (cases hl; rw [State.fwdXArrive, h]; rfl)

theorem fwdXArrive_exclusive (hl : l.st = .e) (hd : (s.dirOf b).st ≠ .rdxInv) :
    s.fwdXArrive core b req = (s.dropL1 core b).handOver core b req l .m true := by
  cases l
  cases hl
  rw [State.fwdXArrive, h]
  exact if_neg hd

/-! The end of a write-back. -/

theorem wbAckArrive_gone (hl : l.st = .miA) (hk : l.keep = false) (hw : l.wait = []) : s.wbAckArrive core b = s.dropL1 core b := by
  rw [State.wbAckArrive, h]
  refine (if_neg (not_not_intro hl)).trans ((if_pos hk).trans ?_)
  rw [hw]

theorem wbAckArrive_kept (hl : l.st = .miA) (hk : l.keep = true) (hs : l.snoop = none) : s.wbAckArrive core b =
    (s.setL1 core b { l with st := if l.fromM then .e else .s, dirty := false, snoop := none, keep := false }).settle core b := by
  have kept : ¬ l.keep = false := by rw [hk]; exact nofun
  rw [State.wbAckArrive, h]
  refine (if_neg (not_not_intro hl)).trans ((if_neg kept).trans ?_)
  rw [hs]

end

end Sys2Proof.Machine

open Sys2Proof Sys2Proof.Machine

/-- Settles O44: what an L1 does with each message, by the state of the line that the message names. -/
theorem l1Coherence : Obligations.L1Coherence := by
  intro s core b req data tag dropped
  have released {t u : State} (h : t = u) : (.next (t.releaseCore core) : Host.Outcome State Fault Refusal) = .next (u.releaseCore core) := by rw [h]
  refine ⟨fun h => ⟨congrArg _ (invArrive_absent h), congrArg _ (fwdSArrive_absent h), congrArg _ (fwdXArrive_absent h),
    released (grantArrive_absent h), released (wbAckArrive_absent h)⟩,
    fun l h => ⟨fun hl => ⟨fun g st hg => released (dataArrive_waiting h hl hg),
        congrArg _ (invArrive_waiting h hl),
        fun ha => ⟨congrArg _ ((fwdSArrive_waiting h hl).trans (if_pos ha)), congrArg _ ((fwdXArrive_waiting h hl).trans (if_pos ha))⟩,
        fun ha => ⟨congrArg _ ((fwdSArrive_waiting h hl).trans (if_neg (ne_true ha))),
          congrArg _ ((fwdXArrive_waiting h hl).trans (if_neg (ne_true ha)))⟩⟩,
      fun hl => ⟨released (grantArrive_upgrade h hl), congrArg _ (invArrive_upgrade h hl),
        fun hd ha => congrArg _ (fwdSArrive_upgrade h hl hd ha)⟩,
      fun hl => congrArg _ (invArrive_held h hl), fun hl => congrArg _ (fwdSArrive_owned h hl), fun hl => congrArg _ (fwdSArrive_exclusive h hl),
      fun hd => ⟨fun hl => congrArg _ ((fwdXArrive_owned h hl).trans (if_neg hd)), fun hl => congrArg _ (fwdXArrive_exclusive h hl hd)⟩,
      fun hd hl => congrArg _ ((fwdXArrive_owned h hl).trans (if_pos hd)),
      fun hl => ⟨congrArg _ (invArrive_writeback h hl), congrArg _ (fwdSArrive_writeback h hl),
        fun hk hw => released (wbAckArrive_gone h hl hk hw),
        fun hk hs => released (wbAckArrive_kept h hl hk hs)⟩⟩⟩
end

section
/-!
PROOFS. Messages of the peer ports (R27, R29, R32, R132, R178, R220 to R222, R386, R387).
-/

namespace Sys2Proof.Machine

variable {s s1 : State} {m : PeerMsg} {n dev port pa units : Nat} {e : TlbEntry} {v : Arrival}

/-! The slots of a port (R29). -/

theorem portArrive_joins {again : PeerMsg → Instr} {f : State → State} (hl : m.landed = false) (hp : m.port < 16) :
    s.portArrive m units again f = s.enqueue 6 (2 * m.port + 1) ⟨m.req.owner, s.dtc, units, [], [again { m with landed := true }], 0⟩ := by
  have waits : ¬ (m.landed = true ∨ 16 ≤ m.port) := by rw [hl]; exact fun h => h.elim nofun (Nat.not_le.2 hp)
  exact (if_neg waits).trans (if_pos hp)

theorem portArrive_acts {again : PeerMsg → Instr} {f : State → State} (h : m.landed = true ∨ 16 ≤ m.port) : s.portArrive m units again f = f s :=
  if_pos h

/-! What a request does (R27, R132, R166, R386, R387). -/

theorem peerRead_ok (h : (s.peerTake m).2.peerTranslate m .read = (.ok pa e, s1)) : s.peerRead m =
    s1.depart { peerReq m (s.peerTake m).1 pa e with op := if e.ct = 3 then .wsLoad else .read, pid := 1 } := by
  unfold State.peerRead
  simp only [h]

theorem peerRead_failed {c : Cause} {i : Word} (h : (s.peerTake m).2.peerTranslate m .read = (.cause c i, s1)) :
    s.peerRead m = s1.peerReply (s.peerTake m).1 (.failed c m.req.va 0) := by
  unfold State.peerRead
  simp only [h]
  rfl

theorem peerWriteNow_ok (h : (s.peerTake m).2.peerTranslate m .write = (.ok pa e, s1)) (hr : ∀ n, regionOf pa ≠ .weight n) :
    let r := { peerReq m (s.peerTake m).1 pa e with pid := 0 }
    s.peerWriteNow m = s1.depart (if m.req.op = .tagWrite then r else { r with op := if e.ct = 3 then .wsWrite else .write }) := by
  intro r
  unfold State.peerWriteNow
  simp only [h]
  cases hp : regionOf pa with
  | weight w => exact absurd hp (hr w)
  | _ => rfl

/-- An atomic on memory of the device that its page type allows. -/
theorem peerAtomic_ok (h : (s.peerTake m).2.peerTranslate m .atomic = (.ok pa e, s1)) (hr : regionOf pa = .lp6)
    (allowed : (m.req.op = .amo ∨ m.req.op = .red) ∧ e.ct ≠ 3 ∨ m.req.op = .jcdec ∧ e.ct = 2) :
    s.peerAtomic m = s1.depart { peerReq m (s.peerTake m).1 pa e with pid := if m.req.op = .red then 0 else 1 } := by
  unfold State.peerAtomic
  simp only [h, hr]
  obtain ⟨ho, hc⟩ | ⟨ho, hc⟩ := allowed
  · rw [if_pos ho, if_neg hc]
  · have other : ¬ (m.req.op = .amo ∨ m.req.op = .red) := by rw [ho]; exact fun h => h.elim nofun nofun
    have fine : ¬ (e.ct ≠ 2 ∨ takesWord m.req.op = true ∧ e.fe = false) := by
      rw [ho]
      exact fun h => h.elim (fun h => h hc) (fun h => absurd h.1 nofun)
    rw [if_neg other, if_neg fine]

theorem peerAtomic_counter_type (h : (s.peerTake m).2.peerTranslate m .atomic = (.ok pa e, s1)) (hr : regionOf pa = .lp6)
    (ho : m.req.op = .jcdec) (hc : e.ct ≠ 2) : s.peerAtomic m = s1.peerReply (s.peerTake m).1 (.failed .typefault m.req.va 0) := by
  have other : ¬ (m.req.op = .amo ∨ m.req.op = .red) := by rw [ho]; exact fun h => h.elim nofun nofun
  unfold State.peerAtomic
  simp only [h, hr, if_neg other]
  rw [if_pos (Or.inl hc)]

/-! Answers (R27, R32). -/

/-- The state in which a request in flight has been answered. -/
def State.answeredPeer (s : State) (m : PeerMsg) : State :=
  { s with peerOut := dropFirst (fun e => e.msg == { m with landed := false }) s.peerOut }

section
variable (hx : m.req.ctx < engineBase) (ha : (s.peerOut.any fun e => e.msg == { m with landed := false }) = true) (hv : ∀ c x i, v ≠ .failed c x i)
include hx ha hv

theorem peerAnswer_read (ho : m.req.op = .rds) : s.peerAnswer m v = (s.answeredPeer m).arrive m.req.ctx m.req.pid v := by
  unfold State.peerAnswer
  rw [if_neg (by rw [ha]; exact nofun), if_neg (Nat.not_le.2 hx), ho]
  cases v with
  | failed c x i => exact absurd rfl (hv c x i)
  | _ => rfl

theorem peerAnswer_write (ho : m.req.op = .rdx) : s.peerAnswer m v = (s.answeredPeer m).storeDone m.req.ctx := by
  unfold State.peerAnswer
  rw [if_neg (by rw [ha]; exact nofun), if_neg (Nat.not_le.2 hx), ho]
  cases v with
  | failed c x i => exact absurd rfl (hv c x i)
  | _ => rfl

end

/-! Markers (R178, R179). -/

theorem peerMarkerAcked_some {x : PeerOut} (h : (s.peerOut.find? fun e => e.ctx == n && e.msg.port == port && e.msg.req.op == .wb) = some x)
    (hp : port < 16) : s.peerMarkerAcked n port = ({ s with peerOut := dropFirst (fun y => y == x) s.peerOut } : State).enqueue 6 (2 * port + 1)
      ⟨x.msg.req.owner, s.dtc, 1, [], [.markerAck n x.msg.req.pid], 0⟩ := by
  rw [State.peerMarkerAcked, h]
  exact if_pos hp

theorem peerMarkerAcked_none (h : (s.peerOut.find? fun e => e.ctx == n && e.msg.port == port && e.msg.req.op == .wb) = none) :
    s.peerMarkerAcked n port = s := by
  rw [State.peerMarkerAcked, h]

/-! Remote reports (R220 to R222). -/

theorem reportArrive_unmatched {cause : BitVec 8} {op pva : Nat} (h : (s.peerOut.any fun e => e.ctx == n) = false) :
    s.reportArrive n dev cause op pva = s.remoteReport n dev cause op pva := by
  have none : (s.peerOut.find? fun e => e.ctx == n && e.msg.dev == dev && peerOpCode e.msg.req.op == op && e.msg.req.pa == pva) = none :=
    List.find?_eq_none.2 fun e he => by simp [List.any_eq_false.1 h e he]
  unfold State.reportArrive
  simp only [none]

/-- The report of a context that has not ended joins its eight entries, or counts as lost. -/
theorem remoteReport_live {cause : BitVec 8} {op : BitVec 3} {pva : BitVec 47} (h1 : (s.ctx n).state ≠ .ended) (h2 : (s.ctx n).state ≠ .free) :
    let e0 : Word := BitVec.ofNat 64 (cause.toNat + 2 ^ 8 * op.toNat + 2 ^ 16 * dev + 2 ^ 32 * (s.dtc.toNat % 2 ^ 32))
    let t := if (s.ctx n).reports.length < 8 then s.modCtx n fun c => { c with reports := c.reports ++ [⟨e0, pva.setWidth 64⟩] }
      else s.modCtx n fun c => { c with lostReports := c.lostReports + 1 }
    s.remoteReport n dev cause op.toNat pva.toNat = if op.toNat < 2 then t.storeDone n else t := by
  have running : ¬ ((s.ctx n).state = .ended ∨ (s.ctx n).state = .free) := fun h => h.elim h1 h2
  have address : w64 (pva.toNat % 2 ^ 47) = pva.setWidth 64 := by
    rw [Nat.mod_eq_of_lt pva.isLt]
    exact BitVec.ofNat_toNat 64 pva
  simp only [State.remoteReport, if_neg running, address]
  rfl

end Sys2Proof.Machine

open Sys2Proof Sys2Proof.Machine

/-- Settles O45: a message joins the queue of its port, and acts once a slot has carried it. -/
theorem peerEvents : Obligations.PeerEvents := by
  intro s m ctx dev port cause op pva v k s0 at_ carried joins
  refine ⟨fun hl hp => ⟨congrArg _ (portArrive_joins hl hp), fun ht => ?_, congrArg _ (portArrive_joins hl hp), congrArg _ (portArrive_joins hl hp),
      fun x => congrArg _ (portArrive_joins hl hp), fun d x => congrArg _ (portArrive_joins hl hp)⟩,
    fun ht => congrArg _ ((if_pos ht).trans (if_pos ht)), fun hl => ⟨fun pa e s1 h => ?_, fun c i s1 h => ?_, fun pa e s1 h hr => ⟨fun ht => ?_, ?_⟩,
      fun pa e s1 h hr => ⟨fun ho hc => ?_, fun ho hc => ?_, fun ho hc => ?_, fun ho hc => ?_⟩, fun hx ho ha hv => ?_, fun hx ho ha hv => ?_⟩,
    fun h => ⟨_, _, congrArg Host.Outcome.next (if_neg (ne_true h)), rfl, rfl, rfl⟩, fun h => congrArg _ (if_pos h),
    ⟨fun h => congrArg Host.Outcome.next (peerMarkerAcked_none h), fun e h hp => congrArg Host.Outcome.next (peerMarkerAcked_some h hp)⟩,
    fun h1 h2 h => ?_⟩
  · exact congrArg _ ((if_neg (ne_true ht)).trans (portArrive_joins hl hp))
  · exact congrArg _ ((portArrive_acts hl).trans (peerRead_ok h))
  · exact congrArg _ ((portArrive_acts hl).trans (peerRead_failed h))
  · show Host.Outcome.next (if m.withTag then s.peerWrite m else s.portArrive m 1 .peerWriteRequest fun s => s.peerWrite m) = _
    rw [if_neg (ne_true ht), portArrive_acts hl, State.peerWrite, if_neg (ne_true ht), peerWriteNow_ok h hr]
    rfl
  · exact congrArg _ ((portArrive_acts hl).trans (peerWriteNow_ok h hr))
  · refine congrArg _ ((portArrive_acts hl).trans ((peerAtomic_ok h hr (.inl ⟨.inl ho, hc⟩)).trans ?_))
    rw [if_neg (by rw [ho]; exact nofun)]
    rfl
  · refine congrArg _ ((portArrive_acts hl).trans ((peerAtomic_ok h hr (.inl ⟨.inr ho, hc⟩)).trans ?_))
    rw [if_pos ho]
    rfl
  · refine congrArg _ ((portArrive_acts hl).trans ((peerAtomic_ok h hr (.inr ⟨ho, hc⟩)).trans ?_))
    rw [if_neg (by rw [ho]; exact nofun)]
    rfl
  · exact congrArg _ ((portArrive_acts hl).trans (peerAtomic_counter_type h hr ho hc))
  · exact congrArg _ ((portArrive_acts hl).trans (peerAnswer_read hx ha hv ho))
  · exact congrArg _ ((portArrive_acts hl).trans (peerAnswer_write hx ha hv ho))
  · have report := (reportArrive_unmatched h).trans (remoteReport_live (dev := dev) (cause := cause) (op := op) (pva := pva) h1 h2)
    exact ⟨fun hn => congrArg _ (report.trans (by rw [if_pos hn])), fun hn => congrArg _ (report.trans (by rw [if_neg (Nat.not_lt.2 hn)]))⟩
end

section
/-!
PROOFS. Walks, fault replies, invalidations, migrations and storage errors (R139 to R146, R156 to R158).
-/

namespace Sys2Proof.Machine

variable {s s1 : State} {cl wid o k f core b : Nat} {w : Walk} {e : RingEntry} {i : Inval} {key : PageKey} {m : Migration}

/-! Walks (R139). -/

section
variable (hw : ((s.cluster cl).walks.find? fun w => w.id == wid) = some w)
include hw

theorem walkRead_busy (hr : regionOf w.addr = .lp6) (ht : s.tableRefused w.owner w.addr false = none) (hb : s.busy (w.addr / 64) = true) :
    s.walkRead cl wid = s.defer (walkReq w) := by
  have goes : ¬ (regionOf w.addr ≠ .lp6 ∨ (s.tableRefused w.owner w.addr false).isSome = true) := by rw [ht]; exact fun h => h.elim (· hr) nofun
  rw [State.walkRead, hw]
  exact (if_neg goes).trans (if_pos hb)

theorem walkRead_here (hr : regionOf w.addr = .lp6) (ht : s.tableRefused w.owner w.addr false = none) (hb : s.busy (w.addr / 64) = false)
    (hl : lineHere s w.addr = true) : s.walkRead cl wid = (s.respond (walkReq w) []).walkServe cl wid := by
  have goes : ¬ (regionOf w.addr ≠ .lp6 ∨ (s.tableRefused w.owner w.addr false).isSome = true) := by rw [ht]; exact fun h => h.elim (· hr) nofun
  rw [State.walkRead, hw]
  exact (if_neg goes).trans ((if_neg (ne_true hb)).trans (atLine_here (r := walkReq w) hl))

theorem walkServe_go {w' : Walk} (h : s.walkStep w = (.go w', s1)) :
    s.walkServe cl wid = (s1.modCluster cl fun k => { k with walks := mapIf (fun x => x.id == wid) (fun _ => w') k.walks }).walkAsk w' := by
  unfold State.walkServe
  simp only [hw, h]

theorem walkServe_ok {e : TlbEntry} (h : s.walkStep w = (.fin (.ok e), s1)) :
    s.walkServe cl wid = ((s1.tlbFill w.core e).modCluster cl fun k => { k with walks := k.walks.filter fun x => x.id != wid }).wakeIf fun m x =>
      clusterOf (coreOf m) == cl && x == .walk := by
  unfold State.walkServe
  simp only [hw, h]

end

theorem cluster_wakeIf (p : Nat → Wait → Bool) (n : Nat) : (s.wakeIf p).cluster n = s.cluster n := rfl

/-! Replies to fault messages (R144). -/

section
variable (ho : o ≠ 16)
include ho

theorem takeReply_noRing (hf : (s.owner o).fqFrame = none) : s.takeReply o k = s := by
  unfold State.takeReply
  rw [if_neg ho, hf]

variable (hf : (s.owner o).fqFrame = some f) (he : ((s.owner o).ring.find? fun e => e.k % 256 == k) = some e)
include hf he

theorem takeReply_unanswered (h : isFullWord (s.coherent (f + 64 * k + 56)).2 (f + 64 * k + 56) = false) : s.takeReply o k = s := by
  unfold State.takeReply
  rw [if_neg ho, hf, he]
  exact if_pos h

theorem takeReply_retry {a : Nat} (ha : f + 64 * k + 56 = a) (h : isFullWord (s.coherent a).2 a = true)
    (hr : blockBytes (s.coherent a).1 56 8 % 4 = 0) :
    let s1 := (s.slotUpdate o (8 * e.cluster) (128 * e.cluster) a false fun d t => (d, setFullWord t a false)).modOwner o fun w => { w with
      ring := w.ring.filter fun x => x.k != e.k }
    s.takeReply o k = (s1.wakeIf fun m w => w == .ringFull && tableOwner (s1.ctx m).owner (s1.ctx m).level == o).retryEntry e := by
  intro s1
  unfold State.takeReply
  rw [if_neg ho, hf, he]
  simp only [ha, h, hr, Bool.true_eq_false, if_false]
  rfl

end

theorem takeReply_firmware (hk : k < 2 ^ 20) : s.takeReply 16 k = s.wakeIf fun m w => m == k && w == .faultReply := by
  have context : ¬ 2 ^ 20 ≤ k := Nat.not_le.2 hk
  unfold State.takeReply
  rw [if_pos rfl, if_neg context]

/-! Invalidations (R140). -/

theorem tlb_invalidateTlb : ((s.invalidateTlb core i).core core).tlb = (s.core core).tlb.filter fun e => !(Inval.covers i e) := by
  have filtered : ((s.modCore core fun c => { c with tlb := c.tlb.filter fun e => !(Inval.covers i e) }).core core).tlb
      = (s.core core).tlb.filter fun e => !(Inval.covers i e) := by rw [State.core_modCore]
  unfold State.invalidateTlb
  simp only []
  split <;> exact filtered

/-- An invalidation of every page of a SPACE covers each entry of it. -/
theorem covers_space {e : TlbEntry} (ha : i.all = true) (h2 : i.stage2 = false) (ho : e.owner = i.owner) (hs : e.space = i.space) :
    Inval.covers i e = true := by
  simp [Inval.covers, ha, h2, ho, hs]

/-! Migrations (R156). -/

theorem migrationDone_unknown (h : ∀ m ∈ s.migrations, m.key ≠ key) : s.migrationDone key = s := by
  have none : (s.migrations.find? fun m => m.key == key && m.until_.isNone) = none := List.find?_eq_none.2 fun m hm => by simp [h m hm]
  rw [State.migrationDone, none]

theorem migrationDone_holds (hm : s.migrations = [m]) (hk : m.key = key) (hu : m.until_ = none) (hd : m.device = false) :
    s.migrationDone key = { s with migrations := [{ m with until_ := some (s.dtc + 48000) }] } := by
  have found : (s.migrations.find? fun m => m.key == key && m.until_.isNone) = some m := by simp [hm, hk, hu]
  rw [State.migrationDone, found]
  simp only [if_neg (ne_true hd), hm]
  simp [mapIf, hk]

theorem hostRequest_pinned (h : s.pinned key = true) : s.hostRequest key = s.report (.remoteMapping key false) := by
  rw [State.hostRequest, State.migrationLock, if_pos h]

theorem hostRequest_takes (h : s.pinned key = false) (hm : ∀ m ∈ s.migrations, m.key ≠ key) :
    s.hostRequest key = { s with migrations := s.migrations ++ [⟨key, false, none, none, s.dtc⟩] } := by
  have none : (s.migrations.find? fun m => m.key == key) = none := List.find?_eq_none.2 fun m hx => by simp [hm m hx]
  rw [State.hostRequest, State.migrationLock, if_neg (ne_true h), none]

theorem holdExpire_past {t : Word} (hm : s.migrations = [m]) (hk : m.key = key) (hu : m.until_ = some t) (ht : t ≤ s.dtc) :
    s.holdExpire key = { s with migrations := [] } := by
  simp [State.holdExpire, hm, hk, hu, ht]

theorem holdExpire_future {t : Word} (hm : s.migrations = [m]) (hk : m.key = key) (hu : m.until_ = some t) (ht : s.dtc < t) :
    s.holdExpire key = s := by
  have kept : (s.migrations.filter fun m => !(m.key == key && (match m.until_ with
      | some t => decide (t ≤ s.dtc)
      | none => false))) = s.migrations := by simp [hm, hk, hu, ht]
  exact congrArg (fun l => ({ s with migrations := l } : State)) kept

/-! Storage errors (R157, R158). -/

theorem storageErr_localStore (h : (s.core core).windowAt (64 * b) = none) :
    s.storageErr (.localStore core b) .failed = s.modCore core fun k => { k with dead := addNew k.dead b } := by
  unfold State.storageErr
  simp only [decide_true, if_true]
  rw [h]
  rfl

end Sys2Proof.Machine

open Sys2Proof Sys2Proof.Machine

/-- Settles O46: a step of a walk by what it reads, a reply by its code, and the others by the entries that they name. -/
theorem translationEvents : Obligations.TranslationEvents := by
  intro s cl wid o k core b inv key walk
  refine ⟨fun h => ?_, fun w hw hr ht => ⟨fun hb => congrArg _ (walkRead_busy hw hr ht hb), fun hb hl => ?_⟩,
    fun f e ho hf he => ?_,
    fun ho hf => congrArg _ (takeReply_noRing ho hf), ?_, rfl, fun ha h2 => ⟨_, rfl, fun e he ho => .inl fun hs => ?_⟩,
    fun h => congrArg _ (migrationDone_unknown h), fun m hm hk hu hd => congrArg _ (migrationDone_holds hm hk hu hd),
    fun h => congrArg _ (hostRequest_pinned h), fun h hm => congrArg _ (hostRequest_takes h hm),
    fun m t hm hk hu => ⟨fun ht => congrArg _ (holdExpire_past hm hk hu ht), fun ht => congrArg _ (holdExpire_future hm hk hu ht)⟩,
    rfl, rfl, rfl, rfl, rfl, rfl, rfl, fun h => congrArg _ (storageErr_localStore h)⟩
  · show Host.Outcome.next (s.walkRead cl wid) = _
    rw [State.walkRead, show ((s.cluster cl).walks.find? fun w => w.id == wid) = none from h]
  · intro t
    have run : exec (.pageWalkRead cl wid) s = .next (t.walkServe cl wid) := congrArg _ (walkRead_here hw hr ht hb hl)
    refine ⟨run, fun w' s1 hw' h => run.trans (congrArg _ (walkServe_go hw' h)), fun e s1 hw' h => ⟨_, run, ?_⟩⟩
    rw [walkServe_ok hw' h, cluster_wakeIf, cluster_modCluster]
    simp
  · intro a
    refine ⟨fun h => congrArg _ (takeReply_unanswered ho hf he h), fun h hr => ?_⟩
    exact congrArg Host.Outcome.next (takeReply_retry (a := a) ho hf he rfl h hr)
  · rintro rfl hk
    exact congrArg _ (takeReply_firmware hk)
  · have kept : e ∈ (s.core core).tlb.filter fun e => !(Inval.covers inv e) := tlb_invalidateTlb (s := s) ▸ he
    exact absurd (covers_space ha h2 ho hs) (by simpa using (List.mem_filter.1 kept).2)
end

section
/-!
PROOFS. Streams, saves, restores, held traps, wait limits and aborts (R194, R199, R202, R205 to R210, R218, R219, R225, R254).
-/

namespace Sys2Proof.Machine

variable {s t : State} {n id core line rec : Nat} {p : Port} {w : Word} {sv : Saved}

/-! Streams (R199, R352). -/

/-- The only port, not open yet, is opened by the head flit. -/
theorem exec_streamHeadFlit {q : BitVec 3} (hs : s.ports = [(id, p)]) (hr : p.receiver = n) (hq : p.reg = 56 + q.toNat) (ho : p.opened = false)
    (hd : p.discard = false) : ∃ t, exec (.streamHeadFlit n q) s = .next t ∧ t.ports = [(id, { p with opened := true })] := by
  show ∃ t, execStreamHeadFlit n q s = .next t ∧ _
  have found : (s.ports.find? fun e => e.2.receiver == n && e.2.reg == qReg q && !e.2.opened && !e.2.discard) = some (id, p) := by
    simp [hs, hr, hq, ho, hd, qReg]
  have alone : (s.ports.any fun f => f.1 != id && f.2.receiver == n && f.2.reg == qReg q && f.2.opened && !f.2.closed && !f.2.discard) = false := by
    simp [hs]
  rw [execStreamHeadFlit]
  simp only [found, alone]
  refine ⟨_, rfl, ?_⟩
  show tset s.ports id { p with opened := true } = _
  simp [hs, tset]

theorem exec_streamWordArrive {marker : Bool} (hp : tget s.ports id = some p) (hd : p.discard = false) (he : (s.ctx p.receiver).state ≠ .ended) :
    ∃ t, exec (.streamWordArrive id marker w) s = .next t ∧ t.ports = tset s.ports id (if marker then { p with marker := true, closed := true }
      else { p with flight := p.flight - 1, words := p.words ++ [w] }) := by
  show ∃ t, execStreamWordArrive id marker w s = .next t ∧ _
  have kept : (p.discard || (match (s.ctx p.receiver).state with
      | .ended => true
      | _ => false)) = false := by
    rw [hd]
    cases hs : (s.ctx p.receiver).state with
    | ended => exact absurd hs he
    | _ => rfl
  have listed : ¬ (marker = true ∧ p.discard = true) := by rw [hd]; exact fun h => absurd h.2 nofun
  rw [execStreamWordArrive, hp]
  refine ⟨_, rfl, (if_neg listed).trans (congrArg (tset s.ports id) ?_)⟩
  have words : (if (p.discard || (match (s.ctx p.receiver).state with
      | .ended => true
      | _ => false)) = true then [] else p.words ++ [w]) = p.words ++ [w] := if_neg (ne_true kept)
  cases marker with
  | true => rfl
  | false => exact congrArg (fun l => ({ p with flight := p.flight - 1, words := l } : Port)) words

/-! A member of a gang (R202). -/

theorem exec_gangForward {g : Gang} {pc npc : Word} {head : BitVec 16} {tail : BitVec 96} (hg : (s.ctx n).gang = some g) :
    exec (.gangForward n pc npc head tail) s = .next (s.modCtx n fun c =>
      if g.attached then { c with buffer := c.buffer ++ [⟨pc, npc, head, tail⟩] } else c) := by
  show execGangForward n pc npc head tail s = _
  simp only [execGangForward, State.modCtx, hg]

/-! Saves (R205 to R209). -/

theorem exec_preemptRequest (hn : n % 16 ≠ 0) (hg : (s.ctx n).gang = none) (hs : (s.ctx n).state = .live) :
    exec (.preemptRequest n) s = .next (s.modCtx n fun c => { c with saveReq := true }) := by
  have alone : s.gangAll n = [n] := by rw [State.gangAll, hg]
  show execPreemptRequest n s = _
  simp only [execPreemptRequest, alone, List.foldl_cons, List.foldl_nil, if_neg hn, hs]

theorem exec_forcedSave (hn : n % 16 ≠ 0) (hs : (s.ctx n).state = .live) : exec (.forcedSave n) s = .next (s.fullSave n) := by
  show execForcedSave n s = _
  rw [execForcedSave, if_neg hn, hs]

/-- A context with nothing outstanding has its record written, and leaves its slot. -/
theorem exec_saveDone {g : BitVec 64} {v : BitVec 32} (hs : (s.ctx n).state = .saving) (hp : (s.ctx n).producers = []) (hq : s.quiet n = true)
    (hc : s.copies = []) (ha : ((s.ctx n).task.map (·.acc)).getD [] = [])
    (hm : (s.ctx n).saveMask.getD (BitVec.allOnes 64, BitVec.allOnes 32) = (g, v)) (hw : s.writeRecord n g v = .ok t) :
    exec (.saveDone n) s = .next (t.leaveSlot n false) := by
  have idle : ¬ (s.quiet n = false ∨ (s.copies.any fun q => q.ctx == some n && q.asked) = true) := by
    rw [hq, hc]
    exact fun h => h.elim nofun nofun
  show execSaveDone n s = _
  unfold execSaveDone
  refine (if_neg (not_not_intro hs)).trans ?_
  rw [hp]
  refine (if_neg Bool.false_ne_true).trans ?_
  refine (if_neg idle).trans ?_
  rw [hm, ha]
  refine (if_neg Bool.false_ne_true).trans ?_
  rw [List.foldl_nil, hw]

theorem reissueAll_none (h : (s.ctx n).reissue = []) : s.reissueAll n = s.modCtx n fun c => { c with reissue := [] } := by
  rw [State.reissueAll, h]
  rfl

/-- A save that a full Cupboard refuses leaves its context running, and is due again in 2,400 cycles. -/
theorem exec_saveWriteFault (hs : (s.ctx n).state = .saving) (hc : (s.core (coreOf n)).cupboard.isSome = true) :
    ∃ t, exec (.saveWriteFault n) s = .next t
      ∧ ((s.ctx n).reissue = [] → (t.ctx n).state = .live ∧ (t.ctx n).retryAt = some (s.dtc + 2400)) := by
  refine ⟨_, (if_neg (not_not_intro hs)).trans (if_pos hc), fun hr => ?_⟩
  rw [reissueAll_none (by rw [State.ctx_modCtx]; exact hr), State.ctx_modCtx, State.ctx_modCtx]
  exact ⟨rfl, rfl⟩

/-- The save of one context of a core that is due again. -/
def State.retrySave (core : Nat) (s : State) (k : Nat) : State :=
  match (s.ctx (16 * core + k)).retryAt with
  | some t => if t ≤ s.dtc then ((s.modCtx (16 * core + k) fun c => { c with retryAt := none }).post [.forcedSave (16 * core + k)]) else s
  | none => s

theorem foldl_retrySave_none (l : List Nat) (h : ∀ k ∈ l, (s.ctx (16 * core + k)).retryAt = none) : l.foldl (State.retrySave core) s = s := by
  induction l with
  | nil => rfl
  | cons k l ih =>
    rw [List.foldl_cons, State.retrySave, h k (List.mem_cons_self ..)]
    exact ih fun j hj => h j (List.mem_cons_of_mem _ hj)

theorem exec_cupboardRetry (h : ∀ h, h < 16 → (s.ctx (16 * core + h)).retryAt = none) : exec (.cupboardRetry core) s = .next s := by
  show Host.Outcome.next ((upTo 16).foldl (State.retrySave core) s) = _
  rw [foldl_retrySave_none _ fun k hk => h k (by simpa [upTo] using hk)]

/-! Restores (R204, R207 to R210). -/

theorem exec_contextRestore_alone (hv : tget s.saved rec = some sv) (hg : s.gangSaved rec = []) (hn : n % 16 ≠ 0) (hr : s.restorable rec n = true)
    (hc : sv.core = coreOf n) (hf : ∀ e ∈ s.saved, e.1 = rec ∨ (s.ctx e.1).raised = none) :
    exec (.contextRestore rec n) s = .next (s.restoreInto rec n sv) := by
  have notFirst : ((s.ctx rec).raised.isNone && s.saved.any fun e => e.1 != rec && e.2.core == coreOf n && (s.ctx e.1).raised.isSome) = false := by
    refine Bool.and_eq_false_imp.2 fun _ => List.any_eq_false.2 fun e he => ?_
    obtain h | h := hf e he <;> simp [h]
  show execContextRestore rec n s = _
  simp only [execContextRestore, hv, hg, List.isEmpty_nil, if_neg hn, hr, notFirst, hc, Bool.true_eq_false, if_false, Bool.not_false, Bool.and_true,
    if_true, ne_eq, not_true, false_and]

theorem exec_contextRestore_gang (hv : tget s.saved rec = some sv) (hg : s.gangSaved rec ≠ []) (hr : s.gangRestorable rec (s.gangSaved rec) = true) :
    exec (.contextRestore rec n) s = .next ((s.gangSaved rec).foldl (fun s e => s.restoreInto e.1 e.2.num e.2) s) := by
  show execContextRestore rec n s = _
  have gang : (s.gangSaved rec).isEmpty = false := by simpa using hg
  simp only [execContextRestore, hv, gang, hr, if_true]

/-! Held traps, wait limits and aborts (R194, R218, R219, R225). -/

theorem exec_asyncTrap_memerr {va : Word} (hl : (s.ctx n).level ≠ .f) (he : (s.ctx n).ecause.getLsbD 10 = false) (hs : (s.ctx n).state = .live)
    (ha : (s.ctx n).async.memerr = some va) : exec (.asyncTrap n) s =
      .next ((s.modCtx n fun c => { c with async := { c.async with memerr := none, physical := false } }).takeTrap n (s.ctx n).pc .memerr va
        (if (s.ctx n).async.physical then 1 else 0) true) := by
  have taken : ¬ ((s.ctx n).level = .f ∨ (s.ctx n).ecause.getLsbD 10 = true) := fun h => h.elim hl fun h => Bool.false_ne_true (he.symm.trans h)
  show execAsyncTrap n s = _
  rw [execAsyncTrap]
  refine (if_neg taken).trans ?_
  rw [hs, ha]
  rfl

theorem exec_waitlimExpire_queue {r : Nat} (hs : (s.ctx n).state = .blocked (.queue r)) (he : (s.ctx n).expired s.dtc = true) :
    exec (.waitlimExpire n) s = .next ((s.dropWaits n).takeTrap n (s.ctx n).pc .waitlim (BitVec.ofNat 64 r) 0 false) := by
  show execWaitlimExpire n s = _
  rw [execWaitlimExpire, hs]
  exact if_pos he

theorem exec_waitlimExpire_early (he : (s.ctx n).expired s.dtc = false) : exec (.waitlimExpire n) s = .next s := by
  show execWaitlimExpire n s = _
  simp only [execWaitlimExpire]
  split
  · exact if_neg (ne_true he)
  · rfl

theorem saved_freeLocks (s : State) (core op : Nat) : (s.freeLocks core op).saved = s.saved := rfl

theorem saved_dropEngines (s : State) (n : Nat) : (s.dropEngines n).saved = s.saved := by
  have tiles (l : List Tile) (t : State) : (l.foldl (fun s x => s.freeLocks x.core x.id) t).saved = t.saved := by
    induction l generalizing t with
    | nil => rfl
    | cons x l ih => exact (ih _).trans (saved_freeLocks ..)
  have copies (l : List CopyReq) (t : State) : (l.foldl (fun s x => s.freeLocks x.core x.id) t).saved = t.saved := by
    induction l generalizing t with
    | nil => rfl
    | cons x l ih => exact (ih _).trans (saved_freeLocks ..)
  exact (copies _ _).trans (tiles _ _)

theorem exec_taskAbort_settled (h : s.orphan n = false) : exec (.taskAbort n) s = .next s :=
  if_pos (.inr (.inr (.inr (.inr h))))

theorem exec_taskAbort_running (hn : n % 16 ≠ 0) (hs : (s.ctx n).state = .live) (ho : s.orphan n = true) (hv : tget s.saved n = none)
    (hl : ((s.ctx n).task.bind (·.launch)) = none) :
    exec (.taskAbort n) s = .next (((s.dropEngines n).stopAt n 0x100).freed (s.ctx n).owner) := by
  have runs : ¬ (n % 16 = 0 ∨ (s.ctx n).state = .free ∨ (s.ctx n).state = .ended ∨ (s.ctx n).state = .away ∨ s.orphan n = false) := by
    rw [hs, ho]
    exact fun h => h.elim hn fun h => h.elim nofun fun h => h.elim nofun fun h => h.elim nofun nofun
  show execTaskAbort n s = _
  simp only [execTaskAbort, if_neg runs, saved_dropEngines, hv, hl]

/-! Lines (R130, R254). -/

theorem icache_fillLine (data : Block) : tget ((s.fillLine core line data).core core).icache line = some ⟨data⟩ := by
  unfold State.fillLine
  simp only [core_wakeIf, State.core_modCore, tget_tset_same]

end Sys2Proof.Machine

open Sys2Proof Sys2Proof.Machine

/-- Settles O47: each step by the state of the port, context or record that it names. -/
theorem contextEvents : Obligations.ContextEvents := by
  intro s ctx core id line rec q w pc npc head tail data c
  refine ⟨fun p => exec_streamHeadFlit, fun p hp hd he => ⟨exec_streamWordArrive (marker := false) hp hd he, exec_streamWordArrive (marker := true) hp hd he⟩,
    fun g => exec_gangForward, exec_preemptRequest, fun hn => if_pos hn, exec_forcedSave, fun hs => ⟨if_pos hs, if_pos hs⟩,
    fun hs hp hq hc ha t => exec_saveDone hs hp hq hc ha rfl, exec_saveWriteFault, exec_cupboardRetry, fun hv => ?_,
    fun sv hv => ⟨exec_contextRestore_alone hv, exec_contextRestore_gang hv⟩, fun hl he hs va => exec_asyncTrap_memerr hl he hs,
    fun r => exec_waitlimExpire_queue, exec_waitlimExpire_early, exec_taskAbort_settled, exec_taskAbort_running, ⟨_, rfl, icache_fillLine data⟩⟩
  show execContextRestore rec ctx s = _
  rw [execContextRestore, hv]
end

section
/-!
PROOFS. No instruction and no step of the hardware ends in a fault (log 10).
-/

namespace Sys2Proof.Machine

variable (s : State)

/-- An outcome that is no fault: a next state, or a device register. -/
def Settled (o : Host.Outcome State Fault Refusal) : Prop := (∃ t, o = .next t) ∨ ∃ pa, o = .refused (.deviceRegister pa)

theorem settled_next : Settled (.next s) := .inl ⟨_, rfl⟩

theorem settled_runEx (m : Ex Unit) : Settled (runEx m s) := runEx_outcome m s

theorem settled_ite {p : Prop} [Decidable p] {a b : Host.Outcome State Fault Refusal} (ha : Settled a) (hb : Settled b) :
    Settled (if p then a else b) := by
  split
  · exact ha
  · exact hb

theorem settled_saveDone (n : Nat) : Settled (execSaveDone n s) := by
  unfold execSaveDone
  refine settled_ite (settled_next _) (settled_ite (settled_next _) (settled_ite (settled_next _) ?_))
  obtain ⟨g, v⟩ := (s.ctx n).saveMask.getD (BitVec.allOnes 64, BitVec.allOnes 32)
  refine settled_ite (settled_next _) ?_
  split
  · exact settled_next _
  · exact settled_next _

theorem settled_saveWriteFault (n : Nat) : Settled (execSaveWriteFault n s) := by
  unfold execSaveWriteFault
  refine settled_ite (settled_next _) (settled_ite (settled_next _) ?_)
  obtain ⟨g, v⟩ := (s.ctx n).saveMask.getD (BitVec.allOnes 64, BitVec.allOnes 32)
  exact settled_next _

theorem settled_asyncTrap (n : Nat) : Settled (execAsyncTrap n s) := by
  have sliceend (st : CtxState) : Settled (match (s.ctx n).async.sliceend with
      | some t =>
        if (s.ctx n).sliceReady && st.sliceWait then
          .next ((((s.dropWaits n).dropReply n).withdrawAll n).takeTrap n (s.ctx n).pc .sliceend t 0 false)
        else .next s
      | none => .next s) := by
    split
    · exact settled_ite (settled_next _) (settled_next _)
    · exact settled_next _
  unfold execAsyncTrap
  refine settled_ite (settled_next _) ?_
  generalize (s.ctx n).state = st, (s.ctx n).async.memerr = m, (s.ctx n).reports = l
  cases st with
  | live =>
    cases m with
    | some va => exact settled_next _
    | none =>
      cases l with
      | cons r rest => exact settled_next _
      | nil => exact sliceend _
  | _ => exact sliceend _

theorem settled_copyComplete (cl e id : Nat) : Settled (execCopyComplete cl e id s) := by
  unfold execCopyComplete
  split
  · exact settled_next _
  · refine settled_ite (settled_next _) (settled_ite (settled_next _) ?_)
    split
    · exact settled_next _
    · refine settled_ite (settled_next _) ?_
      split <;> exact settled_next _

/-- An instruction's effect, or a step of the hardware that has one outcome or picks one by the state. -/
theorem settled_exec (i : Instr) : Settled (exec i s) := by
  cases i
  case nop | add | sub | addw | subw | and | or | xor | andn | shl | shr | sar | rol | seq | sne | slt | sltu | min | max | minu | maxu | mul | mulh
    | mulhu | mulw | div | divu | rem | remu | addi | andi | ori | xori | slti | sltiu | shli | shri | sari | addwi | li | liw | lid | clz | ctz |
    popc | bswap | sextB | sextH | sextW | zextW | extu | exts | ins | sel | lpc | fadd | fsub | fmul | fdiv | fmin =>
    exact settled_runEx _ _
  case fmax | fsqrt | fclass | ffma | ffms | fnma | fnms | feq | flt | fle | fcvtWF | fcvtFW | fcvtBfF | fcvtFBf | fcvtHF | fcvtFH | beq | bne | blt
    | bge | bltu | bgeu | jal | jalr | safept | ldB | ldBu | ldH | ldHu | ldW | ldWu | ldD | stB | stH | stW | stD | lda | stl | vld | vldNt | vst |
    vstNt | vstKeep | ldt | stt | ldtTag | sttTag | prefL1 | prefLlc | prefWin | cflush | cclean | cinval | wmap | wunmap | wflush | wdrop | wstat |
    cbld | cbst =>
    exact settled_runEx _ _
  case amoAdd | amoAnd | amoOr | amoXor | amoMin | amoMax | amoMinu | amoMaxu | amoSwap | amoCas | amoFadd | redAdd | redAnd | redOr | redXor |
    redMin | redMax | redMinu | redMaxu | redFadd | take | trytake | put | putx | waitw | fence | acqr | relr | migrate | rethome | jcinit | jcdec |
    jcwait | barinit | bararr | barwait | vadd | vsub | vmul | vfma | vmin | vmax | vrcp | vrsqrt | vexp2 | vlog2 | vabs | vneg | vcmpEq | vcmpNe |
    vcmpLt | vcmpLe | vsel | vand | vor | vxor | vandn | vshl | vshr | vsar =>
    exact settled_runEx _ _
  case vcvt | vsum | vrmax | vrmin | vperm | vbcast | vins | vextr | vlut | vdot | vtagg | vtags | vmov | vscale | push | copy | waitt | qbind |
    qunbind | qstat | sopen | sclose | start | reap | endTask | yield | apply | post | mkfn | mkco | mkseq | mkpar | mkpipe | mkfarm | mkloop |
    cresume | cyield | gform | gleave | gjoin | gend | rand | reseed | exq | exh | mfs | mts | svc | eret | brk | tlbi1 | tlbi2 | tlbsync =>
    exact settled_runEx _ _
  case linkCrcReplay | thermalEvent | thermalStop | channelRefreshSlot | wstoreRefresh | wsopen | functionLevelReset | peerLaunch |
    diffusionRecordArrive | frameStart | benchBackoffRetry | peerReadRequest | peerWriteRequest | peerAtomicRequest | peerTagMessage |
    peerFenceMarker | peerMarkerAck | peerResponse | remoteFaultReport | pageWalkRead | faultReply | invalidationArrive | pageMigrationDone |
    hostPageRequest | migrationHoldExpire | homeRds | homeRdx | homeUpg | homeWb | homeInvAck | homeFwdDone | homeAckMiss | homeAckStale | l1Data |
    l1Grant | l1Inv | l1FwdS | l1FwdX | l1WbAck | homeMerge | mergeAck | windowFill | homeAmo | homeRed | homeTake | homeTrytake | homeWaitw |
    homePut | homePutx | homeJcdec | homeJcwait | homeBararr | homeBarwait | homeWsWrite | homeWsLoad | homeWithdraw | fenceMarker | markerAck |
    storageError | producerArrive | gangForward | waittWake | instructionLineFill | homeJcinit | homeBarinit | homeTagWrite =>
    exact settled_next _
  case saveDone n => exact settled_saveDone s n
  case saveWriteFault n => exact settled_saveWriteFault s n
  case asyncTrap n => exact settled_asyncTrap s n
  case copyComplete cl e id => exact settled_copyComplete s cl e id
  all_goals
    dsimp only [exec, execDtcTick, execDeviceReset, execLinkRetrain, execLinkRetrainEnd, execPowerCapHold, execChannelSlot, execLp6ReadRepeat,
      execNotify, execVcpTakeRecord, execLaunch, execCmdCopy, execWait, execWaitMet, execWaitTimeout, execSignal, execWsopenComplete, execWsclose,
      execIndirect, execRecordComplete, execShadowQcbWrite, execFeatCommit, execHostBar2Access, execRegisterWrite, execLayoutCommit,
      execLayoutDiscard, execLayoutQuiesceDone, execLayoutSweepDone, execLayoutSwap, execPoolSliceEnd, execSliceendForceSave, execPoolSwitchDone,
      execLaunchAge, execLaunchDeadlineExpire, execPorterSelect, execReserveComplete, execReserveRollback, execLaunchRetry,
      execForeignReserveRequest, execCommitDone, execPreemptSavesDone, execInboxRecordArrive, execCompositeInstantiate, execGtqSegmentTake,
      execDiffusionTick, execTileJcNotify, execTileSlot, execTileKStep, execTileOverrun, execTileTaskComplete, execAccSlotSave, execSlotServe,
      execSliceRequestArrive, execSweepStep, execWaitlimExpire, execStreamHeadFlit, execStreamWordArrive, execPreemptRequest, execForcedSave, execCupboardRetry, execContextRestore, execTaskAbort]
    repeat' split
    all_goals exact settled_next _

end Sys2Proof.Machine

open Sys2Proof Sys2Proof.Machine

/-- Settles O48: an instruction's effect runs to its end or stops at a device register, and every branch of a step of the hardware is a next state. -/
theorem neverFaults : Obligations.NeverFaults := fun i s => settled_exec s i
end

section
/-!
PROOFS. Words written out in the encoding tables (R265).
-/

open Sys2Proof Sys2Proof.Machine

/-- Settles O50: each decodes by evaluation. -/
theorem decodeWords : Obligations.DecodeWords := by
  unfold Obligations.DecodeWords
  decide
end

section
/-!
PROOFS. Reserved encodings and malformed lines (R252, R253, R256, R266).
-/

namespace Sys2Proof.Machine

variable {h : BitVec 16} {t : BitVec 96}

/-- The opcodes to which the map gives no instruction (R265). -/
def ReservedOp (op : Nat) : Prop :=
  (0x11 ≤ op ∧ op ≤ 0x1F) ∨ (0x29 ≤ op ∧ op ≤ 0x2B) ∨ (0x3D ≤ op ∧ op ≤ 0x3F) ∨ (0x47 ≤ op ∧ op ≤ 0x4F) ∨ (0x62 ≤ op ∧ op ≤ 0x67)
    ∨ (0x6D ≤ op ∧ op ≤ 0x6F) ∨ (0x75 ≤ op ∧ op ≤ 0x77) ∨ (0x79 ≤ op ∧ op ≤ 0x7B) ∨ op = 0x7F

theorem opTlc_reserved {op : BitVec 7} (h : ReservedOp op.toNat) : opTlc op = none := by
  unfold ReservedOp at h
  revert h
  revert op
  decide

theorem opTlc_range (op : BitVec 7) : opTlc op ≠ some 6 ∧ opTlc op ≠ some 7 := by
  revert op
  decide

theorem decode_otherTail (hne : opTlc (headOp h) ≠ some (headTlc h)) : decode h t = none := if_neg hne

theorem decode_op0_field (ho : (headOp h).toNat = 0) (ha : headA h ≠ 0) : decode h t = none := by
  have only_none : only (headA h == 0) .nop = none := if_neg (by simpa using ha)
  unfold decode
  rw [ho]
  split
  · exact only_none
  · rfl

/-- A vector operation whose destination field has bit 5 set (R262). -/
theorem decVVV_bit5 {a : GReg} {x : T6} {tys : BitVec 8} {mk : VReg → VSrc → VSrc → Src → BitVec 3 → Instr} (ha : a.getLsbD 5 = true) :
    decVVV a x tys mk = none :=
  if_neg (by simp [-BitVec.getLsbD_eq_getElem, vAok, ha])

theorem decode_vadd_bit5 (ho : (headOp h).toNat = 0x50) (ha : (headA h).getLsbD 5 = true) : decode h t = none := by
  have none : f0 (.ofTail t) (decVVV (headA h) (.ofTail t) ty0to5 .vadd) = none := by rw [decVVV_bit5 ha, f0, ite_self]
  unfold decode
  rw [ho]
  split
  · exact none
  · rfl

/-! The words at the program counter (R252, R253, R256). -/

variable {s : State} {pa : Nat} {e : TlbEntry} {l : ILine}

theorem forwarded_none (hb : s.here.buffer = []) : s.here.forwarded = none := by
  simp only [Ctx.forwarded, hb]
  cases s.here.gang <;> rfl

section
variable (h1 : formOf s.here.pc = .page) (h2 : s.pageOk s.here.pc .exec pa e = true) (h3 : regionOf pa ≠ .host)
  (hl : tget (s.core (coreOf s.cur)).icache (pa / 64) = some l)
include h1 h2 h3 hl

theorem fetchWords_malformed (hm : lineMalformed l.data = true) :
    fetchWords s = .error .done (s.takeTrap s.cur s.here.pc .undef (lineBase s.here.pc) 0 false) := by
  simp [fetchWords, Ex.bind_apply, fetchLine_ok s _ pa e l h1 h2 h3 hl, hm]

theorem fetchWords_noHead (hm : lineMalformed l.data = false) (hh : isHead l.data s.here.pc = false) :
    fetchWords s = .error .done (s.takeTrap s.cur s.here.pc .align s.here.pc 0 false) := by
  simp [fetchWords, Ex.bind_apply, fetchLine_ok s _ pa e l h1 h2 h3 hl, hm, hh]

theorem fetchWords_head (hm : lineMalformed l.data = false) (hh : isHead l.data s.here.pc = true) : fetchWords s =
    .ok (nextPc l.data s.here.pc, lineHead l.data (s.here.pc.toNat % 64 / 2), lineTail l.data (s.here.pc.toNat % 64 / 2)) s := by
  simp [fetchWords, Ex.bind_apply, fetchLine_ok s _ pa e l h1 h2 h3 hl, hm, hh]

end

theorem issue_fetch_fails {u : State} (hb : s.here.buffer = []) (hf : fetchWords s = .error .done u) : issue s = .error .done u := by
  simp [issue, Ex.bind_apply, forwarded_none hb, hb, hf]

/-- Words that decode to no instruction take UNDEF, once they have been counted. -/
theorem issue_undef {npc : Word} (hb : s.here.buffer = []) (hf : fetchWords s = .ok (npc, h, t) s) (hd : decode h t = none) :
    let u := s.modCtx s.cur fun c => { c with npc := npc, head := h, spcount := if c.spcount = 0xFFFF then c.spcount else c.spcount + 1 }
    issue s = .error .done (u.takeTrap s.cur s.here.pc .undef (h.setWidth 64) 0 false) := by
  intro u
  simp [issue, Ex.bind_apply, forwarded_none hb, hb, hf]
  rw [hd]
  simp [State.here]
  rfl

end Sys2Proof.Machine

open Sys2Proof Sys2Proof.Machine

/-- Settles O52: a reserved opcode has no tail length code, and the decoder's other checks fail in turn; issue takes UNDEF where the line is malformed or
its words decode to none. -/
theorem reservedEncodings : Obligations.ReservedEncodings := by
  refine ⟨fun h t => ⟨fun ho => decode_otherTail ?_, fun hk => decode_otherTail ?_, decode_otherTail, decode_op0_field, decode_vadd_bit5⟩,
    fun s pa e l _ hb h1 h2 h3 hl => ⟨fun hm => issue_fetch_fails hb (fetchWords_malformed h1 h2 h3 hl hm),
      fun hm hh => issue_fetch_fails hb (fetchWords_noHead h1 h2 h3 hl hm hh), fun hm hh hd => issue_undef hb (fetchWords_head h1 h2 h3 hl hm hh) hd⟩⟩
  · rw [opTlc_reserved ho]
    exact nofun
  · obtain ⟨h6, h7⟩ := opTlc_range (headOp h)
    obtain hk | hk := hk
    · rwa [hk]
    · rwa [hk]
end

section
/-!
PROOFS. The checks at issue (R43, R191, R266, R267, R297).
-/

namespace Sys2Proof.Machine

variable {s t : State} {g : Group} {i : Instr}

/-- The state in which the current context takes UNDEF. -/
def State.undefined (s : State) : State := s.takeTrap s.cur s.here.pc .undef (s.here.head.setWidth 64) 0 false

/-- The state in which the current context takes PRIV. -/
def State.unprivileged (s : State) : State := s.takeTrap s.cur s.here.pc .priv (s.here.head.setWidth 64) 0 false

theorem bind_stops {α β : Type} {m : Ex α} {k : α → Ex β} (h : m s = .error .done t) : (m >>= k) s = .error .done t := by
  rw [Ex.bind_apply, h]

theorem runEx_bind_stops {α : Type} {m : Ex α} {k : α → Ex Unit} (h : m s = .error .done t) : runEx (m >>= k) s = .next t :=
  runEx_done _ _ _ (bind_stops h)

theorem bind_goes {α β : Type} {m : Ex α} {k : α → Ex β} {x : α} (h : m s = .ok x s) : (m >>= k) s = k x s := by
  rw [Ex.bind_apply, h]

/-! An instruction of a group that is not accepted (R43). -/

section
variable (h : s.mayUse g = false)
include h

theorem runEx_needGroup_undef {k : Unit → Ex Unit} : runEx (needGroup g >>= k) s = .next s.undefined := runEx_bind_stops (needGroup_undef s g h)

theorem vecChecks_group : vecChecks g s = .error .done s.undefined := bind_stops (needGroup_undef s g h)

theorem windowOf_group {b : Src} {ds : List Opnd} (hg : g = .win) : windowOf b ds s = .error .done s.undefined := by
  subst hg
  exact bind_stops (needGroup_undef s .win h)

/-- Every instruction checks its group before anything else. -/
theorem exec_group_refused (hg : groupOf i = some g) : exec i s = .next s.undefined := by
  cases i
  case nop | add | sub | addw | subw | and | or | xor | andn | shl | shr | sar | rol | seq | sne | slt | sltu | min | max | minu | maxu | mul | mulh
    | mulhu | mulw | div | divu | rem | remu | addi | andi | ori | xori | slti | sltiu | shli | shri | sari | addwi | li | liw | lid | clz | ctz |
    popc | bswap | sextB | sextH | sextW | zextW | extu | exts | ins | sel | lpc | fadd | fsub | fmul | fdiv | fmin =>
    cases hg; exact runEx_needGroup_undef h
  case fmax | fsqrt | fclass | ffma | ffms | fnma | fnms | feq | flt | fle | fcvtWF | fcvtFW | fcvtBfF | fcvtFBf | fcvtHF | fcvtFH | beq | bne | blt
    | bge | bltu | bgeu | jal | jalr | safept | ldB | ldBu | ldH | ldHu | ldW | ldWu | ldD | stB | stH | stW | stD | lda | stl | prefL1 | prefLlc |
    prefWin | cflush | cclean | cinval | amoAdd | amoAnd | amoOr | amoXor | amoMin | amoMax | amoMinu | amoMaxu | amoSwap | amoCas | amoFadd |
    redAdd | redAnd | redOr | redXor | redMin =>
    cases hg; exact runEx_needGroup_undef h
  case redMax | redMinu | redMaxu | redFadd | take | trytake | put | putx | waitw | fence | acqr | relr | jcinit | jcdec | jcwait | barinit | bararr
    | barwait | copy | waitt | qbind | qunbind | qstat | sopen | sclose | start | reap | endTask | yield | rand | reseed | mfs | mts | svc | eret |
    brk | tlbi1 | tlbi2 | tlbsync | ldt | stt | ldtTag | sttTag | push | cbld | cbst | apply | post | mkfn | mkco | mkseq | mkpar | mkpipe | mkfarm
    | mkloop | cresume | cyield | gform | gleave | gjoin =>
    cases hg; exact runEx_needGroup_undef h
  case gend | migrate | rethome | exq | exh | wmap =>
    cases hg; exact runEx_needGroup_undef h
  case vld | vldNt | vst | vstNt | vstKeep =>
    cases hg; exact runEx_needGroup_undef h
  case vadd | vsub | vmul | vfma | vmin | vmax | vrcp | vrsqrt | vexp2 | vlog2 | vabs | vneg | vcmpEq | vcmpNe | vcmpLt | vcmpLe | vsel | vand | vor
    | vxor | vandn | vshl | vshr | vsar | vcvt | vsum | vrmax | vrmin | vperm | vbcast | vins | vextr | vdot | vtagg | vtags | vmov | vscale | vlut
    =>
    cases hg; exact runEx_bind_stops (vecChecks_group h)
  case wunmap | wflush | wdrop | wstat =>
    cases hg; exact runEx_bind_stops (windowOf_group h rfl)
  all_goals cases hg

end

/-! A vector instruction without a vector set, or on a channel core (R191). -/

theorem needVector_undef (h : s.here.vset = none ∨ 1024 ≤ coreOf s.cur) : needVector s = .error .done s.undefined := by
  have missing : ¬ (s.here.vset.isSome && !isChannel (coreOf s.cur)) = true := by
    obtain h | h := h <;> simp [h, isChannel]
  simp only [needVector, Ex.bind_apply, Ex.get_apply, Ex.me_apply]
  rw [if_neg missing, undef_apply]
  rfl

section
variable (hu : s.mayUse .vec = true) (hv : s.here.vset = none ∨ 1024 ≤ coreOf s.cur)
include hu hv

theorem vecChecks_noVector : vecChecks .vec s = .error .done s.undefined :=
  (bind_goes (needGroup_ok s .vec hu)).trans (needVector_undef hv)

theorem vecMemory_noVector {k : Unit → Ex Unit} : runEx (needGroup .vec >>= fun _ => needVector >>= k) s = .next s.undefined :=
  runEx_done _ _ _ ((bind_goes (needGroup_ok s .vec hu)).trans (bind_stops (needVector_undef hv)))

theorem exec_noVector (hg : groupOf i = some .vec) : exec i s = .next s.undefined := by
  cases i
  case vld | vldNt | vst | vstNt | vstKeep =>
    exact vecMemory_noVector hu hv
  case vadd | vsub | vmul | vfma | vmin | vmax | vrcp | vrsqrt | vexp2 | vlog2 | vabs | vneg | vcmpEq | vcmpNe | vcmpLt | vcmpLe | vsel | vand | vor
    | vxor | vandn | vshl | vshr | vsar | vcvt | vsum | vrmax | vrmin | vperm | vbcast | vins | vextr | vdot | vtagg | vtags | vmov | vscale =>
    exact runEx_bind_stops (vecChecks_noVector hu hv)
  all_goals cases hg

end

/-! A privileged instruction below its level (R267, R353, R365). -/

theorem exec_level_refused {p : Level → Bool} {k : Unit → Ex Unit} (hu : s.mayUse .base = true) (hl : p s.here.level = false) :
    runEx (needGroup .base >>= fun _ => needLevel p >>= k) s = .next s.unprivileged :=
  runEx_done _ _ _ ((bind_goes (needGroup_ok s .base hu)).trans (bind_stops (needLevel_priv s p hl)))

/-! An address that is not a multiple of its access's size (R297). -/

/-- The state in which the current context takes ALIGN. -/
def State.misaligned (s : State) (va : Word) : State := s.takeTrap s.cur s.here.pc .align va 0 false

section
variable {va : Word} {n off : Nat} (hf : formOf va = .page ∨ formOf va = .localView off) (hn : va.toNat % n ≠ 0)
include hf hn

theorem resolve_misaligned {acc : Acc} : resolve va n n acc s = .error .done (s.misaligned va) := by
  obtain hf | hf := hf <;> (simp [resolve, Ex.bind_apply, hf, hn]; rfl)

variable (hg : s.here.gated = false)
include hg

theorem loadTo_misaligned {d : Dest} {sg vec nt acq : Bool} {fin : Ex Unit} : loadTo d va n sg vec nt acq fin s = .error .done (s.misaligned va) :=
  (bind_goes (gate_ok s hg)).trans (bind_stops (resolve_misaligned hf hn))

theorem storeTo_misaligned {x : Stored} {k : StoreKind} {fin : Ex Unit} : storeTo va n x k none fin s = .error .done (s.misaligned va) :=
  (bind_goes (gate_ok s hg)).trans ((bind_goes rfl).trans (bind_stops (resolve_misaligned hf hn)))

end

section
variable {a : GReg} {b : Src} {m : BitVec 21} {n off : Nat} (hu : s.mayUse .base = true) (hg : s.here.gated = false)
  (hf : formOf (s.gValue b.reg.toNat + m.signExtend 64) = .page ∨ formOf (s.gValue b.reg.toNat + m.signExtend 64) = .localView off)
  (hn : (s.gValue b.reg.toNat + m.signExtend 64).toNat % n ≠ 0)
include hu hg hf hn

theorem load_misaligned {sg : Bool} (hr : s.readable [src b, dst a] = true) :
    runEx (load a b m n sg) s = .next (s.misaligned (s.gValue b.reg.toNat + m.signExtend 64)) := by
  have source : pk1 (src b) [dst a] s = .ok (s.gValue b.reg.toNat) s := by rw [pk1_ok s _ _ hr, src_valueIn]
  exact runEx_done _ _ _ ((bind_goes (needGroup_ok s .base hu)).trans ((bind_goes source).trans (loadTo_misaligned hf hn hg)))

theorem store_misaligned (hr : s.readable [src0 a, src b] = true) :
    runEx (store a b m n) s = .next (s.misaligned (s.gValue b.reg.toNat + m.signExtend 64)) := by
  have sources : pk2 (src0 a) (src b) [] s = .ok (s.gValue a.toNat, s.gValue b.reg.toNat) s := by
    rw [pk2_ok s _ _ _ hr, src_valueIn, src0_valueIn]
  exact runEx_done _ _ _ ((bind_goes (needGroup_ok s .base hu)).trans ((bind_goes sources).trans (storeTo_misaligned hf hn hg)))

end

end Sys2Proof.Machine

open Sys2Proof Sys2Proof.Machine

/-- Settles O53: the group first, then the vector set or the level, then the address, as each instruction's first checks. -/
theorem checksAtIssue : Obligations.ChecksAtIssue := by
  intro s i takes head
  refine ⟨fun g hg h => exec_group_refused h hg, fun hg hu hv => exec_noVector hu hv hg,
    fun a b c hu => ⟨fun hl hi => ?_, fun hl hi => ?_⟩, fun a b m off hu hg hf =>
    ⟨fun hr => ⟨fun hn hi => ?_, fun hn hi => ?_, fun hn hi => ?_⟩, fun hr => ⟨fun hn hi => ?_, fun hn hi => ?_, fun hn hi => ?_⟩⟩⟩
  · have below : (s.here.level == .f) = false := by simpa using hl
    simp only [List.mem_cons, List.not_mem_nil, or_false] at hi
    obtain rfl | rfl | rfl := hi <;> exact exec_level_refused (p := fun l => l == .f) hu below
  · simp only [List.mem_cons, List.not_mem_nil, or_false] at hi
    have below : (s.here.level != .u) = false := by rw [hl]; rfl
    obtain rfl | rfl | rfl | rfl := hi
    · exact exec_level_refused (p := fun l => l != .u) hu below
    · exact exec_level_refused (p := fun l => l != .u) hu below
    · exact exec_level_refused (p := fun l => l != .u) hu below
    · exact exec_level_refused (p := fun l => l == .f || (l == .s && c.reg == 0)) hu (by rw [hl]; rfl)
  · simp only [List.mem_cons, List.not_mem_nil, or_false] at hi
    obtain rfl | rfl := hi <;> exact load_misaligned hu hg hf hn hr
  · simp only [List.mem_cons, List.not_mem_nil, or_false] at hi
    obtain rfl | rfl := hi <;> exact load_misaligned hu hg hf hn hr
  · subst hi
    exact load_misaligned hu hg hf hn hr
  · subst hi
    exact store_misaligned hu hg hf hn hr
  · subst hi
    exact store_misaligned hu hg hf hn hr
  · subst hi
    exact store_misaligned hu hg hf hn hr
end

section
/-!
PROOFS. Empty sources and pending destinations (R192, R193).
-/

namespace Sys2Proof.Machine

variable {s u : State} {d a : GReg} {b c : Src} {v : VReg} {y z : VSrc} {m : Src} {ty : BitVec 3} {n : Nat} {i : Instr}

/-- The state in which the current context waits for a register, or has taken EMPTY for it. -/
def State.heldAtEmpty (s : State) (r : Nat) (mode : Bool) : State :=
  if mode then s.takeTrap s.cur s.here.pc .empty (BitVec.ofNat 64 r) 0 false else s.modCtx s.cur fun c => c.block (.reg r) s.dtc

/-- A register is empty: no queue, no fault marker and no value. -/
def State.emptyReg (s : State) (r : Nat) : Prop := s.here.bound r = none ∧ s.here.marker r = none ∧ s.isFull s.here r = false

theorem next_heldAtEmpty (r : Nat) (mode : Bool) : (.next (s.heldAtEmpty r mode) : Host.Outcome State Fault Refusal) =
    if mode then .next (s.takeTrap s.cur s.here.pc .empty (BitVec.ofNat 64 r) 0 false)
    else .next (s.modCtx s.cur fun c => c.block (.reg r) s.dtc) := by
  cases mode <;> rfl

/-! The check of a list of operands stops at the first that is not ready. -/

theorem checkOpnds_empty {r : Nat} {mode : Bool} {l : List Opnd} (h : s.emptyReg r) :
    checkOpnds (.src r mode :: l) s = .error .done (s.heldAtEmpty r mode) := by
  obtain ⟨h1, h2, h3⟩ := h
  exact bind_stops (checkSource_empty s r mode h1 h2 h3)

theorem checkOpnds_source {r : Nat} {mode : Bool} {l : List Opnd} (h : s.srcReady r = true) : checkOpnds (.src r mode :: l) s = checkOpnds l s :=
  bind_goes (checkSource_ok s r mode h)

theorem checkOpnds_pending {r : Nat} {l : List Opnd} (h0 : r ≠ 0) (h1 : s.here.bound r = none) (h2 : s.here.pendingOn r = true) :
    checkOpnds (.dst r :: l) s = .error .done (s.heldAtEmpty r false) :=
  bind_stops (checkDest_pending s r h0 h1 h2)

theorem peekAll_stops {l : List Opnd} (h : checkOpnds l s = .error .done u) : peekAll l s = .error .done u := bind_stops h

theorem rd2_stops (h : checkOpnds [src b, src c, dst d] s = .error .done u) : rd2 (src b) (src c) [dst d] s = .error .done u :=
  bind_stops (bind_stops (peekAll_stops h))

/-! Instructions by the operands that they check. -/

section
variable (hu : s.mayUse .base = true)
include hu

section
variable (h : checkOpnds [src b, src c, dst d] s = .error .done u)
include h

theorem op2_stops {f : Word → Word → Word} : runEx (op2 d b c f) s = .next u :=
  runEx_done _ _ _ ((bind_goes (needGroup_ok s .base hu)).trans (bind_stops (rd2_stops h)))

theorem long2_stops {f : Word → Word → Word} : runEx (long2 d b c f) s = .next u :=
  runEx_done _ _ _ ((bind_goes (needGroup_ok s .base hu)).trans (bind_stops (rd2_stops h)))

theorem twoSources_stop : ∀ i ∈ twoSources d b c, exec i s = .next u := by
  unfold twoSources
  iterate 29 refine List.forall_mem_cons.2 ⟨op2_stops hu h, ?_⟩
  exact List.forall_mem_nil _

theorem twoSourcesLater_stop : ∀ i ∈ twoSourcesLater d b c, exec i s = .next u := by
  unfold twoSourcesLater
  iterate 5 refine List.forall_mem_cons.2 ⟨long2_stops hu h, ?_⟩
  exact List.forall_mem_nil _

theorem arith_stops (hi : i ∈ twoSources d b c ∨ i ∈ twoSourcesLater d b c) : exec i s = .next u :=
  hi.elim (twoSources_stop hu h i) (twoSourcesLater_stop hu h i)

end

theorem store_empty {j : BitVec 21} (h : s.emptyReg a.toNat) : runEx (store a b j n) s = .next (s.heldAtEmpty a.toNat false) :=
  runEx_done _ _ _ ((bind_goes (needGroup_ok s .base hu)).trans (bind_stops (bind_stops (peekAll_stops (checkOpnds_empty h)))))

theorem stores_empty {j : BitVec 21} (h : s.emptyReg a.toNat) : ∀ i ∈ [.stB a b j, .stH a b j, .stW a b j, .stD a b j],
    exec i s = .next (s.heldAtEmpty a.toNat false) := by
  iterate 4 refine List.forall_mem_cons.2 ⟨store_empty hu h, ?_⟩
  exact List.forall_mem_nil _

end

section
variable (hv : s.mayVec .vec = true) (h : checkOpnds (vsrc y :: vsrc z :: (maskOp m ++ [vdst v])) s = .error .done u)
include hv h

theorem vop2_stops {f : Nat → Nat → Nat} : runEx (vop2 v y z m ty f) s = .next u :=
  runEx_done _ _ _ ((bind_goes (vecChecks_ok s .vec hv)).trans (bind_stops h))

theorem vecTwo_stop : ∀ i ∈ vecTwo v y z m ty, exec i s = .next u := by
  unfold vecTwo
  iterate 12 refine List.forall_mem_cons.2 ⟨vop2_stops hv h, ?_⟩
  exact List.forall_mem_nil _

end

end Sys2Proof.Machine

open Sys2Proof Sys2Proof.Machine

/-- Settles O54: each instruction checks its operands in order before its effect, and the first that is not ready stops it. -/
theorem emptyAndPending : Obligations.EmptyAndPending := by
  intro s d b c v y z m ty j i empty fate
  have fate_eq (r : Nat) (mode : Bool) : .next (s.heldAtEmpty r mode) = fate r mode := next_heldAtEmpty r mode
  refine ⟨fun hu hi => ⟨fun h => ?_, fun hb h => ?_, fun hb hc h0 h1 h2 => ?_⟩, fun hu hi h => ?_, fun hv hi => ⟨fun h => ?_, fun hy h => ?_⟩⟩ <;>
    rw [← fate_eq]
  · exact arith_stops hu (checkOpnds_empty h) hi
  · exact arith_stops hu ((checkOpnds_source hb).trans (checkOpnds_empty h)) hi
  · have hd : d.toNat ≠ 0 := fun h => h0 (BitVec.eq_of_toNat_eq h)
    exact arith_stops hu ((checkOpnds_source hb).trans ((checkOpnds_source hc).trans (checkOpnds_pending hd h1 h2))) hi
  · exact stores_empty hu h i hi
  · exact vecTwo_stop hv (checkOpnds_empty h) i hi
  · exact vecTwo_stop hv ((checkOpnds_source hy).trans (checkOpnds_empty h)) i hi
end

section
/-!
PROOFS. The canonical form of memories (log 5).
-/

namespace Sys2Proof.Machine

variable {s t : State} {k n pa : Nat}

theorem tget_mem {α : Type} {m : Tbl α} {x : α} (h : tget m k = some x) : (k, x) ∈ m := by
  induction m with
  | nil => cases h
  | cons e m ih =>
    obtain ⟨a, v⟩ := e
    rw [tget] at h
    split at h
    · next ha =>
      cases h
      cases ha
      exact List.mem_cons_self ..
    · exact List.mem_cons_of_mem _ (ih h)

theorem memOk_iff : s.memOk = true ↔ Memory.wf s.mem = true ∧ ∀ e ∈ s.cores, Memory.wf e.2.ls = true := by
  rw [State.memOk, Bool.and_eq_true, List.all_eq_true]

theorem core_ls_wf (h : s.memOk = true) (k : Nat) : Memory.wf (s.core k).ls = true := by
  cases hk : tget s.cores k with
  | none => rw [State.core, hk]; rfl
  | some c =>
    rw [State.core, hk]
    exact (memOk_iff.1 h).2 _ (tget_mem hk)

theorem memOk_of_eq (hm : t.mem = s.mem) (hc : t.cores = s.cores) (h : s.memOk = true) : t.memOk = true := by
  rw [State.memOk, hm, hc]
  exact h

theorem memOk_setCore {c : Core} (h : s.memOk = true) (hc : Memory.wf c.ls = true) : (s.setCore k c).memOk = true := by
  obtain ⟨hmem, hcores⟩ := memOk_iff.1 h
  refine memOk_iff.2 ⟨hmem, fun e he => ?_⟩
  obtain rfl | he := tset_mem _ _ _ e he
  · exact hc
  · exact hcores e he

theorem memOk_modCore {f : Core → Core} (h : s.memOk = true) (hf : ∀ c, Memory.wf c.ls = true → Memory.wf (f c).ls = true) :
    (s.modCore k f).memOk = true :=
  memOk_setCore h (hf _ (core_ls_wf h k))

theorem memOk_foldl {α : Type} {f : State → α → State} (hf : ∀ s x, s.memOk = true → (f s x).memOk = true) (l : List α) (h : s.memOk = true) :
    (l.foldl f s).memOk = true := by
  induction l generalizing s with
  | nil => exact h
  | cons x l ih => exact ih (hf s x h)

theorem memOk_wakeIf {p : Nat → Wait → Bool} (h : s.memOk = true) : (s.wakeIf p).memOk = true := h

theorem memOk_setDir {d : Dir} (h : s.memOk = true) : (s.setDir k d).memOk = true := h

theorem memOk_writeHome (d : Block) (x : Tag) (h : s.memOk = true) : (s.writeHome pa d x).memOk = true := by
  obtain ⟨hmem, hcores⟩ := memOk_iff.1 h
  exact memOk_iff.2 ⟨writeBlock_wf _ _ _ hmem, hcores⟩

theorem memOk_localWrite {off : Nat} {d : Block} {mask : BitVec 64} {tag : Option Tag} (h : s.memOk = true) :
    (s.localWrite k off d mask tag).memOk = true :=
  memOk_modCore h fun _ hc => writeN_wf _ _ _ _ hc

theorem memOk_recall (h : s.memOk = true) : (s.recall pa).memOk = true := by
  have written (p : Prop) [Decidable p] : (if p then s.writeHome pa (s.coherent pa).1 (s.coherent pa).2 else s).memOk = true := by
    split
    · exact memOk_writeHome _ _ h
    · exact h
  refine memOk_setDir (memOk_foldl (fun u c hu => ?_) _ (written _))
  split
  · exact memOk_modCore hu fun _ hc => hc
  · exact memOk_modCore hu fun _ hc => hc
  · exact hu

theorem memOk_setFot {f : Nat} {e : BitVec 16} (h : s.memOk = true) : (s.setFot f e).memOk = true := by
  obtain ⟨hmem, hcores⟩ := memOk_iff.1 (memOk_recall (pa := s.fotBase + 2 * f) h)
  exact memOk_iff.2 ⟨writeN_wf _ _ _ _ hmem, hcores⟩

theorem memOk_poison (h : s.memOk = true) : (s.poison pa).memOk = true := by
  unfold State.poison
  split
  · exact memOk_of_eq rfl rfl (memOk_setFot h)
  · exact h

theorem memOk_pushQueue {b : Binding} {w : Word} (h : s.memOk = true) : (s.pushQueue n b w).memOk = true := by
  unfold State.pushQueue
  split
  · split
    · exact h
    · split
      · exact h
      · exact memOk_wakeIf (memOk_modCore h fun _ hc => hc)
  · exact h
  · exact h

theorem memOk_wrote {r : GReg} {w : Word} (h : s.memOk = true) : (s.wrote r w).memOk = true := by
  unfold State.wrote
  split
  · exact h
  · dsimp only
    split
    · exact h
    · exact memOk_pushQueue h

end Sys2Proof.Machine

open Sys2Proof Sys2Proof.Machine

/-- Settles O60: each write of bytes keeps the form of the memory that it writes, and the others leave memory alone. -/
theorem memoryForm : Obligations.MemoryForm := fun _ h _ _ _ _ _ _ _ _ _ _ _ =>
  ⟨memOk_writeHome _ _ h, memOk_localWrite h, memOk_setFot h, memOk_poison h, fun _ => h, fun _ hx => memOk_setCore h hx, h, fun _ => memOk_wrote h⟩
end

section
/-!
PROOFS. The state after reset (R35, R187, R188, R383).
-/

namespace Sys2Proof.Machine

theorem reset_owner_other {o : Nat} (h : o ≠ 0) : (State.reset.owner o).active.en = false := by
  have none : tget State.reset.owners o = none := if_neg (Ne.symm h)
  rw [State.owner, none]
  rfl

theorem reset_dies {k : Nat} (h : k < 4) : (State.reset.owner 0).active.dies[k]? = some DieRec.boot := by
  revert k
  decide

theorem reset_ctx (k j : Nat) (h : j < 16) : State.reset.ctx (16 * k + j) = if j = 0 then Ctx.control else Ctx.free := by
  show (if (16 * k + j) % 16 = 0 then Ctx.control else Ctx.free) = _
  rw [Nat.mul_add_mod, Nat.mod_eq_of_lt h]

end Sys2Proof.Machine

open Sys2Proof Sys2Proof.Machine

/-- Settles O59: no table lists anything but owner 0, and each unlisted unit reads as after reset. -/
theorem resetState : Obligations.ResetState := by
  refine ⟨rfl, rfl, rfl, rfl, rfl, fun k => reset_dies, rfl, rfl, rfl, rfl, rfl, rfl, rfl, fun o => reset_owner_other, rfl, rfl, rfl,
    fun k _ => ⟨?_, fun j h0 h => ?_⟩, rfl, rfl, rfl, fun b => rfl, fun k => ⟨rfl, rfl, rfl, rfl, rfl, rfl⟩, rfl, rfl, rfl, rfl⟩
  · exact (reset_ctx k 0 (by decide)).trans (if_pos rfl)
  · exact (reset_ctx k j h).trans (if_neg (Nat.pos_iff_ne_zero.1 h0))
end

section
/-!
PROOFS. The frame of the instructions that write one register (R191, R196, R271): what their steps leave as it was, step by step.
-/

namespace Sys2Proof.Machine

variable {s t u : State} {ds : List Nat} {d : GReg} {b c m : Src} {v : VReg} {y z : VSrc} {ty : BitVec 3} {i : Instr}

/-- A vector register has the same data, tag and full bit in two vector sets. -/
def VSet.sameAt (x y : VSet) (r : Nat) : Prop :=
  (tget y.v r).getD 0 = (tget x.v r).getD 0 ∧ (tget y.tag r).getD 0 = (tget x.tag r).getD 0 ∧ y.full.getLsbD r = x.full.getLsbD r

/-- A general register has the same value and full bit in two contexts. -/
def Ctx.sameG (c e : Ctx) (r : Nat) : Prop := e.g.toList.getD r 0 = c.g.toList.getD r 0 ∧ e.gFull.getLsbD r = c.gFull.getLsbD r

/-- An instruction of the current context has written the registers listed and no other (64 and up are vector registers). -/
structure State.OnlyWrites (s t : State) (ds : List Nat) : Prop where
  rest : t = { s with ctxs := t.ctxs, cores := t.cores, ports := t.ports, agenda := t.agenda, nextId := t.nextId }
  own : ∃ st rs g gf mk qp pr pc held lw pb, t.ctx s.cur = { s.ctx s.cur with
    state := st, results := rs, g := g, gFull := gf, markers := mk, qpend := qp, producers := pr, pc := pc, held := held, lastWait := lw, peerBlocks := pb }
  regs : ∀ r, r < 64 → r ∉ ds → (s.ctx s.cur).sameG (t.ctx s.cur) r
  zero : (t.ctx s.cur).g.toList.getD 0 0 = (s.ctx s.cur).g.toList.getD 0 0
  others : s.sameOthers t s.cur
  cores : ∀ k, ∃ ch ws vs, t.core k = { s.core k with channels := ch, windows := ws, vsets := vs }
  vecs : ∀ k r, r < 32 → ((s.ctx s.cur).vset ≠ some k ∨ 64 + r ∉ ds) →
    ((s.core (coreOf s.cur)).vset k).sameAt ((t.core (coreOf s.cur)).vset k) r

namespace State.OnlyWrites

theorem cur_eq (h : s.OnlyWrites t ds) : t.cur = s.cur := by rw [h.rest]

theorem vset_eq (h : s.OnlyWrites t ds) : (t.ctx s.cur).vset = (s.ctx s.cur).vset := by
  obtain ⟨_, _, _, _, _, _, _, _, _, _, _, own⟩ := h.own
  rw [own]

theorem trans (h : s.OnlyWrites t ds) (g : t.OnlyWrites u ds) : s.OnlyWrites u ds where
  rest := g.rest.trans (by rw [h.rest])
  own := by
    obtain ⟨_, _, _, _, _, _, _, _, _, _, _, own⟩ := h.own
    obtain ⟨_, _, _, _, _, _, _, _, _, _, _, own2⟩ := g.own
    rw [h.cur_eq, own] at own2
    exact ⟨_, _, _, _, _, _, _, _, _, _, _, own2⟩
  regs := by
    intro r hr hd
    obtain ⟨val, full⟩ := h.regs r hr hd
    obtain ⟨val2, full2⟩ := h.cur_eq ▸ g.regs r hr hd
    exact ⟨val2.trans val, full2.trans full⟩
  zero := (h.cur_eq ▸ g.zero).trans h.zero
  others := by
    intro n hn
    have second := g.others n (by rw [h.cur_eq]; exact hn)
    rcases h.others n hn with earlier | earlier <;> rw [earlier] at second
    · exact second
    · exact .inr (second.elim id id)
  cores := by
    intro k
    obtain ⟨_, _, _, first⟩ := h.cores k
    obtain ⟨ch, ws, vs, second⟩ := g.cores k
    exact ⟨ch, ws, vs, by rw [second, first]⟩
  vecs := by
    intro k r hr hd
    obtain ⟨val, tag, full⟩ := h.vecs k r hr hd
    obtain ⟨val2, tag2, full2⟩ := h.cur_eq ▸ g.vecs k r hr (by rw [h.cur_eq, h.vset_eq]; exact hd)
    exact ⟨val2.trans val, tag2.trans tag, full2.trans full⟩

/-! What the statements ask of it. -/

theorem sameMemory (h : s.OnlyWrites t ds) : s.sameMemory t := by
  refine ⟨fun _ => by rw [h.rest], fun _ => by rw [h.rest]; rfl, fun k => ?_⟩
  obtain ⟨_, _, _, core⟩ := h.cores k
  rw [core]
  exact ⟨fun _ => rfl, rfl, rfl⟩

theorem sameBeside (h : s.OnlyWrites t ds) : s.sameBeside t s.cur ds := by
  obtain ⟨_, _, _, _, _, _, _, _, _, _, _, own⟩ := h.own
  refine ⟨h.regs, h.vset_eq, h.vecs, ?_⟩
  rw [own]
  refine ⟨rfl, rfl, rfl, rfl, rfl, rfl, rfl, rfl, rfl, rfl, rfl, ?_⟩
  rw [h.rest]
  exact ⟨rfl, rfl, rfl⟩

end State.OnlyWrites

theorem State.QueuesMoved.onlyWrites (h : s.QueuesMoved t) : s.OnlyWrites t ds := by
  obtain ⟨_, _, _, own⟩ := h.own
  refine ⟨h.rest.trans (by rw [h.rest]), ⟨_, _, _, _, _, _, _, _, _, _, _, own⟩, fun _ _ _ => by rw [own]; exact ⟨rfl, rfl⟩,
    by rw [own], h.others, fun k => ?_, fun k r _ _ => ?_⟩
  · obtain ⟨_, _, core⟩ := h.cores k
    exact ⟨_, _, _, core⟩
  · obtain ⟨_, _, core⟩ := h.cores (coreOf s.cur)
    rw [core]
    exact ⟨rfl, rfl, rfl⟩

/-! The steps of an instruction. -/

theorem onlyWrites_modOwn {f : Ctx → Ctx} (hf : ∃ st rs g gf mk qp pr pc held lw pb, f (s.ctx s.cur) = { s.ctx s.cur with
      state := st, results := rs, g := g, gFull := gf, markers := mk, qpend := qp, producers := pr, pc := pc, held := held, lastWait := lw, peerBlocks := pb })
    (regs : ∀ r, r < 64 → r ∉ ds → (s.ctx s.cur).sameG (f (s.ctx s.cur)) r)
    (zero : (f (s.ctx s.cur)).g.toList.getD 0 0 = (s.ctx s.cur).g.toList.getD 0 0) : s.OnlyWrites (s.modCtx s.cur f) ds where
  rest := rfl
  own := by
    rw [State.ctx_modCtx]
    exact hf
  regs := by
    rw [State.ctx_modCtx]
    exact regs
  zero := by
    rw [State.ctx_modCtx]
    exact zero
  others := sameOthers_modCtx f
  cores := fun _ => ⟨_, _, _, rfl⟩
  vecs := fun _ _ _ _ => ⟨rfl, rfl, rfl⟩

/-- A change of the own context that leaves its registers. -/
theorem onlyWrites_beside {f : Ctx → Ctx} (hf : ∀ c, ∃ st rs mk qp pr pc held lw pb, f c = { c with
      state := st, results := rs, markers := mk, qpend := qp, producers := pr, pc := pc, held := held, lastWait := lw, peerBlocks := pb }) :
    s.OnlyWrites (s.modCtx s.cur f) ds := by
  obtain ⟨_, _, _, _, _, _, _, _, _, own⟩ := hf (s.ctx s.cur)
  refine onlyWrites_modOwn ⟨_, _, _, _, _, _, _, _, _, _, _, own⟩ (fun _ _ _ => ?_) ?_ <;> rw [own]
  exact ⟨rfl, rfl⟩

theorem onlyWrites_done : s.OnlyWrites s.done ds := onlyWrites_beside fun _ => ⟨_, _, _, _, _, _, _, _, _, rfl⟩

theorem onlyWrites_post (l : List Instr) : s.OnlyWrites (s.post l) ds := (queuesMoved_agenda _).onlyWrites

theorem onlyWrites_newId : s.OnlyWrites s.newId.2 ds :=
  ⟨rfl, ⟨_, _, _, _, _, _, _, _, _, _, _, rfl⟩, fun _ _ _ => ⟨rfl, rfl⟩, rfl, fun _ _ => .inl rfl, fun _ => ⟨_, _, _, rfl⟩,
    fun _ _ _ _ => ⟨rfl, rfl, rfl⟩⟩

theorem getLsbD_twoPow_ne {w r k : Nat} (h : r ≠ k) : (BitVec.ofNat w (2 ^ k)).getLsbD r = false := by
  rw [BitVec.getLsbD_ofNat, Nat.testBit_two_pow_of_ne (Ne.symm h), Bool.and_false]

theorem getLsbD_or_twoPow {w r k : Nat} (x : BitVec w) (h : r ≠ k) : (x ||| BitVec.ofNat w (2 ^ k)).getLsbD r = x.getLsbD r := by
  rw [BitVec.getLsbD_or, getLsbD_twoPow_ne h, Bool.or_false]

theorem getLsbD_andNot_twoPow {w r k : Nat} (x : BitVec w) (h : r ≠ k) : (x &&& ~~~(BitVec.ofNat w (2 ^ k))).getLsbD r = x.getLsbD r := by
  rw [BitVec.getLsbD_and, BitVec.getLsbD_not, getLsbD_twoPow_ne h]
  by_cases hr : r < w
  · simp [hr]
  · simp [BitVec.getLsbD_of_ge x r (Nat.le_of_not_lt hr)]

theorem sameG_setG {r k : Nat} (c : Ctx) (x : Word) (h : r ≠ k) : c.sameG (c.setG k x) r := by
  unfold Ctx.setG
  split
  · exact ⟨rfl, rfl⟩
  · refine ⟨?_, getLsbD_or_twoPow _ h⟩
    simp [List.getD_eq_getElem?_getD, List.getElem?_set_ne (Ne.symm h)]

theorem setG_zero (c : Ctx) (x : Word) : c.setG 0 x = c := if_pos rfl

theorem setG_shape (c : Ctx) (r : Nat) (x : Word) : ∃ g gf mk, c.setG r x = { c with g := g, gFull := gf, markers := mk } := by
  unfold Ctx.setG
  split <;> exact ⟨_, _, _, rfl⟩

theorem onlyWrites_setG (r : Nat) (x : Word) : s.OnlyWrites (s.modCtx s.cur fun c => c.setG r x) [r] := by
  obtain ⟨_, _, _, shape⟩ := setG_shape (s.ctx s.cur) r x
  refine onlyWrites_modOwn ⟨_, _, _, _, _, _, _, _, _, _, _, shape⟩ (fun _ _ h => sameG_setG _ x (List.ne_of_not_mem_cons h)) ?_
  by_cases hr : r = 0
  · rw [hr, setG_zero]
  · exact (sameG_setG _ x (Ne.symm hr)).1

theorem onlyWrites_wrote (d : GReg) (x : Word) : s.OnlyWrites (s.wrote d x) [d.toNat] := by
  unfold State.wrote
  split
  · exact onlyWrites_setG _ x
  · simp only
    split
    · exact onlyWrites_beside fun _ => ⟨_, _, _, _, _, _, _, _, _, rfl⟩
    · exact (queuesMoved_pushQueue _ _).onlyWrites

theorem onlyWrites_emptyAgain {r : Nat} (hr : r < 64) : s.OnlyWrites (s.emptyAgain s.cur r) [r] := by
  unfold State.emptyAgain
  simp only [hr, if_true]
  have unmarked := onlyWrites_beside (s := s) (ds := [r]) (f := fun c => { c with markers := tdel c.markers r })
    fun _ => ⟨_, _, _, _, _, _, _, _, _, rfl⟩
  split
  · exact unmarked
  · refine unmarked.trans (onlyWrites_modOwn (s := s.modCtx s.cur _) ⟨_, _, _, _, _, _, _, _, _, _, _, rfl⟩ (fun k _ h => ⟨rfl, ?_⟩) rfl)
    exact getLsbD_andNot_twoPow _ (List.ne_of_not_mem_cons h)

theorem onlyWrites_began {r : Nat} (hr : r < 64) (h : Option Req) (acq : Bool) : s.OnlyWrites (s.began (.g r) h acq) [r] := by
  unfold State.began
  simp only
  split
  · exact onlyWrites_newId.trans (onlyWrites_beside fun _ => ⟨_, _, _, _, _, _, _, _, _, rfl⟩)
  · have emptied := onlyWrites_newId.trans (onlyWrites_emptyAgain (s := s.newId.2) hr)
    refine emptied.trans ?_
    have same : (s.newId.2.emptyAgain s.newId.2.cur r).cur = s.newId.2.cur := (onlyWrites_emptyAgain hr).cur_eq
    have began := onlyWrites_beside (s := s.newId.2.emptyAgain s.newId.2.cur r) (ds := [r])
      (f := fun c => { c with producers := c.producers ++ [⟨s.nextId, .g r, h, acq, acq, false⟩] }) fun _ => ⟨_, _, _, _, _, _, _, _, _, rfl⟩
    rw [same] at began
    exact began

theorem onlyWrites_setV (r : Nat) (x : BitVec 512) (a : Tag) : s.OnlyWrites (s.setV s.cur r x a) [64 + r] := by
  unfold State.setV
  split
  next => exact (State.QueuesMoved.refl s).onlyWrites
  next k hk =>
    refine (onlyWrites_beside (f := fun c => { c with markers := tdel c.markers (64 + r) }) fun _ => ⟨_, _, _, _, _, _, _, _, _, rfl⟩).trans ?_
    generalize hw : s.modCtx s.cur _ = w
    have vset : (w.ctx s.cur).vset = some k := by
      rw [← hw, State.ctx_modCtx, ← hk]
    have cur : w.cur = s.cur := by
      rw [← hw]
      rfl
    rw [← cur] at vset ⊢
    refine ⟨rfl, ⟨_, _, _, _, _, _, _, _, _, _, _, rfl⟩, fun _ _ _ => ⟨rfl, rfl⟩, rfl, fun _ _ => .inl rfl, fun j => ?_, fun j q _ h => ?_⟩
    · by_cases hj : j = coreOf w.cur
      · rw [hj, State.core_modCore]
        exact ⟨_, _, _, rfl⟩
      · exact ⟨_, _, _, State.core_modCore_other _ _ _ _ hj⟩
    · rw [State.core_modCore]
      by_cases hj : j = k
      · have hq : q ≠ r := by
          rintro rfl
          exact h.elim (fun h => h (by rw [vset, hj])) fun h => h List.mem_cons_self
        subst hj
        simp only [VSet.sameAt, Core.vset, tget_tset_same, Option.getD_some, tget_tset_other _ _ _ _ hq, getLsbD_or_twoPow _ hq, and_self]
      · simp only [VSet.sameAt, Core.vset, tget_tset_other _ _ _ _ hj, and_self]

/-! The states that an instruction with one destination leaves. -/

theorem onlyWrites_popAll (ops : List Opnd) : s.OnlyWrites (s.popAll ops) ds := (queuesMoved_popAll ops).onlyWrites

theorem onlyWrites_givesG (ops : List Opnd) (d : GReg) (x : Word) : s.OnlyWrites (s.givesG ops d x) [d.toNat] :=
  ((onlyWrites_popAll ops).trans (onlyWrites_wrote d x)).trans onlyWrites_done

theorem onlyWrites_givesLater (ops : List Opnd) (d : GReg) (x : Arrival) : s.OnlyWrites (s.givesLater ops (.g d.toNat) x) [d.toNat] :=
  (((onlyWrites_popAll ops).trans (onlyWrites_began d.isLt none false)).trans onlyWrites_done).trans (onlyWrites_post _)

theorem onlyWrites_givesV (ops : List Opnd) (v : VReg) (x : BitVec 512) (a : Tag) : s.OnlyWrites (s.givesV ops v x a) [64 + v.toNat] :=
  ((onlyWrites_popAll ops).trans (onlyWrites_setV _ x a)).trans onlyWrites_done

/-! The instructions (R276 to R289, R319 to R325): each leaves one of these states. -/

/-- An instruction completes, and writes one register. -/
def State.Writes (s : State) (r : Nat) (i : Instr) : Prop := ∃ t, exec i s = .next t ∧ s.OnlyWrites t [r]

section
variable (hu : s.mayUse .base = true)
include hu

theorem writes_op2 {f : Word → Word → Word} (hr : s.readable [src b, src c, dst d] = true) (hi : exec i s = runEx (op2 d b c f) s) :
    s.Writes d.toNat i :=
  ⟨_, exec_op2 hi hu hr rfl, onlyWrites_givesG _ _ _⟩

theorem writes_long2 {f : Word → Word → Word} (hr : s.readable [src b, src c, dst d] = true) (hi : exec i s = runEx (long2 d b c f) s) :
    s.Writes d.toNat i :=
  ⟨_, exec_long2 hi hu hr rfl, onlyWrites_givesLater _ _ _⟩

theorem writes_op1 {f : Word → Word} (hr : s.readable [src b, dst d] = true) (hi : exec i s = runEx (op1 d b f) s) : s.Writes d.toNat i :=
  ⟨_, exec_op1 hi hu hr rfl, onlyWrites_givesG _ _ _⟩

theorem writes_long1 {f : Word → Word} (hr : s.readable [src b, dst d] = true) (hi : exec i s = runEx (long1 d b f) s) : s.Writes d.toNat i :=
  ⟨_, exec_long1 hi hu hr rfl, onlyWrites_givesLater _ _ _⟩

theorem twoSources_write (hr : s.readable [src b, src c, dst d] = true) : ∀ i ∈ twoSources d b c, s.Writes d.toNat i := by
  unfold twoSources
  iterate 29 refine List.forall_mem_cons.2 ⟨writes_op2 hu hr rfl, ?_⟩
  exact List.forall_mem_nil _

theorem twoSourcesLater_write (hr : s.readable [src b, src c, dst d] = true) : ∀ i ∈ twoSourcesLater d b c, s.Writes d.toNat i := by
  unfold twoSourcesLater
  iterate 5 refine List.forall_mem_cons.2 ⟨writes_long2 hu hr rfl, ?_⟩
  exact List.forall_mem_nil _

theorem oneSource_write {j : BitVec 21} {n pos len : BitVec 6} {rm : BitVec 2} (hr : s.readable [src b, dst d] = true) :
    ∀ i ∈ oneSource d b j n pos len rm, s.Writes d.toNat i := by
  unfold oneSource
  iterate 27 refine List.forall_mem_cons.2 ⟨writes_op1 hu hr rfl, ?_⟩
  exact List.forall_mem_nil _

end

theorem writes_vop2 {f : Nat → Nat → Nat} (hv : s.mayVec .vec = true) (hr : s.readable ([vsrc y, vsrc z] ++ maskOp m ++ [vdst v]) = true)
    (hi : exec i s = runEx (vop2 v y z m ty f) s) : s.Writes (64 + v.toNat) i :=
  ⟨_, exec_vop2 hi hv hr, onlyWrites_givesV _ _ _ _⟩

theorem vecTwo_write (hv : s.mayVec .vec = true) (hr : s.readable ([vsrc y, vsrc z] ++ maskOp m ++ [vdst v]) = true) :
    ∀ i ∈ vecTwo v y z m ty, s.Writes (64 + v.toNat) i := by
  unfold vecTwo
  iterate 12 refine List.forall_mem_cons.2 ⟨writes_vop2 hv hr rfl, ?_⟩
  exact List.forall_mem_nil _

end Sys2Proof.Machine

open Sys2Proof Sys2Proof.Machine

/-- Settles O56: every such instruction leaves one of three states, and each of the steps to it writes at most the register named. -/
theorem registerFrame : Obligations.RegisterFrame := by
  intro s d b c m j n pos len rm v y z ty i frame
  have framed {r : Nat} (h : s.Writes r i) : frame r := by
    obtain ⟨t, he, h⟩ := h
    exact ⟨t, he, h.cur_eq, h.sameMemory, h.others, h.sameBeside, h.zero⟩
  refine ⟨fun hu hr hi => framed ?_, fun hu hr hi => framed ?_, fun hv hr hi => framed (vecTwo_write hv hr i hi)⟩
  · exact hi.elim (twoSources_write hu hr i) (twoSourcesLater_write hu hr i)
  · rcases hi with hi | rfl
    · exact oneSource_write hu hr i hi
    · exact writes_long1 hu hr rfl
end

section
/-!
PROOFS. The frame of a store to local store (R299, R300): the bytes of a merged block, and what a write of a block leaves as it was.
-/

namespace Sys2Proof.Machine

variable {s t : State} {i : Instr} {b : Src} {a : GReg}

/-- Byte j of a block. -/
def byteAt (x : Block) (j : Nat) : Byte := x.extractLsb' (8 * j) 8

theorem byteAt_bit {x : Block} {j k : Nat} (hk : k < 8) : (byteAt x j).getLsbD k = x.getLsbD (8 * j + k) := by
  simp [byteAt, hk]

theorem byteAt_ext {x : Block} {j : Nat} {y : Byte} (h : ∀ k, k < 8 → x.getLsbD (8 * j + k) = y.getLsbD k) : byteAt x j = y :=
  BitVec.eq_of_getLsbD_eq fun k hk => (byteAt_bit hk).trans (h k hk)

theorem ofNat_div_byte (x : Block) (j : Nat) : BitVec.ofNat 8 (x.toNat / 256 ^ j) = byteAt x j := by
  have base : (256 : Nat) ^ j = 2 ^ (8 * j) := by rw [show (256 : Nat) = 2 ^ 8 from rfl, ← Nat.pow_mul]
  rw [base]
  refine BitVec.eq_of_toNat_eq ?_
  rw [BitVec.toNat_ofNat, byteAt, BitVec.extractLsb'_toNat, Nat.shiftRight_eq_div_pow]

/-! A byte mask spread to bits takes whole bytes (R149). -/

theorem byteMaskBits_lt (mask : BitVec 64) (n : Nat) : byteMaskBits mask n < 2 ^ (8 * n) := by
  induction n with
  | zero => exact Nat.one_pos
  | succ n ih =>
    rw [byteMaskBits, Nat.mul_succ, Nat.pow_add]
    split <;> omega

theorem byteMaskBits_bit (mask : BitVec 64) (n j k : Nat) (hk : k < 8) :
    (byteMaskBits mask n).testBit (8 * j + k) = (decide (j < n) && mask.getLsbD j) := by
  induction n with
  | zero => simp [byteMaskBits]
  | succ n ih =>
    have low := byteMaskBits_lt mask n
    obtain ⟨e, he, top⟩ : ∃ e, byteMaskBits mask (n + 1) = 2 ^ (8 * n) * e + byteMaskBits mask n ∧ e = if mask.getLsbD n then 255 else 0 := by
      refine ⟨_, ?_, rfl⟩
      rw [byteMaskBits, Nat.add_comm, Nat.mul_comm (2 ^ (8 * n))]
      split <;> simp
    rw [he, Nat.testBit_two_pow_mul_add _ low]
    by_cases hj : j < n
    · rw [if_pos (by omega), ih]
      simp [hj, Nat.lt_succ_of_lt hj]
    · rw [if_neg (by omega), top]
      by_cases eq : j = n
      · subst eq
        rw [Nat.add_sub_cancel_left]
        cases mask.getLsbD j
        · simp
        · have ones : (255 : Nat).testBit k = true := by
            rw [show (255 : Nat) = 2 ^ 8 - 1 from rfl, Nat.testBit_two_pow_sub_one, decide_eq_true hk]
          simpa using ones
      · have past : (if mask.getLsbD n then 255 else 0) < 2 ^ (8 * j + k - 8 * n) := by
          have : 2 ^ 8 ≤ 2 ^ (8 * j + k - 8 * n) := Nat.pow_le_pow_right (by omega) (by omega)
          split <;> omega
        rw [Nat.testBit_lt_two_pow past]
        simp [show ¬ j < n + 1 by omega]

theorem byteAt_mergeBytes (x y : Block) (mask : BitVec 64) {j : Nat} (hj : j < 64) :
    byteAt (mergeBytes x y mask) j = if mask.getLsbD j then byteAt y j else byteAt x j := by
  refine byteAt_ext fun k hk => ?_
  have bit : (BitVec.ofNat 512 (byteMaskBits mask 64)).getLsbD (8 * j + k) = mask.getLsbD j := by
    rw [BitVec.getLsbD_ofNat, byteMaskBits_bit _ _ _ _ hk]
    simp [hj, show 8 * j + k < 512 by omega]
  rw [mergeBytes]
  simp only [BitVec.getLsbD_or, BitVec.getLsbD_and, BitVec.getLsbD_not, bit, show 8 * j + k < 512 by omega]
  cases mask.getLsbD j <;> simp [byteAt_bit hk]

theorem rangeMask_bit {o n j : Nat} (hj : j < 64) : (rangeMask o n).getLsbD j = decide (o ≤ j ∧ j < o + n) := by
  rw [rangeMask, BitVec.getLsbD_ofNat, Nat.testBit_mul_two_pow, Nat.testBit_two_pow_sub_one]
  simp only [hj, decide_true, Bool.true_and, ← Bool.decide_and]
  exact decide_eq_decide.2 (by omega)

theorem byteAt_placeBytes {o p n : Nat} (v : Word) (hp : p < n) (hn : n ≤ 8) (ho : o + n ≤ 64) :
    byteAt (placeBytes o (v.toNat % 2 ^ (8 * n))) (o + p) = v.extractLsb' (8 * p) 8 := by
  refine byteAt_ext fun k hk => ?_
  rw [placeBytes, BitVec.getLsbD_ofNat, Nat.testBit_mul_two_pow, Nat.testBit_mod_two_pow, BitVec.getLsbD_extractLsb', BitVec.getLsbD]
  simp only [show 8 * (o + p) + k < 512 by omega, show 8 * o ≤ 8 * (o + p) + k by omega, show 8 * (o + p) + k - 8 * o = 8 * p + k by omega,
    show 8 * p + k < 8 * n by omega, hk, decide_true, Bool.true_and]

/-! The bytes of a memory in which a block was merged (R299). -/

theorem byte_readN (l : List Host.Cell) (p n j : Nat) (hj : j < n) : BitVec.ofNat 8 (readN l p n / 256 ^ j) = mget l (p + j) := by
  induction n generalizing p j with
  | zero => omega
  | succ n ih =>
    rw [readN]
    have byte := (mget l p).isLt
    cases j with
    | zero =>
      refine BitVec.eq_of_toNat_eq ?_
      rw [BitVec.toNat_ofNat, Nat.pow_zero, Nat.div_one, Nat.add_zero]
      exact (Nat.add_mul_mod_self_left ..).trans (Nat.mod_eq_of_lt byte)
    | succ j =>
      rw [Nat.pow_succ, Nat.mul_comm (256 ^ j), ← Nat.div_div_eq_div_mul, show ((mget l p).toNat + 256 * readN l (p + 1) n) / 256 = readN l (p + 1) n by omega,
        ih _ _ (by omega), Nat.add_right_comm, Nat.add_assoc]

theorem readN_lt (l : List Host.Cell) (p n : Nat) : readN l p n < 2 ^ (8 * n) := by
  induction n generalizing p with
  | zero => exact Nat.one_pos
  | succ n ih =>
    have byte := (mget l p).isLt
    have rest := ih (p + 1)
    rw [readN, Nat.mul_succ, Nat.pow_add]
    omega

theorem byteAt_readN (l : List Host.Cell) (p j : Nat) (hj : j < 64) : byteAt (BitVec.ofNat 512 (readN l p 64)) j = mget l (p + j) := by
  rw [← ofNat_div_byte, BitVec.toNat_ofNat, Nat.mod_eq_of_lt (readN_lt l p 64), byte_readN l p 64 j hj]

/-- The memory with a block's bytes taken from new data where a mask says so. -/
def mergedAt (l : List Host.Cell) (off : Nat) (d : Block) (mask : BitVec 64) : List Host.Cell :=
  writeN l (64 * (off / 64)) 64 (mergeBytes (BitVec.ofNat 512 (readN l (64 * (off / 64)) 64)) d mask).toNat

variable {l : List Host.Cell} {off n : Nat} {d : Block} {mask : BitVec 64}

theorem mget_mergedAt (hl : Memory.wf l = true) {j : Nat} (hj : j < 64) :
    mget (mergedAt l off d mask) (64 * (off / 64) + j) = if mask.getLsbD j then byteAt d j else mget l (64 * (off / 64) + j) := by
  rw [mergedAt, mget_writeN _ _ _ _ _ hl hj, ofNat_div_byte, byteAt_mergeBytes _ _ _ hj, byteAt_readN _ _ _ hj]

/-- A store of n bytes that stay in one block changes no other byte. -/
theorem mget_mergedAt_outside (hl : Memory.wf l = true) {p : Nat} (hp : p < off ∨ off + n ≤ p) :
    mget (mergedAt l off d (rangeMask (off % 64) n)) p = mget l p := by
  by_cases inside : 64 * (off / 64) ≤ p ∧ p < 64 * (off / 64) + 64
  · obtain ⟨j, rfl⟩ := Nat.exists_eq_add_of_le inside.1
    have hj : j < 64 := by omega
    rw [mget_mergedAt hl hj, rangeMask_bit hj, decide_eq_false (by omega)]
    rfl
  · exact mget_writeN_other _ _ _ _ _ (by omega)

theorem mget_mergedAt_inside (hl : Memory.wf l = true) (v : Word) (hn : n ≤ 8) (ho : off % 64 + n ≤ 64) {p : Nat} (hp : p < n) :
    mget (mergedAt l off (placeBytes (off % 64) (v.toNat % 2 ^ (8 * n))) (rangeMask (off % 64) n)) (off + p) = v.extractLsb' (8 * p) 8 := by
  have hj : off % 64 + p < 64 := by omega
  rw [show off + p = 64 * (off / 64) + (off % 64 + p) by omega, mget_mergedAt hl hj, rangeMask_bit hj, decide_eq_true (by omega), if_pos rfl,
    byteAt_placeBytes v hp hn ho]

/-! What a write to local store leaves as it was. -/

theorem ls_localWrite (k : Nat) (tag : Option Tag) : ((s.localWrite k off d mask tag).core k).ls = mergedAt (s.core k).ls off d mask := by
  rw [State.localWrite, State.core_modCore]
  rfl

theorem core_localWrite_other {k q : Nat} (tag : Option Tag) (hq : q ≠ k) : (s.localWrite k off d mask tag).core q = s.core q :=
  State.core_modCore_other _ _ _ _ hq

theorem lsTag_localWrite (k : Nat) : ((s.localWrite k off d mask none).core k).lsTag = (s.core k).lsTag := by
  rw [State.localWrite, State.core_modCore]

theorem vset_localWrite (k q j : Nat) (tag : Option Tag) : ((s.localWrite k off d mask tag).core q).vset j = (s.core q).vset j := by
  by_cases hq : q = k
  · rw [hq, State.localWrite, State.core_modCore]
    rfl
  · rw [core_localWrite_other tag hq]

theorem sameBeside_localWrite {ds : List Nat} (k : Nat) (tag : Option Tag) (h : (s.localWrite k off d mask tag).sameBeside t s.cur ds) :
    s.sameBeside t s.cur ds := by
  obtain ⟨regs, vset, vecs, rest⟩ := h
  refine ⟨regs, vset, fun j r hr hd => ?_, rest⟩
  have same := vecs j r hr hd
  rw [vset_localWrite] at same
  exact same

/-! A store to local store (R299, R300). -/

theorem localOk_offset {va : Word} {w : Bool} (h : s.localOk va n off w = true) : va.toNat % 64 = off % 64 ∧ va.toNat % n = 0 := by
  simp only [State.localOk, Bool.and_eq_true, beq_iff_eq] at h
  obtain ⟨⟨⟨⟨⟨⟨_, form⟩, aligned⟩, _⟩, _⟩, _⟩, _⟩ := h
  refine ⟨?_, aligned⟩
  simp only [formOf] at form
  split at form
  · split at form
    · split at form
      · cases form
        omega
      · split at form <;> cases form
    · cases form
  · split at form <;> cases form

/-- The state that a store leaves differs from the one before it by what the statement names. -/
theorem storesLocal_frame (ops : List Opnd) (v : Word) (hn : n ≤ 8) (ho : off % 64 + n ≤ 64) (hl : Memory.wf (s.core (coreOf s.cur)).ls = true)
    (ht : s.storesLocal ops off ⟨placeBytes (off % 64) (v.toNat % 2 ^ (8 * n)), rangeMask (off % 64) n, none⟩ = t) :
    t.cur = s.cur ∧ s.sameBeside t s.cur [] ∧ s.sameOthers t s.cur
      ∧ (∀ p, mget t.mem p = mget s.mem p) ∧ (∀ p, t.tagAt p = s.tagAt p) ∧ (t.core (coreOf s.cur)).lsTag = (s.core (coreOf s.cur)).lsTag
      ∧ (∀ q, q ≠ coreOf s.cur → (t.core q).ls = (s.core q).ls)
      ∧ (∀ p, p < off ∨ off + n ≤ p → mget (t.core (coreOf s.cur)).ls p = mget (s.core (coreOf s.cur)).ls p)
      ∧ (∀ p, p < n → mget (t.core (coreOf s.cur)).ls (off + p) = v.extractLsb' (8 * p) 8) := by
  subst ht
  rw [State.storesLocal]
  simp only
  generalize hw : s.localWrite (coreOf s.cur) off _ _ none = w
  have after : w.OnlyWrites (w.popAll ops).done [] := (onlyWrites_popAll ops).trans onlyWrites_done
  have cur : w.cur = s.cur := by subst hw; rfl
  have ls (q : Nat) : (((w.popAll ops).done).core q).ls = (w.core q).ls ∧ (((w.popAll ops).done).core q).lsTag = (w.core q).lsTag := by
    obtain ⟨_, _, _, core⟩ := after.cores q
    rw [core]
    exact ⟨rfl, rfl⟩
  have beside := after.sameBeside
  have others := after.others
  have memory := after.sameMemory
  rw [cur] at beside others
  subst hw
  refine ⟨after.cur_eq, sameBeside_localWrite _ _ beside, others, memory.1, memory.2.1, ?_, fun q hq => ?_, fun p hp => ?_, fun p hp => ?_⟩
  · rw [(ls _).2, lsTag_localWrite]
  · rw [(ls q).1, core_localWrite_other none hq]
  · rw [(ls _).1, ls_localWrite, mget_mergedAt_outside hl hp]
  · rw [(ls _).1, ls_localWrite, mget_mergedAt_inside hl v hn ho hp]

end Sys2Proof.Machine

open Sys2Proof Sys2Proof.Machine

/-- Settles O57: a store of 1, 2, 4 or 8 bytes at a multiple of its size stays in one block, whose other bytes are merged back as they were. -/
theorem storeFrame : Obligations.StoreFrame := by
  intro s a b m off i va k frame hu hr hl
  have framed {n : Nat} (size : n = 1 ∨ n = 2 ∨ n = 4 ∨ n = 8) (ho : s.localOk va n off true = true) (hi : exec i s = runEx (store a b m n) s) :
      frame n := by
    obtain ⟨same, aligned⟩ := localOk_offset ho
    have fits : off % 64 + n ≤ 64 := by
      rw [← same]
      rcases size with rfl | rfl | rfl | rfl <;> omega
    refine ⟨_, exec_store_local hi hu hr ho, storesLocal_frame [src0 a, src b] (s.gValue a.toNat) (by omega) fits hl ?_⟩
    rw [storedBytes, ← same]
    rfl
  refine ⟨fun ho hi => framed (by omega) ho ?_, fun ho hi => framed (by omega) ho ?_, fun ho hi => framed (by omega) ho ?_,
    fun ho hi => framed (by omega) ho ?_⟩ <;> rw [hi] <;> rfl
end

section
/-!
PROOFS. A load of an RC page behind an access to an SC page that is still on its way (R165).
-/

namespace Sys2Proof.Machine

/-- The line of block 64, on an RC page, is in M; a load of another block, on an SC page, is on its way to register 6. -/
def behindSc : State := (Tests.wOnPage 1 (some .m)).modCtx 1 fun c => { c with
  producers := [⟨3, .g 6, some { op := .rds, ctx := 1, core := 0, owner := 0, pa := 0x2000, va := 0x2000, ct := .sc }, true, false, false⟩] }

/-- The pc of the current context after a step. -/
def pcAfter : Host.Outcome State Fault Refusal → Word
  | .next t => t.here.pc
  | _ => 0

/-- Such a load has every check of an access behind it. -/
theorem behindSc_access : behindSc.mayUse .base = true ∧ behindSc.readable [src (Tests.sr 1), dst 9] = true ∧ behindSc.blockFree 0x1000 = true
    ∧ behindSc.memAt (behindSc.gValue 1 + (0 : BitVec 21).signExtend 64) 8 .read 0x1000 (Tests.pg 1 false) = true
    ∧ behindSc.l1 (coreOf behindSc.cur) (0x1000 / 64) = some (Tests.wLine .m false) := by decide +kernel

/-- A load of the RC page waits where it is. -/
theorem pcAfter_behindSc : pcAfter (exec (.ldD 9 (Tests.sr 1) 0) behindSc) = 0x100 := by decide +kernel

end Sys2Proof.Machine

open Sys2Proof Sys2Proof.Machine

/-- Refutes O58: the statement does not ask that the context's earlier accesses to SC pages are done. An access to an RC page waits for them (R165), though
its block stands in the L1: the context is at the load still, and not at the next instruction. -/
theorem not_pageAccesses : ¬ Obligations.PageAccesses := by
  unfold Obligations.PageAccesses
  intro h
  obtain ⟨group, operands, free, at_page, hit⟩ := behindSc_access
  obtain ⟨loads, -⟩ := h behindSc 9 (Tests.sr 1) 0 0x1000 (Tests.pg 1 false) group (by decide) (.inr rfl) free
  obtain ⟨t, run, -, went⟩ := (loads operands at_page).1 _ hit rfl (by decide)
  have moved := pcAfter_behindSc
  rw [run] at moved
  exact absurd (went.symm.trans moved) (by decide +kernel)
end

section
/-!
PROOFS. Which step comes next (R33, R35, R189), and the instruction that a slot runs (R202, R252 to R257).
-/

namespace Sys2Proof.Machine

variable {s t : State} {i : Instr} {n k : Nat} {l before after : List Nat}

/-! The schedule, case by case. -/

theorem step_stopped (h : s.stopped = true) : step s = match s.agenda.find? isReset with
    | some i => exec i { s with agenda := [] }
    | none => .next s := by
  unfold step State.schedule
  rw [if_pos h]
  cases s.agenda.find? isReset <;> rfl

theorem step_recovery (h : s.stopped = false) (hr : s.recovery = true) : step s = match s.agenda.find? (fun i => isReset i || isMailbox i) with
    | some i => exec i { s with agenda := dropFirst (fun x => x == i) s.agenda }
    | none => .next s := by
  unfold step State.schedule
  rw [if_neg (ne_true h), if_pos hr]
  cases s.agenda.find? (fun i => isReset i || isMailbox i) <;> rfl

/-- What the schedule's answer comes to. -/
def Sched.go : Sched → Host.Outcome State Fault Refusal
  | .run t i => exec i t
  | .done t => .next t
  | .device pa => .refused (.deviceRegister pa)

theorem step_schedule : step s = s.schedule.go := by
  unfold step
  cases s.schedule <;> rfl

section
variable (h : s.stopped = false) (hr : s.recovery = false) (hc : s.choice = [])
include h hr hc

theorem schedule_agenda {r : List Instr} (ha : s.agenda = i :: r) : s.schedule = .run { s with agenda := r } i := by
  unfold State.schedule
  rw [if_neg (ne_true h), if_neg (ne_true hr)]
  simp only [hc, ha]

theorem schedule_slots (ha : s.agenda = []) : s.schedule = s.nextSlot s.slots := by
  unfold State.schedule
  rw [if_neg (ne_true h), if_neg (ne_true hr)]
  simp only [hc, ha]

end

/-- A slot goes to the first context of the rotation that can use it (R189). -/
theorem nextSlot_first {r : Sched} (hk : s.rotation k = before ++ n :: after) (hb : ∀ m ∈ before, s.offer m = none) (hn : s.offer n = some r) :
    s.nextSlot (k :: l) = r := by
  have first : (s.rotation k).findSome? s.offer = some r := by
    rw [hk, List.findSome?_append, List.findSome?_eq_none_iff.2 hb, Option.none_or, List.findSome?_cons, hn]
  rw [State.nextSlot, first]

/-! A LIVE context that is offered a slot (R189, R206, R218). -/

/-- The state in which a context that is offered a slot is looked at. -/
def State.offered (s : State) (n : Nat) : State := { s.modCtx n fun c => { c with state := .live } with cur := n }

/-- What a context comes to that may run an instruction from a state: held back, it takes no slot. -/
def State.runsOrWaits (t : State) (n : Nat) (i : Instr) : Sched :=
  match t.after i with
  | some u => if (u.ctx n).state.heldBack then .done u else .run (t.takeSlot n) i
  | none => .run (t.takeSlot n) i

theorem looked_live (hl : (s.ctx n).state = .live) : s.looked n (.run t i) = some (t.runsOrWaits n i) := by
  simp only [State.looked, State.runsOrWaits]
  cases t.after i with
  | none => rfl
  | some u =>
    have live : ¬ ((s.ctx n).state ≠ .live ∧ (u.ctx n).state = (s.ctx n).state) := fun h => h.1 hl
    simp only [State.judged, if_neg live]
    cases (u.ctx n).state.heldBack <;> rfl

/-- No asynchronous trap and no forced save come first. -/
theorem boundary_proceeds (ha : (s.ctx n).asyncReady = false) (hs : (s.ctx n).saveReq = true → (s.ctx n).spcount.toNat < 4096) :
    s.boundary n = s.proceed n := by
  unfold State.boundary
  exact (if_neg (ne_true ha)).trans (if_neg fun h => absurd (hs h.1) (Nat.not_lt.2 h.2.2))

theorem offer_live (hr : s.ready n = true) (ht : n ∉ s.tried) (hl : (s.ctx n).state = .live) (ha : ((s.offered n).ctx n).asyncReady = false)
    (hs : ((s.offered n).ctx n).saveReq = true → ((s.offered n).ctx n).spcount.toNat < 4096) (hp : (s.offered n).proceed n = .run t i) :
    s.offer n = some (t.runsOrWaits n i) := by
  have isOpen : ¬ (s.ready n = false ∨ s.tried.contains n = true) := by simp [hr, ht]
  unfold State.offer
  refine (if_neg isOpen).trans ((if_pos hl).trans ?_)
  change s.looked n ((s.offered n).boundary n) = _
  rw [boundary_proceeds ha hs, hp, looked_live hl]

theorem runsOrWaits_waits {u : State} (he : exec i t = .next u) (hb : (u.ctx n).state.heldBack = true) : t.runsOrWaits n i = .done u := by
  simp only [State.runsOrWaits, State.after, he, hb, if_true]

theorem runsOrWaits_runs (hb : ∀ u, exec i t = .next u → (u.ctx n).state.heldBack = false) : t.runsOrWaits n i = .run (t.takeSlot n) i := by
  unfold State.runsOrWaits State.after
  cases he : exec i t with
  | next u => exact if_neg (ne_true (hb u he))
  | fault _ => rfl
  | refused _ => rfl

/-! The instruction of the context (R252 to R257). -/

theorem proceed_held (h : (s.ctx n).held = some i) : s.proceed n = .run s i := by
  unfold State.proceed
  rw [h]

theorem proceed_issued (h : (s.ctx n).held = none) (hi : issue s = .ok i t) : s.proceed n = .run t i := by
  unfold State.proceed
  rw [h, hi]

end Sys2Proof.Machine

open Sys2Proof Sys2Proof.Machine

/-- Settles O51: the schedule is taken case by case; a LIVE context at no boundary event goes on with the instruction it holds or issues, and takes the slot
unless the state that this would leave holds it back. -/
theorem stepRunsDecoded : Obligations.StepRunsDecoded := by
  intro s
  refine ⟨fun h => ?_, fun h hr => ?_, fun h hr hc => ⟨fun i r ha => ?_, fun ha hs => ?_, ?_⟩⟩
  · rw [step_stopped h]
    exact ⟨fun hf => by rw [hf], fun i hf => by rw [hf]⟩
  · rw [step_recovery h hr]
    exact ⟨fun hf => by rw [hf], fun i hf => by rw [hf]⟩
  · rw [step_schedule, schedule_agenda h hr hc ha]
    rfl
  · rw [step_schedule, schedule_slots h hr hc ha, hs]
    rfl
  · intro k r n before after ha hs hk hb hready ht hl s1 c hasync hsave runs
    have goes {i : Instr} {t : State} (hp : s1.proceed n = .run t i) : runs i t := by
      have taken : step s = (t.runsOrWaits n i).go := by
        rw [step_schedule, schedule_slots h hr hc ha, hs, nextSlot_first hk hb (offer_live hready ht hl hasync hsave hp)]
      refine ⟨fun u he held => ?_, fun free => ?_⟩
      · rw [taken, runsOrWaits_waits he held]
        rfl
      · rw [taken, runsOrWaits_runs free]
        rfl
    refine ⟨fun i held => goes (proceed_held held), ?_⟩
    intro pa e l i held hbuf code line head tail next decoded s2
    exact goes (proceed_issued held (issue_ok s1 pa e l i hbuf code line decoded))
end
